-- ==== Sys2Proof/Word.lean ====
section
/-! DEFINITION. The plain words of the model: bytes, register words and the sparse table.

`Byte` is what a host buffer, a page or a flash unit is made of; `Word32` and `Word64` are register values.
`AMap` is the model's one sparse table: a list of key and value pairs whose keys rise strictly, so that equal tables are
equal data. Its operations stand in `Sys2Proof/Machine/AMap.lean`. -/

namespace Sys2Proof

/-- One byte of a buffer, a page, a line or a frame. -/
abbrev Byte := BitVec 8

/-- A 4-byte register. -/
abbrev Word32 := BitVec 32

/-- An 8-byte register. -/
abbrev Word64 := BitVec 64

/-- A sparse table from numbers to values: keys strictly rising. -/
abbrev AMap (α : Type) := List (Nat × α)

end Sys2Proof
end

