-- ==== Sys2Proof/Syntax.lean ====
section
/-! DEFINITION. The commands of the block: one constructor per row of the opcode table, with the operands of each.

A command that the spec carries in a ring entry (an admin, text or search command) has its 64 B layout's common fields in
`Hdr` and its PARAMS fields beside it. What the device reads from a host buffer is an operand (`HostRead`), because host
memory is no state of this part. An event of the table that falls at a moment of time carries that moment as a postmark in
nanoseconds (`pm`). -/

namespace Sys2Proof

/-- What reading a host buffer gives: its bytes, or the first address of it that could not be read (R740). -/
inductive HostRead where
  | ok (bytes : List Byte)
  | fail (addr : Nat)
  deriving DecidableEq, Repr

/-- The common fields of a 64 B ring command (Table 2.13), beside the function whose ring carries it. -/
structure Hdr where
  /-- Issuing function: 0 for PF_0, n for VF_n. -/
  fn : Nat
  /-- SET, bits [15:8]. -/
  set : Nat
  /-- CLASS, bit 33: true for BE. -/
  be : Bool
  /-- SERIAL, bit 32. -/
  serial : Bool
  /-- CMD_ID, bits [63:48]. -/
  cmdId : Nat
  /-- TARGET, bits [95:64]. -/
  target : Nat
  /-- LEN, bits [127:96]. -/
  len : Nat
  /-- ADDR, bits [191:128]. -/
  addr : Nat
  /-- Byte offset of the first byte that must be zero and is not, if there is one. -/
  rsvBad : Option Nat
  deriving DecidableEq, Repr

/-- What the device finds in a submission slot that a doorbell announces (R69, R77, R80): an entry whose opcode its function's
set defines, an entry of an undefined opcode, or no readable entry. -/
inductive SlotRead where
  | entry
  | undefinedOp (cmdId : Nat)
  | unreadable
  deriving DecidableEq, Repr

/-- What the security engine answers for a sealed body or bundle (R746): not sealed, unsealed to these bytes, seal not valid,
or device set not valid. -/
inductive SealVerdict where
  | plain
  | opened (bytes : List Byte)
  | badSeal
  | badSet
  deriving DecidableEq, Repr

/-- The live fields (R92): those of one function and those of the device. -/
inductive LiveField where
  | receiptHold (fn : Nat)
  | coalesce (fn : Nat)
  | fwdGrace
  | snoopTimeout
  | lcLimit
  | lcShare (partition : Nat)
  | twRto
  | twCc
  | twAck
  | pwrCtrl
  | warmReserve (region : Nat)
  | thermalCfg
  | powerCap
  deriving DecidableEq, Repr

/-- The four kinds of submission ring of a function, each with its receipt ring. -/
inductive RingId where
  | admin
  | step (n : Nat)
  | text
  | search
  deriving DecidableEq, Repr

/-- A policy entry of 32 B (Table 5.9a). -/
structure PolicyEntry where
  resumePm : Nat
  ebbAtPm : Nat
  targetTier : Nat
  handle : Nat
  deriving DecidableEq, Repr

/-- A STEP entry beyond its common bits (Table 7.1). -/
structure StepEntry where
  handle : Nat
  descIndex : Nat
  newRows : Bool
  noDegrade : Bool
  mode : Nat
  candsM1 : Nat
  layer : Nat
  rowFormat : Nat
  parents : List Nat
  operandAddr : Nat
  resultAddr : Nat
  missingAddr : Nat
  round : Nat
  firstPage : Nat
  lastPage : Nat
  treePages : Nat
  /-- The operand area as read (Table 7.2). -/
  operand : HostRead
  deriving DecidableEq, Repr

/-- A page write: its 64 B header, its token block and its body (Table 4.9). -/
structure PageWriteMsg where
  handle : Nat
  descIndex : Nat
  layer : Nat
  pageIndex : Nat
  slots : Nat
  format : Nat
  rootSalt : Nat
  rsvBad : Option Nat
  tokens : List Nat
  body : List Byte
  deriving DecidableEq, Repr


/-- A sequenced Tideway packet as a port receives it, framed as R481 asks (R478, R483): the header fields of Tables 11.6 and 11.7. -/
structure TwPkt where
  port : Nat
  srcIp : Nat
  srcConn : Nat
  dstConn : Nat
  psn : Nat
  msgId : Nat
  off : Nat
  len : Nat
  epoch : Nat
  first : Bool
  last : Bool
  fwd : Bool
  be : Bool
  retx : Bool
  /-- The packet carries CE (RFC 3168). -/
  ce : Bool
  addr : Nat
  key : Nat
  replyKey : Nat
  handle : Nat
  descIndex : Nat
  aux : Nat
  payload : List Byte
  deriving DecidableEq, Repr

/-- An ACK packet (Table 11.8): SACK blocks as start above CUM_PSN and length. -/
structure TwAck where
  port : Nat
  srcIp : Nat
  srcConn : Nat
  dstConn : Nat
  cumPsn : Nat
  writeDone : Nat
  ceCount : Nat
  rcvCount : Nat
  sack : List (Nat × Nat)
  deriving DecidableEq, Repr

/-- What a host answers to a translation or page request (R489, R740): the range is reachable, a page request is needed, or it
cannot be reached. -/
inductive XlatAnswer where
  | mapped
  | absent
  | failed
  deriving DecidableEq, Repr

/-- What a harbourmaster core's cache asks of a window line: a load that holds it as I (0), S (1) or A (2), a store of the bytes a mask
enables, or the write-back of a line it owns, which it keeps as I, S or A (R457, R458). -/
inductive HmAccess where
  | load (hold : Nat)
  | store (bytes : List Byte) (mask : Nat)
  | writeBack (hold : Nat) (bytes : List Byte)
  deriving DecidableEq, Repr

/-- A media profile (R534, R543): its identity, unit size, units per erase unit, erase units per LUN beside the format unit, rated
program/erase cycles, REFRESH_DAYS, SCAN_HOURS, refresh threshold in corrected bits, read-disturb limit, grown retired units a LUN
may have, and the top rate of each interface in MT/s. -/
structure MediaProfile where
  identity : Nat
  unit : Nat
  unitsPer : Nat
  eusPerLun : Nat
  ratedPe : Nat
  refreshDays : Nat
  scanHours : Nat
  refreshBits : Nat
  disturbReads : Nat
  retiredLimit : Nat
  topRates : List Nat
  deriving DecidableEq, Repr

/-- The media profile a command carries, as read and as SE_0 finds it (R534). -/
inductive ProfileRead where
  | fail (addr : Nat)
  | unsigned
  | ok (p : MediaProfile)
  deriving DecidableEq, Repr

/-- A LUN that answers behind a chip enable: whether its parameter page matches the profile, its factory-marked bad erase units, and
those whose erasure failed at format. -/
structure LunFound where
  ce : Nat
  lun : Nat
  matched : Bool
  bad : List Nat
  eraseFailed : List Nat
  deriving DecidableEq, Repr

/-- What training a channel finds (R532). -/
structure ChFound where
  ch : Nat
  trained : Bool
  luns : List LunFound
  deriving DecidableEq, Repr

/-- How the read of a flash unit ends (R555, R557, R558): decoded at the first try, after read-retry, after soft decoding, rebuilt
from parity, or lost with its row. -/
inductive UnitRead where
  | first
  | retried
  | soft
  | rebuilt
  | lost
  deriving DecidableEq, Repr

/-- A page copy as it travels: the fields of a copy header (Table 12.8), the slots filled, and the body. -/
structure PageCopy where
  handle : Nat
  device : Nat
  account : Nat
  mirror : Bool := false
  narrowed : Bool := false
  tail : Bool := false
  format : Nat
  gen : Nat
  layer : Nat
  page : Nat
  chainId : Nat := 0
  filled : Nat
  body : List Byte
  deriving DecidableEq, Repr

/-- A checkpoint reference (Table 13.7) with the page it is for. -/
structure CkptRef where
  layer : Nat
  page : Nat
  kind : Nat
  format : Nat
  gen : Nat
  loc : Nat
  deriving DecidableEq, Repr

/-- A checkpoint entry (Table 13.6): the descriptor's fields that a restore takes, the round, the text record and the token IDs recorded
for the tail page, the rule list, and one checkpoint reference per page. -/
structure CkptEntry where
  handle : Nat
  state : Nat
  flags : Nat
  partition : Nat
  profile : Nat
  vocab : Nat
  constr : Nat
  cls : Nat
  tokens : Nat
  layersM1 : Nat
  tailGen : Nat
  commitSeq : Nat
  ckptSteps : Nat
  automaton : Nat
  escActive : Bool
  escPos : Nat
  carry : List Byte
  expectedMs : Nat
  textCursor : Nat
  stateEpoch : Nat
  hist : List Nat
  rules : List Byte
  epoch : Nat
  refs : List CkptRef
  deriving DecidableEq, Repr

/-- A delta (Table 13.9): slots appended to a tail page, as records in the layout of R293, with the offset of the previous delta. -/
structure CkptDelta where
  prev : Option Nat
  handle : Nat
  page : Nat
  layer : Nat
  gen : Nat
  format : Nat
  first : Nat
  slots : Nat
  records : List Byte
  deriving DecidableEq, Repr

/-- What an account table or a configuration table of an image holds (R598): an account with its partition, its quotas by tier code and
its partition's ceilings; a configuration version with the SHA-256 digest of its body. -/
structure AccountImg where
  num : Nat
  partition : Nat
  quotas : List (Nat × Nat)
  ceilings : List (Nat × Nat)
  deriving DecidableEq, Repr

structure ConfigImg where
  kind : Nat
  num : Nat
  ver : Nat
  digest : List Byte
  deriving DecidableEq, Repr

/-- One part of an epoch as the source sends it (R585 to R588, R598): an entry or its removal, a delta or a full copy for an offset of the
page store, the order to assemble a chain into a full copy or to narrow one, and the two tables. -/
inductive CkptItem where
  | entry (e : CkptEntry)
  | removal (handle : Nat)
  | delta (off : Nat) (d : CkptDelta)
  | full (off : Nat) (c : PageCopy)
  | assemble (off newest dim heads : Nat) (latent : Bool) (chainId account : Nat)
  | narrow (off src dim heads : Nat) (latent : Bool) (format : Nat)
  | accounts (l : List AccountImg)
  | configs (l : List ConfigImg)
  deriving DecidableEq, Repr

/-- A commit record (Table 13.11), and whether its RECORD_CRC checks. -/
structure CommitRecord where
  epoch : Nat
  slot : Nat
  stackCount : Nat
  pageLog2 : Nat
  fwMajor : Nat
  prevEpoch : Nat
  sourceId : Nat
  cutPm : Nat
  byteCount : Nat
  epochCrc : Nat
  sessions : Nat
  crcOk : Bool
  deriving DecidableEq, Repr

/-- A page-store item as a restore reads it: its offset, whether it is a chain, and the page it gives. -/
structure StoredPage where
  off : Nat
  narrowed : Bool
  copy : PageCopy
  deriving DecidableEq, Repr

/-- A harbour's image as a restore reads it: its commit records, and what the restore epoch's slot names. -/
structure HarbourImage where
  records : List CommitRecord
  entries : List CkptEntry
  pages : List StoredPage
  /-- Park-area copies by tier-2 locator. -/
  parked : List (Nat × PageCopy)
  /-- The page numbers under which the holder serves the references of KIND 2 and 3: handle, stream, page, number. -/
  served : List (Nat × Nat × Nat × Nat)
  accounts : List AccountImg
  configs : List ConfigImg
  deriving DecidableEq, Repr

/-- What a read of the buddy or of a holder asks for (R601): a park-area copy, a mirror copy by its key, or the image of a source. -/
inductive HarbourAsk where
  | park (loc : Nat)
  | mirror (device handle layer page gen : Nat)
  | image (source : Nat)
  deriving DecidableEq, Repr

/-- What such a read gives. -/
inductive HarbourData where
  | copy (c : PageCopy)
  | image (i : HarbourImage)
  | nothing
  deriving DecidableEq, Repr

/-- What a release notice releases (R581, R196, R706): a mirror copy by its key, a park-area copy, every copy of an account, or every
mirror copy and the harbour held for the sender. -/
inductive ReleaseWhat where
  | mirror (handle layer page gen : Nat)
  | park (loc : Nat)
  | account (account : Nat)
  | everything
  | frozen (source : Nat)
  deriving DecidableEq, Repr

/-- A SEARCH entry beyond its common bits (Table 9.9, R402). -/
structure SearchEntry where
  resultAddr : Nat
  k : Nat
  queue : Nat
  visits : Nat
  rerank : Nat
  width : Nat
  oversample : Nat
  queryFormat : Nat
  flags : Nat
  deadlineUs : Nat
  deriving DecidableEq, Repr

/-- A used slot of a shard of a sealed index: its node record, edge versions, vector or code, full vector and attribute record (Tables
9.4 to 9.6). -/
structure NodeImg where
  slot : Nat
  gid : Nat
  insSeq : Nat
  delSeq : Nat
  seqA : Nat
  seqB : Nat
  gen : Nat
  inUse : Bool
  edgesA : List (Nat × Nat)
  edgesB : List (Nat × Nat)
  vec : List Byte
  full : List Byte
  attr : List Byte
  deriving DecidableEq, Repr

/-- A shard of a sealed index, as its plaintext holds it. -/
structure ShardImg where
  shard : Nat
  changeSeq : Nat
  nodes : List NodeImg
  deriving DecidableEq, Repr

/-- What a MIGRATE message carries (Table 13.15): an entry, the shape fields of a commit record, configuration digests, and page copies. -/
structure MigMsg where
  entry : Option CkptEntry := none
  stackCount : Nat := 0
  pageLog2 : Nat := 0
  fwMajor : Nat := 0
  configs : List ConfigImg := []
  pages : List PageCopy := []
  deriving DecidableEq, Repr


/-! ### Faults, power, security and boot -/

/-- The object an uncorrectable HBM line belongs to (Table 14.2). -/
inductive HbmObject where
  /-- A page frame or page record, by the page's locator. -/
  | page (loc : Nat)
  /-- The scout page of a page key of session `d`. -/
  | scoutPage (d key : Nat)
  | descriptor (d : Nat)
  /-- A page list, round record, text record or rule list of session `d`. -/
  | sessionList (d : Nat)
  | handleSlot (handle : Nat)
  /-- A shared-window line, and a directory entry, by DPA ÷ 64. -/
  | windowLine (line : Nat)
  | directory (line : Nat)
  | indexNode (index shard slot : Nat)
  | posting (index shard : Nat)
  | bundle (object : Nat)
  | config (kind num ver : Nat)
  | codebook (index : Nat)
  /-- A slot (A 0, B 1) of the harbour held for the buddy, its page store, and a park-area copy held for it. -/
  | harbourSlot (slot : Nat)
  | harbourStore (off : Nat)
  | parkCopy (loc : Nat)
  deriving DecidableEq, Repr

/-- What SE_0 finds in an image slot (R678, R679): whether its magic, key, signature and digests check, its SVN and its version. -/
structure SlotFound where
  signed : Bool
  svn : Nat
  version : Nat
  deriving DecidableEq, Repr

/-- A sounding of the meters (R638, Table 14.8): input and HBM power in mW; the ten junctions and twelve stacks in 0.0625 °C; the attention
busy fraction and LC share in 1/10,000, and the HBM bandwidth in 1/10,000 of 4.096 TB/s, of the six state regions. -/
structure Meters where
  inputMw : Nat
  hbmMw : Nat
  junctions : List Nat
  stackTemps : List Nat
  busy : List Nat
  lcShares : List Nat
  bandwidth : List Nat
  deriving DecidableEq, Repr

/-- The rails of Table 17.3; the core rail of a region is named by the region (0 to 5 S_0 to S_5, 6 P_0, 7 P_1, 8 C_0, 9 M_0). -/
inductive Rail where
  | vddAon
  | vddio
  | vhbmPp
  | vhbmC
  | vhbmQ
  | vddaSd
  | vddhSd
  | vddqF
  | core (region : Nat)
  deriving DecidableEq, Repr

/-- One regulator as PCM_0 reads it (R719): READ_VOUT in mV, READ_IOUT in mA, STATUS_WORD; none where it does not answer. -/
structure RailRead where
  rail : Nat
  vout : Nat
  iout : Nat
  status : Nat
  deriving DecidableEq, Repr

/-- The registers whose write has no behaviour of its own (R58). -/
inductive PlainReg where
  | adminSqBase | adminRqBase | eventBase | eventCfg
  | textCfg | textSqBase | textRqBase
  | searchCfg | searchSqBase | searchRqBase
  /-- PORT_IP of an Ethernet port. -/
  | portIp (n : Nat)
  /-- CONN_BASE of a port region. -/
  | connBase (half : Nat)
  | harbourCfg
  /-- The HDM decoder of a CXL host. -/
  | hdmDecoder (host : Nat)
  /-- An MSI-X table entry: address, data and vector control. -/
  | msixAddr (vector : Nat)
  | msixData (vector : Nat)
  | msixControl (vector : Nat)
  deriving DecidableEq, Repr

/-- How a requester reaches the SPDM responder (R684): MCTP over I3C, SMBus or PCIe VDM, or the DOE mailbox of a function. -/
inductive SpdmVia where
  | i3c
  | smbus
  | vdm
  | doe (fn : Nat)
  deriving DecidableEq, Repr

/-- A vendor-defined request (R684, R697): IDE_KM setting a stream's keys of a host port or stopping it, and the TDISP messages that a VF's
interface takes. -/
inductive VendorReq where
  | ideKeyProg (port stream : Nat)
  | ideStop (port stream : Nat)
  | tdispVersion
  | tdispCapabilities
  | tdispState (vf : Nat)
  | tdispLock (vf : Nat)
  | tdispReport (vf : Nat)
  | tdispStart (vf : Nat)
  | tdispStop (vf : Nat)
  deriving DecidableEq, Repr

/-- What the debug port reaches (R692, R738): device-wide state, state tagged with a partition, or a boundary-scan instruction. -/
inductive DebugReach where
  | device
  | partition (n : Nat)
  | boundaryScan
  deriving DecidableEq, Repr

/-- A PLDM firmware-update step (R681, R682): image bytes for a slot, or ActivateFirmware naming it, with the slot as it is found. -/
inductive PldmFw where
  | write (slot off : Nat) (bytes : List Byte)
  | activate (slot : Nat) (found : SlotFound)
  deriving DecidableEq, Repr

/-- The commands of the block, one constructor per row of the opcode table and in its order. -/
inductive Instr where
  /-- VDD_AON reaches range with AON_CLK stable; the postmark counter starts at 0 and the always-on domain runs (R731). -/
  | powerUp
  /-- POR_N rises: straps are latched, outputs are driven to their reset levels, the NOR reset pulse is sent, and the boot sequence of Table 17.6 starts (R728). -/
  | porNRise (sel : Nat) (pairId : Bool) (mgmt : Nat) (slotA slotB : SlotFound) (norAnswers : Bool) (pm : Nat)
  /-- Self-test and HBM training end, the tables are cleared, READY and Memory_Active are set, and the measurements become available (R728). -/
  | selfTestDone (failedRegions : List Nat) (failedCells : List (Nat × Nat × Nat × Nat)) (pm : Nat)
  /-- POR_N falls: every region, HBM and output is reset and only PD_105 keeps running (R730). -/
  | porNFall (pm : Nat)
  /-- PERST_N_p falls: host block p drops its link, the bound hosts are crashed with cause 3, and accesses through the port fail (R732). -/
  | perstNFall (p pm : Nat)
  /-- PERST_N_p rises: the host port trains and answers configuration requests (R729). -/
  | perstNRise (p version : Nat) (switched : Bool)
  /-- A rail leaves its operating range while POR_N is high and is handled as a region- or chip-level error (R735). -/
  | railOutOfRange (rail : Rail) (pm : Nat)
  /-- A core-rail regulator reports a fault, which is a region-level error, or a chip-level error for VDDC_C_0 (R720). -/
  | pmbAlertN (region pm : Nat)
  /-- A core-rail regulator has not answered within 10 ms of the SE firmware starting, so its region fails self-test or the ZX4 enters recovery (R720). -/
  | regulatorTimeout (region : Nat)
  /-- Every 1 ms, PCM_0 reads READ_VOUT, READ_IOUT and STATUS_WORD of the core-rail regulators (R719). -/
  | pmbusPoll (reads : List RailRead) (pm : Nat)
  /-- Writes the 4 KiB identify structure (R79). -/
  | identify (h : Hdr)
  /-- Makes step ring n and its receipt ring live at index 0 (R65). -/
  | createStepRing (h : Hdr) (sqBase rqBase depth vector : Nat)
  /-- Stops consuming ring n and writes its receipt once every receipt of the ring is written (R77). -/
  | deleteStepRing (h : Hdr)
  /-- Copies the numbered log, filtered to the caller's partition (R635). -/
  | readLog (h : Hdr) (log : Nat)
  /-- Moves receipts from the dead-letter ring to host memory and reports and clears LOST (R76). -/
  | readDeadLetters (h : Hdr)
  /-- Binds a new account to a partition with all quotas zero (R53). -/
  | createAccount (h : Hdr) (partition : Nat)
  /-- Removes an account, zeroes its frames and destroys its media key (R706). -/
  | deleteAccount (h : Hdr)
  /-- Publishes a new quota version for an account's tier (R85). -/
  | setQuota (h : Hdr) (tier bytes : Nat)
  /-- Publishes or removes a partition's ceiling for a tier (R85). -/
  | setCeiling (h : Hdr) (tier bytes : Nat)
  /-- Writes an account's 64 B usage record (R213). -/
  | queryUsage (h : Hdr)
  /-- Closes the sessions, deletes the accounts and scrubs the external memory of a partition (R706). -/
  | releasePartition (h : Hdr)
  /-- Creates a new version of a configuration object after checking its body (R743). -/
  | publishConfig (h : Hdr) (kind base account : Nat) (body : HostRead) (sv : SealVerdict)
  /-- Retires a configuration version, so that nothing new captures it (R91). -/
  | retireConfig (h : Hdr) (kind version : Nat)
  /-- Returns the current version of a configuration number and the count of descriptors that use it (R90). -/
  | queryConfig (h : Hdr) (kind : Nat)
  /-- Checks, unseals and places an adapter bundle or an index (R746). -/
  | loadBundle (h : Hdr) (bundleKind cls : Nat) (body : HostRead) (sv : SealVerdict) (shards : List ShardImg)
  /-- Stops new deliveries of a bundle and frees it once its operations end (R247). -/
  | dropBundle (h : Hdr)
  /-- Gives an object a new placement class and moves its copies (R747). -/
  | placeObject (h : Hdr) (cls : Nat)
  /-- Returns an address-space key, or a window key for PASID 0xFFFF_FFFF (R490). -/
  | registerAs (h : Hdr) (pasid account perms : Nat)
  /-- Revokes an address-space key (R488). -/
  | deregisterAs (h : Hdr)
  /-- Creates an empty index with its local shards (R388). -/
  | createIndex (h : Hdr) (cls : Nat) (params : HostRead)
  /-- Sweeps every local shard and releases its tombstoned nodes (R421). -/
  | compactIndex (h : Hdr)
  /-- Frees an index once its searches complete (R386). -/
  | deleteIndex (h : Hdr)
  /-- Creates a descriptor in state NEW at the chosen index (R111). -/
  | createSession (h : Hdr) (handle : Nat) (profile vocab constr : Nat) (cls : Nat)
  /-- Moves a session to CLOSING, abandons its ebb or flood, and frees it once INFLIGHT reaches 0 (R136). -/
  | closeSession (h : Hdr) (handle : Nat)
  /-- A CLOSING session with no operation in flight frees its frames, references, scout copy and page list (R136). -/
  | sessionFreed (d : Nat)
  /-- Records a wait hint, makes an ACTIVE session IDLE, and sets the ebb and resume schedule (R218). -/
  | setWaiting (h : Hdr) (handle expectedMs : Nat)
  /-- Starts a session's ebb at once, with its receipt at PARKED or under R750 (R750). -/
  | parkNow (h : Hdr) (handle : Nat)
  /-- Starts or raises a session's flood in the command's class (R135). -/
  | floodNow (h : Hdr) (handle : Nat)
  /-- Writes the current 256 B descriptor (R127). -/
  | querySession (h : Hdr) (handle : Nat)
  /-- Captures a new class for a session and moves its pages to that class's placement (R747). -/
  | setSessionClass (h : Hdr) (handle cls : Nat)
  /-- Starts migrating a session to a target device (R607). -/
  | migrateSession (h : Hdr) (handle target : Nat)
  /-- Grants an extent to a host, taking and zeroing frames at the extent's first grant (R446). -/
  | addExtent (h : Hdr) (extent host : Nat)
  /-- Fences an extent for one host and recalls that host's lines (R459). -/
  | releaseExtent (h : Hdr) (extent host : Nat)
  /-- The fabric manager's notice that a host has crashed (R463). -/
  | hostLost (h : Hdr) (host : Nat)
  /-- Clears poisoned lines and exposes their last written-back values (R466). -/
  | acceptLoss (h : Hdr) (extent offset : Nat)
  /-- Installs a chart epoch with device entries and redirect records as one change (R519). -/
  | setChart (h : Hdr) (epoch : Nat) (body : HostRead)
  /-- Enters a role at once, or starts draining toward it (R612). -/
  | setRole (h : Hdr) (role profile : Nat)
  /-- The drain ends with no refused object left, so the new role is entered and ROLE_CHANGED is posted (R612). -/
  | roleDrainEnd
  /-- DRAIN_MS passes during a drain, so the old role stands (R612). -/
  | roleDrainTimeout (pm : Nat)
  /-- Binds the buddy and reserves the harbour (R575). -/
  | pairBind (h : Hdr) (buddy reservePct : Nat)
  /-- 10 s pass without the buddy binding, so the receipt reports outcome 0 (R575). -/
  | pairBindTimeout (pm : Nat)
  /-- Sets the epoch timer and step triggers from the next epoch (R582). -/
  | setCheckpoint (h : Hdr) (timerMs steps : Nat)
  /-- Checks a consent token and puts its scope in force (R688). -/
  | setConsent (h : Hdr) (token : HostRead) (signed : Bool)
  /-- Ends consent for a partition at once (R689). -/
  | withdrawConsent (h : Hdr)
  /-- Installs or replaces a partition's consent key (R690). -/
  | setConsentKey (h : Hdr) (key : HostRead) (proved : Bool)
  /-- Installs a device set (R693). -/
  | setDeviceSet (h : Hdr) (body : HostRead)
  /-- Stages a part of an image in the inactive slot and clears TRIAL_SLOT for that slot (R682). -/
  | fwDownload (h : Hdr) (offset : Nat) (body : HostRead)
  /-- Verifies the staged slot and makes it the trial slot for the next POR_N (R682). -/
  | fwActivate (h : Hdr) (slot : Nat) (found : SlotFound)
  /-- Commits the trial image at once, raising the SVN fuses if needed (R683). -/
  | fwCommit (h : Hdr)
  /-- A trial image has run 600 s after READY without a chip restart and is committed (R683). -/
  | trialCommitTimer (pm : Nat)
  /-- Assigns harbourmaster cores and gives them zeroed HBM frames (R220). -/
  | hmAssign (h : Hdr) (mask memFrames : Nat)
  /-- Copies host bytes into harbourmaster memory (R220). -/
  | hmLoad (h : Hdr) (offset : Nat) (body : HostRead)
  /-- Measures harbourmaster memory and releases cores from reset at ENTRY (R222). -/
  | hmStart (h : Hdr) (mask entry : Nat)
  /-- Holds harbourmaster cores in reset (R222). -/
  | hmStop (h : Hdr) (mask : Nat)
  /-- Writes a new OPEN connection context under the lowest free number (R492). -/
  | openConnection (h : Hdr) (peerIp peerMac peerUdp peerConn peerDevice port mtu flags dscp : Nat)
  /-- Closes a connection and writes its context back (R505). -/
  | closeConnection (h : Hdr)
  /-- Writes a connection's 256 B context (R494). -/
  | queryConnection (h : Hdr)
  /-- Trains the channels, erases every erase unit, and writes the format record (R534). -/
  | mediaFormat (h : Hdr) (lifeDays : Nat) (profile : ProfileRead) (found : List ChFound)
  /-- Trains the channels, reads the format records and shingle headers, and rebuilds the shingle table (R538). -/
  | mediaAttach (h : Hdr) (lifeDays : Nat) (profile : ProfileRead) (found : List ChFound)
  /-- Frees every ORPHANED shingle (R539). -/
  | mediaReclaim (h : Hdr)
  /-- Sets the wall offset (R536). -/
  | setWallClock (h : Hdr) (wallNs : Nat)
  /-- Stops epochs, frees the harbour and releases the mirror copies on the buddy (R597). -/
  | pairUnbind (h : Hdr)
  /-- Restores a source device's image from a holder's harbour, with its receipt after the LC phase (R601). -/
  | restoreDevice (h : Hdr) (source holder : Nat)
  /-- The background phase has copied every holder reference, so RESTORE_DONE is posted and the holder frees the frozen harbour (R601). -/
  | restoreDone
  /-- Restores one FAILED session in place from the restore epoch (R600). -/
  | restoreSession (h : Hdr) (handle : Nat)
  /-- Takes a successor device in place of a failed one for pool pages and harbour reads (R597). -/
  | succession (h : Hdr) (failed successor : Nat)
  /-- Frees a frozen harbour and its mirror copies (R597). -/
  | releaseFrozen (h : Hdr) (source : Nat)
  /-- The admin ring doorbell announces new pigeonholes, which are read and started in ring order (R69). -/
  | adminSqTail (fn value : Nat) (entries : List SlotRead)
  /-- The admin receipt ring head doorbell frees receipt slots (R67). -/
  | adminRqHead (fn value : Nat)
  /-- The event ring head doorbell frees event slots (R67). -/
  | eventHead (fn value : Nat)
  /-- A step ring doorbell announces new STEP or COMMIT entries (R69). -/
  | stepSqTail (fn n value : Nat) (entries : List SlotRead)
  /-- A step receipt ring head doorbell frees receipt slots (R67). -/
  | stepRqHead (fn n value : Nat)
  /-- The text ring doorbell announces new text commands (R354). -/
  | textSqTail (fn value : Nat) (entries : List SlotRead)
  /-- The text receipt ring head doorbell frees receipt slots (R354). -/
  | textRqHead (fn value : Nat)
  /-- The search ring doorbell announces new search commands (R400). -/
  | searchSqTail (fn value : Nat) (entries : List SlotRead)
  /-- The search receipt ring head doorbell frees receipt slots (R400). -/
  | searchRqHead (fn value : Nat)
  /-- FUNC_CTRL.ENABLE changes; on 0 to 1 the VF takes its command set, on clear its doorbells are ignored (R95). -/
  | enable (fn : Nat) (on : Bool)
  /-- ADMIN_EN is set, so the admin ring bases are read, or cleared, so the admin rings are emptied (R61). -/
  | adminEn (fn : Nat) (on : Bool)
  /-- EVENT_EN is set, so EVENT_BASE and EVENT_CFG are read and DEPTH is checked (R63). -/
  | eventEn (fn : Nat) (on : Bool)
  /-- TEXT_EN in TEXT_CFG is set or cleared, enabling or emptying the text rings (R354). -/
  | textEn (fn : Nat) (on : Bool)
  /-- SEARCH_EN in SEARCH_CFG is set or cleared, enabling or emptying the search rings (R400). -/
  | searchEn (fn : Nat) (on : Bool)
  /-- A read returns the low postmark bits and loads the high bits into the function's latch (R60). -/
  | postmarkLo (fn pm : Nat)
  /-- A write is applied bit by bit, except to the bits of enabled or TDISP-locked VFs (R96). -/
  | vfCompat (value : Word64)
  /-- A write to the live RECEIPT_HOLD field goes to its shadow and sets its pending bit (R92). -/
  | receiptHold (fn : Nat) (value : Word32)
  /-- A write to the live COALESCE field goes to its shadow and sets its pending bit (R92). -/
  | coalesce (fn : Nat) (value : Word32)
  /-- A write to the live FWD_GRACE field goes to its shadow and sets its pending bit (R92). -/
  | fwdGrace (value : Word32)
  /-- A write to the live SNOOP_TIMEOUT field goes to its shadow and sets its pending bit (R92). -/
  | snoopTimeout (value : Word32)
  /-- A write to the live LC load limit goes to its shadow (R327). -/
  | lcLimit (value : Word32)
  /-- A write to a partition's live LC reserve goes to its shadow, unless the pending shares would sum above 100 (R328). -/
  | lcShare (partition : Nat) (value : Word32)
  /-- A write to the live retransmission constants goes to their shadow (R503). -/
  | twRto (value : Word64)
  /-- A write to the live congestion constants goes to their shadow (R514). -/
  | twCc (value : Word64)
  /-- A write to the live acknowledgement constants goes to their shadow (R500). -/
  | twAck (value : Word32)
  /-- A write to the live slack-water controls goes to their shadow (R654). -/
  | pwrCtrl (value : Word32)
  /-- A write to the live warm reserve counts goes to their shadow (R650). -/
  | warmReserve (value : Word32)
  /-- A write to the live THROTTLE_C field goes to its shadow (R665). -/
  | thermalCfg (value : Word32)
  /-- A write to the live input power cap goes to its shadow (R668). -/
  | powerCap (value : Word32)
  /-- A block reaches an idle point, applies a pending live value, clears its pending bit and posts LIVE_APPLIED (R92). -/
  | liveApplied (field : LiveField) (pm : Nat)
  /-- 100 µs pass after a live write with no idle point, so the block admits no new work until the value is applied (R94). -/
  | liveApplyDeadline (field : LiveField) (pm : Nat)
  /-- A write to a dynamic capacity region register, ignored while LOCKED or if the checks fail (R442). -/
  | swRegion (n : Nat) (value : Word64)
  /-- A write to a port's configuration enables or disables the port in a mode (R475). -/
  | portCfg (n : Nat) (value : Word64)
  /-- TW_CTRL.ENABLE is set, reading the connection bases, or cleared, closing every connection (R480). -/
  | twCtrlEnable (value : Word32)
  /-- A write to a flash channel configuration, ignored unless the media is ABSENT or FAILED (R531). -/
  | flashCh (n : Nat) (value : Word64)
  /-- A write to any other register with no behaviour of its own, such as ring bases, EVENT_CFG, PORT_IP or HARBOUR_CFG (R58). -/
  | registerWrite (fn port : Nat) (reg : PlainReg) (value : Nat)
  /-- Clearing VF Enable resets every present VF as a per-function reset (R55). -/
  | vfEnableClear
  /-- An FLR of VF_n aborts its operations, writes back its descriptors, deletes its rings and revokes its keys (R99). -/
  | perFunctionReset (fn : Nat)
  /-- An FLR of PF_0 resets PF_0's own rings and operations only (R104). -/
  | pf0Reset
  /-- The per-function reset completes: BAR0 and BAR2 are reset, FLR_BUSY clears and READY is set (R103). -/
  | flrDone (fn : Nat)
  /-- An operation finishes, writes its results, frees its tag and writes its receipt (R72). -/
  | operationComplete (tag pm : Nat)
  /-- A held receipt finds no ring space within HOLD_US, goes to the dead-letter ring, and DEAD_LETTER is posted (R75). -/
  | receiptHoldExpiry (fn : Nat) (ring : RingId) (pm : Nat)
  /-- TIME_US passes since the oldest unsignalled receipt, and the ring's interrupt is raised (R64). -/
  | coalesceTimeout (fn : Nat) (ring : RingId) (pm : Nat)
  /-- A STEP entry is checked and admitted, held by round, or refused, and its page tasks are dispatched (R288). -/
  | step (h : Hdr) (n : Nat) (e : StepEntry)
  /-- A page task ends on a block, which starts its next LC task, or a BE task by deficit round robin (R41). -/
  | pageTaskDone (region block pm : Nat)
  /-- The last partials of a step arrive at the home region, which merges them, forms the final or partial result, and writes its receipt (R273). -/
  | stepMerge (tag pm : Nat)
  /-- A COMMIT entry is admitted and sets CLOSING, waiting for the steps of its round (R313). -/
  | commit (h : Hdr) (n handle descIndex round mask : Nat)
  /-- The steps of the round have their receipts, so the commit or rollback is applied, the notice is sent and held steps are admitted (R314). -/
  | commitApply (d pm : Nat)
  /-- The commit notice reaches TX_0, which starts the round's root mask (R376). -/
  | commitNotice (pm : Nat)
  /-- A text cell finishes a node mask, which completes any waiting READ_MASK (R382). -/
  | maskReady (d mask pm : Nat)
  /-- Opens a tokenize or detokenize stream (R356). -/
  | openStream (h : Hdr) (direction flags vocab : Nat)
  /-- Tokenizes input bytes on a stream (R344). -/
  | tokenize (h : Hdr) (outAddr outCap final : Nat) (input : HostRead)
  /-- Detokenizes token IDs on a stream (R352). -/
  | detokenize (h : Hdr) (outAddr outCap final : Nat) (input : HostRead)
  /-- Discards a stream's held bytes and frees the stream (R356). -/
  | closeStream (h : Hdr)
  /-- Writes a session's committed text from the cursor, possibly waiting for tokens (R360). -/
  | readText (h : Hdr) (handle cursor waitMs flags : Nat)
  /-- WAIT_MS passes with no new tokens, so READ_TEXT completes with what is there (R360). -/
  | readTextWaitExpiry (tag pm : Nat)
  /-- Waits for, or is held for, the requested masks and writes the mask set (R378). -/
  | readMask (h : Hdr) (handle round which : Nat)
  /-- Installs a session's rule list and recomputes the round's masks (R366). -/
  | setRules (h : Hdr) (handle : Nat) (body : HostRead)
  /-- Sets AUTOMATON_STATE, clears the escape flags, and recomputes the masks (R355). -/
  | resetConstraint (h : Hdr) (handle state : Nat)
  /-- Searches the selected shards and merges the k nearest results (R407). -/
  | search (h : Hdr) (e : SearchEntry) (operand : HostRead)
  /-- DEADLINE_US passes without a remote shard's answer, so that shard is marked MISSING and the merge completes (R427). -/
  | searchDeadline (tag pm : Nat)
  /-- Inserts a node into a shard as one change (R416). -/
  | insert (h : Hdr) (shard gid : Nat) (body : HostRead)
  /-- Tombstones a node (R418). -/
  | deleteNode (h : Hdr) (shard slot gen : Nat)
  /-- Installs a new shard map (R426). -/
  | mapShards (h : Hdr) (body : HostRead)
  /-- Writes one record per local shard (R415). -/
  | queryIndex (h : Hdr)
  /-- The background sweep rewires up to 64 nodes as one change (R419). -/
  | mendingBatch (index shard : Nat)
  /-- At the end of a sweep, tombstoned nodes are released once earlier searches complete (R420). -/
  | slotRelease (index shard slot : Nat)
  /-- Xailrak finishes checking a shard's attribute store and rebuilding its postings, so the shard becomes verified (R415). -/
  | shardVerified (index shard : Nat)
  /-- An ACTIVE session has had no admitted operation for 2,000 ms, so it enters IDLE (R130). -/
  | idleTimer (d pm : Nat)
  /-- EBB_AT_PM is reached, or a deferred ebb's counts reach 0, so the ebb starts on the first qualifying tier (R229). -/
  | ebbStart (d pm : Nat)
  /-- A page copy is on media, in the park area or in the pool, so its reference switches tier (R547). -/
  | copyStored (d layer page : Nat)
  /-- The last ebbed page is at its lower tier, so the HBM frames are freed and the session enters PARKED (R230). -/
  | ebbComplete (d : Nat)
  /-- RESUME_PM less FLOOD_LEAD_MS is reached and the tide predictor starts the flood (R234). -/
  | floodStart (d pm : Nat)
  /-- A page is fully written into HBM, its reference switches to tier 0, and the flood ends with the last page (R50). -/
  | floodPageArrived (d layer page pm : Nat)
  /-- RESUME_PM passes on an IDLE session, so the wait is predicted again (R219). -/
  | resumePmPassed (d pm : Nat)
  /-- EBB_DELAY_MAX_MS passes with no live session of the account, so the adapter bundle ebbs (R244). -/
  | bundleEbb (object pm : Nat)
  /-- A blocked ebb or flood is retried when usage falls, a quota is published, or every 1,000 ms (R211). -/
  | blockedRetry (d pm : Nat)
  /-- At a postmark that is a multiple of one day, the write budget counts return to zero (R209). -/
  | budgetDay (pm : Nat)
  /-- Every 600 s, every histogram count is reduced by one sixteenth (R215). -/
  | soundingsAging (pm : Nat)
  /-- Harbourmaster software writes the policy ring's producer index (R224). -/
  | policyProducerIndex (value : Word32) (entries : List PolicyEntry)
  /-- The ZX4 clamps and applies a policy entry and advances the consumer index (R228). -/
  | policyEntry
  /-- A descriptor entry has stayed dirty for 10 ms, so it is written back (R124). -/
  | descDirtyTimeout (d pm : Nat)
  /-- A page-write message stores whole or partial pages into a session (R172). -/
  | pageWrite (p : TwPkt)
  /-- A Tideway STEP or COMMIT message arrives and is handled as the entry it carries (R511). -/
  | stepEntry (p : TwPkt)
  /-- A Tideway READ_TEXT or READ_MASK request arrives (R511). -/
  | textRead (p : TwPkt)
  /-- A Tideway bundle read delivers a bundle or starts its flood (R246). -/
  | bundleRead (p : TwPkt)
  /-- A Tideway remote write places its data under a key (R491). -/
  | write (p : TwPkt)
  /-- A Tideway remote read returns data under a key (R487). -/
  | read (p : TwPkt) (data : HostRead)
  /-- Response data for an earlier request arrives (R511). -/
  | respData (p : TwPkt)
  /-- An ACK arrives: acknowledged PSNs advance, missing packets may be resent, and ALPHA and the rate update (R501). -/
  | ack (a : TwAck)
  /-- A COMPLETION receipt for an earlier request arrives (R510). -/
  | completion (p : TwPkt)
  /-- A peer's shard search arrives and is run locally (R428). -/
  | shardSearch (p : TwPkt)
  /-- A pool device stores a page copy (R513). -/
  | poolPut (p : TwPkt)
  /-- A pool device returns a stored page (R597). -/
  | poolGet (p : TwPkt)
  /-- A pool device frees a stored page (R513). -/
  | poolFree (p : TwPkt)
  /-- The target accepts or refuses a migration offer (R605). -/
  | migrateOffer (p : TwPkt) (m : MigMsg)
  /-- The target receives and places migrated pages (R606). -/
  | migratePages (p : TwPkt) (m : MigMsg)
  /-- The target takes the final entry and answers OK when ready (R607). -/
  | migratePrepare (p : TwPkt) (m : MigMsg)
  /-- PREPARE's OK reaches the old owner, which sets STUB and sends COMMIT (R140). -/
  | handover (d pm : Nat)
  /-- COMMIT reaches the target, which takes ownership of the session (R143). -/
  | migrateCommit (p : TwPkt)
  /-- The target frees what it received for an aborted migration (R608). -/
  | migrateAbort (p : TwPkt)
  /-- The grace has passed, nothing forwarded is open and the epoch is current, so the stub is freed (R144). -/
  | stubRelease (d pm : Nat)
  /-- The retransmit timer expires: the packet is resent, RTO doubles and the rate halves, or the connection becomes FAILED (R503). -/
  | rtoExpiry (c pm : Nat)
  /-- ACK_DELAY_NS passes after the oldest unacknowledged packet, so an ACK is sent (R500). -/
  | ackDelayExpiry (c pm : Nat)
  /-- AI_INTERVAL_US passes with no marks, so the rate rises by one step (R516). -/
  | aiInterval (c pm : Nat)
  /-- A page request waits 10 ms without a translation, so the message is refused with KEY_INVALID (R489). -/
  | priTimeout (c pm : Nat)
  /-- A connection context fetch completes and the packets waiting in the miss buffer proceed (R496). -/
  | contextFetched (c : Nat)
  /-- A port answers an ARP request for its address (R479). -/
  | arpRequest (n ip bytes : Nat)
  /-- A port answers an IPv6 Neighbor Solicitation for its address (R479). -/
  | neighborSolicitation (n ip bytes : Nat)
  /-- A MAC control frame is counted and ignored (R477). -/
  | macControlFrame (n bytes : Nat)
  /-- A frame or packet that breaks the framing rules is dropped and counted (R483). -/
  | frameDropped (n bytes : Nat) (packet : Bool)
  /-- A port's link comes up (R527). -/
  | portUp (n lanes : Nat)
  /-- A port's link goes down (R527). -/
  | portDown (n : Nat)
  /-- A whole second ends holding an uncorrectable codeword (R528). -/
  | fecDegraded (n codewords : Nat)
  /-- A CXL.mem read is served against the line's directory state, snooping holders if needed (R453). -/
  | memRead (host dpa hold : Nat)
  /-- A CXL.mem write is served against the line's directory state (R453). -/
  | memWrite (host dpa hold : Nat) (bytes : List Byte) (mask : Nat)
  /-- The owner's full-line write-back updates memory and sets the line's state (R454). -/
  | writeBack (host dpa hold : Nat) (bytes : List Byte)
  /-- A snoop answer arrives and the waiting request proceeds (R453). -/
  | birspi (host dpa : Nat)
  /-- A snoop goes unanswered for SNOOP_TIMEOUT, so the host is handled as crashed (R457). -/
  | snoopTimeoutExpired (host dpa pm : Nat)
  /-- A harbourmaster core loads from or stores to the window as host 16 (R458). -/
  | hmWindowAccess (dpa : Nat) (acc : HmAccess)
  /-- A host answers an Add Capacity event (R446). -/
  | addDynamicCapacityResponse (host region extent : Nat) (accept : Bool)
  /-- 1,000 ms pass without a host response or free frames, so the grant fails (R446). -/
  | addExtentTimeout (region extent host pm : Nat)
  /-- A host releases an extent and EXTENT_RETURNED is posted (R450). -/
  | releaseDynamicCapacity (host region extent : Nat)
  /-- An extent's scrub finishes and the extent becomes FREE (R462). -/
  | scrubComplete (region extent : Nat)
  /-- A host clears a poisoned line as a full-line write (R465). -/
  | clearPoison (host dpa : Nat) (bytes : List Byte)
  /-- Returns the loss records in the host's extents (R468). -/
  | getPoisonList (host : Nat)
  /-- A CXL mailbox identify request (R435). -/
  | identifyMemoryDevice (host : Nat)
  /-- Reports the enabled regions (R441). -/
  | getDynamicCapacityConfiguration (host : Nat)
  /-- Reports the extents the host has accepted (R446). -/
  | getDynamicCapacityExtentList (host : Nat)
  /-- Returns event log records (R446). -/
  | getEventRecords (host : Nat) (dynamic : Bool)
  /-- Clears event log records (R446). -/
  | clearEventRecords (host : Nat) (dynamic : Bool) (n : Nat)
  /-- The FM API binds a logical device to a host number (R437). -/
  | bindLd (port ld : Nat)
  /-- The FM API unbinds a logical device (R437). -/
  | unbindLd (port ld : Nat)
  /-- The FM API returns logical-device information (R437). -/
  | getLdInfo (port : Nat)
  /-- A flash unit read completes and is decoded, retried, soft-decoded or rebuilt (R555). -/
  | flashReadDone (shingle row unit : Nat) (outcome : UnitRead)
  /-- A flash program completes or fails, retiring the unit on failure (R559). -/
  | programDone (shingle unit : Nat) (ok : Bool)
  /-- A flash erase completes or fails, retiring the unit on failure (R559). -/
  | eraseDone (shingle unit : Nat) (ok : Bool)
  /-- A row has stayed partly filled for 1 ms, so it is padded and programmed with parity (R547). -/
  | rowFillTimeout (shingle pm : Nat)
  /-- FT_0 relocates a chosen shingle's live copies and erases it (R551). -/
  | relocateShingle (pm : Nat)
  /-- FT_0 reads one unit of each erase unit of a closed shingle and marks it for refresh if needed (R564). -/
  | retentionScan (shingle : Nat) (results : List (Nat × Bool)) (pm : Nat)
  /-- A refresh has waited more than 24 hours (R566). -/
  | refreshBehind (pm : Nat)
  /-- Once an hour the wall time is written into the format records (R536). -/
  | formatRecordHourly (pm : Nat)
  /-- Every 10 µs a heartbeat flit is sent on each trained half (R574). -/
  | isthmusHeartbeat (pm : Nat)
  /-- No valid flit for 1 ms, or the buddy's announcement, so the harbour is frozen and tier-2 sessions fail (R574). -/
  | buddyLost (pm : Nat)
  /-- The buddy announces beaching, reset or a chip restart over the Isthmus (R627). -/
  | buddyAnnounce (restart : Bool) (pm : Nat)
  /-- 3 s pass after a chip-restart announcement without heartbeats, so the buddy is taken as lost (R627). -/
  | buddyRestartTimeout (pm : Nat)
  /-- An Isthmus half runs at 8 lanes or goes down (R572). -/
  | linkDegraded (half lanes : Nat)
  /-- The buddy stores an ebbed copy in its park area (R578). -/
  | parkCopy (loc : Nat) (c : PageCopy)
  /-- The buddy programs a mirror copy and enters it in its mirror index (R580). -/
  | mirrorCopy (c : PageCopy)
  /-- The buddy releases a mirror copy, or an account's copies (R581). -/
  | releaseNotice (w : ReleaseWhat)
  /-- The timer, the step count or a received session starts a checkpoint epoch and its cut (R582). -/
  | epochStart (pm : Nat)
  /-- The buddy receives entries, deltas and full copies of an epoch (R587). -/
  | checkpointDelta (epoch : Nat) (item : CkptItem) (bytes : List Byte)
  /-- The buddy checks and writes an epoch's commit record (R593). -/
  | commitRecord (r : CommitRecord)
  /-- The commit record is acknowledged, so the sessions take the epoch and LAST_EPOCH updates (R592). -/
  | epochCommitted (epoch : Nat)
  /-- 2^32 flits or 24 hours pass, so the pair key is replaced (R699). -/
  | pairKeyUpdate (half pm : Nat)
  /-- An attention cell error reruns the page task and self-tests the cell (R617). -/
  | attentionCellError (region block cell info pm : Nat)
  /-- A page-engine, search, text or channel cell error restarts the work on another cell (R617). -/
  | cellError (region kind index cell info pm : Nat)
  /-- A connection-cache cell error fails its connections and reinitialises the cell (R617). -/
  | connectionCacheError (region cell info dur pm : Nat)
  /-- A core error moves Xailrak tasks or stops a harbourmaster core (R617). -/
  | coreError (block core info pm : Nat)
  /-- A cell's 20 µs self-test ends and the cell returns to service or is retired (R618). -/
  | cellSelfTestDone (region kind index cell : Nat) (pass : Bool) (again : List Nat) (pm : Nat)
  /-- A block-level error takes the block out of service and redispatches its tasks (R617). -/
  | blockError (region kind index info dur pm : Nat)
  /-- A descriptor-cache entry error refills the entry or fails its session (R617). -/
  | descriptorCacheError (d info dur pm : Nat)
  /-- An uncorrectable HBM line is contained by its object and its frame is retired (R621). -/
  | hbmUncorrectable (stack frame : Nat) (object : HbmObject) (info dur pm : Nat)
  /-- A corrected error is counted, and a frame with 16 corrections in a day is moved and retired (R616). -/
  | correctedError (cls : Nat) (frame : Option Nat) (pm : Nat)
  /-- A region-level error starts region handling and resets the region (R623). -/
  | regionError (region info pm : Nat)
  /-- The region passes self-test and returns, restoring dirty sessions in place, or stays out under R624 (R623). -/
  | regionReturn (region : Nat) (pass : Bool) (again : List Nat) (pm : Nat)
  /-- A chip-level error starts a chip restart (R626). -/
  | chipError (info pm : Nat)
  /-- The chip restart completes and CHIP_RESTARTED is posted (R626). -/
  | chipRestartDone (again : List Nat) (pm : Nat)
  /-- Every 1 ms LH_0 samples every meter (R638). -/
  | lighthouseSounding (meters : Meters) (pm : Nat)
  /-- Each second LH_0 completes a Lighthouse record and updates its sensors (R639). -/
  | lighthouseRecord (pm : Nat)
  /-- The BMC reads a numeric sensor (R638). -/
  | pldmSensorRead (id : Nat)
  /-- The BMC writes or activates an image over PLDM (R681). -/
  | pldmFirmwareUpdate (op : PldmFw)
  /-- MCTP vendor command 0x01 returns FAULT_STATUS and BEACHED (R637). -/
  | vendorStatus
  /-- MCTP vendor command 0x02 returns part of a log (R637). -/
  | vendorLog (log off : Nat)
  /-- The SMBus Alert Response Address is answered and SMB_ALERT_N is released (R726). -/
  | alertResponse
  /-- SPDM GET_VERSION (R684). -/
  | getVersion (via : SpdmVia)
  /-- SPDM GET_CAPABILITIES (R684). -/
  | getCapabilities (via : SpdmVia)
  /-- SPDM NEGOTIATE_ALGORITHMS (R684). -/
  | negotiateAlgorithms (via : SpdmVia) (supported : Bool)
  /-- SPDM GET_DIGESTS (R684). -/
  | getDigests (via : SpdmVia)
  /-- SPDM GET_CERTIFICATE (R684). -/
  | getCertificate (via : SpdmVia) (slot : Nat)
  /-- SPDM CHALLENGE (R684). -/
  | challenge (via : SpdmVia) (slot : Nat)
  /-- Returns the measurement blocks with the consent element (R685). -/
  | getMeasurements (via : SpdmVia) (index : Nat)
  /-- SPDM key exchange opens a session (R698). -/
  | keyExchange (via : SpdmVia) (slot : Nat)
  /-- SPDM FINISH completes a session (R698). -/
  | finish (via : SpdmVia) (session : Nat) (verified : Bool)
  /-- SPDM HEARTBEAT (R684). -/
  | spdmHeartbeat (via : SpdmVia) (session : Nat)
  /-- SPDM KEY_UPDATE (R699). -/
  | spdmKeyUpdate (via : SpdmVia) (session : Nat)
  /-- SPDM END_SESSION (R684). -/
  | endSession (via : SpdmVia) (session : Nat)
  /-- SPDM vendor request for IDE_KM or TDISP (R684). -/
  | vendorDefinedRequest (via : SpdmVia) (session : Option Nat) (req : VendorReq)
  /-- A signed token unlocks the debug port and sets LIFECYCLE to DEBUG (R692). -/
  | debugUnlock (tokenOk : Bool) (pm : Nat)
  /-- DURATION_S passes and consent ends (R689). -/
  | consentExpiry (partition pm : Nat)
  /-- The tide table admits a queued wake once its slew charge fits the rail (R647). -/
  | wakeAdmit (dom pm : Nat)
  /-- A wake ramp completes and the domain is ON, receiving moved page tasks (R646). -/
  | wakeReady (dom pm : Nat)
  /-- An idle attention block, page engine or search block is gated after its idle time (R649). -/
  | blockIdleGate (dom pm : Nat)
  /-- The quiet conditions have held for SLACK_ENTER_MS, so ENTERING starts (R654). -/
  | slackEnter (hmWaiting : Bool) (pm : Nat)
  /-- The domains reach their lowest states and slack water is entered (R653). -/
  | slackEntered (pm : Nat)
  /-- 50 µs before a scheduled flood, ebb or stub release, LEAVING starts (R658). -/
  | leavingScheduled (pm : Nat)
  /-- Every 10 µs PCM_0 checks neighbour clocks and voltages, and every 1 ms temperatures, and corrects (R661). -/
  | neighbourCheck (a b quantity va vb pm : Nat)
  /-- A limit is still exceeded 10 ms later, which is a region-level error (R663). -/
  | neighbourLimitTimeout (a b quantity : Nat) (exceeded : Bool) (pm : Nat)
  /-- PCM_0 applies BE holds, clock steps and the thermal trip from the temperatures (R665). -/
  | thermalCheck (junctions stackTemps : List Nat) (pm : Nat)
  /-- PCM_0 compares the 10 ms average input power with CAP_W and holds or lowers clocks (R668). -/
  | powerCapCheck (pm : Nat)
  /-- A region's warm reserve has not been held for 1 ms (R671). -/
  | reserveShort (region pm : Nat)
  /-- A host port loses its link while PERST_N_p stays high, so the hosts bound to it are handled as crashed with cause 3 (R463). -/
  | hostLinkDown (p : Nat)
  /-- An Isthmus half completes training at 8 or 16 lanes and starts carrying traffic (R572). -/
  | isthmusHalfUp (half lanes : Nat) (peerStrap : Bool) (pm : Nat)
  /-- A valid flit or heartbeat arrives from the buddy, restarting the 1 ms loss watch and, after a chip-restart announcement, keeping the pair bound (R627). -/
  | buddyHeartbeat (pm : Nat)
  /-- The buddy's bind arrives over the Isthmus, so the pair binds and the harbour reserve is taken on this device (R575). -/
  | buddyPairBind (dev names reservePct parkPct : Nat) (reserved : Bool)
  /-- The buddy or holder serves a read of its park area, page store, checkpoint image or a mirror copy over the Isthmus (R601). -/
  | harbourRead (source req : Nat) (ask : HarbourAsk)
  /-- Read data from the buddy arrives over the Isthmus and is placed, ending a harbour flood, a mirror read or the LC phase of a restore (R601). -/
  | isthmusReadData (req : Nat) (data : HarbourData)
  /-- An ATS translation or PRI page request response arrives from the host, and the waiting Tideway message continues placing or reading data (R489). -/
  | translationResponse (fn : Nat) (pasid : Option Nat) (addr len : Nat) (answer : XlatAnswer)
  /-- A flash operation times out, counting toward a LUN failure at three in a row (R559). -/
  | flashOperationTimeout (ch place : Nat)
  /-- VDD_AON is removed, so the error log, wall offset and postmark counter are lost and BEACHED is left (R636). -/
  | powerRemoved
  /-- A transaction on the unlocked debug port reaches device or partition state, or a boundary-scan instruction acts in recovery (R692). -/
  | debugPortAccess (reach : DebugReach)
  /-- VF Enable is set in PF_0's SR-IOV capability, so the VFs up to NumVFs become present with reset registers (R739). -/
  | vfEnableSet (n : Nat)
  deriving DecidableEq, Repr

end Sys2Proof
end

