-- ==== Sys2Proof/Machine/Bytes.lean ====
section
/-! DEFINITION. Byte order and bit fields (R15, R16): structures in host memory, HBM and flash are little-endian, Tideway
headers are big-endian, and bit 0 is the least significant bit. -/

namespace Sys2Proof.Machine

/-- `n` bytes of `v`, the least significant first (R15). -/
def leBytes : Nat → Nat → List Byte
  | 0, _ => []
  | n + 1, v => BitVec.ofNat 8 v :: leBytes n (v / 256)

/-- The number that bytes spell, the least significant first (R15). -/
def leNat : List Byte → Nat
  | [] => 0
  | b :: r => b.toNat + 256 * leNat r

/-- `n` bytes of `v`, the most significant first (Tideway headers, R15). -/
def beBytes (n v : Nat) : List Byte := (leBytes n v).reverse

/-- The number that bytes spell, the most significant first. -/
def beNat (bs : List Byte) : Nat := leNat bs.reverse

/-- `n` bytes of a list from offset `off`; bytes past its end read as zero. -/
def slice : List Byte → Nat → Nat → List Byte
  | _, _, 0 => []
  | bs, off, n + 1 => (bs.drop off).headD 0#8 :: slice (bs.drop off).tail 0 n

/-- The little-endian field of `n` bytes at offset `off`. -/
def field (bs : List Byte) (off n : Nat) : Nat := leNat (slice bs off n)

/-- Bits `hi` down to `lo` of a number (R16). -/
def bits (v hi lo : Nat) : Nat := v / 2 ^ lo % 2 ^ (hi + 1 - lo)

/-- Bit `i` of a number. -/
def bit (v i : Nat) : Bool := v / 2 ^ i % 2 = 1

/-- A truth value as 0 or 1. -/
def b2n (b : Bool) : Nat := if b then 1 else 0

/-- A signed number read from the low `w` bits of `v`. -/
def toSigned (w v : Nat) : Int := if v % 2 ^ w < 2 ^ (w - 1) then ((v % 2 ^ w : Nat) : Int) else ((v % 2 ^ w : Nat) : Int) - (2 : Int) ^ w

/-- The bytes of a list with `n` zero bytes after it, cut to `n` bytes. -/
def padTo (n : Nat) (bs : List Byte) : List Byte := slice bs 0 n

/-- Rounded up to a multiple of `k`. -/
def roundUp (v k : Nat) : Nat := if k = 0 then v else (v + k - 1) / k * k

/-- A power of two from `lo` to `hi`. -/
def pow2In (lo hi v : Nat) : Bool := decide (lo ≤ v) && decide (v ≤ hi) && decide (2 ^ Nat.log2 v = v)

end Sys2Proof.Machine
end

