-- ==== Sys2Proof/Machine/Float.lean ====
section
/-! DEFINITION. Exact values, rounding, and the functions of the attention pipeline (R156, R157, R185, R186, R259 to R264). -/

namespace Sys2Proof.Machine

/-- An exact value: a NaN, an infinity, or a signed number `m` × 2^`e` (zero keeps its sign). -/
inductive FVal where
  | nan
  | inf (neg : Bool)
  | fin (neg : Bool) (m : Nat) (e : Int)
  deriving DecidableEq, Repr

/-- +0. -/
def fZero : FVal := .fin false 0 0

/-- The value of a code whose encodings are all finite: sign, `eb` exponent bits, `mb` mantissa bits, bias (Table 4.3). -/
def fpFinite (eb mb bias c : Nat) : FVal :=
  let neg := bit c (eb + mb)
  let ef := bits c (eb + mb - 1) mb
  let mf := bits c (mb - 1) 0
  if ef = 0 then .fin neg mf (1 - (bias : Int) - mb) else .fin neg (mf + 2 ^ mb) ((ef : Int) - bias - mb)

/-- The value of a code whose top exponent holds infinities and NaNs, as IEEE 754. -/
def fpIeee (eb mb bias c : Nat) : FVal :=
  if bits c (eb + mb - 1) mb = 2 ^ eb - 1 then
    (if bits c (mb - 1) 0 = 0 then .inf (bit c (eb + mb)) else .nan)
  else fpFinite eb mb bias c

def dec32 (c : Nat) : FVal := fpIeee 8 23 127 c

def decBf16 (c : Nat) : FVal := fpIeee 8 7 127 c

def decE5M2 (c : Nat) : FVal := fpIeee 5 2 15 c

def decE4M3 (c : Nat) : FVal := if c % 128 = 127 then .nan else fpFinite 4 3 7 c

/-- Round to nearest, ties to even, to a multiple of 2^(q) of `m` × 2^`e`: the multiple. -/
def rneQuantum (m : Nat) (e q : Int) : Nat :=
  if q ≤ e then m * 2 ^ (e - q).toNat
  else
    let sh := (q - e).toNat
    let k := m / 2 ^ sh
    let r := m % 2 ^ sh
    if 2 ^ (sh - 1) < r ∨ (r = 2 ^ (sh - 1) ∧ k % 2 = 1) then k + 1 else k

/-- The magnitude code nearest to `m` × 2^`e`, ties to even, gradual underflow, with no upper limit on the exponent. -/
def rneCode (mb bias m : Nat) (e : Int) : Nat :=
  if m = 0 then 0
  else
    let qmin : Int := 1 - (bias : Int) - mb
    let q := max ((Nat.log2 m : Int) + e - mb) qmin
    (q - qmin).toNat * 2 ^ mb + rneQuantum m e q

/-- R260: rne32, as the 32-bit code. -/
def rne32 : FVal → Nat
  | .nan => 0x7FC00000
  | .inf neg => 0x7F800000 + (if neg then 2 ^ 31 else 0)
  | .fin neg m e => min (rneCode 23 127 m e) 0x7F800000 + (if neg then 2 ^ 31 else 0)

/-- R260: rne16, as the BF16 code. -/
def rne16 : FVal → Nat
  | .nan => 0x7FC0
  | .inf neg => 0x7F80 + (if neg then 2 ^ 15 else 0)
  | .fin neg m e => min (rneCode 7 127 m e) 0x7F80 + (if neg then 2 ^ 15 else 0)

/-- An FP32 value: an exact value rounded once. -/
def r32 (v : FVal) : FVal := dec32 (rne32 v)

/-- A BF16 value: an exact value rounded once. -/
def r16 (v : FVal) : FVal := decBf16 (rne16 v)

/-! ### Exact operations -/

def fNeg : FVal → FVal
  | .nan => .nan
  | .inf n => .inf (!n)
  | .fin n m e => .fin (!n) m e

/-- The exact product (R259). -/
def fMul : FVal → FVal → FVal
  | .nan, _ => .nan
  | _, .nan => .nan
  | .inf a, .inf b => .inf (a != b)
  | .inf a, .fin b m _ => if m = 0 then .nan else .inf (a != b)
  | .fin a m _, .inf b => if m = 0 then .nan else .inf (a != b)
  | .fin a m e, .fin b m' e' => .fin (a != b) (m * m') (e + e')

/-- A signed whole number of a sign and a magnitude. -/
def signedNat (neg : Bool) (m : Nat) : Int := if neg then -(m : Int) else m

/-- The exact sum; an exact zero is +0 unless both terms are −0 (R260). -/
def fAdd : FVal → FVal → FVal
  | .nan, _ => .nan
  | _, .nan => .nan
  | .inf a, .inf b => if a = b then .inf a else .nan
  | .inf a, .fin .. => .inf a
  | .fin .., .inf b => .inf b
  | .fin a m e, .fin b m' e' =>
    let e0 := min e e'
    let x := signedNat a (m * 2 ^ (e - e0).toNat) + signedNat b (m' * 2 ^ (e' - e0).toNat)
    if x = 0 then .fin (a && b) 0 e0 else .fin (decide (x < 0)) x.natAbs e0

def fSub (a b : FVal) : FVal := fAdd a (fNeg b)

/-- a < b for values that are no NaN. -/
def fLt : FVal → FVal → Bool
  | .nan, _ => false
  | _, .nan => false
  | .inf a, .inf b => a && !b
  | .inf a, .fin .. => a
  | .fin .., .inf b => !b
  | .fin a m e, .fin b m' e' =>
    let e0 := min e e'
    decide (signedNat a (m * 2 ^ (e - e0).toNat) < signedNat b (m' * 2 ^ (e' - e0).toNat))

/-- The value is zero of either sign. -/
def fIsZero : FVal → Bool
  | .fin _ m _ => m == 0
  | _ => false

/-- The maximum of two values (R264). -/
def fMax (a b : FVal) : FVal :=
  match a, b with
  | .nan, _ => .nan
  | _, .nan => .nan
  | a, b =>
    if fIsZero a && fIsZero b then
      (match a, b with
       | .fin true _ _, .fin true _ _ => a
       | _, _ => fZero)
    else if fLt a b then b else a

/-- The maximum over a list; −infinity over none (R264). -/
def fMaxList (l : List FVal) : FVal := l.foldl fMax (.inf true)

/-- A whole number as a value. -/
def fInt (i : Int) : FVal := .fin (decide (i < 0)) i.natAbs 0

/-- The greatest whole number not above a finite value. -/
def fFloor : FVal → Int
  | .fin a m e =>
    let x := signedNat a m
    if 0 ≤ e then x * 2 ^ e.toNat else Int.fdiv x (2 ^ (-e).toNat)
  | _ => 0

/-- The quotient of two values, exact but for a sticky lowest bit far below any rounding place (R264). -/
def fDiv : FVal → FVal → FVal
  | .nan, _ => .nan
  | _, .nan => .nan
  | .inf _, .inf _ => .nan
  | .inf a, .fin b _ _ => .inf (a != b)
  | .fin a _ _, .inf b => .fin (a != b) 0 0
  | .fin a m e, .fin b m' e' =>
    if m' = 0 then (if m = 0 then .nan else .inf (a != b))
    else if m = 0 then .fin (a != b) 0 0
    else
      let k := 80 + Nat.log2 m' - Nat.log2 m
      let n := m * 2 ^ k
      .fin (a != b) (2 * (n / m') + (if n % m' = 0 then 0 else 1)) (e - e' - k - 1)

/-! ### The reduction tree (R261) -/

/-- One level of the tree: neighbours summed and rounded, a last odd value carried. -/
def treeLevel : List FVal → List FVal
  | a :: b :: rest => r32 (fAdd a b) :: treeLevel rest
  | l => l

/-- Levels of the tree until one value is left; `n` bounds the levels. -/
def treeGo : Nat → List FVal → FVal
  | 0, l => l.headD fZero
  | _ + 1, [] => fZero
  | _ + 1, [v] => v
  | n + 1, l => treeGo n (treeLevel l)

/-- R261: the tree sum of a list; a single value is rounded. -/
def treeSum : List FVal → FVal
  | [] => fZero
  | [v] => r32 v
  | l => treeGo (l.length) l

/-- A list cut into pieces of `k`; `n` bounds the pieces. -/
def chunks {α : Type} (k : Nat) : Nat → List α → List (List α)
  | 0, _ => []
  | n + 1, l => if l.isEmpty then [] else l.take k :: chunks k n (l.drop k)

/-- R262: the dot product of a query row and a key row. -/
def dotProd (q k : List FVal) : FVal :=
  treeSum ((chunks 32 (q.length / 32 + 1) (List.zipWith fMul q k)).map treeSum)

/-! ### exp2 and log2 (R263, R264) -/

/-- Table T, part 0. -/
def exp2Tab0 : List Nat := [549755813888, 555742262204, 561793898668, 567911433133, 574095583180, 580347074207, 586666639507, 593055020361]

/-- Table T, part 1. -/
def exp2Tab1 : List Nat := [599512966123, 606041234302, 612640590662, 619311809300, 626055672747, 632872972052, 639764506879, 646731085600]

/-- Table T, part 2. -/
def exp2Tab2 : List Nat := [653773525390, 660892652321, 668089301461, 675364316973, 682718552210, 690152869817, 697668141836, 705265249802]

/-- Table T, part 3. -/
def exp2Tab3 : List Nat := [712945084849, 720708547817, 728556549354, 736490010025, 744509860419, 752617041257, 760812503507, 769097208489]

/-- Table T, part 4. -/
def exp2Tab4 : List Nat := [777472127994, 785938244393, 794496550755, 803148050963, 811893759832, 820734703226, 829671918182, 838706453029]

/-- Table T, part 5. -/
def exp2Tab5 : List Nat := [847839367509, 857071732908, 866404632174, 875839160050, 885376423200, 895017540335, 904763642353, 914615872464]

/-- Table T, part 6. -/
def exp2Tab6 : List Nat := [924575386327, 934643352185, 944820951003, 955109376606, 965509835819, 976023548607, 986651748221, 997395681340]

/-- Table T, part 7. -/
def exp2Tab7 : List Nat := [1008256608221, 1019235802842, 1030334553053, 1041554160730, 1052895941925, 1064361227019, 1075951360882, 1087667703029]

/-- Table T of R263: entry i is 2^(i/64) to 40 significant bits, as a multiple of 2^-39. -/
def exp2Tab (i : Nat) : Nat :=
  ((match i / 8 with
    | 0 => exp2Tab0 | 1 => exp2Tab1 | 2 => exp2Tab2 | 3 => exp2Tab3
    | 4 => exp2Tab4 | 5 => exp2Tab5 | 6 => exp2Tab6 | _ => exp2Tab7).drop (i % 8)).headD 0

/-- ln 2, (ln 2)^2 ÷ 2 and (ln 2)^3 ÷ 6, to FP32 (R263). -/
def expC1 : FVal := dec32 0x3F317218

def expC2 : FVal := dec32 0x3E75FDF0

def expC3 : FVal := dec32 0x3D635847

/-- 2 × log2 e to FP32 (R265), and ln 2 to FP32 (R273). -/
def twoLog2e : FVal := dec32 0x4038AA3B

def fpLn2 : FVal := dec32 0x3F317218

/-- R263: exp2 of an FP32 value, as an FP32 value. -/
def exp2 (x : FVal) : FVal :=
  match x with
  | .nan => .nan
  | .inf true => fZero
  | .inf false => .inf false
  | x =>
    if fLt x (fInt (-150)) then fZero
    else if !fLt x (fInt 128) then .inf false
    else
      let n := fFloor x
      let f := fSub x (fInt n)
      let i := (fFloor (fMul (fInt 64) f)).toNat
      let r := fSub f (.fin false i (-6))
      let q := r32 (fMul r (r32 (fAdd expC1 (r32 (fMul r (r32 (fAdd expC2 (r32 (fMul r expC3)))))))))
      r32 (fMul (fMul (.fin false 1 n) (.fin false (exp2Tab i) (-39))) (fAdd (fInt 1) q))

/-- Binary digits of log2 of `y` ÷ 2^200, for `y` from 2^200 to 2^201: `n` digits after `acc`. -/
def log2Digits : Nat → Nat → Nat → Nat
  | 0, _, acc => acc
  | n + 1, y, acc =>
    let y2 := y * y / 2 ^ 200
    if 2 ^ 201 ≤ y2 then log2Digits n (y2 / 2) (2 * acc + 1) else log2Digits n y2 (2 * acc)

/-- R264: log2 of a positive finite value, to FP32. -/
def fLog2 : FVal → FVal
  | .fin _ m e =>
    let l := Nat.log2 m
    let n : Int := (l : Int) + e
    if m = 2 ^ l then r32 (fInt n)
    else
      let d := log2Digits 100 (m * 2 ^ 200 / 2 ^ l) 0
      let x : Int := n * 2 ^ 101 + (2 * d + 1 : Nat)
      r32 (.fin (decide (x < 0)) x.natAbs (-101))
  | .inf false => .inf false
  | _ => .nan

/-! ### Key-value formats (Tables 4.2 and 4.3) -/

/-- Codes 0x00 to 0x07 name formats (R155). -/
def fmtValid (f : Nat) : Bool := decide (f ≤ 7)

/-- The MX formats have a scale per 32 elements. -/
def fmtMx (f : Nat) : Bool := decide (3 ≤ f) && decide (f ≤ 7)

/-- Element bits of a format. -/
def fmtBits (f : Nat) : Nat := if f = 2 then 16 else if f = 5 ∨ f = 6 then 6 else if f = 7 then 4 else 8

/-- Bytes of a row's elements, of dimension `d`. -/
def elBytes (f d : Nat) : Nat := d * fmtBits f / 8

/-- Scales of a row. -/
def scBytes (f d : Nat) : Nat := if fmtMx f then d / 32 else 0

/-- Row bytes r of Table 4.2. -/
def rowBytes (f d : Nat) : Nat := elBytes f d + scBytes f d

/-- The value of an element code, without its scale. -/
def elVal (f c : Nat) : FVal :=
  match f with
  | 0 | 3 => decE4M3 c
  | 1 | 4 => decE5M2 c
  | 2 => decBf16 c
  | 5 => fpFinite 3 2 3 c
  | 6 => fpFinite 2 3 1 c
  | _ => fpFinite 2 1 1 c

/-- An element under its scale code (R157). -/
def mxVal (f c scale : Nat) : FVal :=
  if scale = 0xFF then .nan else fMul (elVal f c) (.fin false 1 ((scale : Int) - 127))

/-- The exact values of a row from its element and scale codes; `j` is the index of the first element. -/
def rowValsGo (f : Nat) (sc : List Nat) : Nat → List Nat → List FVal
  | _, [] => []
  | j, c :: r =>
    (if fmtMx f then mxVal f c ((sc.drop (j / 32)).headD 0) else elVal f c) :: rowValsGo f sc (j + 1) r

def rowVals (f : Nat) (els sc : List Nat) : List FVal := rowValsGo f sc 0 els

/-- Three bytes of an FP6 row hold four elements (R160). -/
def unpack6 : List Byte → List Nat
  | a :: b :: c :: r =>
    let v := leNat [a, b, c]
    v % 64 :: v / 64 % 64 :: v / 4096 % 64 :: v / 262144 :: unpack6 r
  | _ => []

/-- One byte of an FP4 row holds two elements (R159). -/
def unpack4 : List Byte → List Nat
  | a :: r => a.toNat % 16 :: a.toNat / 16 :: unpack4 r
  | [] => []

/-- Two bytes hold one BF16 element (R159). -/
def unpack16 : List Byte → List Nat
  | a :: b :: r => leNat [a, b] :: unpack16 r
  | _ => []

/-- A row's element codes from its bytes (R159, R160). -/
def unpackEls (f : Nat) (bs : List Byte) : List Nat :=
  match fmtBits f with
  | 16 => unpack16 bs
  | 6 => unpack6 bs
  | 4 => unpack4 bs
  | _ => bs.map BitVec.toNat

def pack6 : List Nat → List Byte
  | a :: b :: c :: d :: r => leBytes 3 (a % 64 + b % 64 * 64 + c % 64 * 4096 + d % 64 * 262144) ++ pack6 r
  | _ => []

def pack4 : List Nat → List Byte
  | a :: b :: r => BitVec.ofNat 8 (a % 16 + b % 16 * 16) :: pack4 r
  | _ => []

def pack16 : List Nat → List Byte
  | a :: r => leBytes 2 a ++ pack16 r
  | [] => []

/-- A row's bytes from its element codes. -/
def packEls (f : Nat) (els : List Nat) : List Byte :=
  match fmtBits f with
  | 16 => pack16 els
  | 6 => pack6 els
  | 4 => pack4 els
  | _ => els.map (BitVec.ofNat 8)

/-! ### Conversions (R185, R186) -/

/-- Sign bit of a value placed at bit `p`; NaN has none. -/
def signAt (p : Nat) : FVal → Nat
  | .fin true _ _ => 2 ^ p
  | .inf true => 2 ^ p
  | _ => 0

/-- R185: the code of a value in FP8 E4M3. -/
def toE4M3 : FVal → Nat
  | .nan => 0x7F
  | .inf n => 0x7E + (if n then 128 else 0)
  | .fin n m e => min (rneCode 3 7 m e) 0x7E + (if n then 128 else 0)

/-- R185: the code of a value in FP8 E5M2; a finite magnitude beyond the largest saturates. -/
def toE5M2 : FVal → Nat
  | .nan => 0x7F
  | .inf n => 0x7C + (if n then 128 else 0)
  | .fin n m e => min (rneCode 2 15 m e) 0x7B + (if n then 128 else 0)

/-- R185: the code of a value in BF16; a finite magnitude beyond the largest saturates. -/
def toBf16 : FVal → Nat
  | .nan => 0x7FC0
  | .inf n => 0x7F80 + (if n then 2 ^ 15 else 0)
  | .fin n m e => min (rneCode 7 127 m e) 0x7F7F + (if n then 2 ^ 15 else 0)

/-- The largest finite magnitude code of an element format, its mantissa bits and bias, and its sign's place. -/
def elMax (f : Nat) : Nat :=
  match f with
  | 3 => 0x7E | 4 => 0x7B | 5 => 0x1F | 6 => 0x1F | _ => 0x07

def elMant (f : Nat) : Nat :=
  match f with
  | 3 => 3 | 4 => 2 | 5 => 2 | 6 => 3 | _ => 1

def elBias (f : Nat) : Nat :=
  match f with
  | 3 => 7 | 4 => 15 | 5 => 3 | 6 => 1 | _ => 1

/-- emax of an element format (Table 4.3). -/
def elEmax (f : Nat) : Int :=
  match f with
  | 3 => 8 | 4 => 15 | 5 => 4 | 6 => 2 | _ => 2

/-- One element of a block scaled by 2^-E, rounded and saturated (R186 step 3). -/
def mxEl (f : Nat) (sc : Int) : FVal → Nat
  | .fin n m e => min (rneCode (elMant f) (elBias f) m (e - sc)) (elMax f) + (if n then 2 ^ (fmtBits f - 1) else 0)
  | _ => 0

/-- ⌊log2⌋ of the largest magnitude of a block, over its elements that are not zero. -/
def blockLog : List FVal → Option Int
  | [] => none
  | .fin _ m e :: r =>
    if m = 0 then blockLog r
    else
      let l : Int := (Nat.log2 m : Int) + e
      match blockLog r with
      | some k => some (max l k)
      | none => some l
  | _ :: r => blockLog r

/-- A value is NaN or infinite. -/
def nonFinite : FVal → Bool
  | .fin .. => false
  | _ => true

/-- R186: one block of 32 values as its scale code and element codes. -/
def mxBlock (f : Nat) (vs : List FVal) : Nat × List Nat :=
  if vs.any nonFinite then (0xFF, vs.map (fun _ => 0))
  else
    match blockLog vs with
    | none => (0x00, vs.map (signAt (fmtBits f - 1)))
    | some l =>
      let e := max (-127) (min 127 (l - elEmax f))
      ((e + 127).toNat, vs.map (mxEl f e))

/-- A row of exact values as element and scale codes of format `f` (R185, R186). -/
def encodeRow (f : Nat) (vs : List FVal) : List Nat × List Nat :=
  match f with
  | 0 => (vs.map toE4M3, [])
  | 1 => (vs.map toE5M2, [])
  | 2 => (vs.map toBf16, [])
  | f =>
    let bl := (chunks 32 (vs.length / 32 + 1) vs).map (mxBlock f)
    ((bl.map (·.2)).flatten, bl.map (·.1))

end Sys2Proof.Machine
end

