-- ==== Sys2Proof/Machine/AMap.lean ====
section
/-! DEFINITION. The operations of the sparse table, and the predicate that it is in its one form. -/

namespace Sys2Proof.Machine

/-- The value at key `k`, if the table lists one. -/
def amGet {α : Type} : AMap α → Nat → Option α
  | [], _ => none
  | (k', v) :: r, k => if k = k' then some v else amGet r k

/-- The value at key `k`, or `d` where the table lists none. -/
def amGetD {α : Type} (m : AMap α) (k : Nat) (d : α) : α := (amGet m k).getD d

/-- The table lists key `k`. -/
def amHas {α : Type} (m : AMap α) (k : Nat) : Bool := (amGet m k).isSome

/-- The table with `v` at key `k`. -/
def amSet {α : Type} : AMap α → Nat → α → AMap α
  | [], k, v => [(k, v)]
  | (k', v') :: r, k, v =>
    if k < k' then (k, v) :: (k', v') :: r
    else if k = k' then (k, v) :: r
    else (k', v') :: amSet r k v

/-- The table without key `k`. -/
def amErase {α : Type} : AMap α → Nat → AMap α
  | [], _ => []
  | (k', v') :: r, k => if k = k' then r else (k', v') :: amErase r k

/-- The table with the value at `k` changed by `f`; a key it does not list stays unlisted. -/
def amMod {α : Type} (m : AMap α) (k : Nat) (f : α → α) : AMap α :=
  match amGet m k with
  | some v => amSet m k (f v)
  | none => m

/-- Keep only the entries `p` accepts. -/
def amFilter {α : Type} (m : AMap α) (p : Nat → α → Bool) : AMap α :=
  m.filter (fun e => p e.1 e.2)

/-- Every value changed by `f`. -/
def amMap {α : Type} (m : AMap α) (f : Nat → α → α) : AMap α :=
  m.map (fun e => (e.1, f e.1 e.2))

/-- The lowest number at or above `n` that is no key, looking at most `fuel` numbers far. -/
def amFree {α : Type} (m : AMap α) : Nat → Nat → Nat
  | 0, n => n
  | fuel + 1, n => if amHas m n then amFree m fuel (n + 1) else n

/-- The lowest number at or above `lo` that is no key. -/
def amLowestFree {α : Type} (m : AMap α) (lo : Nat) : Nat := amFree m m.length lo

/-- A key not in use from `lo` to below `hi`: `k` if it is one, else the lowest. -/
def amNewKey {α : Type} (m : AMap α) (lo hi k : Nat) : Nat :=
  if lo ≤ k ∧ k < hi ∧ amHas m k = false then k else amLowestFree m lo

/-- A value placed in a list kept in rising order of `key`, after those of equal key. -/
def insertBy {α : Type} (key : α → Nat) (x : α) : List α → List α
  | [] => [x]
  | y :: r => if key x < key y then x :: y :: r else y :: insertBy key x r

/-- A list in rising order of `key`; equal keys keep their order. -/
def sortBy {α : Type} (key : α → Nat) (l : List α) : List α := l.foldl (fun acc x => insertBy key x acc) []

/-- Keys rise strictly. -/
def amWf {α : Type} : AMap α → Bool
  | [] => true
  | [_] => true
  | (k, _) :: (k', v') :: r => decide (k < k') && amWf ((k', v') :: r)

end Sys2Proof.Machine
end

