-- ==== Sys2Proof/Config.lean ====
section
/-! DEFINITION. What the spec leaves to the part or leaves open: constants without a body, so that no proof can see a value
of them. Each is applied to the state's own counter `fresh`, or to the operands it depends on. -/

namespace Sys2Proof.Config

/-- FW_VERSION's image value (Table 2.4): running Xailrak version word. -/
opaque fwVersion : Nat

/-- A byte of the identify structure whose place the spec does not give (IDENTIFY). -/
opaque identifyByte : Nat → Nat → Byte

/-- An HBM address for a page list or a scout list (PAGE_LIST, SCOUT_LIST: "allocated"). -/
opaque hbmAddr : Nat → Nat


/-- The reset values of the live fields of other chapters, by the key of the table of live fields: LC_LIMIT 60 (Table 7.11), TW_RTO,
TW_CC and TW_ACK (Tables 11.15 to 11.17), PWR_CTRL, THERMAL_CFG and the warm reserves (Tables 15.4 to 15.6), and 0 for POWER_CAP and the LC
reserves. -/
def liveResetOf (key : Nat) : Nat :=
  match key with
  | 2 => 60
  | 3 => 10000 * 2 ^ 48 + 100 * 2 ^ 32 + 7 * 2 ^ 16 + 20
  | 4 => 4000 * 2 ^ 48 + 100 * 2 ^ 32 + 8 * 2 ^ 24 + 4 * 2 ^ 16 + 4
  | 5 => 2000 * 2 ^ 16 + 8
  | 6 => 100 * 2 ^ 16
  | 7 => 95
  | 16 => 8 | 17 => 8 | 18 => 8 | 19 => 8 | 20 => 8 | 21 => 8
  | _ => 0

/-- The BAR0 offsets of the live fields of other chapters. -/
def liveOffsetOf (key : Nat) : Nat :=
  match key with
  | 3 => 0x0B18
  | 4 => 0x0B20
  | 5 => 0x0B28
  | 6 => 0x0820
  | 7 => 0x0828
  | 8 => 0x082C
  | 16 => 0x0824 | 17 => 0x0824 | 18 => 0x0824 | 19 => 0x0824 | 20 => 0x0824 | 21 => 0x0824
  | k => k

/-- The SOURCE of a DEAD_LETTER event for a COMPLETION whose connection is gone (R504 names no ring). -/
opaque deadLetterSource : Nat

/-- The number a new address-space key or object takes, where no number is given; one in use or out of range gives way to the lowest
free one. -/
opaque newName : Nat → Nat

/-- EPOCH_CRC of an epoch this device sends (R594): the bytes of entries hold a text record whose layout the spec does not give. -/
opaque epochCrc : Nat → Nat

/-- Bytes of an entry as a MIGRATE payload holds it (Table 13.6): they include a text record whose layout the spec does not give. -/
opaque entryBytes : Nat → List Byte

/-- The device base MAC address (Tideway Transport and the Ethernet Ports): its value is the board's. -/
opaque baseMac : Nat

/-- The Unicode 15.1.0 tables that R344 and R345 name and do not list, beyond ASCII: the class of a code point (0 L, 1 N, 2 M,
3 S, 4 P), its quick check under NFC (1) or NFKC (2), and the normal form of a run. -/
opaque ucClass : Nat → Nat
opaque ucQuick : Nat → Nat → Bool
opaque ucNorm : Nat → List Nat → List Nat

/-- RESULT_A of a READ_TEXT that fails under REJECT: R358 counts it from a stream's opening, and session text has none. -/
opaque textOffset : Nat → Nat

/-- READY_PM of a mask set header written before the root mask was ready (Table 14a of the text chapter gives none). -/
opaque readyPm : Nat → Nat

/-- The object kind of an OBJECT_LOST event (Table 14.9 gives the field and no codes), by the row of Table 14.2: 8 index node, 9 posting list,
10 adapter bundle, configuration version or codebook. -/
opaque objectKind : Nat → Nat

/-- The cause that SLACK_LEFT gives when an Isthmus flit ended slack water (Table 15.15 lists none), by use. -/
opaque slackCause : Nat → Nat

/-- Bytes of the measurement digests whose images the spec does not give (Table 16.6): by index (1 ROM, 2 SE firmware, 3 Xailrak), running
slot, and place. -/
opaque measured : Nat → Nat → Nat → Byte

end Sys2Proof.Config
end

