-- ==== Sys2Proof/Machine/State.lean ====
section
/-! DEFINITION. The state of the block: every register, ring, table, queue and buffer the spec gives the ZX4-C12, as plain
data, and `State.reset`, the machine right after reset.

What a rule defines as a count over other state (PROV_SLOTS, INFLIGHT, the PAGES_* counts of a descriptor, the franked bytes
of an account) is computed from that state by the operations and is not stored twice. -/

namespace Sys2Proof.Machine

/-! ### Completion statuses, receipts and rings (Functions, Mailboxes and the Xailrak Command Set) -/

/-- The completion statuses of Table 2.15. -/
inductive Status where
  | ok | degraded | escaped | shortResult | postfilter | partialShards
  | pagesAbsent | maskEmpty | moved | notOwner | quota | busy | version | keyInvalid
  | fenced | poisoned | abortedFlr | invalid | fault
  deriving DecidableEq, Repr

/-- The fields of a receipt that an operation decides (Table 2.14). -/
structure Rcpt where
  status : Status
  notes : Nat := 0
  detail : Nat := 0
  resA : Nat := 0
  resB : Nat := 0
  deriving DecidableEq, Repr

/-- A receipt on its way to a ring: what the operation decided, its CMD_ID, and its completion postmark. -/
structure Receipt where
  rcpt : Rcpt
  cmdId : Nat
  pm : Nat
  deriving DecidableEq, Repr

/-- A receipt in a dead-letter ring, with the consumer index of its submission ring when it entered (R76). -/
structure DeadLetter where
  receipt : Receipt
  head : Nat
  deriving DecidableEq, Repr

/-- A receipt held because its ring is full (R75), and the postmark since which it waits. -/
structure Held where
  receipt : Receipt
  since : Nat
  deriving DecidableEq, Repr

/-- A submission ring and the receipt ring paired with it (R65 to R71, R75, R77). -/
structure Ring where
  /-- The pair accepts doorbells. -/
  live : Bool := false
  base : Nat := 0
  rqBase : Nat := 0
  depth : Nat := 256
  vector : Nat := 0
  /-- Stopped on an entry that could not be read (R77). -/
  stopped : Bool := false
  /-- A DELETE_STEP_RING waits for the ring's receipts. -/
  deleting : Bool := false
  /-- Submission producer and consumer indices (R66). -/
  prod : Nat := 0
  cons : Nat := 0
  /-- The announced slots not yet consumed, oldest first (R69). -/
  slots : List SlotRead := []
  /-- Receipt producer index, the host's head index, and the PHASE written now (R71). -/
  rqProd : Nat := 0
  rqHead : Nat := 0
  phase : Bool := true
  held : List Held := []
  /-- The host port through which the ring's base was last written (R732). -/
  port : Nat := 0
  /-- Receipts written and not yet signalled, and the postmark of the oldest (R64). -/
  unsig : Nat := 0
  unsigSince : Nat := 0
  deriving DecidableEq, Repr

/-- A live field's value in force, its shadow while one waits, the postmark of the write that waits, and whether its block
admits no new work until it is applied (R92 to R94). -/
structure Live where
  value : Nat
  shadow : Option Nat := none
  since : Nat := 0
  stalled : Bool := false
  deriving DecidableEq, Repr

/-- One MSI-X vector: the table entry's address, data and mask bit, and its pending bit (Table 2.2). -/
structure Msix where
  addr : Nat := 0
  data : Nat := 0
  masked : Bool := true
  pending : Bool := false
  deriving DecidableEq, Repr

/-- One function's registers, rings and tags (Tables 2.1 and 2.2; TEXT_CFG of Table 8.5 and SEARCH_CFG of Table 9.7). -/
structure Fn where
  /-- FUNC_CTRL. -/
  enable : Bool := false
  adminEn : Bool := false
  eventEn : Bool := false
  /-- FUNC_STATUS bits that are the function's own; READY is 1 while FLR_BUSY is 0. -/
  eventStopped : Bool := false
  flrBusy : Bool := false
  /-- Command set 3 in force (R95). -/
  set3 : Bool := false
  /-- ADMIN_SQ_BASE, ADMIN_RQ_BASE, EVENT_BASE and EVENT_CFG as written. -/
  adminSqBase : Word64 := 0#64
  adminRqBase : Word64 := 0#64
  eventBase : Word64 := 0#64
  eventCfg : Word32 := 0#32
  /-- TEXT_CFG's and SEARCH_CFG's enables, and the bases and configuration words as written. -/
  textEn : Bool := false
  searchEn : Bool := false
  textCfg : Word32 := 0#32
  textSqBase : Word64 := 0#64
  textRqBase : Word64 := 0#64
  searchCfg : Word32 := 0#32
  searchSqBase : Word64 := 0#64
  searchRqBase : Word64 := 0#64
  /-- The host ports through which the four pairs of bases were last written (R732). -/
  adminPort : Nat := 0
  eventPort : Nat := 0
  textPort : Nat := 0
  searchPort : Nat := 0
  /-- The rings. -/
  admin : Ring := {}
  steps : AMap Ring := []
  text : Ring := {}
  search : Ring := {}
  /-- The event ring in force: base, depth, vector, producer index, host head index, PHASE (R61, R63, R71). -/
  evBase : Nat := 0
  evDepth : Nat := 0
  evVector : Nat := 0
  evProd : Nat := 0
  evHead : Nat := 0
  evPhase : Bool := true
  /-- The dead-letter ring, oldest first, and its LOST count (R76). -/
  deadLetters : List DeadLetter := []
  lost : Nat := 0
  /-- EVENTS_LOST (R78). -/
  eventsLost : Nat := 0
  /-- The postmark latch; none while no POSTMARK_LO read has loaded it (R60). -/
  latch : Option Nat := none
  /-- The MSI-X vectors that differ from their reset. -/
  msix : AMap Msix := []
  /-- Host address ranges (first, last) of this function whose translation last failed (R77, R740). -/
  unmapped : List (Nat × Nat) := []
  deriving DecidableEq, Repr

/-! ### Operations in flight (R56, R57, R72) -/

/-- Where an operation came from, and so where its receipt goes: a function's ring, or a Tideway requester. -/
inductive Origin where
  | ring (fn : Nat) (ring : RingId)
  | tideway (fn : Nat) (conn : Nat) (req : Nat)
  deriving DecidableEq, Repr

/-- What an admitted operation still waits for. -/
inductive Wait where
  /-- The last receipt of step ring `n` of function `fn` (DELETE_STEP_RING). -/
  | ringReceipts (fn n : Nat)
  /-- The freeing of descriptor `d` (CLOSE_SESSION). -/
  | freed (d : Nat)
  /-- PARKED of descriptor `d` (PARK_NOW). -/
  | parked (d : Nat)
  /-- Every reference of `d` at tier 0 (FLOOD_NOW, R135; a BE step, Table 5.9). -/
  | flooded (d : Nat)
  /-- The last move of a class change of session `d` (R747). -/
  | replaced (d : Nat)
  /-- The last move of a class change of object `o` (R747). -/
  | objReplaced (o : Nat)
  /-- Handover of `d` (MIGRATE_SESSION). -/
  | handover (d : Nat)
  /-- The freeing of every session of partition `p` (RELEASE_PARTITION). -/
  | partitionFreed (p : Nat)
  /-- A page write that waits for its stream's tail page (R134). -/
  | tailPage (d layer : Nat)
  /-- The host's answer to an extent grant (R446). -/
  | extentGrant (region extent host : Nat)
  /-- The last recall of an extent's lines (R459). -/
  | extentRecall (region extent host : Nat)
  /-- The sweep of an index (R421). -/
  | compacted (index : Nat)
  /-- The end of an index's searches (DELETE_INDEX). -/
  | indexIdle (index : Nat)
  /-- The end of a role drain (R612). -/
  | roleDrain
  /-- The buddy's bind (R575). -/
  | buddyBind
  /-- The stop of harbourmaster cores. -/
  | coresStopped
  /-- The media commands (MEDIA_FORMAT, MEDIA_ATTACH, MEDIA_RECLAIM). -/
  | media
  /-- A step's page tasks, merge or commit (Steps, Candidate Verification and Scheduling). -/
  | stepWork
  /-- A search's shards. -/
  | searchWork
  /-- New text of session `d` (READ_TEXT, R360). -/
  | newText (d : Nat)
  /-- The masks of session `d` (READ_MASK, R378). -/
  | masks (d : Nat)
  /-- The LC phase of RESTORE_DEVICE (R601). -/
  | restoreLc
  /-- The restore of session `d`'s pages (R600). -/
  | restored (d : Nat)
  /-- The close of connection `c` (R505). -/
  | connClosed (c : Nat)
  /-- The bundle object `o` in HBM (R246). -/
  | bundleHbm (o : Nat)
  /-- An answer from a peer device over connection `c` (Tideway). -/
  | peer (c req : Nat)
  deriving DecidableEq, Repr

/-- Whether an operation is finished, with its results written (R72) and its receipt decided, or waits. -/
inductive OpState where
  | ready (r : Rcpt)
  | waiting (w : Wait)
  deriving DecidableEq, Repr

/-- One admitted operation, under its 16-bit tag (R56). -/
structure Op where
  origin : Origin
  cmdId : Nat
  /-- Runs as BE. -/
  be : Bool := false
  /-- Admission postmark (R74). -/
  admPm : Nat := 0
  /-- The account concerned, if one is. -/
  account : Option Nat := none
  /-- The session concerned, if one is; INFLIGHT counts these. -/
  session : Option Nat := none
  /-- Another object concerned (an index, a bundle), if one is. -/
  object : Option Nat := none
  /-- Configuration versions captured at admission: (kind × 65536 + number, version) (R89). -/
  captured : List (Nat × Nat) := []
  state : OpState
  deriving DecidableEq, Repr

/-! ### Accounts, configurations and keys -/

/-- An account: its partition, its quotas with their version counts, its soundings and counters, and what it has posted
(R53, R85, R208 to R216, R251). Tier codes index the quotas: 0 HBM, 1 pool, 2 harbour, 3 media, 5 write budget. -/
structure Account where
  partition : Nat
  quota : AMap Nat := []
  quotaVer : AMap Nat := []
  /-- Bytes counted against the media write budget this budget day (R209). -/
  writtenToday : Nat := 0
  budgetSpent : Bool := false
  /-- Tiers for which QUOTA_HIGH stands posted (R212). -/
  quotaHigh : List Nat := []
  waitHist : AMap Nat := []
  ratioHist : AMap Nat := []
  floodsStarted : Nat := 0
  floodsOvertaken : Nat := 0
  floodsUnused : Nat := 0
  stepsDegraded : Nat := 0
  stepsAbsent : Nat := 0
  ebbsRetained : Nat := 0
  policyClamped : Nat := 0
  /-- Runs of page-list pool frames held (R120). -/
  poolRuns : List Nat := []
  deriving DecidableEq, Repr

/-- A partition's ceiling for a tier and its version count (R85, R88); no ceiling while `bytes` is none. -/
structure Ceiling where
  bytes : Option Nat
  ver : Nat
  deriving DecidableEq, Repr

/-- One published version of a configuration object (R88 to R91). -/
structure CfgVer where
  account : Nat
  body : List Byte
  retired : Bool := false
  /-- The run of HBM frames that holds it, franked to its account (R341); none for a device-wide version. -/
  run : Option Nat := none
  deriving DecidableEq, Repr

/-- A configuration number: its current version and every version whose storage is not freed. -/
structure CfgNum where
  current : Nat
  vers : AMap CfgVer
  deriving DecidableEq, Repr

/-- A configuration reference: number and version (Admin commands). -/
structure Ref where
  num : Nat
  ver : Nat
  deriving DecidableEq, Repr

/-- An address-space key (REGISTER_AS). PASID 0xFFFFFFFF makes it a window key. -/
structure AsKey where
  fn : Nat
  pasid : Nat
  account : Nat
  perms : Nat
  deriving DecidableEq, Repr

/-! ### Sessions and pages -/

/-- The session states of Table 3.6. -/
inductive SState where
  | new | active | idle | ebbing | parked | flooding | migrating | closing | failed
  deriving DecidableEq, Repr

/-- A page reference (Table 4.7). -/
structure PRef where
  tier : Nat
  format : Nat
  gen : Nat
  loc : Nat
  deriving DecidableEq, Repr

/-- One section of one token slot: key (or latent) elements and scales, value elements and scales, as their codes
(R158 to R161). -/
structure SecRow where
  kEl : List Nat
  vEl : List Nat := []
  kSc : List Nat := []
  vSc : List Nat := []
  deriving DecidableEq, Repr

/-- What a token slot of a page holds: one section per KV head, or the one latent section. -/
abbrev SlotRow := List SecRow

/-- A page record and its page in HBM (Table 4.6), listed while the record is in use. -/
structure PageRec where
  chainId : Nat := 0
  identValid : Bool := false
  refCount : Nat := 1
  posBase : Nat
  account : Nat
  layer : Nat
  format : Nat
  gen : Nat
  filled : Nat := 0
  prov : Nat := 0
  frames : Nat
  stack : Nat
  frameBase : Nat
  indexed : Bool := false
  tail : Bool := true
  narrowed : Bool := false
  /-- The slots written; a slot not listed is undefined and never read (R162). -/
  rows : AMap SlotRow := []
  deriving DecidableEq, Repr

/-- A copy of a page below HBM: pool, harbour or media (R163, R195, R231). -/
structure Copy where
  account : Nat
  layer : Nat
  page : Nat
  size : Nat
  format : Nat
  gen : Nat
  filled : Nat
  narrowed : Bool := false
  mirrored : Bool := false
  chainId : Option Nat := none
  /-- A retained copy, with the postmark since which it is (R231); none for a copy in use. -/
  retained : Option Nat := none
  rows : AMap SlotRow := []
  deriving DecidableEq, Repr

/-- A scout page: its byte offset in the scout area in 256 B units, and its contents (R190). -/
structure ScoutPage where
  offset : Nat
  format : Nat
  gen : Nat
  filled : Nat
  rows : AMap SlotRow
  deriving DecidableEq, Repr

/-- A scout copy: the run of frames of its area, the area's record locator, and its pages by page key (R189 to R192). -/
structure Scout where
  run : Nat
  loc : Nat
  listAddr : Nat
  pages : AMap ScoutPage
  deriving DecidableEq, Repr

/-- A run of frames taken, keyed by stack × 2^20 + first frame: its length and the account it is franked to, if any. -/
structure Run where
  count : Nat
  account : Option Nat
  deriving DecidableEq, Repr

/-- A running ebb (R229, R230): its tier, the page keys not yet copied, and the tier-0 references of the pages already
switched, for a cancel (R132). -/
structure EbbJob where
  tier : Nat
  todo : List Nat
  switched : AMap PRef
  /-- Bytes charged to the tier for pages not yet copied (R208). -/
  reserve : Nat
  lapsed : Bool := false
  /-- The locators of the copies on their way, by page key. -/
  placed : AMap Nat := []
  deriving DecidableEq, Repr

/-- A running flood (R234 to R236): its start, who started it, the page keys still below HBM in copy order, the frames charged
and not yet taken, and whether a step was admitted meanwhile (Table 3.9). -/
structure FloodJob where
  start : Nat
  predictor : Bool
  todo : List Nat
  reserve : Nat
  stepSeen : Bool := false
  /-- Pages of tiers 1 and 2 whose bytes have come. -/
  arrived : List Nat := []
  deriving DecidableEq, Repr

/-- A class change's copies still to move, by page key, the tier they move to, and the bytes charged for them (R747). -/
structure MoveJob where
  todo : List Nat
  tier : Nat
  reserve : Nat
  /-- The background phase of a restore: its bytes count as upkeep (R601). -/
  upkeep : Bool := false
  /-- The locators of the copies on their way, by page key. -/
  placed : AMap Nat := []
  deriving DecidableEq, Repr
/-! ### Masks (R372 to R380) -/

/-- A place where a mask is needed: automaton state, escape flags and history, oldest token first. -/
structure Node where
  state : Nat
  escActive : Bool
  escPos : Nat
  hist : List Nat
  deriving DecidableEq, Repr

/-- A mask in the mask store: its outcome code and its bytes (R372, R377). -/
structure ReadyMask where
  outcome : Nat
  bytes : List Byte
  deriving DecidableEq, Repr

/-- A round's mask set (R376): the captured versions (none: unresolved), what its header says, the root, the postmark of the
notice, and the masks that are ready: candidates 0 to 15, the root 16. -/
structure MaskSet where
  round : Nat
  tokens : Nat
  vocab : Option Ref
  cset : Option Ref
  restarted : Bool := false
  ranBe : Bool := false
  root : Node
  notice : Option Nat := none
  readyPm : Option Nat := none
  ready : AMap ReadyMask := []
  /-- The masks that reads have asked for, and those read (R380). -/
  asked : List Nat := []
  got : List Nat := []
  deriving DecidableEq, Repr


/-- A session's round record (Table 7.6). -/
structure Round where
  num : Nat := 0
  fixed : Bool := false
  closing : Bool := false
  cands : Nat := 0
  parents : List Nat := []
  ids : List Nat := []
  /-- The streams that hold this round's provisional rows: ROWS_HELD. -/
  rowsHeld : List Nat := []
  deriving DecidableEq, Repr

/-- A session's descriptor (Tables 3.1 to 3.5), its page list, its recorded tokens and chain identities, and the work running
on it. Counts that are defined over other state (PROV_SLOTS, INFLIGHT, FRAMES_OWN, PAGES_*, SCOUT_PAGES, DESC_CRC) are computed
when the descriptor is read. -/
structure Session where
  handle : Nat
  partition : Nat
  state : SState := .new
  prior : SState := .new
  failCause : Nat := 0
  wbSeq : Nat := 0
  chartEpoch : Nat := 0
  pageList : Nat := 0
  tailGen : Nat := 0
  layersM1 : Nat := 0
  tokens : Nat := 0
  classRef : Ref
  constraintRef : Ref
  vocabRef : Ref
  profileRef : Ref
  /-- FLAGS (Table 3.5); SCOUT is set while `scout` holds a copy. -/
  restored : Bool := false
  narrowed : Bool := false
  forwarding : Bool := false
  stub : Bool := false
  incoming : Bool := false
  fence : Bool := false
  ckptDirty : Bool := false
  mirrored : Bool := false
  waitHint : Bool := false
  floodLc : Bool := false
  commitSeq : Nat := 0
  ckptSteps : Nat := 0
  ckptEpoch : Nat := 0
  ebbAtPm : Nat := 0
  resumePm : Nat := 0
  expectedMs : Nat := 0
  waitStartPm : Nat := 0
  /-- A wait runs since WAIT_START_PM and no step or page write has ended it (R214, R219). -/
  waiting : Bool := false
  lastStepPm : Nat := 0
  createdPm : Nat := 0
  migrateEpoch : Nat := 0
  handoverPm : Nat := 0
  migrateTarget : Nat := 0
  automaton : Nat := 0
  escActive : Bool := false
  escPos : Nat := 0
  carry : List Byte := []
  /-- The page list: references by page key, layer × 8192 + page index (R168, R169). -/
  refs : AMap PRef := []
  /-- Token IDs recorded at each page index (R176). -/
  toks : AMap (List Nat) := []
  /-- Chain identities known, by page index (R179), and the parent identity of page 0. -/
  chain : AMap Nat := []
  rootSalt : Option Nat := none
  scout : Option Scout := none
  ebb : Option EbbJob := none
  flood : Option FloodJob := none
  move : Option MoveJob := none
  /-- An ebb waits for PROV_SLOTS and INFLIGHT to reach 0 (R131). -/
  ebbDeferred : Bool := false
  ebbBlocked : Bool := false
  floodBlocked : Bool := false
  /-- Policy TARGET_TIER (R225). -/
  policyTier : Option Nat := none
  /-- A predictor flood ran since the previous prediction (R219). -/
  predFlood : Bool := false
  round : Round := {}
  /-- A copy of the tail pages stands below HBM: a checkpoint's or a migration's (R171). -/
  tailCopied : Bool := false
  /-- The text record: rule list, text cursor, STATE_EPOCH of the automaton state (R360, R366, R371). -/
  rules : List Byte := []
  textCursor : Nat := 0
  stateEpoch : Nat := 0
  /-- The current round's mask set (R376). -/
  masks : Option MaskSet := none
  /-- The last admission of any operation of the session (R130). -/
  lastOpPm : Nat := 0
  deriving DecidableEq, Repr

/-- A cached descriptor (R122 to R124). -/
structure DcEntry where
  dirty : Bool
  dirtySince : Nat
  lastAccess : Nat
  /-- The descriptor as HBM holds it while the entry is dirty (R124, R600). -/
  image : Option Session := none
  deriving DecidableEq, Repr

/-- A key of the identity index (R180). -/
structure IdentKey where
  account : Nat
  chainId : Nat
  layer : Nat
  format : Nat
  deriving DecidableEq, Repr

/-- An adapter bundle (R243 to R247). -/
structure Bundle where
  account : Nat
  classRef : Ref
  body : List Byte
  tier : Nat
  /-- The run of frames it holds in HBM. -/
  run : Option Nat
  mirrored : Bool := false
  /-- Postmark of the last moment a session of its account was live (R244). -/
  lastLive : Nat := 0
  /-- A flood of it waits for room in HBM, and the class of that flood. -/
  flooding : Bool := false
  floodLc : Bool := false
  /-- Reads that wait for it to be in HBM, by tag: byte offset and bytes (R246). -/
  reads : AMap (Nat × Nat) := []
  deriving DecidableEq, Repr

/-- A policy entry as harbourmaster software writes it (Table 5.9a). -/
abbrev PolicyRing := AMap PolicyEntry

/-- The harbourmaster cores and their memory (R220 to R224). -/
structure Harbourmaster where
  assigned : Nat := 0
  running : Nat := 0
  /-- Cores stopped by an error, unassigned until device reset (R222). -/
  failed : Nat := 0
  memRuns : List Nat := []
  memFrames : Nat := 0
  /-- Memory bytes that are not zero. -/
  mem : List Host.Cell := []
  entry : AMap Nat := []
  digest : Option (List Byte) := none
  policy : PolicyRing := []
  policyProd : Nat := 0
  policyCons : Nat := 0
  deriving DecidableEq, Repr

/-! ### Steps, page tasks and attention blocks -/

/-- Where results go: host memory of a function, WRITE messages over a Tideway connection under a key in answer to request `msg`,
or RESP_DATA for a request of a connection. -/
inductive ResultVia where
  | host (fn : Nat)
  | tideway (conn msg key : Nat)
  | resp (conn msg : Nat)
  deriving DecidableEq, Repr

/-- Where a step reads a page: its record in HBM, the session's scout page, or nowhere. -/
inductive PageSrc where
  | hbm (loc : Nat)
  | scout
  | missing
  deriving DecidableEq, Repr

/-- How far a STEP has come: held for the previous round's commit (R299), held by a tail fence (R322), waiting for a flood
(Table 5.9), waiting for its stream's tail page (R134), its page tasks running, or a result formed. -/
inductive StepPhase where
  | heldRound | heldFence | waitFlood | waitTail | running | finished
  deriving DecidableEq, Repr

/-- A STEP under its tag (Table 7.1, R326). -/
structure StepRec where
  entry : StepEntry
  d : Nat
  via : ResultVia
  partition : Nat
  be : Bool
  phase : StepPhase
  roundHeld : Bool := false
  fenceWait : Bool := false
  ranBe : Bool := false
  degraded : Bool := false
  rowsKept : Bool := false
  admPm : Nat := 0
  /-- TOKENS and the source of every page of the stream, captured at admission. -/
  tokens : Nat := 0
  srcs : List PageSrc := []
  /-- The step's own rows, converted (R258), candidate 0 first. -/
  rows : List SlotRow := []
  vocab : Ref := { num := 0, ver := 0 }
  /-- Page tasks not yet done. -/
  tasksLeft : Nat := 0
  deriving DecidableEq, Repr

/-- A COMMIT under its tag (Table 7.7). -/
structure CommitRec where
  d : Nat
  round : Nat
  mask : Nat
  held : Bool := false
  be : Bool := false
  /-- The vocabulary and constraint set versions captured for the round the commit opens; none where one did not resolve. -/
  vocab : Option Ref := none
  cset : Option Ref := none
  deriving DecidableEq, Repr

/-- A page task (R24): its step's tag, page, KV head and row group, its estimate in units of 1/16 fs (R281, R329), and what
orders and schedules it. -/
structure Task where
  tag : Nat
  page : Nat
  head : Nat
  group : Nat
  est : Nat
  be : Bool
  partition : Nat
  pm : Nat
  profile : Ref
  format : Nat
  deriving DecidableEq, Repr

/-- An attention block (R41 to R44, R334, and its cells of R23). -/
structure Block where
  queued : List Task := []
  /-- Tasks for this block in the region's dispatcher (R44). -/
  waiting : List Task := []
  running : Option Task := none
  deficit : AMap Nat := []
  turn : Nat := 0
  granted : Bool := false
  /-- Profile contexts, most recently used first (R334). -/
  contexts : List Ref := []
  /-- The profile and format of the previous task (R335). -/
  last : Option (Ref × Nat) := none
  /-- The physical cell of each logical position that is not the one of the same number (R23). -/
  cellMap : AMap Nat := []
  retired : List Nat := []
  out : Bool := false
  /-- Postmark of the last start or end of a task, and whether the running task is traced (R649, R691). -/
  sincePm : Nat := 0
  traced : Bool := false
  deriving DecidableEq, Repr

/-- One admitted LC load (R329). -/
structure LcLoad where
  pm : Nat
  region : Nat
  partition : Nat
  est : Nat
  deriving DecidableEq, Repr

/-- A commit notice: the session, its new TOKENS, its new round, the accepted token IDs, and the commit's class (R317, R381). -/
structure Notice where
  d : Nat
  tokens : Nat
  round : Nat
  ids : List Nat
  be : Bool := false
  deriving DecidableEq, Repr
/-! ### The text engine -/

/-- A tokenize or detokenize stream of a function (R356, R357): its vocabulary version, the stream bytes taken, the code points of
the last piece (normalised), and the raw bytes held. -/
structure Stream where
  account : Nat
  detok : Bool
  flags : Nat
  vocab : Ref
  count : Nat := 0
  norm : List Nat := []
  raw : List Byte := []
  deriving DecidableEq, Repr

/-- A READ_MASK that waits, under its tag (R378). -/
structure MaskRead where
  d : Nat
  round : Nat
  which : Nat
  len : Nat
  addr : Nat
  via : ResultVia
  deriving DecidableEq, Repr

/-- A READ_TEXT, and the end of its wait, under its tag (R360). -/
structure TextRead where
  d : Nat
  flags : Nat
  len : Nat
  addr : Nat
  via : ResultVia
  vocab : Ref
  until_ : Nat := 0
  deriving DecidableEq, Repr

/-- SET_RULES or RESET_CONSTRAINT (Table 8.7). -/
inductive TextEdit where
  | rules (list : List Byte)
  | reset (state : Nat)
  deriving DecidableEq, Repr

/-- An edit that waits for the closing of its session's round (R385), under its tag. -/
structure TextDefer where
  d : Nat
  edit : TextEdit
  deriving DecidableEq, Repr

/-- The mask bytes of an LC round (R381). -/
structure TxLoad where
  pm : Nat
  partition : Nat
  bytes : Nat
  deriving DecidableEq, Repr

/-! ### Vector search (R386 to R428) -/

/-- One slot of a shard that has been used: node record, edge versions, vector or code, full vector, attribute record (R391 to
R393). -/
structure SNode where
  gid : Nat
  rnorm : Nat := 0
  insSeq : Nat := 0
  delSeq : Nat := 0xFFFFFFFF
  seqA : Nat := 0xFFFFFFFF
  seqB : Nat := 0xFFFFFFFF
  gen : Nat := 0
  inUse : Bool := true
  /-- Filled edge entries: target slot and its GEN. -/
  edgesA : List (Nat × Nat) := []
  edgesB : List (Nat × Nat) := []
  vec : List Byte
  full : List Byte := []
  attr : List Byte
  deriving DecidableEq, Repr

/-- A sweep of a shard (R419 to R421): the next slot, the slots tombstoned before it began and not yet released, whether the slots
are done, and whether a COMPACT_INDEX waits for it. -/
structure Sweep where
  next : Nat := 0
  tombs : List Nat
  walked : Bool := false
  compact : Bool := false
  deriving DecidableEq, Repr

/-- A local shard. -/
structure Shard where
  region : Nat
  changeSeq : Nat := 1
  verified : Bool := true
  nodes : AMap SNode := []
  sweep : Option Sweep := none
  /-- Frame runs of its graph and attribute areas, and those of its posting area. -/
  areas : List Nat := []
  postRuns : List Nat := []
  deriving DecidableEq, Repr

/-- A search index: its account, class, the tier of its vectors with the bytes charged there, parameter block, codebook, local
shards, and its shard map (R386 to R390, R426). -/
structure Index where
  account : Nat
  classRef : Ref
  vecTier : Nat := 0
  vecBytes : Nat := 0
  mirrored : Bool := false
  vecRuns : List Nat := []
  params : List Byte
  codebook : List Byte := []
  shards : AMap Shard := []
  map : AMap Nat := []
  mapVer : Nat := 0
  deleting : Bool := false
  deriving DecidableEq, Repr

/-- A change to a shard that the runtime named and that has not been applied (R395, R397, R415). -/
inductive ShardChange where
  | insert (gid : Nat) (attr vec full : List Byte)
  | delete (slot gen : Nat)
  deriving DecidableEq, Repr

/-- A waiting change, with its tag, index and shard. -/
structure ChangeRec where
  tag : Nat
  index : Nat
  shard : Nat
  change : ShardChange
  deriving DecidableEq, Repr

/-- A result entry (Table 9.11), DISTANCE as its FP32 code. -/
structure Hit where
  dist : Nat
  gid : Nat
  slot : Nat
  gen : Nat
  shard : Nat
  deriving DecidableEq, Repr

/-- What one device or shard answers: its entries, MODES, STOP, VISITS_USED and the CHANGE_SEQ of each shard (R428). -/
structure SearchAnswer where
  hits : List Hit := []
  modes : Nat := 0
  stop : Nat := 0
  visits : Nat := 0
  seqs : AMap Nat := []
  deriving DecidableEq, Repr

/-- A SEARCH under its tag. -/
structure SearchRec where
  index : Nat
  k : Nat
  via : ResultVia
  resultAddr : Nat
  set3 : Bool
  /-- Estimates of its LC shard work: region and estimate (R433). -/
  loads : List (Nat × Nat) := []
  ranBe : Bool := false
  searched : List Nat
  missing : List Nat := []
  answer : SearchAnswer
  /-- Devices asked that have not answered, with the shards asked of each. -/
  asked : AMap (List Nat) := []
  until_ : Nat := 0
  finished : Bool := false
  deriving DecidableEq, Repr

/-! ### The shared window (R435 to R473) -/

/-- What a requester asks of a line: a read holding I (0), S (1) or A (2), or a write of the bytes its mask enables. -/
inductive LineAsk where
  | read (hold : Nat)
  | write (bytes : List Byte) (mask : Nat)
  /-- The recall of a release, from the host named (R460). -/
  | recall (host : Nat)
  /-- The eviction of the line (R455). -/
  | evict
  deriving DecidableEq, Repr

/-- Who gets the answer: a CXL host, a harbourmaster core's load or store, a Tideway transfer, or no one. -/
inductive LineFor where
  | host
  | core (store : Bool)
  | xfer (id : Nat)
  | slice
  deriving DecidableEq, Repr

/-- A request at a slice, in order of arrival (R452): its line (DPA ÷ 64), the host number it acts as, whether snoops have been
sent for it, whether a BISnpCur has been answered, and the line whose eviction it waits for. -/
structure LineReq where
  line : Nat
  host : Nat
  ask : LineAsk
  for_ : LineFor
  started : Bool := false
  curDone : Bool := false
  evicting : Option Nat := none
  deriving DecidableEq, Repr

/-- A snoop: BISnpInv (0), BISnpData (1) or BISnpCur (2), and the postmark of its issue; none while it waits for one of the host's
1,024 (R457). -/
structure Snoop where
  line : Nat
  host : Nat
  kind : Nat
  issued : Option Nat
  deriving DecidableEq, Repr

/-- A directory entry (Table 10.4): its holders, whether the one holder owns the line, and the order in which it was last
granted. -/
structure DirEntry where
  holders : List Nat
  owned : Bool
  granted : Nat
  deriving DecidableEq, Repr

/-- An extent that is not FREE (R444): the hosts granted it, those fenced from it, whether it is being scrubbed, and its frame runs. -/
structure Extent where
  hosts : List Nat := []
  fenced : List Nat := []
  scrubbing : Bool := false
  runs : List Nat := []
  deriving DecidableEq, Repr

/-- A grant that waits for frames (none yet) or for the host's response, and the postmark since which (R446, R447). -/
structure GrantWait where
  region : Nat
  extent : Nat
  host : Nat
  framesHeld : Bool
  since : Nat
  deriving DecidableEq, Repr

/-- A release that runs (R459 to R461): what it has counted, whether the host asked for it itself (R450). -/
structure ReleaseRun where
  region : Nat
  extent : Nat
  host : Nat
  byHost : Bool
  tags : List Nat
  recalled : Nat := 0
  poisoned : Nat := 0
  deriving DecidableEq, Repr

/-- A loss record (Table 10.7). -/
structure LossRec where
  pm : Nat
  seq : Nat
  line : Nat
  cause : Nat
  host : Nat
  deriving DecidableEq, Repr

/-- A dynamic-capacity event record of a CXL host: Add Capacity, or Release Capacity marked forced (R446, R460). -/
structure CapEvent where
  add : Bool
  forced : Bool
  region : Nat
  extent : Nat
  deriving DecidableEq, Repr

/-- A host port: the CXL version it trained at (0 no link, 1 CXL 1.1, 2 CXL 2.0, 3 CXL 3.1), whether a switch is attached, and whether
PERST_N_p holds it in reset. -/
structure HostPort where
  version : Nat := 0
  switched : Bool := false
  inReset : Bool := false
  deriving DecidableEq, Repr

/-- A Tideway access to the window, line by line: the packet or message it serves and what it has gathered (R453, R491). -/
structure Xfer where
  conn : Nat
  msg : Nat
  write : Bool
  psn : Nat
  dpa : Nat
  len : Nat
  left : Nat
  poisoned : Bool := false
  fenced : Bool := false
  data : AMap (List Byte) := []
  deriving DecidableEq, Repr

/-- The window: its region registers, extents, directory, memory and poison marks, requests and snoops, releases, loss log, and the
hosts' links, bindings and event logs. -/
structure Window where
  regions : AMap Word64 := []
  extents : AMap Extent := []
  dir : AMap DirEntry := []
  dirRuns : List Nat := []
  /-- Bytes of granted extents that are not zero, by DPA. -/
  mem : List Host.Cell := []
  /-- Lines in POISONED, by DPA ÷ 64, rising. -/
  poison : AMap Unit := []
  reqs : List LineReq := []
  snoops : List Snoop := []
  grants : AMap GrantWait := []
  releases : List ReleaseRun := []
  loss : List LossRec := []
  lossSeq : Nat := 0
  lost : Nat := 0
  lossFull : Bool := false
  /-- Writes dropped, by extent key × 32 + host (R459). -/
  dropped : AMap Nat := []
  /-- Slices that have posted DIR_EVICTING (R473). -/
  evicting : List Nat := []
  grantSeq : Nat := 0
  crashed : List Nat := []
  ports : AMap HostPort := []
  /-- Host numbers bound by the FM API: port × 16 + LD. -/
  lds : List Nat := []
  /-- Hosts whose HDM decoder is committed, with the extents granted at that moment (R440). -/
  decoders : AMap (List Nat) := []
  /-- Each host's dynamic-capacity event log, oldest first. -/
  capLogs : AMap (List CapEvent) := []
  xfers : AMap Xfer := []
  deriving DecidableEq, Repr

/-! ### Tideway and the ports (R474 to R529) -/

/-- A Tideway message: the base header and extension fields of Tables 11.6 and 11.7, and its bytes. -/
structure TwMsg where
  op : Nat
  msgId : Nat := 0
  be : Bool := false
  fwd : Bool := false
  epoch : Nat := 0
  addr : Nat := 0
  key : Nat := 0
  replyKey : Nat := 0
  handle : Nat := 0
  descIndex : Nat := 0
  aux : Nat := 0
  payload : List Byte := []
  /-- What the payload of a MIGRATE spells; the layout of an entry's text record is not given, so its bytes are free. -/
  mig : Option MigMsg := none
  deriving DecidableEq, Repr

/-- A packet to send or sent: its message, its place in it, and what loss recovery keeps of it (R484, R498 to R503). -/
structure OutPkt where
  msg : TwMsg
  psn : Nat
  off : Nat
  bytes : List Byte
  acked : Bool := false
  retx : Bool := false
  sentPm : Nat := 0
  /-- The postmark of its last resending on three acknowledged PSNs above it (R501). -/
  fastPm : Option Nat := none
  deriving DecidableEq, Repr

/-- A message being received: its fields, the length it will have, its packets by offset, the lowest PSN it holds, and its class. -/
structure Part where
  msg : TwMsg
  len : Nat
  got : AMap (List Byte) := []
  firstPsn : Nat
  /-- The data the ZX4 reads from the host for a READ, or the operand area of a migration. -/
  data : Option HostRead := none
  mig : Option MigMsg := none
  deriving DecidableEq, Repr

/-- A COMPLETION that waits for the peer's WRITE_DONE to reach a WRITE, or for a PSN to be acknowledged (R511). -/
structure DueCompletion where
  req : Nat
  rcpt : Rcpt
  be : Bool
  needWrite : Option Nat := none
  needPsn : Option Nat := none
  deriving DecidableEq, Repr

/-- What a request that this device sent stands for. -/
inductive ReqFor where
  /-- The remote part of the SEARCH under a tag: its shards (R427). -/
  | search (tag : Nat) (shards : List Nat)
  /-- The page of session `d` being put to a pool device (R513). -/
  | poolPut (d key : Nat)
  | poolGet (d key : Nat)
  | poolFree
  /-- A step of the migration of `d`: 0 OFFER, 1 PAGES, 2 PREPARE, 3 COMMIT, 4 ABORT. -/
  | migrate (d : Nat) (phase : Nat)
  /-- A forwarded request (R525): where it came from. -/
  | relay (from_ : Origin) (d : Nat)
  deriving DecidableEq, Repr

/-- A request sent and not yet completed, with the response bytes that have arrived. -/
structure SentReq where
  for_ : ReqFor
  replyKey : Nat := 0
  data : List Byte := []
  deriving DecidableEq, Repr

/-- A packet of a WRITE, or a READ, that waits for translations or for the window's lines. -/
structure Placing where
  msg : TwMsg
  psn : Nat
  off : Nat
  len : Nat
  last : Bool
  bytes : List Byte
  data : Option HostRead := none
  /-- Since when a page request waits, and for which page (R489). -/
  pri : Option (Nat × Nat) := none
  xfer : Option Nat := none
  deriving DecidableEq, Repr

/-- A connection context (Table 11.13) and what its end keeps beside it. -/
structure Conn where
  rcvMap : Nat := 0
  peerIp : Nat
  peerDevice : Nat := 0
  peerMac : Nat := 0
  peerUdp : Nat := 0
  peerConn : Nat := 0xFFFFFFFF
  sndNxt : Nat := 0
  sndUna : Nat := 0
  cumPsn : Nat := 0
  nextMsg : Nat := 1
  writeDoneIn : Nat := 0
  writeDoneOut : Nat := 0
  rate : Nat := 0
  alpha : Nat := 0
  ceCount : Nat := 0
  rcvCount : Nat := 0
  peerCe : Nat := 0
  peerRcv : Nat := 0
  srtt : Nat := 0
  rttvar : Nat := 0
  rto : Nat := 0
  retries : Nat := 0
  fn : Nat := 0
  port : Nat := 0
  mtu8k : Bool := false
  resident : Bool := false
  spray : Nat := 0
  failed : Bool := false
  dscp : Nat := 0
  /-- The path of the next packet (R482). -/
  path : Nat := 0
  sampled : Bool := false
  lastDec : Nat := 0
  lastUna : Nat := 0
  aiSince : Nat := 0
  /-- An ACK has reported marks in the interval of R516 that runs. -/
  aiMarked : Bool := false
  keyRejected : Bool := false
  /-- Packets since the last ACK, and the postmark of the oldest of them. -/
  unAcked : Nat := 0
  unAckedPm : Nat := 0
  sendq : List OutPkt := []
  flight : List OutPkt := []
  parts : AMap Part := []
  /-- Messages complete and not admitted, in order of arrival (R507, R508). -/
  waiting : List Part := []
  placing : List Placing := []
  /-- Requests seen above WRITE_DONE_IN: whether each keeps it from rising (R509). -/
  seen : AMap Bool := []
  /-- Bytes still to place of each WRITE (R507), and the PSN of the COMPLETION of each WRITE refused (R509). -/
  writeLeft : AMap Nat := []
  refused : AMap Nat := []
  due : List DueCompletion := []
  /-- The last WRITE and the last RESP_DATA packet sent for each request being answered (R511). -/
  lastWrite : AMap Nat := []
  /-- The request that each result WRITE answers. -/
  results : AMap Nat := []
  lastResp : AMap Nat := []
  reqs : AMap SentReq := []
  deriving DecidableEq, Repr

/-- An entry of a connection cache: last use, and whether its context is being fetched (R495, R496). -/
structure CacheEntry where
  used : Nat
  fetching : Bool
  /-- The context as the table holds it. -/
  image : List Byte := []
  deriving DecidableEq, Repr

/-- A packet in a miss buffer (R497): the opcode it carries, the packet, and host data that came with it. -/
structure Missed where
  op : Nat
  pkt : TwPkt
  data : Option HostRead
  mig : Option MigMsg := none
  ack : Option TwAck := none
  deriving DecidableEq, Repr

/-- A device of the installed chart (R518). -/
structure ChartDev where
  num : Nat
  role : Nat
  lost : Bool
  deriving DecidableEq, Repr

/-- A pool page held for another device (R513). -/
structure PoolPage where
  owner : Nat
  body : List Byte
  run : Nat
  deriving DecidableEq, Repr

/-- An Ethernet port: PORT_IP_n, PORT_CFG_n, the fields of PORT_STATUS_n and the counters of Table 11.23 by number. -/
structure EPort where
  ip : BitVec 128 := 0#128
  cfg : Word64 := 0#64
  up : Bool := false
  fecDegraded : Bool := false
  lanesUp : Nat := 0
  changes : Nat := 0
  counters : AMap Nat := []
  deriving DecidableEq, Repr

/-- The Tideway engines: TW_CTRL, the connection bases, connections, caches, miss buffers, translations, the chart and the pool
store. -/
structure Tideway where
  enable : Bool := false
  udpPort : Nat := 0
  hopLimit : Nat := 64
  connBase0 : Word64 := 0#64
  connBase1 : Word64 := 0#64
  ports : AMap EPort := []
  conns : AMap Conn := []
  cache : AMap CacheEntry := []
  missed : List Missed := []
  /-- Port regions that have posted MISS_BUFFER_FULL, and packets dropped (R528). -/
  missFull : List Nat := []
  missDrops : AMap Nat := []
  /-- Translations held: (port region, function, PASID, 4 KiB page), newest first (R489). -/
  xlat : List (Nat × Nat × Nat × Nat) := []
  /-- The chart's devices by identity. -/
  devices : AMap ChartDev := []
  /-- Epochs for which CHART_AHEAD has been posted (R524). -/
  ahead : List Nat := []
  poolStore : AMap PoolPage := []
  /-- Pool devices found without room (R513). -/
  poolFull : List Nat := []
  deriving DecidableEq, Repr

/-! ### Flash media (R530 to R570) -/

/-- A FLASH_CH_n register: its RW fields, LUNS and CE_FOUND (Table 12.2). -/
structure FlashCh where
  enable : Bool := false
  iface : Nat := 0
  ceMask : Nat := 0
  rate : Nat := 0
  ceFound : Nat := 0
  luns : Nat := 0
  deriving DecidableEq, Repr

/-- One LUN position (channel × 32 + place): its chip enable and LUN, whether it is online, its retired erase units, operations timed out in
a row, and its counters. -/
structure Lun where
  ce : Nat
  lun : Nat
  online : Bool := true
  factory : List Nat := []
  grown : List Nat := []
  timeouts : Nat := 0
  retried : Nat := 0
  rebuilt : Nat := 0
  deriving DecidableEq, Repr

/-- A copy in a shingle, by its offset in 256 B units: the identity its header gives, its blocks of 256 B, and its page. -/
structure MediaCopy where
  handle : Nat
  device : Nat
  mirror : Bool := false
  tail : Bool := false
  blocks : Nat
  copy : Copy
  /-- A mirror copy's body as it came from the buddy (R580). -/
  body : List Byte := []
  deriving DecidableEq, Repr

/-- The states of a shingle that is not free: being written, closed, orphaned at an attach, or being erased. -/
inductive ShState where
  | opened | closed | orphaned | erasing
  deriving DecidableEq, Repr

/-- A shingle (R542 to R548): its channels and their erase units, who writes it (regions 0 to 5, mirror 6, relocation 7), its header's
write sequence and wall time, where the next copy goes and how far its rows are programmed, and what marks it. -/
structure Shingle where
  chans : List Nat
  /-- The erase unit of each channel: LUN position × 65536 + unit. -/
  units : List Nat
  writer : Nat
  st : ShState := .opened
  writeSeq : Nat
  wall : Nat
  /-- Postmark of its closing, or of the attach that found it (R537). -/
  basePm : Nat := 0
  /-- Next free offset, in 256 B units. -/
  ptr : Nat := 16
  rows : Nat := 0
  /-- The units of row `rows` already programmed. -/
  rowUnits : List Nat := []
  partSince : Nat := 0
  degraded : Bool := false
  rebuild : Option Nat := none
  refresh : Option Nat := none
  reads : AMap Nat := []
  corrected : AMap Nat := []
  scanned : Nat := 0
  copies : AMap MediaCopy := []
  /-- The units erased since its erasure began. -/
  erased : List Nat := []
  deriving DecidableEq, Repr

/-- A failure whose degraded shingles are relocated (R560): its channel, and how many it has relocated. -/
structure MediaFailure where
  channel : Nat
  left : List Nat
  moved : Nat := 0
  deriving DecidableEq, Repr

/-- The format record (R538). -/
structure FormatRecord where
  channels : AMap FlashCh
  profile : MediaProfile
  lifeDays : Nat
  device : Nat
  wall : Nat
  formatPm : Nat
  formatWall : Nat
  deriving DecidableEq, Repr

/-- The key of a mirror copy (R549). -/
structure MirrorKey where
  device : Nat
  handle : Nat
  layer : Nat
  page : Nat
  gen : Nat
  deriving DecidableEq, Repr

/-- The media: MEDIA_STATUS's state, the channels, the wall offset, what the flash itself keeps through a device reset (the format
record, LUNs, erase counts and shingles), the mirror index, and the counters of Table 12.12. -/
structure Media where
  /-- Table 12.4. -/
  state : Nat := 0
  channels : AMap FlashCh := []
  /-- Channels of the media that are online. -/
  online : List Nat := []
  wallOffset : Option Int := none
  format : Option FormatRecord := none
  luns : AMap Lun := []
  erases : AMap Nat := []
  shingles : AMap Shingle := []
  /-- Open shingles by writer (R546). -/
  writers : AMap Nat := []
  writeSeq : Nat := 0
  mirrors : List (MirrorKey × Nat) := []
  /-- Old copies kept live until their session's next committed epoch: session and locator (R553). -/
  keptOld : List (Nat × Nat) := []
  failures : List MediaFailure := []
  wearPosted : Nat := 0
  behindPosted : Bool := false
  hourPm : Nat := 0
  /-- Whether erase counts and the counters below are a format's. -/
  stored : Nat := 0
  mirrorBytes : Nat := 0
  programmed : Nat := 0
  moved : Nat := 0
  bytesRead : Nat := 0
  retried : Nat := 0
  rebuilt : Nat := 0
  fromBuddy : Nat := 0
  rowsLost : Nat := 0
  movedRefresh : Nat := 0
  movedSpace : Nat := 0
  /-- Bytes programmed, and stored bytes of copies, by postmark, of the last 7 days (R561). -/
  amp : List (Nat × Nat × Nat) := []
  deriving DecidableEq, Repr

/-! ### Pairs, checkpoints and roles (R571 to R613) -/

/-- An item of a hosted page store: a full copy or a delta, and the last epoch that named it (R587, R588, R590). -/
inductive StoreItem where
  | full (c : PageCopy) (lastEpoch : Nat)
  | delta (d : CkptDelta) (lastEpoch : Nat)
  deriving DecidableEq, Repr

/-- A slot of a hosted checkpoint area: its commit record and its entries by handle (R589, R593). -/
structure CkptSlot where
  record : Option CommitRecord := none
  entries : AMap CkptEntry := []
  deriving DecidableEq, Repr

/-- A harbour that this device holds for another (R576 to R578, R585 to R596). -/
structure Harbour where
  source : Nat
  /-- The frame runs of the reserve, its frames, and the most the park area may use. -/
  runs : List Nat := []
  frames : Nat := 0
  parkMax : Nat := 0
  park : AMap PageCopy := []
  store : AMap StoreItem := []
  slotA : CkptSlot := {}
  slotB : CkptSlot := {}
  accounts : List AccountImg := []
  configs : List ConfigImg := []
  /-- The epoch being received: its number, bytes so far, and the CRC-64 register over them. -/
  cur : Option (Nat × Nat × Nat) := none
  /-- A restore reads it. -/
  reading : Bool := false
  /-- Page numbers under which a holder serves park-area copies (none of a mirror) and mirror copies to a restoring device. -/
  served : AMap (Option Nat × Option MirrorKey) := []
  deriving DecidableEq, Repr


/-- What this device knows of its own page store: an item's bytes, the page it holds, and the last epoch that named it. -/
structure StoreRef where
  size : Nat
  full : Bool
  narrowed : Bool
  prev : Option Nat
  lastEpoch : Nat
  deriving DecidableEq, Repr

/-- A tail chain of a stream: its page, generation, newest delta and slots sent (R587). -/
structure Chain where
  page : Nat
  gen : Nat
  newest : Nat
  sent : Nat
  deriving DecidableEq, Repr

/-- The epoch that this device is writing: the sessions included, the entries as they become, its commit record, and what the page store
held before it, for a torn epoch. -/
structure EpochRun where
  num : Nat
  sessions : List Nat
  entries : AMap CkptEntry
  record : CommitRecord
  store : AMap StoreRef
  fulls : List ((Nat × Nat × Nat × Nat) × Nat)
  chains : AMap Chain
  deriving DecidableEq, Repr

/-- Why a read of the buddy or of a holder was sent. -/
inductive ReadFor where
  /-- A flood of page `key` of session `d` from the park area. -/
  | flood (d key : Nat)
  /-- A mirror copy for the media copy at a locator that was lost (R558). -/
  | mirror (loc : Nat)
  /-- The image for RESTORE_DEVICE. -/
  | device
  /-- The in-place restore of session `d`, with the failure it takes where nothing is found. -/
  | session (d cause : Nat)
  deriving DecidableEq, Repr

/-- A RESTORE_DEVICE: its tag, source and holder, the restore epoch, and whether its LC phase has ended. -/
structure RestoreRun where
  tag : Nat
  source : Nat
  holder : Nat
  epoch : Nat := 0
  background : Bool := false
  deriving DecidableEq, Repr

/-- A change of role that drains: its tag, the new role, its profile, and the postmark at which it gives up (R612). -/
structure RoleDrain where
  tag : Nat
  role : Nat
  profile : Ref
  until_ : Nat
  deriving DecidableEq, Repr

/-- A migration: the old owner's side, or the target's (R604 to R608). -/
structure Migration where
  /-- The connection it runs on, and the other device. -/
  conn : Nat
  peer : Nat
  /-- The tag of MIGRATE_SESSION; none on the target. -/
  tag : Option Nat
  /-- Old owner: 0 OFFER sent, 1 PAGES sent, 2 fence taken, 3 PREPARE sent, 4 PREPARE answered OK, 5 COMMIT sent, 6 COMMIT to send again.
  Target: 0 offered, 1 PREPARE answered OK. -/
  phase : Nat
  /-- Page keys sent. -/
  sent : List Nat := []
  /-- Target: pages being put to a pool device, by page key, and the tag of the PREPARE that waits for them. -/
  coming : AMap PageCopy := []
  prepare : Option Nat := none
  deriving DecidableEq, Repr

/-- One half of the Isthmus: its lanes running. -/
structure Half where
  lanes : Nat := 0
  /-- Flits sent under the pair key, and the postmark of its last change (R699). -/
  flits : Nat := 0
  keySince : Nat := 0
  keyGen : Nat := 0
  deriving DecidableEq, Repr

/-- The pair: PAIR_STATUS, HARBOUR_CFG, the bind, this device's own checkpoints, and the harbours it holds. -/
structure Pair where
  /-- The PAIR_ID strap. -/
  strap : Bool := false
  half0 : Half := {}
  half1 : Half := {}
  /-- 0 UNBOUND, 1 BINDING, 2 BOUND, 3 LOST. -/
  status : Nat := 0
  buddy : Nat := 0
  parkPct : Nat := 50
  reservePct : Nat := 0
  /-- PARK_PCT as PAIR_BIND read it. -/
  parkPctBound : Nat := 50
  bindTag : Option Nat := none
  bindSince : Nat := 0
  /-- The buddy could not reserve this device's frames (R576). -/
  noFrames : Bool := false
  /-- The buddy's own PAIR_BIND, as announced: its identity, RESERVE_PCT and PARK_PCT, and whom it names. -/
  announced : Option (Nat × Nat × Nat × Nat) := none
  lastFlit : Nat := 0
  /-- The buddy announced a chip restart: until when its heartbeats are awaited (R627). -/
  restartUntil : Option Nat := none
  /-- Frames of this device's own reserve in the buddy. -/
  reserve : Nat := 0
  timerMs : Nat := 200
  stepsTrigger : Nat := 32
  nextEpoch : Nat := 1
  lastEpoch : Nat := 0
  /-- Start of the previous epoch; none before the first after a bind. -/
  lastStart : Option Nat := none
  received : Bool := false
  run : Option EpochRun := none
  /-- The entries of the last committed image of this device's harbour, by handle. -/
  entries : AMap CkptEntry := []
  store : AMap StoreRef := []
  /-- Full copies by page (chain identity + 2^128, or handle; stream, page, GEN), and chains by session × 256 + stream. -/
  fulls : List ((Nat × Nat × Nat × Nat) × Nat) := []
  chains : AMap Chain := []
  /-- Harbours held: for the bound buddy, and frozen ones by source identity. -/
  hosted : Option Harbour := none
  frozen : AMap Harbour := []
  /-- Mirror copies released by their source that a committed slot still names (R581). -/
  releasePending : List MirrorKey := []
  /-- FAILED_ID and SUCCESSOR_ID. -/
  successions : List (Nat × Nat) := []
  reads : AMap ReadFor := []
  restore : Option RestoreRun := none
  drain : Option RoleDrain := none
  migrations : AMap Migration := []
  deriving DecidableEq, Repr

/-- What goes out over the Isthmus; its flits' layout is not given. -/
inductive IstMsg where
  | heartbeat (half : Nat)
  /-- This device enters BEACHED, a device reset (false), or a chip restart (true). -/
  | announce (restart : Bool)
  | bind (reservePct parkPct : Nat)
  | parkCopy (loc : Nat) (c : PageCopy)
  | mirrorCopy (c : PageCopy)
  | release (w : ReleaseWhat)
  | read (req : Nat) (ask : HarbourAsk)
  | data (req : Nat) (d : HarbourData)
  | item (epoch : Nat) (i : CkptItem)
  | record (r : CommitRecord)
  | committed (epoch : Nat)
  /-- A slot or the page store held for the buddy is lost, and a park-area copy held for it (Table 14.2). -/
  | slotLost
  | parkLost (loc : Nat)
  | keyUpdate (half : Nat)
  deriving DecidableEq, Repr

/-! ### Security, boot and pins (R672 to R709, R727 to R735) -/

/-- Consent in force for a partition: its scope (bit 0 PROFILE, bit 1 DEBUG) and the postmark at which DURATION_S ends (R688, R689). -/
structure Consent where
  scope : Nat
  until_ : Nat
  deriving DecidableEq, Repr

/-- A trace entry of a page task (R691). -/
structure TraceEntry where
  start : Nat
  handle : Nat
  dur : Nat
  layer : Nat
  region : Nat
  block : Nat
  page : Nat
  deriving DecidableEq, Repr

/-- What a requester has negotiated with the SPDM responder: 0 nothing, 1 version, 2 capabilities, 3 algorithms; and its sessions, with
whether FINISH has been taken (R684, R698). -/
structure SpdmPeer where
  phase : Nat := 0
  sessions : AMap Bool := []
  deriving DecidableEq, Repr

/-- Security state. -/
structure Security where
  /-- The device set: identities and the sealing keys listed (R693); empty until one is installed: this device alone. -/
  deviceSet : List (Nat × List Byte) := []
  /-- LIFECYCLE is DEBUG (R674). -/
  debug : Bool := false
  consents : AMap Consent := []
  /-- CONSENT_SEQ and the consent key of each partition (R688, R690). -/
  consentSeq : AMap Nat := []
  consentKeys : AMap (List Byte) := []
  /-- Consent changes since power-up (R686). -/
  consentChanges : Nat := 0
  /-- The task traces of each partition, oldest first, of at most 65,536 entries (R691). -/
  traces : AMap (List TraceEntry) := []
  /-- TDISP state of a VF where it is not CONFIG_UNLOCKED: 1 CONFIG_LOCKED, 2 RUN, 3 ERROR (Table 16.7). -/
  tdisp : AMap Nat := []
  /-- What each transport has negotiated: 0 I3C, 1 SMBus, 2 PCIe VDM, 16 + n the DOE mailbox of function n. -/
  spdm : AMap SpdmPeer := []
  /-- IDE streams whose keys are set: port × 256 + stream (R697). -/
  ide : List Nat := []
  /-- SCRUB_DONE still to post: account, with the shingles left and those erased (R706). -/
  scrubs : AMap (List Nat × Nat) := []
  deriving DecidableEq, Repr

/-- A copy of the boot record (R677): SEQ, ACTIVE_SLOT, TRIAL_SLOT (255 none) and TRIAL_TRIES. -/
structure BootRec where
  seq : Nat
  active : Nat
  trial : Nat
  tries : Nat
  deriving DecidableEq, Repr

/-- Boot: the stage, the straps, the NOR device, the SVN fuses and the running image (R676 to R683, R727 to R735). -/
structure Boot where
  /-- 0 no power, 1 POR_N low, 2 booting, 3 booted, 4 recovery. -/
  stage : Nat := 3
  /-- DEVICE_ID, this device's identity, fused (R673). -/
  deviceId : Nat := 0
  /-- BOOT_SEL and MGMT_ADDR as latched (Table 17.5). -/
  sel : Nat := 0
  mgmt : Nat := 0
  /-- The two copies of the boot record; none where a copy's CRC does not check. -/
  recA : Option BootRec := some { seq := 1, active := 0, trial := 255, tries := 0 }
  recB : Option BootRec := none
  /-- Bytes of image slots A and B that are not zero. -/
  slotA : List Host.Cell := []
  slotB : List Host.Cell := []
  svnFuse : Nat := 0
  /-- The slot that runs, whether it runs as the trial, its FW_VERSION (none: the part's own) and its SVN. -/
  running : Nat := 0
  trialRun : Bool := false
  version : Option Nat := none
  svn : Nat := 0
  /-- FW_VERSION of an image that a fallback has left behind, to report once READY. -/
  fellBack : Option Nat := none
  readyPm : Nat := 0
  /-- Regions whose regulator did not answer, so that they fail the self-test (R720). -/
  regFailed : List Nat := []
  deriving DecidableEq, Repr

/-! ### Faults and telemetry (R614 to R641) -/

/-- The unit of an error (Table 14.6): region, BLOCK_KIND, block index, and cell or core. -/
structure ErrUnit where
  region : Nat
  kind : Nat := 0
  index : Nat := 0
  cell : Option Nat := none
  deriving DecidableEq, Repr

/-- What an error is, as its containment needs it (Table 14.1). -/
inductive ErrWhat where
  | attnCell
  | cell
  | connCell
  | core
  | block
  | descEntry (d : Nat)
  | hbm (stack frame : Nat) (o : HbmObject)
  | region
  | chip
  deriving DecidableEq, Repr

/-- An error (R614, R617, Table 14.6): its level (0 cell, 1 block, 2 region, 3 chip), kind, unit, what the log names, its postmark, and, where
its containment ends of itself, when. -/
structure ErrRec where
  level : Nat
  kind : Nat
  unit : ErrUnit
  what : ErrWhat
  object : Nat := 0
  info : Nat := 0
  account : Nat := 0
  partition : Nat := 0
  pm : Nat
  until_ : Option Nat := none
  deriving DecidableEq, Repr

/-- An entry of the error log (Table 14.6). -/
structure LogEntry where
  seq : Nat
  boot : Nat
  err : ErrRec
  outcome : Nat
  deriving DecidableEq, Repr

/-- A cell that has had errors: their postmarks within 24 hours (R618). -/
structure CellHist where
  unit : ErrUnit
  pms : List Nat
  deriving DecidableEq, Repr

/-- What a region's handling has set aside until its return (R623, R624). -/
structure RegionRun where
  region : Nat
  kind : Nat
  /-- Descriptors whose cached entry was dirty. -/
  dirty : List Nat
  deriving DecidableEq, Repr

/-- A Lighthouse record's averages (Table 14.8) and the counts it was taken with. -/
structure LhRecord where
  pm : Nat
  meters : Meters
  sessions : List Nat := []
  /-- Session counts by partition: partition × 16 + state. -/
  byPart : AMap Nat := []
  corrected : List Nat := []
  handled : List Nat := []
  deferred : Nat := 0
  held : Nat := 0
  pctUsed : Nat := 0
  deriving DecidableEq, Repr

/-- Faults: the handlings in progress, the deferred errors, the error log of LH_0, the retirements, and the Lighthouse block. -/
structure Faults where
  handling : List ErrRec := []
  deferred : List ErrRec := []
  /-- The error log, oldest first, its next SEQ, and LOST. -/
  log : List LogEntry := []
  logSeq : Nat := 1
  logLost : Nat := 0
  /-- POR_N rises since power-up. -/
  boots : Nat := 1
  chipRestarts : Nat := 0
  /-- A chip restart has begun since READY (R683). -/
  restarted : Bool := false
  /-- End of the last chip restart (R628), and what CHIP_RESTARTED carries, for functions that enable their event ring within 10 s. -/
  restartEnd : Option Nat := none
  restored : Nat := 0
  /-- Functions to which CHIP_RESTARTED of the last restart has been posted. -/
  told : List Nat := []
  cells : List CellHist := []
  cellsRetired : List ErrUnit := []
  blocksOut : List ErrUnit := []
  /-- Regions out of service until device reset (R624), and those being handled. -/
  regionsDown : List Nat := []
  runs : List RegionRun := []
  /-- Sessions restored in place for a region's or the chip's return, and those that failed. -/
  corrected : List Nat := [0, 0, 0, 0]
  handled : List Nat := [0, 0, 0, 0]
  /-- Corrected errors of a frame (stack × 2^20 + frame) in 24 hours, by postmark (R616), and the frames retired. -/
  frameHits : AMap (List Nat) := []
  framesOut : List Nat := []
  /-- Objects lost (R621): bundle or index numbers, and configuration versions as number key × 65536 + version. -/
  objectsLost : List Nat := []
  configsLost : List Nat := []
  /-- FAULT_STATUS with BEACHED as last returned by vendor command 0x01, and SMB_ALERT_N low (R726). -/
  alertSeen : Nat := 0
  alert : Bool := false
  /-- FAULT_N low (R631). -/
  faultN : Bool := false
  /-- Handle-map slots being rebuilt (Table 14.2), with the postmark by which they are. -/
  rebuilding : AMap Nat := []
  /-- Soundings since the last record, newest first, and the last record. -/
  soundings : List Meters := []
  record : Option LhRecord := none
  deriving DecidableEq, Repr

/-! ### Power, clocks and temperature (R642 to R671) -/

/-- A wake in the tide table (R646, R647): its domain, class and request postmark. -/
structure Wake where
  dom : Nat
  lc : Bool
  pm : Nat
  /-- Its place among wakes requested together for leaving slack water (R659). -/
  ord : Nat := 0
  deriving DecidableEq, Repr

/-- A wake whose ramp has been admitted: its charge, the end of its ramp, and when the domain is ready (Table 15.3). -/
structure Ramp where
  dom : Nat
  charge : Nat
  rampEnd : Nat
  ready : Nat
  deriving DecidableEq, Repr

/-- A correction under a neighbour limit (R663): the regions of the link, the quantity, the region acted on, and since when. -/
structure Correction where
  a : Nat
  b : Nat
  quantity : Nat
  acted : Nat
  since : Nat
  deriving DecidableEq, Repr

/-- PCM_0: domains not ON, the tide table, clocks, holds, the power state and the regulators. -/
structure Power where
  /-- Domains not ON: 1 RETAIN, 2 OFF (Table 15.2). -/
  doms : AMap Nat := [(84, 2), (85, 2), (90, 2), (91, 2), (98, 2), (99, 2), (100, 2), (101, 2), (106, 2), (107, 2), (108, 2), (109, 2)]
  wakes : List Wake := []
  ramps : List Ramp := []
  /-- STATE of PWR_STATUS: 0 ACTIVE, 1 ENTERING, 2 SLACK_WATER, 3 LEAVING. -/
  state : Nat := 0
  leaveCause : Nat := 0
  leaveSince : Nat := 0
  /-- The lanes of the Isthmus halves before slack water took one down (Table 15.13). -/
  halves : Option (Nat × Nat) := none
  /-- n of R644 by region × 8 + cause (1 junction, 2 stack, 3 power cap, 4 neighbour limit), and the postmark of its last step. -/
  clocks : AMap (Nat × Nat) := []
  /-- BE holds by region × 4 + cause (1 junction, 2 stack, 3 cap), with since when the condition has been below its lifting point. -/
  holds : AMap (Option Nat) := []
  /-- CAPPED; since when the average has been above CAP_W, and below 0.95 × CAP_W (R668). -/
  capped : Bool := false
  overSince : Option Nat := none
  underSince : Option Nat := none
  corrections : List Correction := []
  /-- Stacks that refresh at twice their rate. -/
  refresh2x : List Nat := []
  /-- THERM_N is low; a thermal trip keeps it low (R725). -/
  thermN : Bool := false
  trip : Bool := false
  /-- State regions for which RESERVE_SHORT stands posted (R671). -/
  shortPosted : List Nat := []
  /-- Each core rail's commanded voltage in mV where it is not 800, and the last readings of its regulator (R719). -/
  vout : AMap Nat := []
  rails : AMap RailRead := []
  /-- Input power soundings in mW, newest first, at most 10 (R668). -/
  inputs : List Nat := []
  deriving DecidableEq, Repr


/-- What a CXL mailbox or FM API command answers (Table 10.2); the byte layouts are CXL's own. -/
inductive CxlReply where
  /-- Static capacity in bytes, and whether dynamic capacity is offered. -/
  | identify (capacity : Nat) (dynamic : Bool)
  /-- The enabled regions: number, base DPA, length in bytes; the block size. -/
  | regions (rs : List (Nat × Nat × Nat)) (block : Nat)
  /-- Extents as region and number. -/
  | extents (es : List (Nat × Nat))
  | poisonList (rs : List LossRec) (overflow : Bool)
  | events (es : List CapEvent)
  /-- The logical devices bound: port and LD. -/
  | lds (bound : List (Nat × Nat)) (count : Nat)
  | done
  /-- The invalid-input return code. -/
  | invalidInput
  /-- A command that the link version does not offer. -/
  | unsupported
  deriving DecidableEq, Repr

/-- An SPDM response (Tables 16.5 and 16.6); the messages' own layouts are SPDM's. -/
inductive SpdmReply where
  | version (offered : List Nat)
  | capabilities (ctExponent : Nat)
  | algorithms
  | digests (slots : List Nat)
  | certificate (slot : Nat)
  | challengeAuth (slot : Nat)
  /-- Measurement blocks by index with the bytes of those that are raw, and the consent element of OpaqueData (R686). -/
  | measurements (blocks : List (Nat × List Byte)) (element : List Byte)
  | keyExchange (session : Nat)
  | finished (session : Nat)
  | heartbeat
  | keyUpdated
  | ended
  | ideDone
  | tdisp (state : Nat)
  /-- An SPDM error response. -/
  | error
  deriving DecidableEq, Repr

/-- What the block drives outside itself. -/
inductive Output where
  /-- A write to host memory through function `fn` (receipts, events, results). -/
  | hostWrite (fn addr : Nat) (bytes : List Byte)
  /-- An MSI-X message of function `fn`. -/
  | interrupt (fn vector : Nat)
  /-- The data of a register read of function `fn`. -/
  | readData (fn value : Nat)
  /-- A packet on Ethernet port `port` for connection `conn`. -/
  | packet (port conn path : Nat) (p : OutPkt)
  /-- An ACK packet: CUM_PSN, WRITE_DONE, CE_COUNT, RCV_COUNT and SACK blocks. -/
  | ackPacket (port conn cum writeDone ce rcv : Nat) (sack : List (Nat × Nat))
  /-- A write to host memory in the address space of a PASID of function `fn` (R489). -/
  | asWrite (fn pasid addr : Nat) (bytes : List Byte)
  /-- An ATS translation request, or a PRI page request, for a page of a PASID through a function's host port. -/
  | atsRequest (fn pasid page : Nat)
  | priRequest (fn pasid page : Nat)
  /-- An answer of port `port` to an ARP request or a Neighbor Solicitation: its MAC address. -/
  | neighborAnswer (port mac : Nat)
  /-- The data of a CXL.mem read of a line, with its poison, and the completion of a write. -/
  | memData (host dpa : Nat) (bytes : List Byte) (poison : Bool)
  | memDone (host dpa : Nat)
  /-- A back-invalidate snoop of a line: BISnpInv (0), BISnpData (1), BISnpCur (2). -/
  | snoop (host dpa kind : Nat)
  /-- A harbourmaster core's load data, store completion, and access fault. -/
  | coreData (dpa : Nat) (bytes : List Byte)
  | coreStored (dpa : Nat)
  | coreFault (store : Bool) (dpa : Nat)
  /-- A CXL mailbox or FM API answer. -/
  | mailbox (host : Nat) (r : CxlReply)
  /-- What goes over the Isthmus to the buddy. -/
  | isthmus (m : IstMsg)
  /-- A read of a holder's image, and the word to a holder that a restore is done, over the Isthmus or Tideway (R601). -/
  | holderRead (holder req : Nat) (ask : HarbourAsk)
  | holderRelease (holder source : Nat)
  /-- The machine external interrupt of a harbourmaster core (R223). -/
  | coreInterrupt (core : Nat)
  /-- A PLDM numeric sensor's reading (none before the first record), and a PlatformEventMessage to the BMC: event code and its source (R638). -/
  | sensor (id : Nat) (value : Option Nat)
  | platformEvent (code source : Nat)
  /-- The answers to vendor commands 0x01 and 0x02, and to the SMBus Alert Response Address (R637, R726). -/
  | vendorStatus (faultStatus : Nat) (beached : Bool)
  | vendorLog (log off : Nat) (bytes : List Byte)
  | alertAddress (addr : Nat)
  /-- PLDM for Firmware Update: a step taken, or refused with a status. -/
  | pldmDone (ok : Bool)
  | spdm (via : SpdmVia) (r : SpdmReply)
  /-- What the debug port was let reach. -/
  | debugData (reach : DebugReach)
  deriving DecidableEq, Repr

/-- The state of the block, and the queue of commands that wait. -/
structure State where
  pending : List Instr := []
  /-- What the block has driven outside, newest first. -/
  out : List Output := []
  /-- The postmark counter, in nanoseconds (R14). -/
  postmark : Nat := 0
  /-- The model's own counter: each use of a free value takes the next (log entry 11). -/
  fresh : Nat := 0
  fns : AMap Fn := []
  vfEnable : Bool := false
  numVfs : Nat := 0
  vfCompat : Word64 := 0#64
  live : AMap Live := []
  ops : AMap Op := []
  accounts : AMap Account := []
  ceilings : AMap Ceiling := []
  configs : AMap CfgNum := []
  asKeys : AMap AsKey := []
  sessions : AMap Session := []
  dcache : AMap DcEntry := []
  tableHigh : Bool := false
  pages : AMap PageRec := []
  recGen : AMap Nat := []
  idents : List (IdentKey × Nat) := []
  copies : AMap Copy := []
  runs : AMap Run := []
  bundles : AMap Bundle := []
  streams : AMap Stream := []
  maskReads : AMap MaskRead := []
  textReads : AMap TextRead := []
  textDefers : AMap TextDefer := []
  txLoads : List TxLoad := []
  indexes : AMap Index := []
  changes : List ChangeRec := []
  searches : AMap SearchRec := []
  regionsOut : List Nat := []
  /-- Accounts that hold a media key (R704). -/
  mediaKeys : List Nat := []
  roleProfile : Ref := { num := 0, ver := 0 }
  pair : Pair := {}
  sec : Security := {}
  boot : Boot := {}
  faults : Faults := {}
  pow : Power := {}
  media : Media := {}
  steps : AMap StepRec := []
  commits : AMap CommitRec := []
  blocks : AMap Block := []
  lcLoads : List LcLoad := []
  /-- Commit notices on their way to TX_0, oldest first (R317, R376). -/
  notices : List Notice := []
  /-- Page writes that wait for their stream's tail page or for a fence, by tag, oldest first (R134, R322). -/
  heldWrites : List (Nat × PageWriteMsg) := []
  role : Nat := 3
  roleNext : Option Nat := none
  hm : Harbourmaster := {}
  hbmPressure : List Nat := []
  chartEpoch : Nat := 0
  /-- The chart's redirect records: handle and owner device (SET_CHART). -/
  redirects : List (Nat × Nat) := []
  win : Window := {}
  tw : Tideway := {}
  beached : Bool := false
  aon : Bool := true
  ready : Bool := true
  deriving DecidableEq, Repr

/-- The reasons for which the block stops. -/
inductive Fault where
  /-- No meaning raises it: the spec gives every command an effect or a status. Safe. -/
  | unreachable
  deriving DecidableEq, Repr

/-- The reasons for which a command has no meaning here. -/
inductive Refusal where
  /-- A command whose meaning is not written yet, by mnemonic. Safe. -/
  | notModelled (mnemonic : String)
  deriving DecidableEq, Repr

/-- The block right after reset, ready for commands. -/
def State.reset : State := {}

end Sys2Proof.Machine
end

