-- ==== Sys2Proof/Machine/Flags.lean ====
section
/-! DEFINITION. Status codes and note bits (Tables 2.15 and 2.16, R82, R83, R97), and the refusals' common forms. -/

namespace Sys2Proof.Machine

/-- The code of a status (Table 2.15). -/
def statusCode : Status → Nat
  | .ok => 0x00 | .degraded => 0x01 | .escaped => 0x02 | .shortResult => 0x03 | .postfilter => 0x04 | .partialShards => 0x05
  | .pagesAbsent => 0x10 | .maskEmpty => 0x11 | .moved => 0x12 | .notOwner => 0x13 | .quota => 0x14 | .busy => 0x15
  | .version => 0x16 | .keyInvalid => 0x17 | .fenced => 0x18 | .poisoned => 0x19 | .abortedFlr => 0x1A | .invalid => 0x1B
  | .fault => 0x1F

/-- The statuses that report a completed operation whose results are valid (R82). -/
def statusCompleted (s : Status) : Bool := decide (statusCode s ≤ 0x0F)

/-- The note bit of a status of R83 (Table 2.16). -/
def noteBit : Status → Nat
  | .degraded => 1 | .escaped => 2 | .shortResult => 4 | .postfilter => 8 | .partialShards => 16 | _ => 0

/-- The status a completed operation carries for the conditions that hold: the highest-coded of them (R83). -/
def notedStatus (degraded escaped short post partialSh : Bool) : Status :=
  if partialSh then .partialShards else if post then .postfilter else if short then .shortResult
  else if escaped then .escaped else if degraded then .degraded else .ok

/-- The note bits of the conditions that hold (R83, Table 2.16). -/
def notesOf (degraded escaped short post partialSh : Bool) : Nat :=
  (if degraded then 1 else 0) + (if escaped then 2 else 0) + (if short then 4 else 0) + (if post then 8 else 0) +
    (if partialSh then 16 else 0)

/-- A receipt as a set-3 function gets it: MOVED as NOT_OWNER, PARTIAL_SHARDS as SHORT_RESULT, NOTES zero (R97, R95). -/
def rcptSet3 (r : Rcpt) : Rcpt :=
  { r with
    status := match r.status with
      | .moved => .notOwner
      | .partialShards => .shortResult
      | x => x
    notes := 0 }

/-- A completed operation with its two results. -/
def rOk (resA : Nat := 0) (resB : Nat := 0) : Rcpt := { status := .ok, resA := resA, resB := resB }

/-- INVALID with the byte offset of the first bad field (Table 2.17). -/
def rInvalid (off : Nat) (resA : Nat := 0) : Rcpt := { status := .invalid, detail := off, resA := resA }

/-- NOT_OWNER with the account the caller lacks. -/
def rNotOwner (account : Nat) : Rcpt := { status := .notOwner, detail := account }

/-- NOT_OWNER of a command that only PF_0 may issue (R52). -/
def rPfOnly : Rcpt := rNotOwner 0x00010000

/-- VERSION with the current version of the number. -/
def rVersion (current : Nat) : Rcpt := { status := .version, detail := current }

/-- BUSY: 1 the object's state, 2 table full, 3 ring exists or is busy. -/
def rBusy (reason : Nat) : Rcpt := { status := .busy, detail := reason }

/-- QUOTA with the tier code. -/
def rQuota (tier : Nat) : Rcpt := { status := .quota, detail := tier }

/-- KEY_INVALID: 1 key, 2 seal, 3 device set, 4 consent token. -/
def rKey (reason : Nat) : Rcpt := { status := .keyInvalid, detail := reason }

/-- MOVED with the new owner. -/
def rMoved (owner : Nat) : Rcpt := { status := .moved, resA := owner }

/-- The first refusal of a list of checks in their order (R84). -/
def firstRefusal : List (Option Rcpt) → Option Rcpt
  | [] => none
  | some r :: _ => some r
  | none :: rest => firstRefusal rest

/-- The least offset among the fields found bad (Table 2.17: the first bad field). -/
def firstBad : List (Nat × Bool) → Option Nat
  | [] => none
  | (off, true) :: rest =>
    match firstBad rest with
    | some o => some (min off o)
    | none => some off
  | (_, false) :: rest => firstBad rest

/-- A check as a refusal when its condition holds. -/
def refuseIf (c : Bool) (r : Rcpt) : Option Rcpt := if c then some r else none

end Sys2Proof.Machine
end

