-- ==== Sys2Proof/Machine/Ops.lean ====
section
/-! DEFINITION. The operations every command shares: the postmark, functions, events and interrupts, receipts, rings, tags and
the admission of a ring command (Functions, Mailboxes and the Xailrak Command Set). -/

namespace Sys2Proof.Machine

/-- The outcome of a command. -/
abbrev Out := Host.Outcome State Fault Refusal

/-- Time moves on to `pm`, and never back (R14). -/
def advance (pm : Nat) (s : State) : State := { s with postmark := max s.postmark pm }

/-- Drive an output. -/
def emit (o : Output) (s : State) : State := { s with out := o :: s.out }

/-- Drive several outputs, in order. -/
def emits (os : List Output) (s : State) : State := os.foldl (fun s o => emit o s) s

/-- The next argument for a free value, and the state after taking it. -/
def takeFresh (s : State) : Nat × State := (s.fresh, { s with fresh := s.fresh + 1 })

/-! ### Functions -/

/-- The registers and rings of function `n`; a function not listed is as a reset leaves it. -/
def getFn (s : State) (n : Nat) : Fn := amGetD s.fns n {}

/-- Function `n` changed. -/
def setFn (s : State) (n : Nat) (f : Fn) : State := { s with fns := amSet s.fns n f }

/-- Function `n` changed by `g`. -/
def modFn (s : State) (n : Nat) (g : Fn → Fn) : State := setFn s n (g (getFn s n))

/-- R739: PF_0 is always present, VF_n while VF Enable is set and n is at most NumVFs. -/
def fnPresent (s : State) (n : Nat) : Bool := n == 0 || (s.vfEnable && decide (1 ≤ n) && decide (n ≤ s.numVfs))

/-- The ring `rid` of a function. -/
def getRing (f : Fn) : RingId → Ring
  | .admin => f.admin
  | .step n => amGetD f.steps n {}
  | .text => f.text
  | .search => f.search

/-- A function with ring `rid` changed. -/
def setRing (f : Fn) (rid : RingId) (r : Ring) : Fn :=
  match rid with
  | .admin => { f with admin := r }
  | .step n => { f with steps := amSet f.steps n r }
  | .text => { f with text := r }
  | .search => { f with search := r }

/-- Ring `rid` of function `fn` changed by `g`. -/
def modRing (s : State) (fn : Nat) (rid : RingId) (g : Ring → Ring) : State :=
  modFn s fn (fun f => setRing f rid (g (getRing f rid)))

/-- The name of a ring in SOURCE (R81, R354, R400). -/
def ringSource : RingId → Nat
  | .step n => n
  | .admin => 0x0100
  | .text => 0x0300
  | .search => 0x0400

/-! ### Live fields (R92 to R94) -/

/-- The key of a live field in the table of live fields. -/
def liveKey : LiveField → Nat
  | .fwdGrace => 0 | .snoopTimeout => 1 | .lcLimit => 2 | .twRto => 3 | .twCc => 4 | .twAck => 5 | .pwrCtrl => 6
  | .thermalCfg => 7 | .powerCap => 8
  | .warmReserve r => 16 + r
  | .lcShare p => 128 + p
  | .receiptHold f => 256 + f
  | .coalesce f => 512 + f

/-- The value a live field has at reset, from its map. -/
def liveReset : LiveField → Nat
  | .fwdGrace => 50
  | .snoopTimeout => 10
  | .receiptHold _ => 100
  | .coalesce _ => 1
  | f => Config.liveResetOf (liveKey f)

/-- A live field's state. -/
def getLive (s : State) (f : LiveField) : Live := (amGet s.live (liveKey f)).getD { value := liveReset f }

/-- The value of a live field in force: what a read of it returns (R92). -/
def liveVal (s : State) (f : LiveField) : Nat := (getLive s f).value

/-- A live field changed. -/
def setLive (s : State) (f : LiveField) (l : Live) : State := { s with live := amSet s.live (liveKey f) l }

/-- A write to a live field: to the shadow if it is in range, else ignored (R92, R93). -/
def writeLive (s : State) (f : LiveField) (v : Nat) (inRange : Bool) : State :=
  if inRange then
    let l := getLive s f
    setLive s f { l with shadow := some v, since := if l.shadow.isSome then l.since else s.postmark }
  else s

/-- VF_n is CONFIG_LOCKED or RUN under TDISP (R687). -/
def vfLocked (s : State) (n : Nat) : Bool := amGet s.sec.tdisp n == some 1 || amGet s.sec.tdisp n == some 2

/-! ### Interrupts and events -/

/-- PERST_N_p holds host port `p` in reset: nothing passes it (R732). -/
def portInReset (s : State) (p : Nat) : Bool := (amGetD s.win.ports p {}).inReset

/-- Raise MSI-X vector `vec` of function `fn`: a masked vector holds it pending, as PCIe defines. -/
def raise (s : State) (fn vec : Nat) : State :=
  let f := getFn s fn
  let m := amGetD f.msix vec {}
  if m.masked then setFn s fn { f with msix := amSet f.msix vec { m with pending := true } }
  else emit (.interrupt fn vec) s

/-- The first address of a host range that function `fn` cannot reach now. -/
def firstUnmapped (f : Fn) (addr len : Nat) : Option Nat :=
  f.unmapped.foldl (fun acc r =>
    if r.1 < addr + len ∧ addr ≤ r.2 then
      let a := max r.1 addr
      match acc with
      | some b => some (min a b)
      | none => some a
    else acc) none

/-- Write result bytes to host memory: what precedes the first address that fails is written, and that address is the answer
(R740). All of it fails while the function's host port is held in reset (R732). -/
def hostWrite (s : State) (fn addr : Nat) (bs : List Byte) : State × Option Nat :=
  match (if portInReset s (getFn s fn).adminPort && !bs.isEmpty then some addr else firstUnmapped (getFn s fn) addr bs.length) with
  | none => (if bs.isEmpty then s else emit (.hostWrite fn addr bs) s, none)
  | some a => (if a = addr then s else emit (.hostWrite fn addr (bs.take (a - addr))) s, some a)

/-- The 32 bytes of an event (Table 2.18). -/
def eventBytes (phase : Bool) (source code data pm : Nat) : List Byte :=
  leBytes 32 (b2n phase + source % 2 ^ 16 * 2 ^ 32 + code % 2 ^ 16 * 2 ^ 48 + data % 2 ^ 128 * 2 ^ 64 + pm % 2 ^ 64 * 2 ^ 192)

/-- Drop an event and count it (R78). -/
def loseEvent (s : State) (fn : Nat) : State := modFn s fn (fun f => { f with eventsLost := (f.eventsLost + 1) % 2 ^ 32 })

/-- Post an event to one function's event ring, with its interrupt, or drop it (R78, R71, R64). -/
def postEvent (s : State) (fn code source data : Nat) : State :=
  let f := getFn s fn
  if !fnPresent s fn then s
  else if f.flrBusy || !f.eventEn || f.eventStopped || (f.evProd + 1) % f.evDepth == f.evHead then loseEvent s fn
  else
    match (if portInReset s f.eventPort then some 0 else firstUnmapped f (f.evBase + 32 * f.evProd) 32) with
    | some _ => loseEvent (setFn s fn { f with eventStopped := true }) fn
    | none =>
      let s := emit (.hostWrite fn (f.evBase + 32 * f.evProd) (eventBytes f.evPhase source code data s.postmark)) s
      let nxt := (f.evProd + 1) % f.evDepth
      let s := setFn s fn { f with evProd := nxt, evPhase := if nxt = 0 then !f.evPhase else f.evPhase }
      raise s fn f.evVector

/-- Post an event to PF_0 alone. -/
def postPf (s : State) (code source data : Nat) : State := postEvent s 0 code source data

/-- Post an event of an account: to the VF of its partition and to PF_0, SOURCE the account (R148, R250). -/
def postAccount (s : State) (account code data : Nat) : State :=
  match amGet s.accounts account with
  | some a => postEvent (postEvent s a.partition code account data) 0 code account data
  | none => postEvent s 0 code account data

/-! ### Receipts -/

/-- The 32 bytes of a receipt (Table 2.14). -/
def receiptBytes (phase : Bool) (head : Nat) (r : Receipt) : List Byte :=
  leBytes 32 (b2n phase + statusCode r.rcpt.status * 2 ^ 8 + r.rcpt.notes % 2 ^ 16 * 2 ^ 16 + head % 2 ^ 16 * 2 ^ 32
    + r.cmdId % 2 ^ 16 * 2 ^ 48 + r.rcpt.detail % 2 ^ 32 * 2 ^ 64 + r.rcpt.resB % 2 ^ 32 * 2 ^ 96
    + r.rcpt.resA % 2 ^ 64 * 2 ^ 128 + r.pm % 2 ^ 64 * 2 ^ 192)

/-- A receipt enters the dead-letter ring of its function; the oldest goes when 1,024 are held (R76). -/
def deadLetter (s : State) (fn : Nat) (rid : RingId) (r : Receipt) : State :=
  modFn s fn (fun f =>
    let d : DeadLetter := { receipt := r, head := (getRing f rid).cons }
    if f.deadLetters.length < 1024 then { f with deadLetters := f.deadLetters ++ [d] }
    else { f with deadLetters := f.deadLetters.tail ++ [d], lost := f.lost + 1 })

/-- The receipt ring has no room (R66). -/
def rqFull (r : Ring) : Bool := (r.rqProd + 1) % r.depth == r.rqHead

/-- The function's COALESCE: TIME_US and COUNT (Table 2.10). -/
def coalesceTime (s : State) (fn : Nat) : Nat := bits (liveVal s (.coalesce fn)) 31 16

def coalesceCount (s : State) (fn : Nat) : Nat := bits (liveVal s (.coalesce fn)) 11 0

/-- Raise a receipt ring's interrupt and count from none again (R64). -/
def signalRing (s : State) (fn : Nat) (rid : RingId) : State :=
  let r := getRing (getFn s fn) rid
  raise (modRing s fn rid (fun r => { r with unsig := 0 })) fn r.vector

/-- Write one receipt into its receipt ring, which has room, and signal under R64. A write that fails sends the receipt to the
dead-letter ring (R75). -/
def writeReceipt (s : State) (fn : Nat) (rid : RingId) (rc : Receipt) : State :=
  let f := getFn s fn
  let r := getRing f rid
  match (if portInReset s r.port then some 0 else firstUnmapped f (r.rqBase + 32 * r.rqProd) 32) with
  | some _ => postEvent (deadLetter s fn rid rc) fn 0x0003 (ringSource rid) 0
  | none =>
    let s := emit (.hostWrite fn (r.rqBase + 32 * r.rqProd) (receiptBytes r.phase r.cons rc)) s
    let nxt := (r.rqProd + 1) % r.depth
    let since := if r.unsig = 0 then s.postmark else r.unsigSince
    let s := setFn s fn (setRing f rid
      { r with rqProd := nxt, phase := if nxt = 0 then !r.phase else r.phase, unsig := r.unsig + 1, unsigSince := since })
    if coalesceCount s fn ≤ r.unsig + 1 ∨ coalesceTime s fn = 0 then signalRing s fn rid else s

/-- A receipt goes to its ring: to the dead-letter ring if the ring is not live or its function is being reset (R62, R100), held
while the ring is full (R75), else written. -/
def deliverReceipt (s : State) (fn : Nat) (rid : RingId) (rcpt : Rcpt) (cmdId : Nat) : State :=
  let f := getFn s fn
  let r := getRing f rid
  let rc : Receipt := { rcpt := if f.set3 then rcptSet3 rcpt else rcpt, cmdId := cmdId, pm := s.postmark }
  if !r.live || f.flrBusy then deadLetter s fn rid rc
  else if !r.held.isEmpty || rqFull r then
    modRing s fn rid (fun r => { r with held := r.held ++ [{ receipt := rc, since := s.postmark }] })
  else writeReceipt s fn rid rc

/-- Held receipts are written while the ring has room, oldest first; `n` bounds them. -/
def flushHeld : Nat → State → Nat → RingId → State
  | 0, s, _, _ => s
  | n + 1, s, fn, rid =>
    let r := getRing (getFn s fn) rid
    match r.held with
    | [] => s
    | h :: rest =>
      if rqFull r then s
      else flushHeld n (writeReceipt (modRing s fn rid (fun r => { r with held := rest })) fn rid h.receipt) fn rid

/-! ### Operations and tags (R56, R57) -/

/-- The function whose tags an operation takes. -/
def originFn : Origin → Nat
  | .ring fn _ => fn
  | .tideway fn _ _ => fn

/-- The operation came from ring `rid` of function `fn`. -/
def fromRing (fn : Nat) (rid : RingId) (o : Op) : Bool :=
  match o.origin with
  | .ring f r => f == fn && r == rid
  | .tideway .. => false

/-- The operations of function `fn` that hold a tag. -/
def tagsUsed (s : State) (fn : Nat) : Nat := s.ops.countP (fun e => originFn e.2.origin == fn)

/-- The enabled functions (R739). -/
def enabledFns (s : State) : List Nat := (s.fns.filter (fun e => e.2.enable && fnPresent s e.1)).map (·.1)

/-- The shared tags in use: what each enabled function holds above its 512, and all that others hold (R56). -/
def sharedUsed (s : State) : Nat :=
  s.ops.length - (enabledFns s).foldl (fun n f => n + min 512 (tagsUsed s f)) 0

/-- Function `fn` has a tag available: one of its own 512, or a shared one (R56). -/
def tagAvailable (s : State) (fn : Nat) : Bool :=
  decide (s.ops.length < 65536) &&
    ((decide (tagsUsed s fn < 512) && (enabledFns s).contains fn)
      || decide (sharedUsed s + 512 * (enabledFns s).length < 65536))

/-- The lowest free tag. -/
def freeTag (s : State) : Nat := amLowestFree s.ops 0

/-- An operation under its tag. -/
def putOp (s : State) (tag : Nat) (o : Op) : State := { s with ops := amSet s.ops tag o }

/-- The operations in flight of session `d`: INFLIGHT (Table 3.2). -/
def inflight (s : State) (d : Nat) : Nat := s.ops.countP (fun e => e.2.session == some d)

/-- The operation under `tag` is finished with receipt `r`, whatever it waited for. -/
def resolveTag (s : State) (tag : Nat) (r : Rcpt) : State :=
  { s with ops := amMod s.ops tag (fun o => { o with state := .ready r }) }

/-- Every operation that waits on `w` is finished with receipt `r`. -/
def resolveWait (s : State) (w : Wait) (r : Rcpt) : State :=
  { s with ops := amMap s.ops (fun _ o => if o.state = .waiting w then { o with state := .ready r } else o) }

/-- The tags of the operations that wait on `w`. -/
def waitersOn (s : State) (w : Wait) : List Nat := (s.ops.filter (fun e => decide (e.2.state = .waiting w))).map (·.1)

/-! ### The admission of ring commands -/

/-- The block takes work: it is past boot and not BEACHED. -/
def accepting (s : State) : Bool := s.ready && !s.beached

/-- A function's registers may be written: it is present and READY (Table 2.7). -/
def regsOpen (s : State) (fn : Nat) : Bool := s.ready && fnPresent s fn && !(getFn s fn).flrBusy

/-! ### Power states (R642 to R660) -/

/-- A domain's state: 0 ON, 1 RETAIN, 2 OFF (Table 15.2). -/
def getDom (s : State) (d : Nat) : Nat := amGetD s.pow.doms d 0

def modPow (s : State) (f : Power → Power) : State := { s with pow := f s.pow }

def setDom (s : State) (d v : Nat) : State :=
  modPow s (fun p => { p with doms := if v = 0 then amErase p.doms d else amSet p.doms d v })

/-- Request a wake of a domain (R647): one already queued becomes LC and keeps its postmark. -/
def requestWake (s : State) (d : Nat) (lc : Bool) (ord : Nat) : State :=
  if getDom s d = 0 ∨ s.pow.ramps.any (fun r => r.dom == d) = true then s
  else if s.pow.wakes.any (fun w => w.dom == d) then
    modPow s (fun p => { p with wakes := p.wakes.map (fun w => if w.dom = d ∧ lc = true then { w with lc := true } else w) })
  else modPow s (fun p => { p with wakes := p.wakes ++ [{ dom := d, lc := lc, pm := s.postmark, ord := ord }] })

/-- The reserve order of a state region (R650). -/
def reserveOrder : List Nat := [0, 4, 1, 5, 2, 6, 3, 7]

/-- Attention block `b` of region `k` is out of service (R617). -/
def blockOut (s : State) (k b : Nat) : Bool := (amGetD s.blocks (k * 8 + b) {}).out

/-- The warm reserve of S_k: the first RES_k blocks in service in reserve order (R650). -/
def reserveOf (s : State) (k : Nat) : List Nat :=
  (reserveOrder.filter (fun b => !blockOut s k b)).take (liveVal s (.warmReserve k))

/-- The domains that LEAVING wakes, in the order of R659; regions out of service are left. -/
def leaveDoms (s : State) : List Nat :=
  (([0, 1, 2, 3, 4, 5].filter (fun k => !s.regionsOut.contains k)).flatMap (fun k =>
    [13, 11, 12, 8, 9].map (fun j => 14 * k + j) ++ (reserveOf s k).map (fun b => 14 * k + b))) ++ [97, 102, 103]

/-- The device is ACTIVE once every domain that LEAVING wakes is ON; SLACK_LEFT is posted (R659, R671). -/
def settleLeaving (s : State) : State :=
  if s.pow.state = 3 ∧ (leaveDoms s).all (fun d => getDom s d == 0) = true then
    let p := s.pow
    postPf (modPow s (fun p => { p with state := 0 })) 0x0902 0
      (p.leaveCause % 256 + (s.postmark - p.leaveSince) / 1000 % 2 ^ 32 * 2 ^ 32)
  else s

/-- What R656 names ends ENTERING or SLACK_WATER: LEAVING starts, and its wakes are requested as LC (R647, R659). Causes: 1 scheduled,
2 doorbell, 3 Tideway, 4 CXL.mem, 5 harbourmaster core, 6 SPDM. -/
def leaveSlack (s : State) (cause : Nat) : State :=
  if s.pow.state = 1 ∨ s.pow.state = 2 then
    let ds := leaveDoms s
    let s := modPow s (fun p => { p with state := 3, leaveCause := cause, leaveSince := s.postmark })
    settleLeaving (((List.range ds.length).zip ds).foldl (fun s e => requestWake s e.2 true e.1) s)
  else s

/-- An Isthmus flit other than a heartbeat ends slack water (R656). -/
def leaveFlit (s : State) : State :=
  if s.pow.state = 1 ∨ s.pow.state = 2 then
    let t := takeFresh s
    leaveSlack t.2 (Config.slackCause t.1)
  else s

/-- Work is admitted in ACTIVE alone (R660). -/
def powered (s : State) : Bool := s.pow.state == 0

/-- The front slot of the ring can start: the ring is live and runs, its front slot is an entry, a tag is free (R57), the
function's live fields hold nothing up (R94), the device is ACTIVE (R660), the ring's host port is not in reset (R732), and, with SERIAL,
every earlier command of the ring has its receipt (R73). -/
def canStart (s : State) (fn : Nat) (rid : RingId) (serial : Bool) : Bool :=
  let f := getFn s fn
  let r := getRing f rid
  accepting s && powered s && fnPresent s fn && f.enable && !f.flrBusy && r.live && !r.stopped && !r.deleting
    && !portInReset s r.port && r.slots.head? == some .entry && tagAvailable s fn
    && !(getLive s (.receiptHold fn)).stalled && !(getLive s (.coalesce fn)).stalled
    && (!serial || (r.held.isEmpty && !s.ops.any (fun e => fromRing fn rid e.2)))

/-- Take the front slot: the consumer index moves on (R70). -/
def consume (s : State) (fn : Nat) (rid : RingId) : State :=
  modRing s fn rid (fun r => { r with slots := r.slots.tail, cons := (r.cons + 1) % r.depth })

/-- The operation of a ring command, finished or waiting. -/
def ringOp (s : State) (h : Hdr) (rid : RingId) (st : OpState) : Op :=
  { origin := .ring h.fn rid, cmdId := h.cmdId, be := h.be, admPm := s.postmark, state := st }

/-- Slots at the front of a ring that hold no defined entry are dealt with as soon as they are reached: an unreadable one stops
the ring (R77), an undefined opcode is refused with INVALID (R80). -/
def settleSlots : List SlotRead → State → Nat → RingId → State
  | [], s, _, _ => s
  | .entry :: _, s, _, _ => s
  | .unreadable :: _, s, fn, rid =>
    let r := getRing (getFn s fn) rid
    if r.stopped then s
    else postEvent (modRing s fn rid (fun r => { r with stopped := true })) fn 0x0002 (ringSource rid) 0
  | .undefinedOp cmdId :: rest, s, fn, rid =>
    if (getRing (getFn s fn) rid).stopped || !tagAvailable s fn then s
    else
      let tag := freeTag s
      let s := consume s fn rid
      settleSlots rest (putOp s tag
        { origin := .ring fn rid, cmdId := cmdId, admPm := s.postmark, state := .ready (rInvalid 2) }) fn rid

/-- Deal with what stands at the front of a ring, where the ring runs; a ring whose base was written through a host port in reset stops
(R77, R732). -/
def settleRing (s : State) (fn : Nat) (rid : RingId) : State :=
  let f := getFn s fn
  let r := getRing f rid
  if accepting s && powered s && f.enable && !f.flrBusy && r.live && !r.stopped && !r.deleting then
    if portInReset s r.port && !r.slots.isEmpty then
      postEvent (modRing s fn rid (fun r => { r with stopped := true })) fn 0x0002 (ringSource rid) 0
    else settleSlots r.slots s fn rid
  else s

/-- A ring command starts: it takes its slot and the lowest free tag, and `k` does the rest. A command that cannot start yet
has no effect: its slot stays unconsumed (R57, R73). -/
def startRing (s : State) (h : Hdr) (rid : RingId) (k : State → Nat → State) : Out :=
  if canStart s h.fn rid h.serial then .next (settleRing (k (consume s h.fn rid) (freeTag s)) h.fn rid)
  else .next s

/-- What a ring command says of itself: who may issue it, whether set 3 offers it, the fields that are INVALID with their byte
offsets, the later refusals in the order of R84, whether it must wait before it starts (R102), and its effect under its tag. -/
structure RingCmd where
  pfOnly : Bool := false
  set3 : Bool := false
  hasBuffer : Bool := false
  bad : State → List (Nat × Bool) := fun _ => []
  refuse : State → List (Option Rcpt) := fun _ => []
  waits : State → Bool := fun _ => false
  run : State → Nat → State

/-- The refusal of R80, R52 and R84 that a ring command meets first, if one applies. -/
def ringRefusal (c : RingCmd) (h : Hdr) (s : State) : Option Rcpt :=
  let f := getFn s h.fn
  firstRefusal
    ([ refuseIf (h.set != (if f.set3 then 3 else 4)) (rInvalid 1),
       refuseIf (f.set3 && !c.set3) (rInvalid 2),
       refuseIf (c.pfOnly && h.fn != 0) rPfOnly,
       (firstBad ((match h.rsvBad with | some o => [(o, true)] | none => [])
          ++ [(16, c.hasBuffer && h.addr % 64 != 0)] ++ c.bad s)).map (fun o => rInvalid o) ]
     ++ c.refuse s)

/-- A ring command on ring `rid`: started (R73), checked (R80, R52, R84), and run or refused. -/
def ringCmd (rid : RingId) (h : Hdr) (c : RingCmd) (s : State) : Out :=
  if c.waits s then .next s
  else startRing s h rid (fun s tag =>
    match ringRefusal c h s with
    | some r => putOp s tag (ringOp s h rid (.ready r))
    | none => c.run s tag)

/-- An admin command. -/
def adminCmd (h : Hdr) (c : RingCmd) (s : State) : Out := ringCmd .admin h c s

/-- The command is finished with receipt `r`. -/
def finish (s : State) (h : Hdr) (rid : RingId) (tag : Nat) (r : Rcpt) : State := putOp s tag (ringOp s h rid (.ready r))

/-- An admin command is finished with receipt `r`. -/
def done (s : State) (h : Hdr) (tag : Nat) (r : Rcpt) : State := finish s h .admin tag r

/-- An admin command that writes `bs` to its buffer at ADDR and is finished with `r`; a buffer that cannot be written gives
INVALID 16 and the first address that failed (R740). -/
def doneWrite (s : State) (h : Hdr) (tag : Nat) (bs : List Byte) (r : Rcpt) : State :=
  match hostWrite s h.fn h.addr bs with
  | (s, none) => done s h tag r
  | (s, some a) => done s h tag (rInvalid 16 a)

/-- An admin command that waits. -/
def park (s : State) (h : Hdr) (tag : Nat) (w : Wait) : State := putOp s tag (ringOp s h .admin (.waiting w))

/-- A command's body as read, or the refusal of R740. -/
def bodyRefusal : HostRead → Option Rcpt
  | .ok _ => none
  | .fail a => some (rInvalid 16 a)

/-- The bytes of a body; none that failed is used. -/
def bodyBytes : HostRead → List Byte
  | .ok bs => bs
  | .fail _ => []

end Sys2Proof.Machine
end

