-- ==== Sys2Proof/Machine/Operands.lean ====
section
/-! DEFINITION. What a command's operands name: accounts, configuration versions and the fields of their bodies, classes,
profiles, and sessions by handle (R53, R88 to R91, R105, R113, R114, R742). -/

namespace Sys2Proof.Machine

/-! ### Accounts (R53, R742) -/

/-- The account a handle names: bits [63:52] (R105). -/
def handleAccount (handle : Nat) : Nat := handle / 2 ^ 52 % 4096

/-- The partition of an account. -/
def accPartition (s : State) (a : Nat) : Nat :=
  match amGet s.accounts a with
  | some x => x.partition
  | none => 0

/-- An account is of the issuing function's own partition, or PF_0 issues (R53). -/
def accOwned (s : State) (fn a : Nat) : Bool :=
  match amGet s.accounts a with
  | some x => fn == 0 || x.partition == fn
  | none => false

/-- R742: from PF_0 an account that does not exist is INVALID at the offset of the field that names it. -/
def accBad (s : State) (fn a off : Nat) : Nat × Bool := (off, fn == 0 && !amHas s.accounts a)

/-- R53, R742: from a VF every account that is not one of its own partition is NOT_OWNER. -/
def accRefuse (s : State) (fn a : Nat) : Option Rcpt := refuseIf (fn != 0 && !accOwned s fn a) (rNotOwner a)

/-- R52: a command of the owning VF that another function issues. -/
def ownerRefuse (s : State) (fn a : Nat) : Option Rcpt := refuseIf (accPartition s a != fn) (rNotOwner a)

def modAccount (s : State) (a : Nat) (f : Account → Account) : State := { s with accounts := amMod s.accounts a f }

/-- The accounts of a partition. -/
def partAccounts (s : State) (p : Nat) : List Nat := (s.accounts.filter (fun e => e.2.partition == p)).map (·.1)

/-- R102: a PF_0 command that names an account of a VF whose reset runs waits. -/
def flrWaits (fn a : Nat) (s : State) : Bool := fn == 0 && (getFn s (accPartition s a)).flrBusy && amHas s.accounts a

/-! ### Configuration versions (R86 to R91) -/

/-- The key of a configuration number. -/
def cfgKey (kind num : Nat) : Nat := kind * 65536 + num

/-- A reference as the 4 B field holds it: number in [31:16], version in [15:0]. -/
def refOf (v : Nat) : Ref := { num := v / 65536 % 65536, ver := v % 65536 }

def refWord (r : Ref) : Nat := r.num * 65536 + r.ver

/-- The version current for a number; 0 while none exists. -/
def cfgCurrent (s : State) (kind num : Nat) : Nat :=
  match amGet s.configs (cfgKey kind num) with
  | some c => c.current
  | none => 0

/-- A version whose storage is held. -/
def cfgVer (s : State) (kind num ver : Nat) : Option CfgVer :=
  match amGet s.configs (cfgKey kind num) with
  | some c => amGet c.vers ver
  | none => none

/-- What a reference resolves to now: a version that is present and not retired (R90); none if it does not resolve. -/
def resolveRef (s : State) (kind : Nat) (r : Ref) : Option Ref :=
  let ver := if r.ver = 0xFFFF then cfgCurrent s kind r.num else r.ver
  match cfgVer s kind r.num ver with
  | some c => if c.retired then none else some { num := r.num, ver := ver }
  | none => none

/-- The body of a version, retired or not. -/
def cfgBody (s : State) (kind : Nat) (r : Ref) : List Byte :=
  match cfgVer s kind r.num r.ver with
  | some c => c.body
  | none => []

/-- R90: the refusal of a reference that does not resolve. -/
def refRefuse (s : State) (kind : Nat) (r : Ref) : Option Rcpt :=
  match resolveRef s kind r with
  | some v => refuseIf (s.faults.configsLost.contains (cfgKey kind v.num * 65536 + v.ver)) { status := .fault }
  | none => some (rVersion (cfgCurrent s kind r.num))

/-! ### Placement classes (Table 5.2) -/

/-- The class body's fields. -/
def clTierPref (b : List Byte) (i : Nat) : Nat := field b i 1

def clStriped (b : List Byte) : Bool := bit (field b 3 1) 0

def clScout (b : List Byte) : Bool := bit (field b 3 1) 1

def clNarrow (b : List Byte) : Bool := bit (field b 3 1) 2

def clMirror (b : List Byte) : Bool := bit (field b 3 1) 3

def clFloodLc (b : List Byte) : Bool := bit (field b 3 1) 4

def clDegradeOk (b : List Byte) : Bool := bit (field b 3 1) 5

def clDelayMin (b : List Byte) : Nat := field b 4 4

def clDelayMax (b : List Byte) : Nat := field b 8 4

def clLead (b : List Byte) : Nat := field b 12 4

def clDefaultWait (b : List Byte) : Nat := field b 16 4

def clParkWorth (b : List Byte) : Nat := field b 20 4

def clQuantile (b : List Byte) : Nat := field b 24 1

/-- The tiers a class names, in its order of preference; none when the object never ebbs. -/
def clTiers (b : List Byte) : List Nat :=
  if clTierPref b 0 = 0 then []
  else [clTierPref b 0] ++ (if clTierPref b 1 = 0xFF then [] else [clTierPref b 1])
    ++ (if clTierPref b 2 = 0xFF then [] else [clTierPref b 2])

/-- A tier preference that may stand in place 1 or 2. -/
def prefOk (t : Nat) : Bool := t == 1 || t == 2 || t == 3 || t == 0xFF

/-- R199, R200: the fields of a placement class body, each with whether it is out of range, by byte offset. -/
def classBad (b : List Byte) : List (Nat × Bool) :=
  let t0 := clTierPref b 0
  let t1 := clTierPref b 1
  let t2 := clTierPref b 2
  [ (0, !(t0 == 0 || t0 == 1 || t0 == 2 || t0 == 3)),
    (1, !prefOk t1 || (t1 != 0xFF && t1 == t0) || (t0 == 0 && t1 != 0xFF)),
    (2, !prefOk t2 || (t2 != 0xFF && (t2 == t0 || t2 == t1)) || (t1 == 0xFF && t2 != 0xFF) || (t0 == 0 && t2 != 0xFF)),
    (3, decide (64 ≤ field b 3 1) || (t0 == 0 && clScout b)),
    (4, decide (86400000 < clDelayMin b)),
    (8, decide (clDelayMax b < clDelayMin b) || decide (86400000 < clDelayMax b)),
    (12, decide (60000 < clLead b)),
    (16, clDefaultWait b == 0 || decide (86400000 < clDefaultWait b)),
    (20, decide (86400000 < clParkWorth b)),
    (24, clQuantile b == 0 || decide (99 < clQuantile b)) ]
  ++ (List.range 39).map (fun i => (25 + i, field b (25 + i) 1 != 0))

/-! ### Model profiles (Tables 4.1 and 6.1) -/

def pfLayersM1 (b : List Byte) : Nat := field b 0 1

def pfKvHeads (b : List Byte) : Nat := field b 1 1 + 1

def pfLatentVdim (b : List Byte) : Nat := field b 2 2

def pfHeadDim (b : List Byte) : Nat := field b 4 2

def pfWiden (b : List Byte) : Nat := field b 6 1

def pfResident (b : List Byte) : Nat := field b 7 1

def pfNarrow (b : List Byte) : Nat := field b 8 1

def pfScout (b : List Byte) : Nat := field b 9 1

def pfMode (b : List Byte) : Nat := field b 10 1

def pfLatent (b : List Byte) : Bool := pfMode b == 1

def pfFinger (b : List Byte) : List Byte := slice b 48 16

def pfScale (b : List Byte) : Nat := field b 64 4

def pfSoftcap (b : List Byte) : Nat := field b 68 4

def pfWindow (b : List Byte) : Nat := field b 72 4

def pfSinks (b : List Byte) : Nat := field b 78 2

def pfGroup (b : List Byte) : Nat := field b 81 1

def pfQuery (b : List Byte) : Nat := field b 82 1

def pfOutput (b : List Byte) : Nat := field b 83 1

/-- The value dimension V of a profile. -/
def pfValueDim (b : List Byte) : Nat := if pfLatent b then pfLatentVdim b else pfHeadDim b

/-- The query heads H_Q of a profile. -/
def pfQueryHeads (b : List Byte) : Nat := if pfLatent b then pfGroup b else pfKvHeads b * pfGroup b

/-- A positive, finite, normal FP32 code. -/
def posNormal (c : Nat) : Bool := decide (0x00800000 ≤ c) && decide (c < 0x7F800000)

/-- R152, R253: the fields of a model profile body, each with whether it fails, by byte offset. -/
def profileBad (b : List Byte) : List (Nat × Bool) :=
  let latent := pfMode b == 1
  let hd := pfHeadDim b
  let sf := fun f => f == 5 || f == 6 || f == 7
  [ (1, decide (64 < pfKvHeads b) || (latent && pfKvHeads b != 1)),
    (2, if latent then !(decide (32 ≤ pfLatentVdim b) && decide (pfLatentVdim b ≤ hd) && pfLatentVdim b % 32 == 0)
        else pfLatentVdim b != 0),
    (4, if latent then !(decide (64 ≤ hd) && decide (hd ≤ 576) && hd % 32 == 0)
        else !(hd == 64 || hd == 96 || hd == 128 || hd == 192 || hd == 256)),
    (6, decide (1 < pfWiden b)),
    (7, !fmtValid (pfResident b)),
    (8, !(sf (pfNarrow b) || pfNarrow b == pfResident b)),
    (9, !sf (pfScout b)),
    (10, decide (1 < pfMode b)),
    (64, !posNormal (pfScale b)),
    (68, !(pfSoftcap b == 0 || posNormal (pfSoftcap b))),
    (72, decide (2097152 < pfWindow b)),
    (76, field b 76 2 != 0),
    (78, decide (4096 < pfSinks b) || (pfSinks b != 0 && pfWindow b == 0)),
    (80, field b 80 1 != 0),
    (81, pfGroup b == 0 || decide ((if latent then 128 else 16) < pfGroup b)),
    (82, decide (2 < pfQuery b)),
    (83, decide (1 < pfOutput b)) ]
  ++ (List.range 37).map (fun i => (11 + i, field b (11 + i) 1 != 0))
  ++ (List.range 44).map (fun i => (84 + i, field b (84 + i) 1 != 0))

/-- Body size B of a page of a profile in a format (R163). -/
def pageBytes (b : List Byte) (fmt : Nat) : Nat :=
  if pfLatent b then 256 * rowBytes fmt (pfHeadDim b) else 2 * pfKvHeads b * 256 * rowBytes fmt (pfHeadDim b)

/-- Frames of a page (R164). -/
def pageFrames (b : List Byte) (fmt : Nat) : Nat := (pageBytes b fmt + 65535) / 65536

/-- TOKEN_COUNT of a vocabulary body (Table 8.1). -/
def vcTokens (b : List Byte) : Nat := field b 0 4

/-! ### Sessions by handle (R87, R113, R114) -/

/-- The descriptor index that holds a handle. -/
def findHandle (s : State) (handle : Nat) : Option Nat :=
  (s.sessions.find? (fun e => e.2.handle == handle)).map (·.1)

/-- Some field whose change sets CKPT_DIRTY differs (R583). -/
def ckptChanged (x y : Session) : Bool :=
  x.state != y.state || x.classRef != y.classRef || x.tokens != y.tokens || x.commitSeq != y.commitSeq
    || x.automaton != y.automaton || x.escActive != y.escActive || x.escPos != y.escPos || x.carry != y.carry
    || x.refs != y.refs || x.round != y.round || x.toks != y.toks || x.textCursor != y.textCursor
    || x.stateEpoch != y.stateEpoch || x.rules != y.rules

/-- A session that keeps its account's adapter bundles from ebbing (R244). -/
def keepsBundles (x : Session) : Bool := x.state == .active || x.state == .idle || x.state == .ebbing || x.state == .flooding

/-- The bundles of the account of a session that is live until now (R244). -/
def bundlesLive (s : State) (a : Nat) : AMap Bundle :=
  amMap s.bundles (fun _ b => if b.account = a then { b with lastLive := s.postmark } else b)

/-- Session `d` changed by `f`; CKPT_DIRTY follows R583, and the moment until which the session was live is kept for R244. -/
def modSession (s : State) (d : Nat) (f : Session → Session) : State :=
  { s with
    sessions := amMod s.sessions d (fun x =>
      let y := f x
      if ckptChanged x y then { y with ckptDirty := true } else y)
    bundles := match amGet s.sessions d with
      | some x => if keepsBundles x && !keepsBundles (f x) then bundlesLive s (handleAccount x.handle) else s.bundles
      | none => s.bundles }

/-- The class body of a session. -/
def sessClass (s : State) (x : Session) : List Byte := cfgBody s 3 x.classRef

/-- The profile body of a session. -/
def sessProfile (s : State) (x : Session) : List Byte := cfgBody s 0 x.profileRef

/-- The owner that the installed chart names for a handle that is not here, if it names another device. -/
def chartOwner (s : State) (handle : Nat) : Option Nat :=
  match (s.redirects.find? (fun r => r.1 == handle)) with
  | some r => if r.2 = s.boot.deviceId then none else some r.2
  | none => none

/-- R114: the refusal for a handle that is not present. -/
def absentRefuse (s : State) (handle : Nat) : Option Rcpt :=
  match findHandle s handle with
  | some _ => none
  | none =>
    match chartOwner s handle with
    | some o => some (rMoved o)
    | none => some (rNotOwner (handleAccount handle))

/-- MOVED of a stub: the session is owned elsewhere (Table 3.12). -/
def stubRefuse (s : State) (handle : Nat) : Option Rcpt :=
  match findHandle s handle with
  | some d =>
    match amGet s.sessions d with
    | some x => refuseIf x.stub (rMoved x.migrateTarget)
    | none => none
  | none => none

/-- The session of a handle satisfies `p`. -/
def sessTest (s : State) (handle : Nat) (p : Session → Bool) : Bool :=
  match findHandle s handle with
  | some d =>
    match amGet s.sessions d with
    | some x => p x
    | none => false
  | none => false

/-- The checks every session command makes before its own, in the order of R84: the account from PF_0 (R742) is a bad field at
byte `off`; then R87 and R114, MOVED last. -/
def sessRefuse (s : State) (fn handle : Nat) : List (Option Rcpt) :=
  let a := handleAccount handle
  [ accRefuse s fn a,
    (match absentRefuse s handle with
     | some r => if r.status = .notOwner then some r else none
     | none => none),
    (match absentRefuse s handle with
     | some r => if r.status = .moved then some r else none
     | none => stubRefuse s handle) ]

/-- The region of an error handling in progress holds the session's descriptor or one of its pages (R623): its operations wait. -/
def regionHeld (s : State) (d : Nat) (x : Session) : Bool :=
  s.faults.runs.any (fun q => q.region == d % 6 || x.refs.any (fun r => r.2.tier == 0 && r.2.loc / 2 ^ 21 % 8 == q.region))

/-- The session of a handle waits for a region. -/
def homeHeld (s : State) (handle : Nat) : Bool :=
  match findHandle s handle with
  | some d =>
    match amGet s.sessions d with
    | some x => regionHeld s d x
    | none => false
  | none => false

/-- An admin command that names a handle whose handle-map slot is being rebuilt waits (Table 14.2). -/
def slotRebuilding (s : State) (handle : Nat) : Bool :=
  match amGet s.faults.rebuilding handle with
  | some pm => decide (s.postmark < pm)
  | none => false

/-- Operations on a migrating session that are held until its handover (Table 3.12): at the new owner, and at the old one where the session
was PARKED or its last tail fence is taken; and those of a session that waits for a region (R623). -/
def migHeld (s : State) (handle : Nat) : Bool :=
  homeHeld s handle ||
  sessTest s handle (fun x => x.incoming || (x.state == .migrating && !x.stub && (x.fence || x.prior == .parked)))

/-- A step or page write for a handle that the LC phase of a restore has not brought back waits (R602). -/
def restoreHeld (s : State) (handle : Nat) : Bool :=
  (match s.pair.restore with
   | some r => !r.background
   | none => false) && (findHandle s handle).isNone

end Sys2Proof.Machine
end

