-- ==== Sys2Proof/Machine/TwBase.lean ====
section
/-! DEFINITION. Tideway transport: connections, sending and acknowledging packets, COMPLETIONs (Tideway Transport and the Ethernet
Ports). -/

namespace Sys2Proof.Machine

/-! ### Serial numbers and packets -/

/-- How far serial number `a` lies above `b`, modulo 2^32. -/
def serDiff (a b : Nat) : Nat := (a + 2 ^ 32 - b % 2 ^ 32) % 2 ^ 32

/-- Serial number `a` is below `b`. -/
def serLt (a b : Nat) : Bool := a % 2 ^ 32 != b % 2 ^ 32 && decide (2 ^ 31 ≤ serDiff a b)

def serInc (a : Nat) : Nat := (a + 1) % 2 ^ 32

/-- Opcodes (Table 11.9). -/
def opWrite : Nat := 0x01
def opRead : Nat := 0x02
def opResp : Nat := 0x03
def opCompletion : Nat := 0x05
def opPageWrite : Nat := 0x10
def opStep : Nat := 0x11
def opText : Nat := 0x12
def opBundle : Nat := 0x13
def opSearch : Nat := 0x20
def opPoolPut : Nat := 0x30
def opPoolGet : Nat := 0x31
def opPoolFree : Nat := 0x32
def opMigrate : Nat := 0x40

/-- The opcode carries the request extension (Table 11.9). -/
def opExt (op : Nat) : Bool := op != opResp && op != opCompletion

/-- The opcode is a request message (R506). -/
def opRequest (op : Nat) : Bool := opExt op

/-- The message is a session-state message. -/
def opSession (op : Nat) : Bool := op == opPageWrite || op == opStep || op == opText || op == opMigrate

/-! ### Connections and ports -/

def modTw (s : State) (f : Tideway → Tideway) : State := { s with tw := f s.tw }

def getConn (s : State) (c : Nat) : Option Conn := amGet s.tw.conns c

def modConn (s : State) (c : Nat) (f : Conn → Conn) : State := { s with tw := { s.tw with conns := amMod s.tw.conns c f } }

def getPort (s : State) (n : Nat) : EPort := amGetD s.tw.ports n {}

def modPort (s : State) (n : Nat) (f : EPort → EPort) : State :=
  { s with tw := { s.tw with ports := amSet s.tw.ports n (f (getPort s n)) } }

/-- Add to a counter of Table 11.23, by its number; counters wrap at 2^64. -/
def count (s : State) (port k n : Nat) : State :=
  modPort s port (fun p => { p with counters := amSet p.counters k ((amGetD p.counters k 0 + n) % 2 ^ 64) })

/-- Fields of PORT_CFG_n (Table 11.3). -/
def pcEnable (p : EPort) : Bool := bit p.cfg.toNat 0
def pcMode (p : EPort) : Nat := bits p.cfg.toNat 7 4
def pcVlan (p : EPort) : Bool := bit p.cfg.toNat 63

/-- The rate of a mode in Mb/s (Table 11.1). -/
def modeRate (m : Nat) : Nat :=
  match m with
  | 1 => 800000
  | 2 => 800000
  | 3 => 400000
  | 4 => 400000
  | 5 => 200000
  | 6 => 200000
  | 7 => 100000
  | _ => 0

def portRate (s : State) (n : Nat) : Nat := modeRate (pcMode (getPort s n))

/-- An IPv4-mapped address ::ffff:a.b.c.d. -/
def ipv4 (ip : Nat) : Bool := ip / 2 ^ 32 == 0xFFFF

/-- The Ethernet frame of a packet of `n` payload bytes (R481, Table 11.10). -/
def frameBytes (p : EPort) (c : Conn) (ext : Bool) (n : Nat) : Nat :=
  (if ipv4 c.peerIp then 20 else 40) + 8 + 32 + (if ext then 32 else 0) + n + 4 + 18 + (if pcVlan p then 4 else 0)

/-- The payload MTU of a connection. -/
def mtuOf (c : Conn) : Nat := if c.mtu8k then 8192 else 4096

/-- The fields of the live Tideway registers. -/
def rtoMax (s : State) : Nat := bits (liveVal s .twRto) 63 48 * 1000
def rtoInit (s : State) : Nat := bits (liveVal s .twRto) 47 32 * 1000
def retryLimit (s : State) : Nat := bits (liveVal s .twRto) 19 16
def rtoMin (s : State) : Nat := bits (liveVal s .twRto) 9 0 * 1000
def aiStep (s : State) : Nat := bits (liveVal s .twCc) 63 48
def minRate (s : State) : Nat := bits (liveVal s .twCc) 47 32
def aiInterval (s : State) : Nat := bits (liveVal s .twCc) 31 24 * 1000
def decInterval (s : State) : Nat := bits (liveVal s .twCc) 23 16 * 1000
def gainShift (s : State) : Nat := bits (liveVal s .twCc) 3 0
def ackDelay (s : State) : Nat := bits (liveVal s .twAck) 31 16
def ackEvery (s : State) : Nat := bits (liveVal s .twAck) 6 0

/-! ### Sending (R482, R484, R498) -/

/-- The packets of a message from PSN `psn` on. -/
def packetsOf (m : TwMsg) (u psn : Nat) : List OutPkt :=
  (List.range (max 1 ((m.payload.length + u - 1) / u))).map (fun i =>
    { msg := { m with payload := [] }, psn := (psn + i) % 2 ^ 32, off := i * u, bytes := (m.payload.drop (i * u)).take u })

/-- Send one packet on the next path. -/
def transmit (s : State) (c : Nat) (p : OutPkt) : State :=
  match getConn s c with
  | none => s
  | some x =>
    let s := modConn s c (fun x => { x with path := (x.path + 1) % 2 ^ x.spray })
    let s := count (count s x.port 1 1) x.port 3 (frameBytes (getPort s x.port) x (opExt p.msg.op) p.bytes.length)
    emit (.packet x.port c x.path p) s

/-- Send what the window lets go: no PSN at or beyond SND_UNA + 1,024, and nothing while PEER_CONN is unknown (R493, R498). -/
def pumpGo : Nat → State → Nat → State
  | 0, s, _ => s
  | n + 1, s, c =>
    match getConn s c with
    | none => s
    | some x =>
      match x.sendq with
      | [] => s
      | p :: r =>
        if x.failed ∨ x.peerConn = 0xFFFFFFFF ∨ 1024 ≤ serDiff p.psn x.sndUna then s
        else
          let p := { p with sentPm := s.postmark }
          let una := if x.flight.isEmpty then s.postmark else x.lastUna
          let s := modConn s c (fun x => { x with sendq := r, flight := x.flight ++ [p], lastUna := una })
          pumpGo n (transmit s c p) c

def pump (s : State) (c : Nat) : State :=
  match getConn s c with
  | some x => pumpGo x.sendq.length s c
  | none => s

/-- Queue a message on a connection; a request takes the next MSG_ID (R506). -/
def sendMsg (s : State) (c : Nat) (m : TwMsg) : State :=
  match getConn s c with
  | none => s
  | some x =>
    if x.failed then s
    else
      let req := opRequest m.op
      let m := if req then { m with msgId := x.nextMsg } else m
      let ps := packetsOf m (mtuOf x) x.sndNxt
      pump (modConn s c (fun x =>
        { x with nextMsg := if req then serInc x.nextMsg else x.nextMsg, sndNxt := (x.sndNxt + ps.length) % 2 ^ 32
                 sendq := x.sendq ++ ps })) c

/-- A request of this device, with what it stands for. -/
def sendRequest (s : State) (c : Nat) (m : TwMsg) (r : SentReq) : State :=
  match getConn s c with
  | some x => sendMsg (modConn s c (fun x => { x with reqs := amSet x.reqs x.nextMsg r })) c { m with msgId := x.nextMsg }
  | none => s

/-! ### COMPLETIONs and response data (R504, R510, R511) -/

/-- The 32 bytes a COMPLETION carries: the receipt with the request's MSG_ID in bits [63:32] and PHASE 0. -/
def completionBytes (req : Nat) (r : Rcpt) (pm : Nat) : List Byte :=
  receiptBytes false (req % 65536) { rcpt := r, cmdId := req / 65536 % 65536, pm := pm }

/-- A COMPLETION's conditions are met: its WRITEs are done and its RESP_DATA is acknowledged. -/
def dueReady (x : Conn) (d : DueCompletion) : Bool :=
  (match d.needWrite with
   | some w => !serLt x.writeDoneOut w
   | none => true)
  && (match d.needPsn with
      | some p => serLt p x.sndUna || x.flight.any (fun q => q.psn == p && q.acked)
      | none => true)

/-- Send the COMPLETIONs that have become due. -/
def flushDue (s : State) (c : Nat) : State :=
  match getConn s c with
  | none => s
  | some x =>
    let go := x.due.filter (dueReady x)
    let s := modConn s c (fun x => { x with due := x.due.filter (fun d => !dueReady x d) })
    go.foldl (fun s d =>
      let s := modConn s c (fun x => { x with lastWrite := amErase x.lastWrite d.req, results := amFilter x.results (fun _ r => r != d.req), lastResp := amErase x.lastResp d.req })
      sendMsg s c { op := opCompletion, msgId := d.req, be := d.be, payload := completionBytes d.req d.rcpt s.postmark }) s

/-- A COMPLETION whose connection no longer sends goes to the dead-letter ring of its function (R504). -/
def twDeadLetter (s : State) (fn req : Nat) (r : Rcpt) : State :=
  let d : DeadLetter := { receipt := { rcpt := r, cmdId := req / 65536 % 65536, pm := s.postmark }, head := req % 65536 }
  let s := modFn s fn (fun f =>
    if f.deadLetters.length < 1024 then { f with deadLetters := f.deadLetters ++ [d] }
    else { f with deadLetters := f.deadLetters.tail ++ [d], lost := f.lost + 1 })
  postEvent s fn 0x0003 Config.deadLetterSource 0

/-- Answer a request with a COMPLETION, once what it waits for has come (R510, R511). -/
def twComplete (s : State) (fn c req : Nat) (be : Bool) (r : Rcpt) : State :=
  let r := if (getFn s fn).set3 then rcptSet3 r else r
  match getConn s c with
  | none => twDeadLetter s fn req r
  | some x =>
    if x.failed then twDeadLetter s fn req r
    else
      let s := if statusCompleted r.status then s else count s x.port 15 1
      let d : DueCompletion :=
        { req := req, rcpt := r, be := be, needWrite := amGet x.lastWrite req, needPsn := amGet x.lastResp req }
      flushDue (modConn s c (fun x => { x with due := x.due ++ [d] })) c

/-- Result bytes as one WRITE message under a key, in answer to a request (R511). -/
def sendResult (s : State) (c req key addr : Nat) (bs : List Byte) : State :=
  if bs.isEmpty then s
  else
    match getConn s c with
    | none => s
    | some x =>
      sendMsg (modConn s c (fun y => { y with lastWrite := amSet y.lastWrite req x.nextMsg, results := amSet y.results x.nextMsg req })) c
        { op := opWrite, addr := addr, key := key, payload := bs }

/-- Result bytes as one RESP_DATA message (R511). -/
def sendResp (s : State) (c req : Nat) (bs : List Byte) : State :=
  match getConn s c with
  | none => s
  | some x =>
    let n := max 1 ((bs.length + mtuOf x - 1) / mtuOf x)
    sendMsg (modConn s c (fun y => { y with lastResp := amSet y.lastResp req ((x.sndNxt + n - 1) % 2 ^ 32) })) c
      { op := opResp, msgId := req, payload := bs }

/-! ### Receiving (R499, R500, R509) -/

/-- Runs of received packets above CUM_PSN, lowest first: start above CUM_PSN and length. -/
def rcvRuns (m : Nat) : List (Nat × Nat) :=
  ((List.range 1024).foldl (fun acc i =>
    if bit m i then
      match acc with
      | (st, len) :: r => if st + len = i then (st, len + 1) :: r else (i, 1) :: (st, len) :: r
      | [] => [(i, 1)]
    else acc) []).reverse

/-- Send an ACK now. -/
def ackNow (s : State) (c : Nat) : State :=
  match getConn s c with
  | none => s
  | some x =>
    let s := modConn s c (fun x => { x with unAcked := 0 })
    let s := count (count s x.port 1 1) x.port 3 (frameBytes (getPort s x.port) x true 0)
    emit (.ackPacket x.port c x.cumPsn x.writeDoneIn x.ceCount x.rcvCount ((rcvRuns x.rcvMap).take 5)) s

/-- Move CUM_PSN past every set bit at the foot of RCV_MAP. -/
def cumAdvance : Nat → Conn → Conn
  | 0, x => x
  | n + 1, x =>
    if x.rcvMap % 2 = 1 then cumAdvance n { x with rcvMap := x.rcvMap / 2, cumPsn := serInc x.cumPsn } else x

/-- Take a packet's PSN as received (Table 11.14). -/
def takePsn (x : Conn) (psn : Nat) : Conn :=
  let i := serDiff psn x.cumPsn
  if bit x.rcvMap i then x else cumAdvance 1025 { x with rcvMap := x.rcvMap + 2 ^ i }

/-- A PSN has been received. -/
def psnHeld (x : Conn) (psn : Nat) : Bool := serLt psn x.cumPsn || bit x.rcvMap (serDiff psn x.cumPsn)

/-- WRITE_DONE rises past every request that does not hold it (R509); `n` bounds the rise. -/
def writeDoneGo : Nat → Conn → Conn
  | 0, x => x
  | n + 1, x =>
    match amGet x.seen (serInc x.writeDoneIn) with
    | some false => writeDoneGo n { x with writeDoneIn := serInc x.writeDoneIn, seen := amErase x.seen (serInc x.writeDoneIn) }
    | _ => x

/-- A request has been seen: a WRITE that is not complete holds WRITE_DONE, any other does not. -/
def seeRequest (x : Conn) (msg : Nat) (holds : Bool) : Conn :=
  if !serLt x.writeDoneIn msg then x
  else
    let x := { x with seen := amSet x.seen msg holds }
    writeDoneGo (x.seen.length + 1) x

/-- A packet has been taken: its PSN is set, and an ACK goes out at once or later (R500). -/
def packetTaken (s : State) (c psn : Nat) (last : Bool) : State :=
  match getConn s c with
  | none => s
  | some x =>
    let y := takePsn x psn
    let n := y.unAcked + 1
    let s := modConn s c (fun _ =>
      { y with unAcked := n, unAckedPm := if y.unAcked = 0 then s.postmark else y.unAckedPm })
    if last || y.rcvMap != 0 || decide (ackEvery s ≤ n) then ackNow s c else s

/-! ### WRITEs placed and refused (R491, R507, R509) -/

/-- A message is refused for its key: KEY_INVALID 1, the first on a connection posting KEY_REJECTED (R488, R528). -/
def noteKey (s : State) (c key : Nat) (r : Rcpt) : State :=
  match getConn s c with
  | some x =>
    if r.status = .keyInvalid ∧ x.keyRejected = false then
      postEvent (modConn s c (fun x => { x with keyRejected := true })) x.fn 0x0405 x.port (c + key * 2 ^ 32)
    else s
  | none => s

/-- A WRITE is refused once; it is complete when its COMPLETION is acknowledged. -/
def refuseWrite (s : State) (c msg key : Nat) (be : Bool) (r : Rcpt) : State :=
  match getConn s c with
  | some x =>
    if amHas x.refused msg then s
    else
      let s := modConn s c (fun x => { x with refused := amSet x.refused msg x.sndNxt, writeLeft := amErase x.writeLeft msg })
      twComplete (noteKey s c key r) x.fn c msg be r
  | none => s

/-- Bytes of a WRITE are placed; the last complete it. -/
def writePlaced (s : State) (c msg n : Nat) : State :=
  modConn s c (fun x =>
    match amGet x.writeLeft msg with
    | some k =>
      if k ≤ n then seeRequest { x with writeLeft := amErase x.writeLeft msg } msg false
      else { x with writeLeft := amSet x.writeLeft msg (k - n) }
    | none => x)

/-- A READ is refused: its COMPLETION says why. -/
def refuseRead (s : State) (c msg key : Nat) (be : Bool) (r : Rcpt) : State :=
  match getConn s c with
  | some x => twComplete (noteKey s c key r) x.fn c msg be r
  | none => s

end Sys2Proof.Machine
end

