-- ==== Sys2Proof/Machine/Copies.lean ====
section
/-! DEFINITION. Copies below HBM: where a peer device is reached, what the release of a copy sends out (R163, R195, R196, R513, R578,
R581). -/

namespace Sys2Proof.Machine

/-- The key of a copy below HBM. -/
def copyKey (tier loc : Nat) : Nat := tier * 2 ^ 48 + loc

/-- The device that now stands for a device, after the successions recorded (R597). -/
def succeeded (s : State) (dev : Nat) : Nat :=
  match s.pair.successions.find? (fun e => e.1 == dev) with
  | some e => e.2
  | none => dev

/-- The identity that the installed chart gives a device number. -/
def devOfNum (s : State) (num : Nat) : Option Nat := (s.tw.devices.find? (fun e => e.2.num == num)).map (fun e => succeeded s e.1)

/-- The lowest-numbered OPEN connection of PF_0 to a device. -/
def connTo (s : State) (dev : Nat) : Option Nat :=
  (s.tw.conns.find? (fun e => e.2.fn == 0 && !e.2.failed && e.2.peerDevice == dev)).map (·.1)

/-- The buddy is bound. -/
def bound (s : State) : Bool := s.pair.status == 2

def modPair (s : State) (f : Pair → Pair) : State := { s with pair := f s.pair }

/-- Send over the Isthmus, while a half runs. -/
def isthmus (s : State) (m : IstMsg) : State :=
  if s.pair.half0.lanes = 0 ∧ s.pair.half1.lanes = 0 then s
  else
    let up := fun (h : Half) => { h with flits := h.flits + 1 }
    emit (.isthmus m) (modPair s (fun p => if p.half0.lanes = 0 then { p with half1 := up p.half1 } else { p with half0 := up p.half0 }))

/-- Tell a pool device or the holder that a page is no longer needed (R196, R513). -/
def poolFree (s : State) (loc : Nat) : State :=
  match devOfNum s (loc / 2 ^ 32) with
  | some dev =>
    match connTo s dev with
    | some c => sendRequest s c { op := opPoolFree, addr := loc % 2 ^ 32 } { for_ := .poolFree }
    | none => s
  | none => s

/-- The release notice of a mirrored media copy (R581). -/
def releaseMirror (s : State) (loc : Nat) (c : Copy) : State :=
  match amGet s.media.shingles (loc / 2 ^ 24) with
  | some sh =>
    match amGet sh.copies (loc % 2 ^ 24) with
    | some m => isthmus s (.release (.mirror m.handle c.layer c.page c.gen))
    | none => s
  | none => s

/-- Release a copy below HBM (R196). -/
def releaseCopy (s : State) (key : Nat) : State :=
  match amGet s.copies key with
  | none => s
  | some c =>
    let s := { s with copies := amErase s.copies key }
    let loc := key % 2 ^ 48
    match key / 2 ^ 48 with
    | 1 => poolFree s loc
    | 2 => isthmus s (.release (.park loc))
    | _ => if c.mirrored then releaseMirror s loc c else s

/-! ### The park area (R577, R578) -/

/-- Frames of a copy in the park area. -/
def parkFramesOf (size : Nat) : Nat := (256 + size + 65535) / 65536

/-- Frames the park area may use. -/
def parkMax (s : State) : Nat := s.pair.reserve * s.pair.parkPctBound / 100

/-- Copies of this device in the park area, and those on their way there: first frame and frames. -/
def parkRuns (s : State) : List (Nat × Nat) :=
  let held := (s.copies.filter (fun e => e.1 / 2 ^ 48 == 2)).map (fun e => (e.1 % 2 ^ 48, parkFramesOf e.2.size))
  let coming := s.sessions.flatMap (fun e =>
    (match e.2.ebb with
     | some j => if j.tier = 2 then j.placed.map (fun p => (p.2 % 2 ^ 24, p.2 / 2 ^ 24)) else []
     | none => [])
    ++ (match e.2.move with
        | some j => if j.tier = 2 then j.placed.map (fun p => (p.2 % 2 ^ 24, p.2 / 2 ^ 24)) else []
        | none => []))
  (sortBy (fun e => e.1) (held ++ coming.filter (fun c => !held.any (fun h => h.1 == c.1))))

/-- The first gap of `n` frames in the park area. -/
def parkFit : List (Nat × Nat) → Nat → Nat → Nat → Option Nat
  | [], cur, n, top => if cur + n ≤ top then some cur else none
  | (b, k) :: r, cur, n, top => if cur + n ≤ b then some cur else parkFit r (max cur (b + k)) n top

/-- Pool devices that may take a page: POOL role in the installed chart, present, reachable, and not found full (R229, R513). -/
def poolDevs (s : State) : List (Nat × Nat) :=
  (sortBy (fun e => e.1) ((s.tw.devices.filter (fun e =>
    e.2.role == 2 && !e.2.lost && !s.tw.poolFull.contains e.1 && (connTo s (succeeded s e.1)).isSome)).map (fun e => (e.2.num, succeeded s e.1))))

end Sys2Proof.Machine
end

