-- ==== Sys2Proof/Machine/Placement.lean ====
section
/-! DEFINITION. HBM frames, placement, franking and quotas (R164, R203, R208 to R212, R233). -/

namespace Sys2Proof.Machine

/-! ### Frames -/

/-- Frames of one stack, and the first of them that placement may use (R193). -/
def stackFrames : Nat := 1048576

def firstFrame : Nat := 6742

def runKey (stack base : Nat) : Nat := stack * 2 ^ 20 + base

/-- The runs taken on a stack: first frame and length, in frame order. -/
def stackRuns (s : State) (stack : Nat) : List (Nat × Nat) :=
  (s.runs.filter (fun e => e.1 / 2 ^ 20 == stack)).map (fun e => (e.1 % 2 ^ 20, e.2.count))

/-- The first gap of `n` frames at or after `cur` between the runs taken. -/
def firstFit : List (Nat × Nat) → Nat → Nat → Option Nat
  | [], cur, n => if cur + n ≤ stackFrames then some cur else none
  | (b, c) :: r, cur, n => if cur + n ≤ b then some cur else firstFit r (max cur (b + c)) n

/-- A run of `n` consecutive frames of a stack whose region is in service (R164). -/
def findRun (s : State) (stack n : Nat) : Option Nat :=
  if s.regionsOut.contains (stack / 2) then none else firstFit (stackRuns s stack) firstFrame n

/-- Take a run for an account. -/
def takeRun (s : State) (stack base n : Nat) (account : Option Nat) : State :=
  { s with runs := amSet s.runs (runKey stack base) { count := n, account := account } }

/-- Free a run; frames of it that have been retired stay taken (R621, R616). -/
def freeRun (s : State) (key : Nat) : State :=
  match amGet s.runs key with
  | none => s
  | some r =>
    (s.faults.framesOut.filter (fun f => decide (key ≤ f) && decide (f < key + r.count))).foldl
      (fun s f => takeRun s (f / 2 ^ 20) (f % 2 ^ 20) 1 none) { s with runs := amErase s.runs key }

/-- Free placement frames of a region. -/
def freeFrames (s : State) (region : Nat) : Nat :=
  if s.regionsOut.contains region then 0
  else 2 * (stackFrames - firstFrame)
    - (s.runs.filter (fun e => e.1 / 2 ^ 21 == region)).foldl (fun n e => n + e.2.count) 0

/-- The region of the most free frames, the lowest of those that tie. -/
def bestRegion (s : State) (rs : List Nat) : Option Nat :=
  rs.foldl (fun acc r =>
    match acc with
    | none => some r
    | some b => if freeFrames s b < freeFrames s r then some r else some b) none

/-- The six state regions. -/
def regions : List Nat := [0, 1, 2, 3, 4, 5]

/-- The stacks to try for page `i` of stream `l`, in the order of R203, for home region `k`. -/
def stackOrder (k i l : Nat) (striped : Bool) : List Nat :=
  let m := if striped then (k + i) % 6 else k
  let par := (i + l) % 2
  regions.flatMap (fun j => let r := (m + j) % 6; [2 * r + par, 2 * r + (1 - par)])

/-- The first stack of a list with a run of `n` frames, and the run's base. -/
def firstRun (s : State) (n : Nat) : List Nat → Option (Nat × Nat)
  | [] => none
  | st :: r =>
    match findRun s st n with
    | some b => some (st, b)
    | none => firstRun s n r

/-- Take `n` frames anywhere, the region with the most free frames first, as one run. -/
def takeAnywhere (s : State) (n : Nat) (account : Option Nat) : Option (Nat × State) :=
  match bestRegion s regions with
  | none => none
  | some r =>
    match firstRun s n ([2 * r, 2 * r + 1] ++ List.range 12) with
    | some (st, b) => some (runKey st b, takeRun s st b n account)
    | none => none

/-- R233: HBM_PRESSURE for each region below 65,536 free frames that has not posted it, and the flag lifted at 131,072. -/
def pressureOne (s : State) (r : Nat) : State :=
  if s.hbmPressure.contains r then
    if 131072 ≤ freeFrames s r then { s with hbmPressure := s.hbmPressure.filter (· != r) } else s
  else if freeFrames s r < 65536 then
    let s := { s with hbmPressure := r :: s.hbmPressure }
    let s := postPf s 0x0208 r (freeFrames s r % 2 ^ 32)
    { s with sessions := amMap s.sessions (fun d x =>
        if d % 6 = r ∧ x.state = .idle ∧ x.ebbAtPm ≠ 0 ∧ clTierPref (sessClass s x) 0 ≠ 0 then
          { x with ebbAtPm := min x.ebbAtPm (max (x.waitStartPm + clDelayMin (sessClass s x) * 1000000) s.postmark) }
        else x) }
  else s

def checkPressure (s : State) : State := regions.foldl pressureOne s

/-! ### Franking (R208 to R212) -/

/-- What a copy is charged: its stored size, twice for a mirrored copy on media (Table 5.4). -/
def copyCharge (tier : Nat) (c : Copy) : Nat := if tier = 3 ∧ c.mirrored then 2 * c.size else c.size

/-- Bytes an account holds on a tier (Table 5.4). -/
def used (s : State) (a tier : Nat) : Nat :=
  let sess := s.sessions.filter (fun e => handleAccount e.2.handle == a)
  match tier with
  | 0 =>
    65536 * ((s.runs.filter (fun e => e.2.account == some a)).foldl (fun n e => n + e.2.count) 0
      + sess.foldl (fun n e =>
          n + (match e.2.flood with | some f => f.reserve | none => 0)) 0)
  | 5 =>
    match amGet s.accounts a with
    | some x => x.writtenToday
    | none => 0
  | t =>
    (s.copies.filter (fun e => e.1 / 2 ^ 48 == t && e.2.account == a)).foldl (fun n e => n + copyCharge t e.2) 0
      + (s.bundles.filter (fun e => e.2.account == a && e.2.tier == t)).foldl
          (fun n e => n + (if t = 3 ∧ e.2.mirrored then 2 else 1) * e.2.body.length) 0
      + (s.indexes.filter (fun e => e.2.account == a && e.2.vecTier == t)).foldl (fun n e =>
          n + (if t = 3 ∧ e.2.mirrored then 2 else 1) * e.2.vecBytes) 0
      + sess.foldl (fun n e =>
          n + (match e.2.ebb with | some j => if j.tier = t then j.reserve else 0 | none => 0)
            + (match e.2.move with | some j => if j.tier = t then j.reserve else 0 | none => 0)) 0

/-- An account's quota on a tier. -/
def quotaOf (s : State) (a tier : Nat) : Nat :=
  match amGet s.accounts a with
  | some x => amGetD x.quota tier 0
  | none => 0

/-- A partition's ceiling on a tier, if one is set (R85). -/
def ceilingOf (s : State) (p tier : Nat) : Option Nat :=
  match amGet s.ceilings (p * 8 + tier) with
  | some c => c.bytes
  | none => none

/-- Bytes a partition's accounts hold on a tier. -/
def usedPart (s : State) (p tier : Nat) : Nat := (partAccounts s p).foldl (fun n a => n + used s a tier) 0

/-- A charge of `n` bytes fits the account's quota and the partition's ceiling (R208, R210). -/
def canCharge (s : State) (a tier n : Nat) : Bool :=
  decide (used s a tier + n ≤ quotaOf s a tier) &&
    (match ceilingOf s (accPartition s a) tier with
     | some c => decide (usedPart s (accPartition s a) tier + n ≤ c)
     | none => true)

/-- QUOTA_HIGH for one account and tier (R212). -/
def noteQuota (a : Nat) (s : State) (tier : Nat) : State :=
  match amGet s.accounts a with
  | none => s
  | some x =>
    let u := used s a tier
    let q := quotaOf s a tier
    if x.quotaHigh.contains tier then
      if u * 8 < 7 * q then modAccount s a (fun x => { x with quotaHigh := x.quotaHigh.filter (· != tier) }) else s
    else if q ≠ 0 ∧ 15 * q ≤ 16 * u then
      postAccount (modAccount s a (fun x => { x with quotaHigh := tier :: x.quotaHigh })) a 0x0203
        (tier % 256 + u % 2 ^ 48 * 2 ^ 64)
    else s

/-- QUOTA_HIGH on every tier of an account. -/
def noteQuotas (s : State) (a : Nat) : State := [0, 1, 2, 3, 5].foldl (noteQuota a) s

/-- Bytes programmed for an account count against its write budget (R209). -/
def countWritten (s : State) (a n : Nat) : State := modAccount s a (fun x => { x with writtenToday := x.writtenToday + n })

/-- The account's retained copies, oldest first (R231). -/
def retainedOf (s : State) (a : Nat) : List (Nat × Copy) :=
  sortBy (fun e => e.2.retained.getD 0) (s.copies.filter (fun e => e.2.account == a && e.2.retained.isSome))

/-- R232: retained copies go, oldest first, until a media charge fits or none is left. -/
def releaseRetained (a n : Nat) : List (Nat × Copy) → State → State
  | [], s => s
  | (k, _) :: r, s => if canCharge s a 3 n then s else releaseRetained a n r (releaseCopy s k)

/-- A media charge, with the account's retained copies released as far as it needs. -/
def makeMediaRoom (s : State) (a n : Nat) : State := releaseRetained a n (retainedOf s a) s

/-! ### The page-list pool (R120) -/

/-- Bytes of page lists, round records and text records a session of `l` streams and `segs` segments takes from its account's pool
(R120, R168, R301, and the 320 B text record). -/
def sessPoolBytes (x : Session) : Nat :=
  let n := x.layersM1 + 1
  let pages := (x.tokens + 255) / 256
  let segs := max 1 ((pages + 62) / 63)
  n * 16 + n * segs * 512 + 128 + 320 + x.rules.length
    + (match x.scout with | some _ => n * 16 + n * segs * 512 | none => 0)

/-- Bytes an account has taken from its pool: its sessions' and its streams'. -/
def poolBytes (s : State) (a : Nat) : Nat :=
  (s.sessions.filter (fun e => handleAccount e.2.handle == a)).foldl (fun n e => n + sessPoolBytes e.2) 0
    + (s.streams.filter (fun e => e.2.account == a)).foldl (fun n e => n + 64 + (if e.2.detok then 0 else 8192)) 0

/-- Pool frames an account holds. -/
def poolFrames (s : State) (a : Nat) : Nat :=
  match amGet s.accounts a with
  | some x => x.poolRuns.length
  | none => 0

/-- Pool frames an account needs for `extra` bytes more. -/
def poolNeed (s : State) (a extra : Nat) : Nat := (poolBytes s a + extra + 65535) / 65536 - poolFrames s a

/-- The pool can grow by what `extra` bytes need (R120). -/
def poolFits (s : State) (a extra : Nat) : Bool :=
  let n := poolNeed s a extra
  n == 0 || canCharge s a 0 (n * 65536)

/-- Take one more pool frame. -/
def growPool (s : State) (a : Nat) : State :=
  match takeAnywhere s 1 (some a) with
  | some (k, s) => modAccount s a (fun x => { x with poolRuns := x.poolRuns ++ [k] })
  | none => s

/-- Take the frames the account's page lists now need, and give back those they no longer need. -/
def fitPool (s : State) (a : Nat) : State :=
  let need := (poolBytes s a + 65535) / 65536
  let have_ := poolFrames s a
  if have_ ≤ need then (List.range (need - have_)).foldl (fun s _ => growPool s a) s
  else
    match amGet s.accounts a with
    | some x =>
      modAccount ((x.poolRuns.drop need).foldl freeRun s) a (fun x => { x with poolRuns := x.poolRuns.take need })
    | none => s

end Sys2Proof.Machine
end

