-- ==== Sys2Proof/Machine/Media.lean ====
section
/-! DEFINITION. The flash media: its state and capacity, shingles, the placing and programming of copies, wear (Flash Media). -/

namespace Sys2Proof.Machine

def modMedia (s : State) (f : Media → Media) : State := { s with media := f s.media }

/-! ### Profile and capacity (R542, R543, R550) -/

/-- The profile of the format in force; a media without one has no unit. -/
def mProfile (s : State) : MediaProfile :=
  match s.media.format with
  | some r => r.profile
  | none =>
    { identity := 0, unit := 0, unitsPer := 0, eusPerLun := 0, ratedPe := 0, refreshDays := 0, scanHours := 0, refreshBits := 0,
      disturbReads := 0, retiredLimit := 0, topRates := [] }

/-- The rates offered for an interface (Table 12.1). -/
def ifaceRates (iface : Nat) : List Nat :=
  match iface with
  | 1 => [1600, 2000, 2400, 2800, 3200, 3600]
  | 2 => [400, 533, 667, 800, 1066, 1200, 1333, 1600]
  | 3 => [800, 1200, 1600, 2000, 2400, 3200, 3600]
  | _ => []

/-- R543: every data offset of a 32-wide shingle fits a locator. -/
def profileFits (p : MediaProfile) : Bool := decide (31 * p.unit * p.unitsPer ≤ 4294967296) && decide (0 < p.unit) && decide (0 < p.unitsPer)

/-- The LUN positions of a channel that are online. -/
def lunsOf (s : State) (ch : Nat) : List Nat :=
  (s.media.luns.filter (fun e => e.1 / 32 == ch && e.2.online)).map (·.1)

/-- Erase units of a channel that may stand in shingles. -/
def chUnits (s : State) (ch : Nat) : Nat :=
  (s.media.luns.filter (fun e => e.1 / 32 == ch && e.2.online)).foldl
    (fun n e => n + ((mProfile s).eusPerLun - e.2.factory.length - e.2.grown.length)) 0

/-- Erase units of a channel in shingles. -/
def chTaken (s : State) (ch : Nat) : Nat := s.media.shingles.countP (fun e => e.2.chans.contains ch)

/-- The least value over the online channels; 0 while fewer than 24 are online, since a shingle needs 24. -/
def overChannels (s : State) (f : Nat → Nat) : Nat :=
  if s.media.online.length < 24 then 0
  else match s.media.online with
    | [] => 0
    | c :: r => r.foldl (fun n k => min n (f k)) (f c)

/-- Shingles that can be formed, and those that are free (R550). -/
def formable (s : State) : Nat := overChannels s (chUnits s)

def freeShingles (s : State) : Nat := overChannels s (fun c => chUnits s c - chTaken s c)

def freeReserve (s : State) : Nat := (7 * formable s + 99) / 100

/-- Blocks of 256 B of data in one row of a shingle of `w` channels, and in the whole of it (R543). -/
def rowBlocks (s : State) (w : Nat) : Nat := (w - 1) * (mProfile s).unit / 256

def shBlocks (s : State) (w : Nat) : Nat := rowBlocks s w * (mProfile s).unitsPer

/-- Blocks of a copy: its header and its body (R545). -/
def copyBlocks (size : Nat) : Nat := 1 + (size + 255) / 256

/-- The media takes `n` bytes of copies (R229, R550): it is ONLINE, and the free shingles left stay above the free reserve. -/
def mediaRoom (s : State) (n : Nat) : Bool :=
  s.media.state == 3 &&
    decide (freeReserve s < freeShingles s - (n + 256 * shBlocks s s.media.online.length - 1) / (256 * shBlocks s s.media.online.length))

/-! ### Wear (R561, R562, R569) -/

/-- Erase units of LUNs online that are not retired. -/
def unitsAll (s : State) : Nat := s.media.online.foldl (fun n c => n + chUnits s c) 0

def eraseSum (s : State) : Nat := s.media.erases.foldl (fun n e => n + e.2) 0

def eraseMean (s : State) : Nat := if unitsAll s = 0 then 0 else eraseSum s / unitsAll s

/-- PCT_USED. -/
def pctUsed (s : State) : Nat :=
  if unitsAll s * (mProfile s).ratedPe = 0 then 0 else min 255 (100 * eraseSum s / (unitsAll s * (mProfile s).ratedPe))

/-- Bytes programmed and bytes of copies over the last 7 days. -/
def ampSums (s : State) : Nat × Nat := s.media.amp.foldl (fun t e => (t.1 + e.2.1, t.2 + e.2.2)) (0, 0)

/-- The write amplification as a ratio; 1 while fewer than 10^12 bytes of copies were written. -/
def writeAmp (s : State) : Nat × Nat :=
  let t := ampSums s
  if t.2 < 1000000000000 then (1, 1) else t

def dayNs : Nat := 86400000000000

/-- Wall time now, if the offset is set (R536). -/
def wallNow (s : State) : Option Nat :=
  match s.media.wallOffset with
  | some o => some ((s.postmark : Int) + o).toNat
  | none => none

/-- Wall time as headers and records carry it. -/
def wallWord (s : State) : Nat := (wallNow s).getD 0

/-- Whole days since the format. -/
def daysSince (s : State) : Nat :=
  match s.media.format with
  | none => 0
  | some r =>
    match wallNow s with
    | some w => if r.formatWall = 0 then (s.postmark - r.formatPm) / dayNs else (w - r.formatWall) / dayNs
    | none => (s.postmark - r.formatPm) / dayNs

/-- SUSTAINABLE_DAILY (R562). -/
def sustainable (s : State) : Nat :=
  match s.media.format with
  | none => 0
  | some r =>
    let left := (mProfile s).ratedPe * unitsAll s - eraseSum s
    let a := writeAmp s
    left * ((mProfile s).unit * (mProfile s).unitsPer) * a.2 / (max 1 (r.lifeDays - daysSince s) * a.1)

/-- Count bytes programmed, and the stored bytes of copies among them (R561). -/
def notePrograms (s : State) (all stored : Nat) : State :=
  modMedia s (fun m => { m with
    programmed := (m.programmed + all) % 2 ^ 64
    amp := (s.postmark, all, stored) :: m.amp.filter (fun e => decide (s.postmark < e.1 + 7 * dayNs)) })

/-! ### States (Table 12.5, R568, R569) -/

/-- The media enters a state, and MEDIA_STATE is posted. -/
def setMedia (s : State) (st : Nat) : State :=
  if s.media.state = st then s
  else postPf (modMedia s (fun m => { m with state := st })) 0x0601 0 (st + s.media.state * 256)

/-- WEAR_HIGH at 80 and at 90. -/
def noteWear (s : State) : State :=
  let p := pctUsed s
  let level := if 90 ≤ p then 90 else if 80 ≤ p then 80 else 0
  if s.media.wearPosted < level then
    postPf (modMedia s (fun m => { m with wearPosted := level })) 0x0606 0 (p + sustainable s % 2 ^ 64 * 2 ^ 64)
  else s

/-- What the channels, the wear and the shingles make of an ONLINE or READ_ONLY media. -/
def settleMedia (s : State) : State :=
  let s := if s.media.state = 3 ∨ s.media.state = 4 then noteWear s else s
  if s.media.state = 3 then
    if s.media.online.isEmpty then setMedia s 5
    else if s.media.online.length < 24 ∨ 100 ≤ pctUsed s then setMedia s 4
    else s
  else if s.media.state = 4 ∧ s.media.online.isEmpty then setMedia s 5
  else s

/-! ### Locators and liveness (Table 4.8, R548) -/

def mLoc (sh off : Nat) : Nat := sh * 2 ^ 24 + off

def locShingle (loc : Nat) : Nat := loc / 2 ^ 24

def locOff (loc : Nat) : Nat := loc % 2 ^ 24

/-- The copy at a locator. -/
def mediaAt (s : State) (loc : Nat) : Option MediaCopy :=
  match amGet s.media.shingles (locShingle loc) with
  | some sh => amGet sh.copies (locOff loc)
  | none => none

/-- A copy is on its way to media for an ebb or a class change. -/
def mediaPlacing (s : State) (loc : Nat) : Bool :=
  s.sessions.any (fun e =>
    (match e.2.ebb with | some j => j.tier == 3 && j.placed.any (fun p => p.2 == loc) | none => false)
      || (match e.2.move with | some j => j.tier == 3 && j.placed.any (fun p => p.2 == loc) | none => false))

/-- A copy on media is live: a reference names it or it is retained, the mirror index names it, it is kept for the
next epoch, or it is being programmed for a job that still runs. -/
def mediaLive (s : State) (loc : Nat) : Bool :=
  amHas s.copies (copyKey 3 loc) || s.media.mirrors.any (fun e => e.2 == loc) 
    || s.media.keptOld.any (fun e => e.2 == loc) || mediaPlacing s loc

/-- The live copies of a shingle, in ascending offset order. -/
def shLive (s : State) (n : Nat) : List (Nat × MediaCopy) :=
  match amGet s.media.shingles n with
  | some sh => sh.copies.filter (fun e => mediaLive s (mLoc n e.1))
  | none => []

def liveBytes (s : State) (n : Nat) : Nat := (shLive s n).foldl (fun k e => k + e.2.copy.size) 0

def modShingle (s : State) (n : Nat) (f : Shingle → Shingle) : State :=
  modMedia s (fun m => { m with shingles := amMod m.shingles n f })

/-! ### Opening, placing and closing (R542, R546, R547) -/

/-- The free erase unit of a LUN with the lowest erase count. -/
def lunUnit (s : State) (taken : List Nat) (pos : Nat) : Option Nat :=
  match amGet s.media.luns pos with
  | none => none
  | some l =>
    (List.range (mProfile s).eusPerLun).foldl (fun acc i =>
      let u := pos * 65536 + (i + 1)
      if taken.contains u || l.factory.contains (i + 1) || l.grown.contains (i + 1) then acc
      else match acc with
        | none => some u
        | some b => if amGetD s.media.erases u 0 < amGetD s.media.erases b 0 then some u else some b) none

/-- The free erase unit of a channel with the lowest erase count, lowest LUN first among equals. -/
def chUnit (s : State) (taken : List Nat) (ch : Nat) : Option Nat :=
  (lunsOf s ch).foldl (fun acc pos =>
    match lunUnit s taken pos, acc with
    | some u, some b => if amGetD s.media.erases u 0 < amGetD s.media.erases b 0 then some u else some b
    | some u, none => some u
    | none, a => a) none

/-- Erase units in shingles. -/
def unitsTaken (s : State) : List Nat := s.media.shingles.flatMap (fun e => e.2.units)

/-- Writer `w` opens the lowest free shingle number (R546). -/
def openShingle (s : State) (w : Nat) : Option (Nat × State) :=
  let taken := unitsTaken s
  let us := s.media.online.filterMap (chUnit s taken)
  if s.media.online.length < 24 ∨ us.length ≠ s.media.online.length then none
  else
    let n := amLowestFree s.media.shingles 0
    let sh : Shingle := { chans := s.media.online, units := us, writer := w, writeSeq := s.media.writeSeq + 1, wall := wallWord s }
    some (n, modMedia s (fun m => { m with
      writeSeq := m.writeSeq + 1, shingles := amSet m.shingles n sh, writers := amSet m.writers w n }))

/-- A shingle is closed; its last rows stay to be programmed. -/
def closeShingle (s : State) (n : Nat) : State :=
  match amGet s.media.shingles n with
  | some sh =>
    let s := modShingle s n (fun x => { x with st := .closed, basePm := s.postmark })
    if amGet s.media.writers sh.writer = some n then modMedia s (fun m => { m with writers := amErase m.writers sh.writer }) else s
  | none => s

/-- A copy goes to the free space of shingle `n`. -/
def placeAt (s : State) (n : Nat) (sh : Shingle) (c : MediaCopy) : Nat × State :=
  let r := rowBlocks s sh.chans.length
  let e := sh.ptr + c.blocks
  let fresh := sh.ptr % r = 0 ∨ sh.ptr / r ≠ e / r
  (mLoc n sh.ptr, modShingle s n (fun x =>
    { x with ptr := e, copies := amSet x.copies x.ptr c, partSince := if fresh then s.postmark else x.partSince }))

/-- A copy enters writer `w`'s open shingle, or the next one it opens (R546); none if no shingle can be formed, which leaves the media
READ_ONLY. -/
def mediaPlace (s : State) (w : Nat) (c : MediaCopy) : Option Nat × State :=
  let cur := amGet s.media.writers w
  let room := match cur with
    | some n =>
      match amGet s.media.shingles n with
      | some sh => if sh.ptr + c.blocks ≤ shBlocks s sh.chans.length then some (n, sh) else none
      | none => none
    | none => none
  match room with
  | some (n, sh) => let t := placeAt s n sh c; (some t.1, t.2)
  | none =>
    let s := match cur with
      | some n => closeShingle s n
      | none => s
    match openShingle s w with
    | none => (none, if s.media.state = 3 then setMedia s 4 else s)
    | some (n, s) =>
      match amGet s.media.shingles n with
      | some sh => let t := placeAt s n sh c; (some t.1, t.2)
      | none => (none, s)

/-- The rows of a shingle that hold data: those full while it is open, all once it is closed. -/
def rowsDue (s : State) (sh : Shingle) : Nat :=
  let r := rowBlocks s sh.chans.length
  if r = 0 then 0 else if sh.st = .opened then sh.ptr / r else (sh.ptr + r - 1) / r

/-- A copy is on media: every row that holds a byte of it is programmed with its parity (R547). -/
def onMedia (s : State) (loc : Nat) : Bool :=
  match amGet s.media.shingles (locShingle loc) with
  | some sh =>
    match amGet sh.copies (locOff loc) with
    | some c => decide (locOff loc + c.blocks ≤ sh.rows * rowBlocks s sh.chans.length)
    | none => false
  | none => false

/-- Programming of a copy has begun: some unit of its rows is programmed (R132). -/
def begunOnMedia (s : State) (loc : Nat) : Bool :=
  match amGet s.media.shingles (locShingle loc) with
  | some sh =>
    let r := rowBlocks s sh.chans.length
    decide (locOff loc / r < sh.rows) || (decide (locOff loc / r = sh.rows) && !sh.rowUnits.isEmpty)
  | none => false

/-- Count the copies that a finished row completes: stored bytes for accounts, mirrors, and relocation. -/
def countRow (s : State) (n : Nat) (sh : Shingle) (lo hi : Nat) : State :=
  let bytes := (sh.copies.filter (fun e => decide (lo < e.1 + e.2.blocks) && decide (e.1 + e.2.blocks ≤ hi))).foldl
    (fun k e => k + e.2.copy.size) 0
  let all := sh.chans.length * (mProfile s).unit
  let s := notePrograms s all (if sh.writer < 6 then bytes else 0)
  let s := modShingle s n (fun x => { x with rows := x.rows + 1, rowUnits := [] })
  modMedia s (fun m =>
    if sh.writer < 6 then { m with stored := (m.stored + bytes) % 2 ^ 64 }
    else if sh.writer = 6 then { m with mirrorBytes := (m.mirrorBytes + bytes) % 2 ^ 64 }
    else { m with moved := (m.moved + bytes) % 2 ^ 64 })

/-- Row `rows` of a shingle is whole. -/
def finishRow (s : State) (n : Nat) : State :=
  match amGet s.media.shingles n with
  | some sh =>
    let r := rowBlocks s sh.chans.length
    countRow s n sh (sh.rows * r) ((sh.rows + 1) * r)
  | none => s

/-- Fill the rest of a shingle's row with zeros (R547). -/
def fillRow (s : State) (n : Nat) : State :=
  modShingle s n (fun x => { x with ptr := roundUp x.ptr (rowBlocks s x.chans.length) })

/-- Program every row that holds data, padding included. -/
def programAll (s : State) (n : Nat) : State :=
  match amGet s.media.shingles n with
  | some sh =>
    let s := fillRow s n
    let r := rowBlocks s sh.chans.length
    let rows := if r = 0 then 0 else roundUp sh.ptr r / r
    (List.range (rows - sh.rows)).foldl (fun s _ => finishRow s n) s
  | none => s

/-- A shingle with nothing live left, that is relocated or reclaimed, starts its erasure (R548). -/
def beginErase (s : State) (n : Nat) : State :=
  match amGet s.media.shingles n with
  | some sh =>
    if sh.st = .opened ∨ sh.st = .erasing ∨ !(shLive s n).isEmpty then s
    else modShingle s n (fun x => { x with st := .erasing, copies := [], erased := [] })
  | none => s

/-! ### Ages and marks (R537, R565, R566) -/

/-- A shingle's age in nanoseconds. -/
def shAge (s : State) (sh : Shingle) : Nat :=
  match wallNow s with
  | some w => if sh.wall = 0 then s.postmark - sh.basePm else w - sh.wall
  | none => s.postmark - sh.basePm

/-- Mark a closed shingle for refresh. -/
def markRefresh (s : State) (n : Nat) : State :=
  modShingle s n (fun x => if x.st = .closed ∧ x.refresh = none then { x with refresh := some s.postmark } else x)

/-- Mark a shingle for rebuild or relocation. -/
def markRebuild (s : State) (n : Nat) : State :=
  modShingle s n (fun x => if x.rebuild = none then { x with rebuild := some s.postmark } else x)

/-- Shingles marked for refresh and not yet relocated. -/
def refreshWaiting (s : State) : List (Nat × Nat) :=
  s.media.shingles.filterMap (fun e =>
    match e.2.refresh with
    | some p => some (e.1, p)
    | none => none)

/-- REFRESH_BEHIND may be posted again once no refresh has waited more than 1 hour. -/
def rearmBehind (s : State) : State :=
  if s.media.behindPosted ∧ (refreshWaiting s).all (fun e => decide (s.postmark ≤ e.2 + 3600000000000)) = true then
    modMedia s (fun m => { m with behindPosted := false })
  else s

/-! ### Scrub on release (R706) -/

/-- Shingles that hold dead copies of an account are marked for relocation, and SCRUB_DONE is owed for them. -/
def scrubAccount (s : State) (a : Nat) : State :=
  let ns := (s.media.shingles.filter (fun e => e.2.st != .erasing && e.2.st != .orphaned && e.2.copies.any (fun c => c.2.copy.account == a))).map (·.1)
  if ns.isEmpty then s
  else
    let s := ns.foldl (fun s n => modShingle s n (fun x => if x.refresh = none then { x with refresh := some s.postmark } else x)) s
    { s with sec := { s.sec with scrubs := amSet s.sec.scrubs a (ns, 0) } }

/-- A shingle has been erased: SCRUB_DONE for the accounts whose last shingle it was. -/
def noteScrubbed (s : State) (n : Nat) : State :=
  (s.sec.scrubs.filter (fun e => e.2.1.contains n)).foldl (fun s e =>
    let left := e.2.1.filter (· != n)
    if left.isEmpty then postPf { s with sec := { s.sec with scrubs := amErase s.sec.scrubs e.1 } } 0x0A02 e.1 ((e.2.2 + 1) % 2 ^ 32)
    else { s with sec := { s.sec with scrubs := amSet s.sec.scrubs e.1 (left, e.2.2 + 1) } }) s

end Sys2Proof.Machine
end

