-- ==== Sys2Proof/Machine/Digest.lean ====
section
/-! DEFINITION. The SHA-256 digest (chain identity, R178) and the CRC-32C (R117). -/

namespace Sys2Proof.Machine

/-- A 32-bit word rotated right. -/
def rotr (x n : Nat) : Nat := (x / 2 ^ n + x * 2 ^ (32 - n)) % 2 ^ 32

def xor3 (a b c : Nat) : Nat := (a ^^^ b) ^^^ c

def shaK0 : List Nat := [0x428a2f98, 0x71374491, 0xb5c0fbcf, 0xe9b5dba5, 0x3956c25b, 0x59f111f1, 0x923f82a4, 0xab1c5ed5, 0xd807aa98, 0x12835b01, 0x243185be, 0x550c7dc3, 0x72be5d74, 0x80deb1fe, 0x9bdc06a7, 0xc19bf174]

def shaK1 : List Nat := [0xe49b69c1, 0xefbe4786, 0x0fc19dc6, 0x240ca1cc, 0x2de92c6f, 0x4a7484aa, 0x5cb0a9dc, 0x76f988da, 0x983e5152, 0xa831c66d, 0xb00327c8, 0xbf597fc7, 0xc6e00bf3, 0xd5a79147, 0x06ca6351, 0x14292967]

def shaK2 : List Nat := [0x27b70a85, 0x2e1b2138, 0x4d2c6dfc, 0x53380d13, 0x650a7354, 0x766a0abb, 0x81c2c92e, 0x92722c85, 0xa2bfe8a1, 0xa81a664b, 0xc24b8b70, 0xc76c51a3, 0xd192e819, 0xd6990624, 0xf40e3585, 0x106aa070]

def shaK3 : List Nat := [0x19a4c116, 0x1e376c08, 0x2748774c, 0x34b0bcb5, 0x391c0cb3, 0x4ed8aa4a, 0x5b9cca4f, 0x682e6ff3, 0x748f82ee, 0x78a5636f, 0x84c87814, 0x8cc70208, 0x90befffa, 0xa4506ceb, 0xbef9a3f7, 0xc67178f2]

/-- The eight words of a SHA-256 state. -/
structure ShaState where
  a : Nat
  b : Nat
  c : Nat
  d : Nat
  e : Nat
  f : Nat
  g : Nat
  h : Nat
  deriving DecidableEq, Repr

def shaInit : ShaState := { a := 0x6a09e667, b := 0xbb67ae85, c := 0x3c6ef372, d := 0xa54ff53a, e := 0x510e527f, f := 0x9b05688c, g := 0x1f83d9ab, h := 0x5be0cd19 }

/-- One round with schedule word `w` and constant `k`. -/
def shaRound (s : ShaState) (k w : Nat) : ShaState :=
  let s1 := xor3 (rotr s.e 6) (rotr s.e 11) (rotr s.e 25)
  let ch := (s.e &&& s.f) ^^^ ((2 ^ 32 - 1 - s.e) &&& s.g)
  let t1 := (s.h + s1 + ch + k + w) % 2 ^ 32
  let s0 := xor3 (rotr s.a 2) (rotr s.a 13) (rotr s.a 22)
  let mj := xor3 (s.a &&& s.b) (s.a &&& s.c) (s.b &&& s.c)
  { a := (t1 + s0 + mj) % 2 ^ 32, b := s.a, c := s.b, d := s.c, e := (s.d + t1) % 2 ^ 32, f := s.e, g := s.f, h := s.g }

/-- The next schedule word from the sixteen before it, oldest first. -/
def shaNext (ws : List Nat) : Nat :=
  let at_ := fun i => (ws.drop i).headD 0
  let s0 := xor3 (rotr (at_ 1) 7) (rotr (at_ 1) 18) (at_ 1 / 8)
  let s1 := xor3 (rotr (at_ 14) 17) (rotr (at_ 14) 19) (at_ 14 / 1024)
  (at_ 0 + s0 + at_ 9 + s1) % 2 ^ 32

/-- Rounds over the constants, with the sixteen schedule words at hand. -/
def shaRounds : List Nat → List Nat → ShaState → ShaState
  | [], _, s => s
  | k :: ks, ws, s => shaRounds ks (ws.tail ++ [shaNext ws]) (shaRound s k (ws.headD 0))

/-- One 64 B block. -/
def shaBlock (s : ShaState) (ws : List Nat) : ShaState :=
  let r := shaRounds (shaK0 ++ shaK1 ++ shaK2 ++ shaK3) ws s
  { a := (s.a + r.a) % 2 ^ 32, b := (s.b + r.b) % 2 ^ 32, c := (s.c + r.c) % 2 ^ 32, d := (s.d + r.d) % 2 ^ 32,
    e := (s.e + r.e) % 2 ^ 32, f := (s.f + r.f) % 2 ^ 32, g := (s.g + r.g) % 2 ^ 32, h := (s.h + r.h) % 2 ^ 32 }

/-- Bytes as big-endian words. -/
def beWords : List Byte → List Nat
  | a :: b :: c :: d :: r => beNat [a, b, c, d] :: beWords r
  | _ => []

/-- Blocks of sixteen words; `n` bounds them. -/
def shaBlocks : Nat → List Nat → ShaState → ShaState
  | 0, _, s => s
  | n + 1, ws, s => if ws.isEmpty then s else shaBlocks n (ws.drop 16) (shaBlock s (ws.take 16))

/-- SHA-256 of a message of bytes. -/
def sha256 (msg : List Byte) : List Byte :=
  let len := msg.length
  let pad := (119 - len % 64) % 64
  let ws := beWords (msg ++ [0x80#8] ++ List.replicate pad 0#8 ++ beBytes 8 (8 * len))
  let s := shaBlocks (ws.length / 16) ws shaInit
  [s.a, s.b, s.c, s.d, s.e, s.f, s.g, s.h].flatMap (beBytes 4)

/-- One bit of the reflected Castagnoli polynomial division. -/
def crcBit (c : Nat) : Nat := if c % 2 = 1 then (c / 2) ^^^ 0x82F63B78 else c / 2

/-- One byte into the CRC. -/
def crcByte (c : Nat) (b : Byte) : Nat :=
  crcBit (crcBit (crcBit (crcBit (crcBit (crcBit (crcBit (crcBit (c ^^^ b.toNat))))))))

/-- CRC-32C: polynomial 0x1EDC6F41, initial value 0xFFFFFFFF, final inversion (R117). -/
def crc32c (bs : List Byte) : Nat := (bs.foldl crcByte 0xFFFFFFFF) ^^^ 0xFFFFFFFF

/-! ### SHA-384 (R222, R693, and the digests of identity) -/

/-- A 64-bit word rotated right. -/
def rotr64 (x n : Nat) : Nat := (x / 2 ^ n + x * 2 ^ (64 - n)) % 2 ^ 64

def sha5K0 : List Nat := [0x428a2f98d728ae22, 0x7137449123ef65cd, 0xb5c0fbcfec4d3b2f, 0xe9b5dba58189dbbc, 0x3956c25bf348b538, 0x59f111f1b605d019, 0x923f82a4af194f9b, 0xab1c5ed5da6d8118, 0xd807aa98a3030242, 0x12835b0145706fbe, 0x243185be4ee4b28c, 0x550c7dc3d5ffb4e2, 0x72be5d74f27b896f, 0x80deb1fe3b1696b1, 0x9bdc06a725c71235, 0xc19bf174cf692694]

def sha5K1 : List Nat := [0xe49b69c19ef14ad2, 0xefbe4786384f25e3, 0x0fc19dc68b8cd5b5, 0x240ca1cc77ac9c65, 0x2de92c6f592b0275, 0x4a7484aa6ea6e483, 0x5cb0a9dcbd41fbd4, 0x76f988da831153b5, 0x983e5152ee66dfab, 0xa831c66d2db43210, 0xb00327c898fb213f, 0xbf597fc7beef0ee4, 0xc6e00bf33da88fc2, 0xd5a79147930aa725, 0x06ca6351e003826f, 0x142929670a0e6e70]

def sha5K2 : List Nat := [0x27b70a8546d22ffc, 0x2e1b21385c26c926, 0x4d2c6dfc5ac42aed, 0x53380d139d95b3df, 0x650a73548baf63de, 0x766a0abb3c77b2a8, 0x81c2c92e47edaee6, 0x92722c851482353b, 0xa2bfe8a14cf10364, 0xa81a664bbc423001, 0xc24b8b70d0f89791, 0xc76c51a30654be30, 0xd192e819d6ef5218, 0xd69906245565a910, 0xf40e35855771202a, 0x106aa07032bbd1b8]

def sha5K3 : List Nat := [0x19a4c116b8d2d0c8, 0x1e376c085141ab53, 0x2748774cdf8eeb99, 0x34b0bcb5e19b48a8, 0x391c0cb3c5c95a63, 0x4ed8aa4ae3418acb, 0x5b9cca4f7763e373, 0x682e6ff3d6b2b8a3, 0x748f82ee5defb2fc, 0x78a5636f43172f60, 0x84c87814a1f0ab72, 0x8cc702081a6439ec, 0x90befffa23631e28, 0xa4506cebde82bde9, 0xbef9a3f7b2c67915, 0xc67178f2e372532b]

def sha5K4 : List Nat := [0xca273eceea26619c, 0xd186b8c721c0c207, 0xeada7dd6cde0eb1e, 0xf57d4f7fee6ed178, 0x06f067aa72176fba, 0x0a637dc5a2c898a6, 0x113f9804bef90dae, 0x1b710b35131c471b, 0x28db77f523047d84, 0x32caab7b40c72493, 0x3c9ebe0a15c9bebc, 0x431d67c49c100d4c, 0x4cc5d4becb3e42b6, 0x597f299cfc657e2a, 0x5fcb6fab3ad6faec, 0x6c44198c4a475817]

def sha384Init : ShaState := { a := 0xcbbb9d5dc1059ed8, b := 0x629a292a367cd507, c := 0x9159015a3070dd17, d := 0x152fecd8f70e5939, e := 0x67332667ffc00b31, f := 0x8eb44a8768581511, g := 0xdb0c2e0d64f98fa7, h := 0x47b5481dbefa4fa4 }

/-- One round on 64-bit words with schedule word `w` and constant `k`. -/
def sha5Round (s : ShaState) (k w : Nat) : ShaState :=
  let s1 := xor3 (rotr64 s.e 14) (rotr64 s.e 18) (rotr64 s.e 41)
  let ch := (s.e &&& s.f) ^^^ ((2 ^ 64 - 1 - s.e) &&& s.g)
  let t1 := (s.h + s1 + ch + k + w) % 2 ^ 64
  let s0 := xor3 (rotr64 s.a 28) (rotr64 s.a 34) (rotr64 s.a 39)
  let mj := xor3 (s.a &&& s.b) (s.a &&& s.c) (s.b &&& s.c)
  { a := (t1 + s0 + mj) % 2 ^ 64, b := s.a, c := s.b, d := s.c, e := (s.d + t1) % 2 ^ 64, f := s.e, g := s.f, h := s.g }

/-- The next 64-bit schedule word from the sixteen before it, oldest first. -/
def sha5Next (ws : List Nat) : Nat :=
  let at_ := fun i => (ws.drop i).headD 0
  let s0 := xor3 (rotr64 (at_ 1) 1) (rotr64 (at_ 1) 8) (at_ 1 / 128)
  let s1 := xor3 (rotr64 (at_ 14) 19) (rotr64 (at_ 14) 61) (at_ 14 / 64)
  (at_ 0 + s0 + at_ 9 + s1) % 2 ^ 64

def sha5Rounds : List Nat → List Nat → ShaState → ShaState
  | [], _, s => s
  | k :: ks, ws, s => sha5Rounds ks (ws.tail ++ [sha5Next ws]) (sha5Round s k (ws.headD 0))

/-- One 128 B block. -/
def sha5Block (s : ShaState) (ws : List Nat) : ShaState :=
  let r := sha5Rounds (sha5K0 ++ sha5K1 ++ sha5K2 ++ sha5K3 ++ sha5K4) ws s
  { a := (s.a + r.a) % 2 ^ 64, b := (s.b + r.b) % 2 ^ 64, c := (s.c + r.c) % 2 ^ 64, d := (s.d + r.d) % 2 ^ 64,
    e := (s.e + r.e) % 2 ^ 64, f := (s.f + r.f) % 2 ^ 64, g := (s.g + r.g) % 2 ^ 64, h := (s.h + r.h) % 2 ^ 64 }

/-- The message padded to whole 128 B blocks. -/
def sha5Pad (m : List Byte) : List Byte :=
  m ++ [0x80#8] ++ List.replicate ((239 - m.length % 128) % 128) 0#8 ++ beBytes 16 (8 * m.length)

/-- `n` blocks of a padded message. -/
def sha5Blocks : Nat → List Byte → ShaState → ShaState
  | 0, _, s => s
  | n + 1, m, s => sha5Blocks n (m.drop 128) (sha5Block s ((List.range 16).map (fun i => beNat (slice m (8 * i) 8))))

/-- The SHA-384 digest of a message: 48 bytes. -/
def sha384 (m : List Byte) : List Byte :=
  let p := sha5Pad m
  let r := sha5Blocks (p.length / 128) p sha384Init
  [r.a, r.b, r.c, r.d, r.e, r.f].flatMap (beBytes 8)

/-! ### CRC-64 (R594): ECMA-182, reflected -/

def crc64Bit (c : Nat) : Nat := if c % 2 = 1 then (c / 2) ^^^ 0xC96C5795D7870F42 else c / 2

def crc64Byte (c : Nat) (b : Byte) : Nat :=
  crc64Bit (crc64Bit (crc64Bit (crc64Bit (crc64Bit (crc64Bit (crc64Bit (crc64Bit (c ^^^ b.toNat))))))))

/-- The CRC register after more bytes; it starts at all ones, and the CRC is its complement. -/
def crc64Go (c : Nat) (bs : List Byte) : Nat := bs.foldl crc64Byte c

def crc64Init : Nat := 0xFFFFFFFFFFFFFFFF

end Sys2Proof.Machine
end

