-- ==== Sys2Proof/Machine/Pages.lean ====
section
/-! DEFINITION. Pages: bodies and their slots, records and references, chain identity and sharing, conversion of whole pages
(Pages, Page Identity and Number Formats). -/

namespace Sys2Proof.Machine

/-! ### Page keys and references -/

/-- The key of page `i` of stream `l` in a page list. -/
def pk (l i : Nat) : Nat := l * 8192 + i

def pkLayer (k : Nat) : Nat := k / 8192

def pkPage (k : Nat) : Nat := k % 8192

/-- A page reference as its 8 bytes hold it (Table 4.7). -/
def prefWord (r : PRef) : Nat := r.loc % 2 ^ 48 + r.gen % 256 * 2 ^ 48 + r.format % 32 * 2 ^ 56 + r.tier % 8 * 2 ^ 61

/-- The references of stream `l`, in page order. -/
def streamRefs (x : Session) (l : Nat) : AMap PRef := x.refs.filter (fun e => pkLayer e.1 == l)

/-- One more than the highest page index of a stream; 0 while it holds no page. -/
def streamLen (x : Session) (l : Nat) : Nat := (streamRefs x l).foldl (fun n e => max n (pkPage e.1 + 1)) 0

/-- The number of references a session has on a tier (R121). -/
def pagesOn (x : Session) (tier : Nat) : Nat := x.refs.countP (fun e => e.2.tier == tier)

/-- Every reference is at tier 0. -/
def allHbm (x : Session) : Bool := x.refs.all (fun e => e.2.tier == 0)

/-- The record a tier-0 reference names, if the generation agrees (R167). -/
def recOf (s : State) (r : PRef) : Option PageRec :=
  if r.tier = 0 then
    match amGet s.pages r.loc with
    | some p => if p.gen = r.gen then some p else none
    | none => none
  else none

/-- TAIL_INDEX and TAIL_FILLED (R118). -/
def tailIndex (x : Session) : Nat := if x.tokens = 0 then 0 else (x.tokens - 1) / 256

def tailFilled (x : Session) : Nat := if x.tokens = 0 then 0 else x.tokens - 256 * tailIndex x

/-- PROV of a stream: the count in its tail page's record (R305). -/
def streamProv (s : State) (x : Session) (l : Nat) : Nat :=
  (streamRefs x l).foldl (fun n e => max n (match recOf s e.2 with | some p => p.prov | none => 0)) 0

/-- PROV_SLOTS: the largest count of provisional slots of any stream (Table 3.1). -/
def provSlots (s : State) (x : Session) : Nat :=
  x.refs.foldl (fun n e => max n (match recOf s e.2 with | some p => p.prov | none => 0)) 0

/-- FRAMES_OWN: frames of pages whose reference count is 1, and of the tail pages (Table 3.3). -/
def framesOwn (s : State) (x : Session) : Nat :=
  x.refs.foldl (fun n e => n + (match recOf s e.2 with
    | some p => if p.refCount = 1 ∨ p.tail then p.frames else 0
    | none => 0)) 0

/-! ### Bodies (R158 to R161) -/

/-- Sections of a page and rows per section: KV heads with a key and a value row, or the one latent row. -/
def sections (b : List Byte) : Nat := if pfLatent b then 1 else pfKvHeads b

/-- One slot of one section of a page body. -/
def parseSec (b bs : List Byte) (fmt slot h : Nat) : SecRow :=
  let d := pfHeadDim b
  let eb := elBytes fmt d
  let sb := scBytes fmt d
  let part := fun off n => (bs.drop off).take n
  if pfLatent b then
    { kEl := unpackEls fmt (part (slot * eb) eb), kSc := (part (256 * eb + slot * sb) sb).map BitVec.toNat }
  else
    let o := h * 2 * 256 * (eb + sb)
    { kEl := unpackEls fmt (part (o + slot * eb) eb)
      vEl := unpackEls fmt (part (o + 256 * eb + slot * eb) eb)
      kSc := (part (o + 512 * eb + slot * sb) sb).map BitVec.toNat
      vSc := (part (o + 512 * eb + 256 * sb + slot * sb) sb).map BitVec.toNat }

/-- One slot of a page body. -/
def parseSlot (b bs : List Byte) (fmt slot : Nat) : SlotRow := (List.range (sections b)).map (parseSec b bs fmt slot)

/-- The first `n` slots of a page body. -/
def parseBody (b bs : List Byte) (fmt n : Nat) : AMap SlotRow := (List.range n).map (fun i => (i, parseSlot b bs fmt i))

/-- One slot of a row block (R293): each row's elements and then its scales, key row before value row. -/
def parseRecord (b bs : List Byte) (fmt : Nat) : SlotRow :=
  let d := pfHeadDim b
  let eb := elBytes fmt d
  let sb := scBytes fmt d
  let part := fun off n => (bs.drop off).take n
  (List.range (sections b)).map (fun h =>
    if pfLatent b then
      { kEl := unpackEls fmt (part 0 eb), kSc := (part eb sb).map BitVec.toNat }
    else
      let o := h * 2 * (eb + sb)
      { kEl := unpackEls fmt (part o eb), kSc := (part (o + eb) sb).map BitVec.toNat
        vEl := unpackEls fmt (part (o + eb + sb) eb), vSc := (part (o + 2 * eb + sb) sb).map BitVec.toNat })

/-- Bytes RB of one record of a row block (R293). -/
def recordBytes (b : List Byte) (fmt : Nat) : Nat :=
  if pfLatent b then rowBytes fmt (pfHeadDim b) else 2 * pfKvHeads b * rowBytes fmt (pfHeadDim b)

/-- The bytes of an area: slots 0 to 255 in order, a slot not listed as zeros (R162). -/
def areaBytes (rows : AMap SlotRow) (h n : Nat) (f : SecRow → List Byte) : List Byte :=
  (List.range 256).flatMap (fun i =>
    match amGet rows i with
    | some r => padTo n (f ((r.drop h).headD { kEl := [] }))
    | none => List.replicate n 0#8)

/-- A page body's bytes from its slots (R158, R162). -/
def bodyOf (b : List Byte) (fmt : Nat) (rows : AMap SlotRow) : List Byte :=
  let eb := elBytes fmt (pfHeadDim b)
  let sb := scBytes fmt (pfHeadDim b)
  let sc := fun (l : List Nat) => l.map (BitVec.ofNat 8)
  (List.range (sections b)).flatMap (fun h =>
    areaBytes rows h eb (fun r => packEls fmt r.kEl)
      ++ (if pfLatent b then [] else areaBytes rows h eb (fun r => packEls fmt r.vEl))
      ++ areaBytes rows h sb (fun r => sc r.kSc)
      ++ (if pfLatent b then [] else areaBytes rows h sb (fun r => sc r.vSc)))

/-- A section row converted from format `f` to format `g`; equal formats move bits unchanged (R185, R186, R188). -/
def convSec (f g : Nat) (r : SecRow) : SecRow :=
  if f = g then r
  else
    let k := encodeRow g (rowVals f r.kEl r.kSc)
    let v := encodeRow g (rowVals f r.vEl r.vSc)
    { kEl := k.1, kSc := k.2, vEl := v.1, vSc := v.2 }

def convSlot (f g : Nat) (r : SlotRow) : SlotRow := r.map (convSec f g)

def convRows (f g : Nat) (rows : AMap SlotRow) : AMap SlotRow := rows.map (fun e => (e.1, convSlot f g e.2))

/-- Only the slots below `n`. -/
def cutRows (n : Nat) (rows : AMap SlotRow) : AMap SlotRow := rows.filter (fun e => decide (e.1 < n))

/-! ### Records (R165, R170, R183) -/

/-- The region of a locator. -/
def locRegion (loc : Nat) : Nat := loc / 2 ^ 21 % 8

/-- A new page record on a run of frames: the lowest free record of the region (R165), GEN its previous GEN plus 1 unless one is
carried (R170). -/
def openPage (s : State) (x : Session) (d l i fmt : Nat) (gen : Option Nat) : Option (Nat × State) :=
  let b := sessProfile s x
  let n := pageFrames b fmt
  let acc := handleAccount x.handle
  match firstRun s n (stackOrder (d % 6) i l (clStriped (sessClass s x))) with
  | none => none
  | some (st, base) =>
    let loc := amLowestFree s.pages (st / 2 * 2 ^ 21)
    let g := gen.getD ((amGetD s.recGen loc 0 + 1) % 256)
    let s := takeRun s st base n (some acc)
    let p : PageRec :=
      { posBase := 256 * i, account := acc, layer := l, format := fmt, gen := g, frames := n, stack := st, frameBase := base }
    some (loc, { s with pages := amSet s.pages loc p })

def modPage (s : State) (loc : Nat) (f : PageRec → PageRec) : State := { s with pages := amMod s.pages loc f }

/-- An admitted operation reads the page now (R183). -/
def pageBusy (s : State) (loc : Nat) : Bool :=
  s.steps.any (fun e => e.2.phase == .running && e.2.srcs.any (fun q => q == .hbm loc))

/-- Free a page's frames and record; the record keeps its GEN (R170, R183). -/
def freePage (s : State) (loc : Nat) : State :=
  match amGet s.pages loc with
  | some p =>
    { freeRun s (runKey p.stack p.frameBase) with pages := amErase s.pages loc, recGen := amSet s.recGen loc p.gen }
  | none => s

/-- One reference to a page is dropped; at the last, its identity entry goes, and the page with it once nothing reads it
(Table 4.11, R183). -/
def dropRef (s : State) (loc : Nat) : State :=
  match amGet s.pages loc with
  | none => s
  | some p =>
    let s := modPage s loc (fun p => { p with refCount := p.refCount - 1 })
    if p.refCount ≤ 1 then
      let s := { s with idents := s.idents.filter (fun e => e.2 != loc) }
      if pageBusy s loc then s else freePage s loc
    else s

/-- Pages no list names and nothing reads any longer are freed (R183). -/
def reapPages (s : State) : State :=
  ((s.pages.filter (fun e => e.2.refCount == 0 && !pageBusy s e.1)).map (·.1)).foldl freePage s

def setRef (s : State) (d key : Nat) (r : PRef) : State := modSession s d (fun x => { x with refs := amSet x.refs key r })

/-! ### Chain identity and sharing (R178 to R182) -/

/-- The identity of a full page: bytes 0 to 15 of SHA-256 over Table 4.10, as a 128-bit little-endian number. -/
def chainIdentity (parent : Nat) (finger : List Byte) (i : Nat) (ids : List Nat) : Nat :=
  leNat ((sha256 (leBytes 16 parent ++ finger ++ leBytes 4 (256 * i) ++ leBytes 4 0 ++ ids.flatMap (leBytes 4))).take 16)

/-- The parent identity of page `i` of a session, if it is known. -/
def parentIdentity (x : Session) (i : Nat) : Option Nat := if i = 0 then x.rootSalt else amGet x.chain (i - 1)

/-- Compute each identity that has become known, from page `i` on; `n` bounds the pages. -/
def extendChain (b : List Byte) : Nat → Nat → Session → Session
  | 0, _, x => x
  | n + 1, i, x =>
    match amGet x.toks i with
    | none => x
    | some ids =>
      if ids.length < 256 then x
      else
        match amGet x.chain i, parentIdentity x i with
        | some _, _ => extendChain b n (i + 1) x
        | none, some par => extendChain b n (i + 1) { x with chain := amSet x.chain i (chainIdentity par (pfFinger b) i ids) }
        | none, none => x

/-- R180 and R181: a full page of known identity enters the index, or, when a page write filled it, gives way to the page the
index names. -/
def indexPage (d key : Nat) (shares : Bool) (s : State) : State :=
  match amGet s.sessions d with
  | none => s
  | some x =>
    match amGet x.refs key, amGet x.chain (pkPage key) with
    | some r, some cid =>
      match recOf s r with
      | some p =>
        if p.filled < 256 ∨ p.identValid then s
        else
          let k : IdentKey := { account := p.account, chainId := cid, layer := p.layer, format := p.format }
          match s.idents.find? (fun e => e.1 == k) with
          | none =>
            { modPage s r.loc (fun p => { p with chainId := cid, identValid := true, indexed := true }) with
              idents := s.idents ++ [(k, r.loc)] }
          | some (_, loc) =>
            match amGet s.pages loc with
            | some q =>
              if shares then
                let s := modPage s loc (fun q => { q with refCount := q.refCount + 1 })
                dropRef (setRef s d key { r with loc := loc, gen := q.gen }) r.loc
              else modPage s r.loc (fun p => { p with chainId := cid, identValid := true })
            | none => s
      | none => s
    | _, _ => s

/-- The identities a session has come to know are computed, and its full pages looked up (R179). -/
def settleChain (s : State) (d : Nat) (shares : Bool) : State :=
  match amGet s.sessions d with
  | none => s
  | some x =>
    let s := modSession s d (extendChain (sessProfile s x) (x.toks.length + 1) 0)
    (x.refs.map (·.1)).foldl (fun s k => indexPage d k shares s) s

end Sys2Proof.Machine
end

