-- ==== Sys2Proof/Machine/Sessions.lean ====
section
/-! DEFINITION. Sessions: the descriptor's bytes and cache, states and waits, the tide predictor, ebbs and floods (Sessions and
the Descriptor Table; Tiers, Placement and the Tide Predictor). -/

namespace Sys2Proof.Machine

/-! ### The descriptor cache (R122 to R127) -/

/-- Entries of a slice (Table 1.2). -/
def sliceSize (region : Nat) : Nat := if region < 2 then 21846 else 21845

/-- A descriptor's entry is pinned: a background transition of its session runs (R122). -/
def dcPinned (s : State) (d : Nat) : Bool :=
  match amGet s.sessions d with
  | some x => x.state == .ebbing || x.state == .flooding || x.state == .migrating || x.state == .closing
  | none => false

/-- Write a dirty descriptor back: WB_SEQ counts it (R124). -/
def writeBack (s : State) (d : Nat) : State :=
  match amGet s.dcache d with
  | some e =>
    if e.dirty then
      modSession { s with dcache := amSet s.dcache d { e with dirty := false, image := none } } d
        (fun x => { x with wbSeq := (x.wbSeq + 1) % 2 ^ 32 })
    else s
  | none => s

/-- The unpinned entry of a slice with the oldest last access (R123). -/
def dcVictim (s : State) (region : Nat) : Option Nat :=
  ((s.dcache.filter (fun e => e.1 % 6 == region && !dcPinned s e.1)).foldl (fun acc e =>
    match acc with
    | none => some e
    | some b => if e.2.lastAccess < b.2.lastAccess then some e else some b) none).map (·.1)

/-- Access a descriptor through its home slice; `dirty` marks an update (R123, R127). -/
def touch (s : State) (d : Nat) (dirty : Bool) : State :=
  match amGet s.dcache d with
  | some e =>
    let e' : DcEntry :=
      { e with dirty := e.dirty || dirty, dirtySince := if e.dirty then e.dirtySince else s.postmark, lastAccess := s.postmark }
    { s with dcache := amSet s.dcache d e' }
  | none =>
    let full := decide (sliceSize (d % 6) ≤ s.dcache.countP (fun e => e.1 % 6 == d % 6))
    let s := if full then
        match dcVictim s (d % 6) with
        | some v => { writeBack s v with dcache := amErase (writeBack s v).dcache v }
        | none => s
      else s
    { s with dcache := amSet s.dcache d { dirty := dirty, dirtySince := s.postmark, lastAccess := s.postmark } }

/-- A descriptor changed through its slice; an entry that becomes dirty keeps what HBM still holds (R124). -/
def upd (s : State) (d : Nat) (f : Session → Session) : State :=
  let t := touch (modSession s d f) d true
  match amGet s.dcache d with
  | some e => if e.dirty then t else { t with dcache := amMod t.dcache d (fun q => { q with image := amGet s.sessions d }) }
  | none => { t with dcache := amMod t.dcache d (fun q => { q with image := amGet s.sessions d }) }

/-! ### The descriptor's bytes (Tables 3.1 to 3.5) -/

/-- The code of a session state (Table 3.6). -/
def stateCode : SState → Nat
  | .new => 0 | .active => 1 | .idle => 2 | .ebbing => 3 | .parked => 4 | .flooding => 5 | .migrating => 6 | .closing => 7
  | .failed => 8

/-- FLAGS (Table 3.5). -/
def flagsWord (x : Session) : Nat :=
  b2n x.floodLc + b2n x.waitHint * 2 + b2n x.scout.isSome * 4 + b2n x.mirrored * 8 + b2n x.ckptDirty * 16 + b2n x.fence * 32
    + b2n x.incoming * 64 + b2n x.stub * 128 + b2n x.forwarding * 256 + b2n x.narrowed * 512 + b2n x.restored * 1024

/-- Bytes 0 to 251 of a descriptor. -/
def descBody (s : State) (d : Nat) (x : Session) : List Byte :=
  leBytes 8 x.handle ++ leBytes 4 (d % 2 ^ 24 + stateCode x.state * 2 ^ 24 + stateCode x.prior * 2 ^ 28)
    ++ leBytes 2 (flagsWord { x with forwarding := x.forwarding && decide (s.postmark < x.handoverPm + liveVal s .fwdGrace * 1000000) }) ++ leBytes 1 x.partition ++ leBytes 1 x.failCause
    ++ leBytes 4 (refWord x.profileRef) ++ leBytes 4 (refWord x.vocabRef) ++ leBytes 4 (refWord x.constraintRef)
    ++ leBytes 4 (refWord x.classRef)
    ++ leBytes 4 x.tokens ++ leBytes 1 x.layersM1 ++ leBytes 1 (provSlots s x) ++ leBytes 1 x.tailGen ++ leBytes 1 0
    ++ leBytes 8 x.pageList ++ leBytes 8 (match x.scout with | some c => c.listAddr | none => 0)
    ++ leBytes 4 x.chartEpoch ++ leBytes 4 x.wbSeq
    ++ leBytes 8 x.createdPm ++ leBytes 8 x.lastStepPm ++ leBytes 8 x.waitStartPm ++ leBytes 4 0 ++ leBytes 4 x.expectedMs
    ++ leBytes 8 x.resumePm ++ leBytes 8 x.ebbAtPm ++ leBytes 4 x.ckptEpoch ++ leBytes 2 x.ckptSteps
    ++ leBytes 2 (min (inflight s d) 0xFFFF) ++ leBytes 4 x.commitSeq ++ leBytes 4 0
    ++ leBytes 4 0 ++ leBytes 4 (pagesOn x 0) ++ leBytes 4 (pagesOn x 1) ++ leBytes 4 (pagesOn x 2) ++ leBytes 4 (pagesOn x 3)
    ++ leBytes 4 (pagesOn x 4) ++ leBytes 4 (match x.scout with | some c => c.pages.length | none => 0)
    ++ padTo 3 x.carry ++ leBytes 1 (x.carry.length % 4 + x.escPos % 8 * 4 + b2n x.escActive * 32)
    ++ leBytes 4 x.automaton ++ leBytes 8 x.migrateTarget ++ leBytes 8 x.handoverPm ++ leBytes 4 x.migrateEpoch
    ++ leBytes 4 (framesOwn s x) ++ leBytes 4 0
    ++ leBytes 2 (tailIndex x) ++ leBytes 2 (tailFilled x) ++ List.replicate 56 0#8

/-- The 256 bytes of a descriptor, DESC_CRC over the rest (R117, R127). -/
def descBytes (s : State) (d : Nat) (x : Session) : List Byte :=
  let b := descBody s d x
  b ++ leBytes 4 (crc32c b)

/-! ### Waits and the tide predictor (R214 to R219) -/

/-- The greatest `r` with r^4 ≤ v, by bits from the highest; `n` bits remain. -/
def root4Go (v : Nat) : Nat → Nat → Nat
  | 0, r => r
  | n + 1, r => if (r + 2 ^ n) ^ 4 ≤ v then root4Go v n (r + 2 ^ n) else root4Go v n r

/-- The lower edge of wait bin `b`: ⌊2^(b ÷ 4)⌋ ms. -/
def binEdge (b : Nat) : Nat := root4Go (2 ^ b) 22 0

/-- The wait bin of a wait of `w` ms (R214). -/
def waitBin (w : Nat) : Nat := min 79 (Nat.log2 (max w 1 ^ 4))

/-- A saturating 32-bit count, one more. -/
def satInc (h : AMap Nat) (b : Nat) : AMap Nat := amSet h b (min (amGetD h b 0 + 1) (2 ^ 32 - 1))

/-- Sum of a histogram's counts. -/
def histTotal (h : AMap Nat) : Nat := h.foldl (fun n e => n + e.2) 0

/-- The first bin at which the running sum reaches `target`; `last` if none does (R217). -/
def binReaching (target last : Nat) : Nat → AMap Nat → Nat
  | _, [] => last
  | sum, (b, c) :: r => if target ≤ sum + c then b else binReaching target last (sum + c) r

/-- R217: quantile_bin of a histogram of `len` bins. -/
def quantileBin (h : AMap Nat) (q len : Nat) : Nat :=
  let target := (histTotal h * q + 99) / 100
  if target = 0 then 0 else binReaching target (len - 1) 0 h

/-- R217: the predicted wait in ms. -/
def predictedWait (s : State) (x : Session) : Nat :=
  let c := sessClass s x
  match amGet s.accounts (handleAccount x.handle) with
  | none => clDefaultWait c
  | some a =>
    if x.waitHint then
      if 64 ≤ histTotal a.ratioHist then
        min 86400000 (x.expectedMs * quantileBin a.ratioHist (clQuantile c) 128 * 25 / 1000)
      else x.expectedMs
    else if 64 ≤ histTotal a.waitHist then binEdge (quantileBin a.waitHist (clQuantile c) 80)
    else clDefaultWait c

/-- R218: RESUME_PM and EBB_AT_PM from a wait `w`, the ebb delay measured from `from_`. -/
def schedule (s : State) (x : Session) (w from_ : Nat) : Session :=
  let c := sessClass s x
  let resume := x.waitStartPm + w * 1000000
  let dly := if clParkWorth c ≤ w then clDelayMin c else clDelayMax c
  let ebb := from_ + dly * 1000000
  { x with resumePm := resume
           ebbAtPm := if clTierPref c 0 = 0 ∨ resume - clLead c * 1000000 ≤ ebb then 0 else ebb }

/-- A session enters IDLE: a new wait begins (R218). -/
def enterIdle (s : State) (d : Nat) : State :=
  upd s d (fun x =>
    let x := { x with state := .idle, waitStartPm := s.postmark, waiting := true, predFlood := false }
    schedule s x (predictedWait s x) s.postmark)

/-- A wait of an account ends after `w` ms, with the hint if one was set (R214). -/
def recordWait (s : State) (a w : Nat) (hint : Option Nat) : State :=
  modAccount s a (fun c =>
    { c with waitHist := satInc c.waitHist (waitBin w)
             ratioHist := match hint with
               | some e => satInc c.ratioHist (min 127 (40 * w / e))
               | none => c.ratioHist })

/-- A step or page write ends the session's wait, if one runs (R214). -/
def endWait (s : State) (d : Nat) : State :=
  match amGet s.sessions d with
  | none => s
  | some x =>
    if x.waiting then
      recordWait (modSession s d (fun x => { x with waiting := false })) (handleAccount x.handle)
        ((s.postmark - x.waitStartPm) / 1000000) (if x.waitHint then some x.expectedMs else none)
    else s

/-- A session enters ACTIVE: no ebb and no resume stand, and a deferred ebb lapses with its PARK_NOW (R218, R131, R750). -/
def enterActive (s : State) (d : Nat) : State :=
  let s := upd s d (fun x =>
    { x with state := .active, ebbAtPm := 0, resumePm := 0, ebbDeferred := false, ebbBlocked := false, policyTier := none })
  resolveWait s (.parked d) (rBusy 1)

/-! ### Ebbs (R229 to R232, R132) -/

/-- The pages of a session that an ebb copies: references at tier 0 whose page has one reference, stream by stream from stream
0, the highest page index first (R230, R184). -/
def ebbPages (s : State) (x : Session) : List Nat :=
  (List.range (x.layersM1 + 1)).flatMap (fun l =>
    ((streamRefs x l).filter (fun e =>
      match recOf s e.2 with
      | some p => p.refCount == 1
      | none => false)).reverse.map (·.1))

/-- The two newest pages of the stream keep RESIDENT_FORMAT (R187). -/
def narrows (s : State) (x : Session) (key : Nat) : Bool :=
  let b := sessProfile s x
  clNarrow (sessClass s x) && pfNarrow b != pfResident b && decide (pkPage key + 2 < streamLen x (pkLayer key))

/-- The format an ebb stores a page in. -/
def ebbFormat (s : State) (x : Session) (key : Nat) (p : PageRec) : Nat :=
  if narrows s x key then pfNarrow (sessProfile s x) else p.format

/-- The stored size of a page at an ebb (R163). -/
def ebbSize (s : State) (x : Session) (key : Nat) (p : PageRec) : Nat :=
  pageBytes (sessProfile s x) (ebbFormat s x key p)

/-- The retained copy an ebb to media takes in place of programming a full page (R231). -/
def retainedFor (s : State) (x : Session) (key : Nat) (p : PageRec) : Option Nat :=
  if p.filled = 256 ∧ p.identValid then
    (s.copies.find? (fun e => e.1 / 2 ^ 48 == 3 && e.2.retained.isSome && e.2.account == handleAccount x.handle
      && e.2.chainId == some p.chainId && e.2.layer == p.layer && e.2.format == ebbFormat s x key p)).map (·.1)
  else none

/-- Bytes an ebb of these pages charges to a tier, and bytes it programs. -/
def ebbBytes (s : State) (x : Session) (tier : Nat) (mirror : Bool) (keys : List Nat) : Nat × Nat :=
  keys.foldl (fun acc k =>
    match amGet x.refs k with
    | some r =>
      match recOf s r with
      | some p =>
        let n := ebbSize s x k p * (if tier = 3 ∧ mirror then 2 else 1)
        if tier = 3 ∧ (retainedFor s x k p).isSome then acc else (acc.1 + n, acc.2 + n)
      | none => acc
    | none => acc) (0, 0)

/-- The stored sizes of the copies an ebb of these pages makes. -/
def ebbSizes (s : State) (x : Session) (tier : Nat) (keys : List Nat) : List Nat :=
  keys.filterMap (fun k =>
    match amGet x.refs k with
    | some r =>
      match recOf s r with
      | some p => if tier = 3 ∧ (retainedFor s x k p).isSome then none else some (ebbSize s x k p)
      | none => none
    | none => none)

/-- The tier has room for copies of these sizes: a pool device takes pages, the park area has the frames, or the media takes them
(R229, R550, R577). -/
def tierRoom (s : State) (tier : Nat) (sizes : List Nat) : Bool :=
  match tier with
  | 1 => !(poolDevs s).isEmpty
  | 2 => bound s && decide ((parkRuns s).foldl (fun n e => n + e.2) 0 + sizes.foldl (fun n k => n + parkFramesOf k) 0 ≤ parkMax s)
  | _ => mediaRoom s (sizes.foldl (fun n k => n + 256 * copyBlocks k) 0)

/-- Whether a copy to media is mirrored now: the class asks for it and a buddy is bound (R201, R202). -/
def mirrorNow (s : State) (x : Session) : Bool := clMirror (sessClass s x) && bound s

/-- A tier meets the conditions of R229 for an ebb of these pages. -/
def tierQualifies (s : State) (x : Session) (keys : List Nat) (tier : Nat) : Bool :=
  let a := handleAccount x.handle
  let b := ebbBytes s x tier (mirrorNow s x) keys
  let s' := if tier = 3 then makeMediaRoom s a b.1 else s
  canCharge s' a tier b.1 && tierRoom s' tier (ebbSizes s' x tier keys) && (tier != 3 || canCharge s' a 5 b.2)

/-- The tiers an ebb tries: a policy tier first, then the class's list (R229). -/
def ebbOrder (s : State) (x : Session) : List Nat :=
  let ts := clTiers (sessClass s x)
  match x.policyTier with
  | some t => if ts.contains t then t :: ts.filter (· != t) else ts
  | none => ts

/-- The bodies of a scout copy's pages, packed on 256 B boundaries (R189, R190). -/
def scoutPages (s : State) (x : Session) : List Nat → Nat → AMap ScoutPage
  | [], _ => []
  | k :: r, off =>
    let b := sessProfile s x
    match amGet x.refs k with
    | some q =>
      match recOf s q with
      | some p =>
        amSet (scoutPages s x r (off + (pageBytes b (pfScout b) + 255) / 256)) k
          { offset := off, format := pfScout b, gen := p.gen, filled := p.filled,
            rows := convRows p.format (pfScout b) (cutRows p.filled p.rows) }
      | none => scoutPages s x r off
    | none => scoutPages s x r off

/-- Make the scout copy of an ebb, or post SCOUT_SKIPPED where its charge or frames are refused (R189, R190, R210). -/
def makeScout (s : State) (d : Nat) (x : Session) (keys : List Nat) : State :=
  let a := handleAccount x.handle
  let b := sessProfile s x
  let n := keys.length * ((pageBytes b (pfScout b) + 255) / 256 * 256)
  let frames := (n + 65535) / 65536
  if frames = 0 then s
  else if canCharge s a 0 (frames * 65536) && poolFits s a ((x.layersM1 + 1) * 528) then
    match firstRun s frames (stackOrder (d % 6) 0 0 false) with
    | some (st, base) =>
      let (k, s) := takeFresh s
      let s := takeRun s st base frames (some a)
      let loc := amLowestFree s.pages (st / 2 * 2 ^ 21)
      let c : Scout := { run := runKey st base, loc := loc, listAddr := Config.hbmAddr k, pages := scoutPages s x keys 0 }
      upd s d (fun x => { x with scout := some c })
    | none => postAccount s a 0x0205 x.handle
  else postAccount s a 0x0205 x.handle

/-- Free a session's scout copy; SCOUT and SCOUT_PAGES clear with it (R191). -/
def freeScout (s : State) (d : Nat) : State :=
  match amGet s.sessions d with
  | some x =>
    match x.scout with
    | some c => upd (freeRun s c.run) d (fun x => { x with scout := none })
    | none => s
  | none => s

/-- Tier codes tried, one per byte (EBB_BLOCKED). -/
def tierBytes (ts : List Nat) : Nat := leNat ((ts.take 3).map (BitVec.ofNat 8))

/-- The copy an ebb makes of a page (R163, R187, R230). -/
def ebbCopy (s : State) (x : Session) (key : Nat) (p : PageRec) (mirror : Bool) : Copy :=
  let fmt := ebbFormat s x key p
  { account := handleAccount x.handle, layer := p.layer, page := pkPage key, size := ebbSize s x key p, format := fmt, gen := p.gen
    filled := p.filled, narrowed := p.narrowed || fmt != p.format, mirrored := mirror
    chainId := if p.identValid then some p.chainId else none, rows := convRows p.format fmt (cutRows p.filled p.rows) }

/-- A copy as it travels (R545, R578). -/
def travelCopy (s : State) (x : Session) (c : Copy) : PageCopy :=
  { handle := x.handle, device := s.boot.deviceId, account := c.account, mirror := c.mirrored, narrowed := c.narrowed
    tail := decide (c.page = tailIndex x), format := c.format, gen := c.gen, layer := c.layer, page := c.page
    chainId := c.chainId.getD 0, filled := c.filled, body := bodyOf (sessProfile s x) c.format c.rows }

/-- A copy that has come, for a session's profile. -/
def landCopy (b : List Byte) (p : PageCopy) (mirrored : Bool) : Copy :=
  { account := p.account, layer := p.layer, page := p.page, size := p.body.length, format := p.format, gen := p.gen, filled := p.filled
    narrowed := p.narrowed, mirrored := mirrored, chainId := if p.chainId = 0 then none else some p.chainId
    rows := parseBody b p.body p.format p.filled }

/-- A copy sets out for a tier: to the open shingle of the session's home region and, mirrored, to the buddy (R546, R580); to the park
area (R578); to a pool device, whose answer gives its place (R513). -/
def sendCopy (s : State) (d : Nat) (x : Session) (tier key : Nat) (c : Copy) : Option Nat × State :=
  match tier with
  | 1 =>
    match poolDevs s with
    | (_, dev) :: _ =>
      match connTo s dev with
      | some k =>
        (none, sendRequest s k { op := opPoolPut, be := true, aux := c.size, payload := bodyOf (sessProfile s x) c.format c.rows }
          { for_ := .poolPut d key })
      | none => (none, s)
    | [] => (none, s)
  | 2 =>
    let n := parkFramesOf c.size
    match parkFit (parkRuns s) 0 n (parkMax s) with
    | some loc => (some (loc + n * 2 ^ 24), isthmus s (.parkCopy loc (travelCopy s x c)))
    | none => (none, s)
  | _ =>
    let m : MediaCopy :=
      { handle := x.handle, device := s.boot.deviceId, tail := decide (c.page = tailIndex x), blocks := copyBlocks c.size, copy := c }
    let t := mediaPlace s (d % 6) m
    (t.1, if c.mirrored then isthmus t.2 (.mirrorCopy (travelCopy s x c)) else t.2)

/-- A copy of an ebb sets out. -/
def sendEbb (s : State) (d key : Nat) : State :=
  match amGet s.sessions d with
  | none => s
  | some x =>
    match x.ebb, amGet x.refs key with
    | some j, some r =>
      match recOf s r with
      | some p =>
        if j.tier = 3 ∧ (retainedFor s x key p).isSome then s
        else
          let t := sendCopy s d x j.tier key (ebbCopy s x key p (j.tier == 3 && mirrorNow s x))
          match t.1 with
          | some loc => modSession t.2 d (fun x => { x with ebb := x.ebb.map (fun j => { j with placed := amSet j.placed key loc }) })
          | none => t.2
      | none => s
    | _, _ => s

/-- Start an ebb: the first tier that qualifies takes it whole (R229), or it is blocked (R211). The start conditions of R131
hold when this is called. -/
def startEbb (s : State) (d : Nat) : State :=
  match amGet s.sessions d with
  | none => s
  | some x =>
    let a := handleAccount x.handle
    let keys := ebbPages s x
    match (ebbOrder s x).find? (tierQualifies s x keys) with
    | some t =>
      let b := ebbBytes s x t (mirrorNow s x) keys
      let s := if t = 3 then makeMediaRoom s a b.1 else s
      let lapse := t == 3 && clMirror (sessClass s x) && !bound s
      let s := upd s d (fun x =>
        { x with state := .ebbing, prior := .idle, ebbDeferred := false, ebbBlocked := false,
                 ebb := some { tier := t, todo := keys, switched := [], reserve := b.1, lapsed := lapse } })
      let s := if lapse then postAccount s a 0x0207 x.handle else s
      let s := if clScout (sessClass s x) then makeScout s d x keys else s
      noteQuotas (keys.foldl (fun s k => sendEbb s d k) s) a
    | none =>
      let spent := (ebbOrder s x).contains 3 && !canCharge s a 5 (ebbBytes s x 3 (mirrorNow s x) keys).2
      let s := match amGet s.accounts a with
        | some c =>
          if spent ∧ c.budgetSpent = false then
            postAccount (modAccount s a (fun c => { c with budgetSpent := true })) a 0x0204 (c.writtenToday % 2 ^ 48)
          else s
        | none => s
      if x.ebbBlocked then s
      else postAccount (modSession s d (fun x => { x with ebbBlocked := true })) a 0x0201
        (x.handle + tierBytes (ebbOrder s x) * 2 ^ 64)

/-- The ebb's start conditions hold: PROV_SLOTS 0 and INFLIGHT 0 (R131). -/
def ebbClear (s : State) (d : Nat) : Bool :=
  match amGet s.sessions d with
  | some x => provSlots s x == 0 && inflight s d == 0
  | none => false

/-- An ebb is due: it starts, or waits for the counts to reach 0 (R131). -/
def dueEbb (s : State) (d : Nat) : State :=
  if ebbClear s d then startEbb s d else modSession s d (fun x => { x with ebbDeferred := true })

/-- A deferred ebb starts once both counts have reached 0 (R131). -/
def retryDeferred (s : State) (d : Nat) : State :=
  match amGet s.sessions d with
  | some x => if x.ebbDeferred ∧ x.state = .idle ∧ ebbClear s d = true then startEbb s d else s
  | none => s

/-- A copy that was on its way to media when its ebb was cancelled dies; what has been programmed of it counts (R132, Table 12.9), and
its mirror is released. -/
def dropPlaced (s : State) (a loc : Nat) : State :=
  match mediaAt s loc with
  | some m =>
    let s := if m.copy.mirrored then releaseMirror s loc m.copy else s
    if begunOnMedia s loc then countWritten s a (copyCharge 3 m.copy) else s
  | none => s

/-- Undo a running ebb: switched references return to tier 0, the copies it made go, and the scout copy with them (R132). -/
def undoEbb (s : State) (d : Nat) : State :=
  match amGet s.sessions d with
  | none => s
  | some x =>
    match x.ebb with
    | none => s
    | some j =>
      let s := j.switched.foldl (fun s e =>
        let s := match amGet x.refs e.1 with
          | some r =>
            match amGet s.copies (copyKey r.tier r.loc) with
            | some c =>
              if c.retained.isSome then s
              else releaseCopy s (copyKey r.tier r.loc)
            | none => s
          | none => s
        setRef s d e.1 e.2) s
      let s := (j.placed.filter (fun e => !amHas j.switched e.1)).foldl (fun s e =>
        match j.tier with
        | 1 => poolFree s e.2
        | 2 => isthmus s (.release (.park (e.2 % 2 ^ 24)))
        | 3 => dropPlaced s (handleAccount x.handle) e.2
        | _ => s) s
      noteQuotas (freeScout (upd s d (fun x => { x with ebb := none, ebbBlocked := false })) d) (handleAccount x.handle)

/-- An ebb ends without PARKED: its PARK_NOW completes with BUSY 1 (R750). -/
def cancelEbb (s : State) (d : Nat) : State := resolveWait (undoEbb s d) (.parked d) (rBusy 1)

/-! ### Floods (R134, R135, R234 to R236) -/

/-- The references below HBM in the order a flood copies them: every stream's tail page, then stream by stream from stream 0, the
highest page index first (R134, R235). -/
def floodOrder (x : Session) : List Nat :=
  let below := x.refs.filter (fun e => e.2.tier != 0 && e.2.tier != 4)
  let isTail := fun (k : Nat) => pkPage k == tailIndex x
  (below.filter (fun e => isTail e.1)).map (·.1)
    ++ (List.range (x.layersM1 + 1)).flatMap (fun l =>
        ((below.filter (fun e => pkLayer e.1 == l && !isTail e.1)).reverse).map (·.1))

/-- The format a page takes in HBM at a flood: widened where FLOOD_WIDEN asks, else as stored (R188). -/
def floodFormat (b : List Byte) (narrowed : Bool) (fmt : Nat) : Nat :=
  if pfWiden b = 1 ∧ narrowed then pfResident b else fmt

/-- The frames a flood of these pages needs. -/
def floodFrames (s : State) (x : Session) (keys : List Nat) : Nat :=
  keys.foldl (fun n k =>
    match amGet x.refs k with
    | some r =>
      n + pageFrames (sessProfile s x)
        (floodFormat (sessProfile s x) (match amGet s.copies (copyKey r.tier r.loc) with | some c => c.narrowed | none => false)
          r.format)
    | none => n) 0

/-- Reads that waited for a bundle to be in HBM are delivered (R246). -/
def serveBundle (s : State) (o : Nat) : State :=
  match amGet s.bundles o with
  | none => s
  | some b =>
    if b.tier ≠ 0 then s
    else
      b.reads.foldl (fun s r =>
        match amGet s.ops r.1 with
        | some p =>
          match p.origin with
          | .tideway _ c req => resolveTag (sendResp s c req (slice b.body r.2.1 r.2.2)) r.1 (rOk)
          | .ring _ _ => s
        | none => s) (resolveWait { s with bundles := amMod s.bundles o (fun b => { b with reads := [] }) } (.objReplaced o) (rOk))

/-- A bundle goes up to HBM: a run of frames in the region with the most free ones (R243); it waits where there is no room. -/
def raiseBundle (s : State) (o : Nat) (lc : Bool) : State :=
  match amGet s.bundles o with
  | none => s
  | some b =>
    let n := (b.body.length + 65535) / 65536
    let b1 : Bundle := { b with flooding := true, floodLc := lc }
    let wait : State := { s with bundles := amSet s.bundles o b1 }
    if b.tier = 0 then s
    else if canCharge s b.account 0 (65536 * n) then
      match (bestRegion s regions).bind (fun r => firstRun s n [2 * r, 2 * r + 1]) with
      | some (st, base) =>
        let t := takeRun s st base n (some b.account)
        let b2 : Bundle := { b with tier := 0, run := some (runKey st base), mirrored := false, flooding := false, floodLc := lc }
        serveBundle { t with bundles := amSet t.bundles o b2 } o
      | none => wait
    else wait

/-- The bundles of an account that are not in HBM start their flood, in the class of the session's (R245). -/
def floodBundles (s : State) (a : Nat) (lc : Bool) : State :=
  s.bundles.foldl (fun s e => if e.2.account = a ∧ e.2.tier ≠ 0 then raiseBundle s e.1 lc else s) s

/-- Ask for a page of a flood that lies with another device: from the park area over the Isthmus, from a pool device over Tideway
(R578, R513). A page on media is read by this device itself. -/
def fetchPage (s : State) (d : Nat) (x : Session) (lc : Bool) (key : Nat) : State :=
  match amGet x.refs key with
  | some r =>
    match r.tier with
    | 1 =>
      match devOfNum s (r.loc / 2 ^ 32) with
      | some dev =>
        match connTo s dev with
        | some c => sendRequest s c { op := opPoolGet, be := !lc, addr := r.loc % 2 ^ 32 } { for_ := .poolGet d key }
        | none => s
      | none => s
    | 2 =>
      let n := amLowestFree s.pair.reads 1
      isthmus (modPair s (fun p => { p with reads := amSet p.reads n (.flood d key) })) (.read n (.park r.loc))
    | _ => s
  | none => s

/-- Start a session's flood, if HBM can be charged for all its pages; the answer says whether it started (R235). -/
def startFlood (s : State) (d : Nat) (lc predictor : Bool) : State × Bool :=
  match amGet s.sessions d with
  | none => (s, false)
  | some x =>
    let a := handleAccount x.handle
    let keys := floodOrder x
    let n := floodFrames s x keys
    if canCharge s a 0 (n * 65536) then
      let s := upd s d (fun x =>
        { x with state := .flooding, prior := x.state, floodLc := lc, floodBlocked := false,
                 predFlood := x.predFlood || predictor,
                 flood := some { start := s.postmark, predictor := predictor, todo := keys, reserve := n } })
      let s := if predictor then modAccount s a (fun c => { c with floodsStarted := (c.floodsStarted + 1) % 2 ^ 32 }) else s
      let s := keys.foldl (fun s k => fetchPage s d x lc k) s
      let s := requestWake (requestWake s (14 * (d % 6) + 8) lc 0) (14 * (d % 6) + 9) lc 0
      (checkPressure (noteQuotas (floodBundles s a lc) a), true)
    else (s, false)

/-- FLOOD_BLOCKED, once per episode (R211). -/
def floodBlocked (s : State) (d : Nat) : State :=
  match amGet s.sessions d with
  | some x =>
    if x.floodBlocked then s
    else postAccount (modSession s d (fun x => { x with floodBlocked := true })) (handleAccount x.handle) 0x0202
      (x.handle + floodFrames s x (floodOrder x) % 2 ^ 32 * 2 ^ 64)
  | none => s

/-- Every reference is at tier 0: the flood ends, IDLE or ACTIVE (Table 3.9), its scout copy is freed (R191), and what waited for
it goes on (R135, Table 5.9). -/
def endFlood (s : State) (d : Nat) : State :=
  match amGet s.sessions d with
  | none => s
  | some x =>
    match x.flood with
    | none => s
    | some j =>
      if j.todo = [] ∧ x.state = .flooding then
        let s := freeScout (upd s d (fun x =>
          { x with flood := none, state := .idle, ebbAtPm := 0, floodBlocked := false })) d
        let s := if j.stepSeen then enterActive s d else s
        noteQuotas (resolveWait s (.flooded d) (rOk)) (handleAccount x.handle)
      else s

/-- One page of a flood is placed in HBM under R203, its reference switched once every byte is there (R50), and its copy released
or retained (R196, R231). The page stays on the list if no run of frames is free (R235). -/
def placePage (s : State) (d key : Nat) : State :=
  match amGet s.sessions d with
  | none => s
  | some x =>
    match amGet x.refs key, x.flood with
    | some r, some j =>
      match amGet s.copies (copyKey r.tier r.loc) with
      | none => s
      | some c =>
        let b := sessProfile s x
        let fmt := floodFormat b c.narrowed c.format
        match openPage s x d (pkLayer key) (pkPage key) fmt (some r.gen) with
        | none => floodBlocked (checkPressure s) d
        | some (loc, s) =>
          let full := c.filled == 256
          let s := modPage s loc (fun p =>
            { p with filled := c.filled, narrowed := c.narrowed, tail := decide (pkPage key = tailIndex x),
                     chainId := c.chainId.getD 0, identValid := c.chainId.isSome,
                     rows := convRows c.format fmt (cutRows c.filled c.rows) })
          let s := upd s d (fun x =>
            { x with refs := amSet x.refs key { tier := 0, format := fmt, gen := r.gen, loc := loc },
                     flood := some { j with todo := j.todo.filter (· != key), reserve := j.reserve - pageFrames b fmt } })
          let keep := r.tier == 3 && full && pkPage key != tailIndex x
          if keep then { s with copies := amMod s.copies (copyKey 3 r.loc) (fun c => { c with retained := some s.postmark }) }
          else releaseCopy s (copyKey r.tier r.loc)
    | _, _ => s

/-! ### Failure and freeing -/

/-- A session enters FAILED with its cause, and SESSION_FAILED is posted (R129, R148). -/
def failSession (s : State) (d cause : Nat) : State :=
  match amGet s.sessions d with
  | none => s
  | some x =>
    if x.state = .closing ∨ x.state = .failed then s
    else
      let s := writeBack (upd s d (fun x =>
        { x with state := .failed, prior := x.state, failCause := cause, ebb := none, flood := none, move := none,
                 waiting := false, ebbDeferred := false })) d
      let s := resolveWait (resolveWait (resolveWait s (.parked d) (rBusy 1)) (.flooded d) { status := .fault })
        (.replaced d) { status := .fault }
      let s := modPair (resolveWait s (.handover d) { status := .fault }) (fun p => { p with migrations := amErase p.migrations d })
      postAccount s (handleAccount x.handle) 0x0101
        (x.handle + d * 2 ^ 64 + cause * 2 ^ 88 + stateCode x.state * 2 ^ 96)

/-- Descriptors in use (R115). -/
def descInUse (s : State) : Nat := s.sessions.length

/-- TABLE_HIGH and its hysteresis (R149). -/
def noteTable (s : State) : State :=
  let n := descInUse s
  if s.tableHigh then (if n < 14680064 then { s with tableHigh := false } else s)
  else if 15728640 ≤ n then postPf { s with tableHigh := true } 0x0103 0 (n % 2 ^ 24) else s

/-- The retained copies of a session's pages go when it closes or migrates (R232). -/
def dropRetained (s : State) (d : Nat) (x : Session) : State :=
  let a := handleAccount x.handle
  let own := x.chain.map (·.2)
  let shared := s.sessions.any (fun y => y.1 != d && y.2.chain.any (fun q => own.contains q.2))
  if shared then s
  else { s with copies := amFilter s.copies (fun _ c =>
    !(c.retained.isSome && c.account == a && (match c.chainId with | some q => own.contains q | none => false))) }

/-- Free every page, copy, scout copy and page list of a session, and its descriptor (R136, R183, R196, R232). -/
def freeSession (s : State) (d : Nat) : State :=
  match amGet s.sessions d with
  | none => s
  | some x =>
    let a := handleAccount x.handle
    let s := freeScout s d
    let s := x.refs.foldl (fun s e => if e.2.tier = 0 then dropRef s e.2.loc else releaseCopy s (copyKey e.2.tier e.2.loc)) s
    let s := match x.ebb with
      | some j => j.switched.foldl (fun s e => dropRef s e.2.loc) s
      | none => s
    let s := dropRetained s d x
    let s := { s with sessions := amErase s.sessions d, dcache := amErase s.dcache d }
    noteTable (noteQuotas (fitPool s a) a)

end Sys2Proof.Machine
end

