-- ==== Sys2Proof/Machine/AdminAccount.lean ====
section
/-! DEFINITION. The account, quota and partition commands of Table 2.21 (R53, R85, R213, R706). -/

namespace Sys2Proof.Machine

/-- The tier codes of quotas and ceilings. -/
def quotaTier (t : Nat) : Bool := t == 0 || t == 1 || t == 2 || t == 3 || t == 5

/-- CREATE_ACCOUNT. -/
def createAccountSpec (h : Hdr) (partition : Nat) : RingCmd :=
    { pfOnly := true, set3 := true
      bad := fun _ => [(8, decide (4095 < h.target)), (24, partition == 0 || decide (64 < partition))]
      refuse := fun s => [refuseIf (amHas s.accounts h.target) (rBusy 1)]
      run := fun s tag =>
        done { s with accounts := amSet s.accounts h.target { partition := partition } } h tag (rOk) }

/-- CREATE_ACCOUNT. -/
def execCreateAccount (h : Hdr) (partition : Nat) (s : State) : Out := adminCmd h (createAccountSpec h partition) s

/-- Sessions, bundles, indexes or streams of an account remain. -/
def accountInUse (s : State) (a : Nat) : Bool :=
  s.sessions.any (fun e => handleAccount e.2.handle == a) || s.bundles.any (fun e => e.2.account == a)
    || s.indexes.any (fun e => e.2.account == a)

/-- Remove an account: every frame franked to it is zeroed and freed with its pool, streams and configuration versions, its copies
on this device die, and its media key is destroyed (R706). -/
def removeAccount (s : State) (a : Nat) : State :=
  let s := ((s.runs.filter (fun e => e.2.account == some a)).map (·.1)).foldl freeRun (scrubAccount s a)
  let s := if bound s then isthmus s (.release (.account a)) else s
  { s with accounts := amErase s.accounts a
           configs := amMap s.configs (fun _ c => { c with vers := c.vers.filter (fun e => e.2.account != a) })
           copies := s.copies.filter (fun e => e.2.account != a)
           bundles := s.bundles.filter (fun e => e.2.account != a)
           indexes := s.indexes.filter (fun e => e.2.account != a)
           streams := s.streams.filter (fun e => e.2.account != a)
           asKeys := s.asKeys.filter (fun e => e.2.account != a)
           mediaKeys := s.mediaKeys.filter (· != a) }

/-- DELETE_ACCOUNT. -/
def deleteAccountSpec (h : Hdr) : RingCmd :=
    { pfOnly := true, set3 := true
      bad := fun s => [accBad s h.fn h.target 8]
      refuse := fun s => [refuseIf (accountInUse s h.target) (rBusy 1)]
      waits := flrWaits h.fn h.target
      run := fun s tag => done (removeAccount s h.target) h tag (rOk) }

/-- DELETE_ACCOUNT. -/
def execDeleteAccount (h : Hdr) (s : State) : Out := adminCmd h (deleteAccountSpec h) s

/-- SET_QUOTA (R85): a new quota version; one above the partition's ceiling is refused. -/
def setQuotaSpec (h : Hdr) (tier bytes : Nat) : RingCmd :=
    { pfOnly := true, set3 := true
      bad := fun s => [accBad s h.fn h.target 8, (24, !quotaTier tier)]
      refuse := fun s =>
        [match ceilingOf s (accPartition s h.target) tier with
         | some c => refuseIf (decide (c < bytes)) (rQuota tier)
         | none => none]
      waits := flrWaits h.fn h.target
      run := fun s tag =>
        let s := modAccount s h.target (fun x =>
          { x with quota := amSet x.quota tier bytes, quotaVer := amSet x.quotaVer tier (amGetD x.quotaVer tier 0 + 1) })
        done (noteQuotas s h.target) h tag (rOk) }

/-- SET_QUOTA. -/
def execSetQuota (h : Hdr) (tier bytes : Nat) (s : State) : Out := adminCmd h (setQuotaSpec h tier bytes) s

/-- SET_CEILING (R85): 0xFFFF_FFFF_FFFF_FFFF removes the ceiling. -/
def setCeilingSpec (h : Hdr) (tier bytes : Nat) : RingCmd :=
    { pfOnly := true, set3 := true
      bad := fun _ => [(8, h.target == 0 || decide (64 < h.target)), (24, !quotaTier tier)]
      run := fun s tag =>
        let k := h.target * 8 + tier
        let ver := (match amGet s.ceilings k with | some c => c.ver | none => 0) + 1
        let c : Ceiling := { bytes := if bytes = 2 ^ 64 - 1 then none else some bytes, ver := ver }
        done { s with ceilings := amSet s.ceilings k c } h tag (rOk) }

/-- SET_CEILING. -/
def execSetCeiling (h : Hdr) (tier bytes : Nat) (s : State) : Out := adminCmd h (setCeilingSpec h tier bytes) s

/-- A usage field: 2^48 or more reads as all ones (R213). -/
def usage48 (v : Nat) : Nat := if 2 ^ 48 ≤ v then 2 ^ 48 - 1 else v

/-- The usage record of an account (Table 5.6). -/
def usageBytes (s : State) (a : Nat) : List Byte :=
  let u := fun t => usage48 (used s a t)
  let q := fun t => usage48 (quotaOf s a t)
  let ovr := fun (t i : Nat) => if quotaOf s a t ≤ used s a t then 2 ^ i else 0
  leBytes 64 (u 0 + u 1 * 2 ^ 48 + u 2 * 2 ^ 96 + u 3 * 2 ^ 144 + u 5 * 2 ^ 192
    + q 0 * 2 ^ 240 + q 1 * 2 ^ 288 + q 2 * 2 ^ 336 + q 3 * 2 ^ 384 + q 5 * 2 ^ 432
    + accPartition s a * 2 ^ 488 + (ovr 0 0 + ovr 1 1 + ovr 2 2 + ovr 3 3 + ovr 5 4) * 2 ^ 495 + a * 2 ^ 500)

/-- QUERY_USAGE. -/
def queryUsageSpec (h : Hdr) : RingCmd :=
    { set3 := true, hasBuffer := true
      bad := fun s => [accBad s h.fn h.target 8]
      refuse := fun s => [accRefuse s h.fn h.target]
      waits := flrWaits h.fn h.target
      run := fun s tag => doneWrite s h tag (usageBytes s h.target) (rOk) }

/-- QUERY_USAGE. -/
def execQueryUsage (h : Hdr) (s : State) : Out := adminCmd h (queryUsageSpec h) s

/-- A partition that RELEASE_PARTITION empties: once its last session is freed, its accounts go and the receipt is due. -/
def settlePartition (s : State) (p : Nat) : State :=
  if (waitersOn s (.partitionFreed p)).isEmpty || s.sessions.any (fun e => e.2.partition == p) then s
  else resolveWait ((partAccounts s p).foldl removeAccount s) (.partitionFreed p) (rOk)

end Sys2Proof.Machine
end

