-- ==== Sys2Proof/Machine/AdminFn.lean ====
section
/-! DEFINITION. The function, ring and log commands of Table 2.20, and the completion of operations (R65, R72 to R77, R740). -/

namespace Sys2Proof.Machine

/-! ### Identity registers -/

/-- DEV_IDENT of a function (Table 2.3). -/
def devIdent (fn : Nat) : Nat := 0x0C12 * 2 ^ 16 + 0xB1 * 2 ^ 8 + fn

/-- CMDSET of a function (Table 2.5). -/
def cmdsetReg (s : State) (fn : Nat) : Nat := 3 + (if (getFn s fn).set3 then 0 else 2 ^ 8)

/-- The 4 KiB identify structure: the three identity words, and bytes whose places the spec does not give. -/
def identifyBytes (s : State) (fn k : Nat) : List Byte :=
  leBytes 4 (devIdent fn) ++ leBytes 4 (s.boot.version.getD Config.fwVersion) ++ leBytes 4 (cmdsetReg s fn)
    ++ (List.range 4084).map (Config.identifyByte k)

/-- IDENTIFY. -/
def identifySpec (h : Hdr) : RingCmd :=
    { set3 := true, hasBuffer := true
      bad := fun _ => [(12, decide (h.len < 4096))]
      run := fun s tag =>
        let (k, s) := takeFresh s
        doneWrite s h tag (identifyBytes s h.fn k) (rOk 4096) }

/-- IDENTIFY. -/
def execIdentify (h : Hdr) (s : State) : Out := adminCmd h (identifySpec h) s

/-! ### Step rings -/

/-- Step rings a function may have, and the greatest depth of one (Table 2.26). -/
def stepRingLimit (s : State) (fn : Nat) : Nat × Nat := if (getFn s fn).set3 then (8, 1024) else (32, 4096)

/-- CREATE_STEP_RING: ring n and its receipt ring become live at index 0 (R65). -/
def createStepRingSpec (h : Hdr) (sqBase rqBase depth vector : Nat) : RingCmd :=
    { set3 := true
      bad := fun s =>
        let lim := stepRingLimit s h.fn
        [(8, decide (lim.1 ≤ h.target)), (40, !pow2In 16 lim.2 depth), (42, decide (64 ≤ vector))]
      refuse := fun s => [refuseIf (amHas (getFn s h.fn).steps h.target) (rBusy 3)]
      run := fun s tag =>
        let r : Ring := { live := true, base := sqBase, rqBase := rqBase, depth := depth, vector := vector, port := (getFn s h.fn).admin.port }
        done (modFn s h.fn (fun f => { f with steps := amSet f.steps h.target r })) h tag (rOk) }

/-- CREATE_STEP_RING. -/
def execCreateStepRing (h : Hdr) (sqBase rqBase depth vector : Nat) (s : State) : Out := adminCmd h (createStepRingSpec h sqBase rqBase depth vector) s

/-- A step ring whose deletion has begun goes once its operations have ended and their receipts are written, and its
DELETE_STEP_RING is finished (R77, Table 2.20). -/
def settleDeletion (s : State) (fn n : Nat) : State :=
  match amGet (getFn s fn).steps n with
  | some r =>
    if r.deleting && r.held.isEmpty && !s.ops.any (fun e => fromRing fn (.step n) e.2) then
      resolveWait (modFn s fn (fun f => { f with steps := amErase f.steps n })) (.ringReceipts fn n) (rOk)
    else s
  | none => s

/-- DELETE_STEP_RING. -/
def deleteStepRingSpec (h : Hdr) : RingCmd :=
    { set3 := true
      bad := fun s => [(8, !amHas (getFn s h.fn).steps h.target)]
      refuse := fun s => [refuseIf (getRing (getFn s h.fn) (.step h.target)).deleting (rBusy 3)]
      run := fun s tag =>
        let s := modRing s h.fn (.step h.target) (fun r => { r with deleting := true, slots := [] })
        settleDeletion (park s h tag (.ringReceipts h.fn h.target)) h.fn h.target }

/-- DELETE_STEP_RING. -/
def execDeleteStepRing (h : Hdr) (s : State) : Out := adminCmd h (deleteStepRingSpec h) s

/-! ### Dead letters -/

/-- The bytes of dead letters, PHASE 0 (R76). -/
def deadLetterBytes (ds : List DeadLetter) : List Byte := ds.flatMap (fun d => receiptBytes false d.head d.receipt)

/-- READ_DEAD_LETTERS moves up to LEN ÷ 32 receipts, oldest first; what could not be written stays (R76, R740). -/
def readDeadLettersSpec (h : Hdr) : RingCmd :=
    { set3 := true, hasBuffer := true
      run := fun s tag =>
        let f := getFn s h.fn
        let n := min (h.len / 32) f.deadLetters.length
        match hostWrite s h.fn h.addr (deadLetterBytes (f.deadLetters.take n)) with
        | (s, none) =>
          done (modFn s h.fn (fun f => { f with deadLetters := f.deadLetters.drop n, lost := 0 })) h tag (rOk n f.lost)
        | (s, some a) =>
          done (modFn s h.fn (fun f => { f with deadLetters := f.deadLetters.drop ((a - h.addr) / 32) })) h tag
            (rInvalid 16 a) }

/-- READ_DEAD_LETTERS. -/
def execReadDeadLetters (h : Hdr) (s : State) : Out := adminCmd h (readDeadLettersSpec h) s

/-! ### Completion -/

/-- The configuration numbers of the versions held by sessions and operations. -/
def verHeld (s : State) (kind num ver : Nat) : Bool :=
  s.ops.any (fun e => e.2.captured.contains (cfgKey kind num, ver))
    || s.streams.any (fun e => kind == 1 && e.2.vocab == { num := num, ver := ver })
    || s.bundles.any (fun e => kind == 3 && e.2.classRef == { num := num, ver := ver })
    || s.indexes.any (fun e => kind == 3 && e.2.classRef == { num := num, ver := ver })
    || s.sessions.any (fun e => match e.2.masks with
        | some m => (kind == 1 && m.vocab == some { num := num, ver := ver }) || (kind == 2 && m.cset == some { num := num, ver := ver })
        | none => false)
    || (kind == 4 && s.roleProfile == { num := num, ver := ver })
    || s.sessions.any (fun e =>
        match kind with
        | 0 => e.2.profileRef == { num := num, ver := ver }
        | 1 => e.2.vocabRef == { num := num, ver := ver }
        | 2 => e.2.constraintRef == { num := num, ver := ver }
        | 3 => e.2.classRef == { num := num, ver := ver }
        | _ => false)

/-- Free one retired version that nothing holds, and post CONFIG_FREED (R91, R81). -/
def freeVersion (kind num : Nat) (s : State) (e : Nat × CfgVer) : State :=
  if e.2.retired && !verHeld s kind num e.1 then
    let k := cfgKey kind num
    let s := { s with configs := amMod s.configs k (fun c => { c with vers := amErase c.vers e.1 }) }
    let s := match e.2.run with
      | some r => freeRun s r
      | none => s
    let data := e.1 + num * 2 ^ 16 + kind * 2 ^ 32
    let s := if e.2.account = 0xFFFF then s
      else match amGet s.accounts e.2.account with
        | some a => postEvent s a.partition 0x0005 0 data
        | none => s
    postPf s 0x0005 0 data
  else s

/-- Free every retired version that nothing holds (R91). -/
def freeConfigs (s : State) : State :=
  s.configs.foldl (fun s c => c.2.vers.foldl (freeVersion (c.1 / 65536) (c.1 % 65536)) s) s

/-- The rings of a function. -/
def ringsOf (f : Fn) : List RingId := [.admin, .text, .search] ++ f.steps.map (fun e => .step e.1)

/-- A tag has been freed, so ring entries that waited for one are taken (R57). -/
def settleAll (s : State) : State :=
  s.fns.foldl (fun s e => (ringsOf e.2).foldl (fun s rid => settleRing s e.1 rid) s) s

/-- What follows the end of any operation: pages nothing reads are freed (R183), retired versions are freed (R91), ebbs that
waited for INFLIGHT start (R131), step rings being deleted go, and ring entries that waited for a tag are taken (R57). -/
def afterOp (s : State) (o : Op) : State :=
  let s := freeConfigs (reapPages s)
  let s := match o.session with
    | some d => retryDeferred s d
    | none => s
  let s := match o.origin with
    | .ring fn (.step n) => settleDeletion s fn n
    | _ => s
  settleAll s

/-- The receipt of an operation goes where its command came from: its ring, or a COMPLETION over its connection. -/
def deliver (s : State) (o : Op) (r : Rcpt) : State :=
  match o.origin with
  | .ring fn rid => deliverReceipt s fn rid r o.cmdId
  | .tideway fn conn req => twComplete s fn conn req o.be r

/-- RECEIPT_HOLD_EXPIRY (R75): the oldest held receipt of a ring has waited HOLD_US without space. -/
def execReceiptHoldExpiry (fn : Nat) (ring : RingId) (pm : Nat) (s : State) : Out :=
  let s := advance pm s
  match (getRing (getFn s fn) ring).held with
  | [] => .next s
  | h :: rest =>
    if h.since + liveVal s (.receiptHold fn) * 1000 ≤ s.postmark then
      let s := modRing s fn ring (fun r => { r with held := rest })
      let s := postEvent (deadLetter s fn ring h.receipt) fn 0x0003 (ringSource ring) 0
      match ring with
      | .step n => .next (settleDeletion s fn n)
      | _ => .next s
    else .next s

/-- COALESCE_TIMEOUT (R64): TIME_US has passed since the oldest unsignalled receipt. -/
def execCoalesceTimeout (fn : Nat) (ring : RingId) (pm : Nat) (s : State) : Out :=
  let s := advance pm s
  let r := getRing (getFn s fn) ring
  if r.unsig ≠ 0 ∧ r.unsigSince + coalesceTime s fn * 1000 ≤ s.postmark then .next (signalRing s fn ring) else .next s

end Sys2Proof.Machine
end

