-- ==== Sys2Proof/Machine/Attention.lean ====
section
/-! DEFINITION. The attention pipeline (R252 to R281): scores, masks, page partials, merging, and the result blocks of a step, from
the bits a step attends. -/

namespace Sys2Proof.Machine

/-- Where one page of a step's stream is read: the format and slots of an HBM or scout page, or nothing. -/
structure PageView where
  present : Bool
  scout : Bool
  format : Nat
  rows : AMap SlotRow
  deriving DecidableEq, Repr

/-- Everything a step's result depends on (R284). -/
structure AttnIn where
  /-- The profile body. -/
  body : List Byte
  tokens : Nat
  cands : Nat
  parents : List Nat
  query : List Byte
  /-- The candidates' own rows in RESIDENT_FORMAT. -/
  own : List SlotRow
  pages : List PageView
  deriving DecidableEq, Repr

/-- The parent of candidate `c`, if it is another candidate (R289). -/
def parentOf (parents : List Nat) (c : Nat) : Option Nat :=
  let p := (parents.drop c).headD 0x1F
  if p = 0x1F then none else some p

/-- Depth of candidate `c` (R266); `n` bounds the way to the root. -/
def depthGo (parents : List Nat) : Nat → Nat → Nat
  | 0, _ => 1
  | n + 1, c =>
    match parentOf parents c with
    | none => 1
    | some p => depthGo parents n p + 1

def candDepth (parents : List Nat) (c : Nat) : Nat := depthGo parents 16 c

/-- `a` is `c` or an ancestor of `c` (R266). -/
def selfOrAncestor (parents : List Nat) (a : Nat) : Nat → Nat → Bool
  | 0, c => a == c
  | n + 1, c =>
    a == c ||
      (match parentOf parents c with
       | none => false
       | some p => selfOrAncestor parents a n p)

/-- Position of candidate `c` (R266). -/
def candPos (x : AttnIn) (c : Nat) : Nat := x.tokens + candDepth x.parents c - 1

/-- R267: in_window. -/
def inWindow (b : List Byte) (t p : Nat) : Bool :=
  pfWindow b == 0 || decide (p < t + pfWindow b) || decide (t < pfSinks b)

/-- R267: a row of candidate `c` attends token slot `t` (page × 256 + slot). -/
def attended (x : AttnIn) (c t : Nat) : Bool :=
  if t < x.tokens then inWindow x.body t (candPos x c)
  else if t < x.tokens + x.cands then
    selfOrAncestor x.parents (t - x.tokens) 16 c && inWindow x.body (candPos x (t - x.tokens)) (candPos x c)
  else false

/-- The format and row of token slot `t` (R270): a committed slot as its page holds it, a provisional slot in
RESIDENT_FORMAT. -/
def slotAt (x : AttnIn) (t : Nat) : Nat × SlotRow :=
  if t < x.tokens then
    match (x.pages.drop (t / 256)).head? with
    | some v => (v.format, (amGet v.rows (t % 256)).getD [])
    | none => (0, [])
  else (pfResident x.body, (x.own.drop (t - x.tokens)).headD [])

/-- Exact key values of slot `t` for KV head `h`. -/
def keyVals (x : AttnIn) (h t : Nat) : List FVal :=
  let r := slotAt x t
  let sec := (r.2.drop h).headD { kEl := [] }
  rowVals r.1 sec.kEl sec.kSc

/-- Exact value values of slot `t` for KV head `h`: the value row, or the first LATENT_VDIM elements of the latent row. -/
def valVals (x : AttnIn) (h t : Nat) : List FVal :=
  let r := slotAt x t
  let sec := (r.2.drop h).headD { kEl := [] }
  if pfLatent x.body then (rowVals r.1 sec.kEl sec.kSc).take (pfLatentVdim x.body) else rowVals r.1 sec.vEl sec.vSc

/-- Query row of candidate `c` and query head `hq` (R254). -/
def queryVals (x : AttnIn) (c hq : Nat) : List FVal :=
  let d := pfHeadDim x.body
  let n := elBytes (pfQuery x.body) d
  let off := (c * pfQueryHeads x.body + hq) * n
  rowVals (pfQuery x.body) (unpackEls (pfQuery x.body) ((x.query.drop off).take n)) []

/-- R265: the score of a query row against a key row. -/
def score (b : List Byte) (q k : List FVal) : FVal :=
  let x := r32 (fMul (dotProd q k) (dec32 (pfScale b)))
  let c := dec32 (pfSoftcap b)
  if pfSoftcap b = 0 then x
  else
    let y := r32 (fMul x (r32 (fDiv (fInt 1) c)))
    if y = .nan then .nan
    else if !fLt y (fInt 32) then c
    else if !fLt (fInt (-32)) y then fNeg c
    else
      let e := exp2 (r32 (fMul y twoLog2e))
      let t := r32 (fDiv (r32 (fSub e (fInt 1))) (r32 (fAdd e (fInt 1))))
      r32 (fMul c t)

/-- A page partial (R268). -/
structure Partial where
  empty : Bool
  m : FVal
  l : FVal
  o : List FVal
  deriving DecidableEq, Repr

def emptyPartial (v : Nat) : Partial := { empty := true, m := .inf true, l := fZero, o := List.replicate v fZero }

/-- Element `e` of the unnormalised output over slots with their weights and value rows (R268). -/
def weighted (ws : List (Bool × FVal × List FVal)) (e : Nat) : FVal :=
  treeSum (ws.map (fun w => if w.1 then fMul w.2.1 ((w.2.2.drop e).headD fZero) else fZero))

/-- R268: the partial of one row (candidate `c`, query head `hq`, KV head `h`) over page `i`. -/
def pagePartial (x : AttnIn) (c hq h i : Nat) : Partial :=
  let ts := (List.range 256).map (fun k => 256 * i + k)
  let v := pfValueDim x.body
  if ts.any (attended x c) then
    let q := queryVals x c hq
    let xs := ts.map (fun t => if attended x c t then some (score x.body q (keyVals x h t)) else none)
    let m := fMaxList (xs.filterMap id)
    let ps := xs.map (fun a =>
      match a with
      | some a => r16 (exp2 (r32 (fSub a m)))
      | none => fZero)
    let ws := List.zipWith (fun t p => (attended x c t, p, if attended x c t then valVals x h t else [])) ts ps
    { empty := false, m := m, l := treeSum ps, o := (List.range v).map (weighted ws) }
  else emptyPartial v

/-- R271: two partials merge, the lower pages first. -/
def mergePartial (a b : Partial) : Partial :=
  if a.empty then b
  else if b.empty then a
  else
    let m := fMax a.m b.m
    let ca := exp2 (r32 (fSub a.m m))
    let cb := exp2 (r32 (fSub b.m m))
    { empty := false, m := m
      l := r32 (fAdd (r32 (fMul a.l ca)) (r32 (fMul b.l cb)))
      o := List.zipWith (fun p q => r32 (fAdd (r32 (fMul p ca)) (r32 (fMul q cb)))) a.o b.o }

/-- One level of the merge tree (R272). -/
def mergeLevel : List Partial → List Partial
  | a :: b :: r => mergePartial a b :: mergeLevel r
  | l => l

/-- R272: the tree over a list of leaves; `n` bounds the levels. -/
def mergeTree (v : Nat) : Nat → List Partial → Partial
  | 0, l => l.headD (emptyPartial v)
  | _ + 1, [] => emptyPartial v
  | _ + 1, [p] => p
  | n + 1, l => mergeTree v n (mergeLevel l)

/-- A row's partial over pages `a` to `b` of its stream. -/
def spanPartial (x : AttnIn) (c hq h a b : Nat) : Partial :=
  mergeTree (pfValueDim x.body) 16 ((List.range (b + 1 - a)).map (fun k => pagePartial x c hq h (a + k)))

/-- N of a FINAL step: one more than the page of the last provisional slot (R272). -/
def finalPages (x : AttnIn) : Nat := (x.tokens + x.cands - 1) / 256 + 1

/-- Candidate and query head of each output row, in the order of the query block (R254, R257). -/
def outRows (x : AttnIn) : List (Nat × Nat) :=
  (List.range x.cands).flatMap (fun c => (List.range (pfQueryHeads x.body)).map (fun hq => (c, hq)))

/-- The KV head a query head attends (R254). -/
def kvHead (b : List Byte) (hq : Nat) : Nat := if pfLatent b then 0 else hq / max 1 (pfGroup b)

/-- One output element: the quotient rounded once (R273). -/
def outElem (b : List Byte) (o l : FVal) : List Byte :=
  if pfOutput b = 1 then leBytes 4 (rne32 (fDiv o l)) else leBytes 2 (rne16 (fDiv o l))

/-- The log-sum-exp of a root partial (R273). -/
def lseVal (p : Partial) : Nat := rne32 (fMul (r32 (fAdd p.m (fLog2 p.l))) fpLn2)

/-- The output block and the log-sum-exp block of a FINAL step, and the zeros between them (R257, R273, R295). -/
def finalBlock (x : AttnIn) : List Byte :=
  let n := finalPages x
  let ps := (outRows x).map (fun r => spanPartial x r.1 r.2 (kvHead x.body r.2) 0 (n - 1))
  let out := ps.flatMap (fun p => p.o.flatMap (fun o => outElem x.body o p.l))
  padTo (roundUp out.length 64) out ++ ps.flatMap (fun p => leBytes 4 (lseVal p))

/-- ⌈log2 n⌉. -/
def ceilLog2 (n : Nat) : Nat := if n ≤ 1 then 0 else Nat.log2 (n - 1) + 1

/-- The level of the largest node of R276 that starts at `s` and ends by `b`. -/
def coverLevel (s b n top : Nat) : Nat → Nat → Nat
  | 0, k => k
  | f + 1, k =>
    if k < top ∧ s % 2 ^ (k + 1) = 0 ∧ min (s + 2 ^ (k + 1)) n - 1 ≤ b then coverLevel s b n top f (k + 1) else k

/-- R276: the fewest tree nodes over pages `s` to `b`; `f` bounds them. -/
def cover (b n : Nat) : Nat → Nat → List (Nat × Nat)
  | 0, _ => []
  | f + 1, s =>
    if b < s then []
    else
      let k := coverLevel s b n (ceilLog2 n) 14 0
      (k, s / 2 ^ k) :: cover b n f (min (s + 2 ^ k) n)

/-- The maximal runs of present pages from `a` to `b`: first and last page of each; `run` is the start of the run so far. -/
def presentRuns (present : Nat → Bool) : Nat → Nat → Option Nat → List (Nat × Nat)
  | 0, a, run =>
    match run with
    | some r => [(r, a - 1)]
    | none => []
  | n + 1, a, run =>
    if present a then presentRuns present n (a + 1) (some (run.getD a))
    else
      match run with
      | some r => (r, a - 1) :: presentRuns present n (a + 1) none
      | none => presentRuns present n (a + 1) none

/-- An FP32 value's four bytes. -/
def f32Bytes (v : FVal) : List Byte := leBytes 4 (rne32 v)

/-- The bytes of a partial in a record; an empty one has m −infinity and zeros (R277). -/
def partialBytes (p : Partial) : List Byte := f32Bytes p.m ++ f32Bytes p.l ++ p.o.flatMap f32Bytes

/-- A page of the step reads a scout page with an attended slot. -/
def scoutRead (x : AttnIn) (i : Nat) : Bool :=
  (match (x.pages.drop i).head? with
   | some v => v.scout
   | none => false)
  && (List.range 256).any (fun k => (List.range x.cands).any (fun c => attended x c (256 * i + k) && decide (256 * i + k < x.tokens)))

/-- One node record of a partial block (Table 6.3, R277). -/
def nodeRecord (x : AttnIn) (n : Nat) (node : Nat × Nat) : List Byte :=
  let k := node.1
  let j := node.2
  let first := j * 2 ^ k
  let last := min ((j + 1) * 2 ^ k) n - 1
  let kv := if pfLatent x.body then 1 else pfKvHeads x.body
  let g := pfGroup x.body
  let rows := x.cands * g
  let sc := (List.range (last + 1 - first)).any (fun i => scoutRead x (first + i))
  leBytes 16 (k + b2n sc * 2 ^ 8 + j * 2 ^ 16 + first * 2 ^ 32 + last * 2 ^ 48 + rows * 2 ^ 64)
    ++ (List.range kv).flatMap (fun h => (List.range rows).flatMap (fun r =>
        partialBytes (spanPartial x (r / max 1 g) (h * g + r % max 1 g) h first last)))

/-- The partial block of a PARTIAL step over pages `a` to `b` of a tree of `n` (R275 to R279). -/
def partialBlock (x : AttnIn) (a b n : Nat) : List Byte :=
  let present := fun i =>
    match (x.pages.drop i).head? with
    | some v => v.present
    | none => true
  let nodes := (presentRuns present (b + 1 - a) a none).flatMap (fun r => cover r.2 n (r.2 + 1 - r.1) r.1)
  leBytes 4 nodes.length ++ leBytes 4 0 ++ nodes.flatMap (nodeRecord x n)

end Sys2Proof.Machine
end

