-- ==== Sys2Proof/Machine/Vocab.lean ====
section
/-! DEFINITION. Vocabularies, tokenizing and detokenizing (R342 to R352): the body of a vocabulary, UTF-8, splitting into pieces,
byte-level BPE and unigram segmentation, and the text of tokens. -/

namespace Sys2Proof.Machine

/-! ### The vocabulary body (Tables 8.1 to 8.3) -/

def vcMerges (b : List Byte) : Nat := field b 4 4
def vcModel (b : List Byte) : Nat := field b 8 1
def vcNormalize (b : List Byte) : Nat := field b 9 1
def vcPolicy (b : List Byte) : Nat := field b 10 1
def vcSplit (b : List Byte) : Nat := field b 11 1
def vcDigitRun (b : List Byte) : Nat := field b 12 1
def vcSpecials (b : List Byte) : Nat := field b 14 2
def vcTokenOff (b : List Byte) : Nat := field b 16 4
def vcStringOff (b : List Byte) : Nat := field b 20 4
def vcMergeOff (b : List Byte) : Nat := field b 24 4
def vcScoreOff (b : List Byte) : Nat := field b 28 4
def vcByteMapOff (b : List Byte) : Nat := field b 32 4
def vcLen (b : List Byte) (t : Nat) : Nat := field b (vcTokenOff b + 8 * t + 3) 1
def vcIsSpecial (b : List Byte) (t : Nat) : Bool := bit (field b (vcTokenOff b + 8 * t) 4) 16
def vcIsByte (b : List Byte) (t : Nat) : Bool := bit (field b (vcTokenOff b + 8 * t) 4) 17
def vcStrOff (b : List Byte) (t : Nat) : Nat := field b (vcTokenOff b + 8 * t + 4) 4
/-- The byte string of a token. -/
def vcStr (b : List Byte) (t : Nat) : List Byte := slice b (vcStringOff b + vcStrOff b t) (vcLen b t)
def vcLeft (b : List Byte) (k : Nat) : Nat := field b (vcMergeOff b + 12 * k) 4
def vcRight (b : List Byte) (k : Nat) : Nat := field b (vcMergeOff b + 12 * k + 4) 4
def vcResult (b : List Byte) (k : Nat) : Nat := field b (vcMergeOff b + 12 * k + 8) 4
def vcScore (b : List Byte) (t : Nat) : Nat := field b (vcScoreOff b + 4 * t) 4
/-- The byte map: the token of a byte value. -/
def vcByte (b : List Byte) (v : Nat) : Nat := field b (vcByteMapOff b + 4 * v) 4

/-- The areas of a body but the string area, each with the offset of the field that places it: start and size. -/
def vcFixedAreas (b : List Byte) : List (Nat × Nat × Nat) :=
  [(16, vcTokenOff b, 8 * vcTokens b), (32, vcByteMapOff b, 1024)]
    ++ (if vcModel b = 0 then [(24, vcMergeOff b, 12 * vcMerges b)] else [(28, vcScoreOff b, 4 * vcTokens b)])

/-- Bytes of the string area: it reaches to the next area above it, or to the end of the body. -/
def vcStringBytes (b : List Byte) : Nat :=
  (vcFixedAreas b).foldl (fun e a => if vcStringOff b < a.2.1 ∧ a.2.2 ≠ 0 ∧ a.2.1 < e then a.2.1 else e) b.length - vcStringOff b

/-- An area is placed right: on a multiple of 64, after the header, inside the body, over no other area. -/
def areaOk (len hdr : Nat) (areas : List (Nat × Nat × Nat)) (a : Nat × Nat × Nat) : Bool :=
  a.2.1 % 64 == 0 && decide (hdr ≤ a.2.1) && decide (a.2.1 + a.2.2 ≤ len)
    && areas.all (fun c => c.1 == a.1 || a.2.2 == 0 || c.2.2 == 0 || decide (a.2.1 + a.2.2 ≤ c.2.1) || decide (c.2.1 + c.2.2 ≤ a.2.1))

/-- The range checks of Table 8.1, by byte offset. -/
def vocabHeadBad (b : List Byte) : List (Nat × Bool) :=
  [ (0, vcTokens b == 0 || decide (262144 < vcTokens b)),
    (4, decide (1048576 < vcMerges b) || (vcModel b == 1 && vcMerges b != 0)),
    (8, decide (1 < vcModel b)), (9, decide (2 < vcNormalize b)), (10, decide (2 < vcPolicy b)),
    (11, decide (1 < vcSplit b)), (12, decide (3 < vcDigitRun b)), (13, field b 13 1 != 0),
    (14, decide (1024 < vcSpecials b)
      || (List.range (vcTokens b)).countP (vcIsSpecial b) != vcSpecials b),
    (24, vcModel b == 1 && vcMergeOff b != 0), (28, vcModel b == 0 && vcScoreOff b != 0) ]
  ++ (let as := (20, vcStringOff b, vcStringBytes b) :: vcFixedAreas b
      as.map (fun a => (a.1, !areaOk b.length 64 as a)))
  ++ (List.range 28).map (fun i => (36 + i, field b (36 + i) 1 != 0))

/-- Two tokens may share a string only if one is a BYTE token and the other has neither flag. -/
def maySharing (b : List Byte) (t u : Nat) : Bool :=
  let plain := fun x => !vcIsByte b x && !vcIsSpecial b x
  (vcIsByte b t && plain u) || (vcIsByte b u && plain t)

/-- A token entry breaks R343. -/
def tokenBad (b : List Byte) (t : Nat) : Bool :=
  vcLen b t == 0 || decide (vcStringBytes b < vcStrOff b t + vcLen b t) || (vcIsByte b t && vcIsSpecial b t)
    || (vcIsByte b t && (List.range 256).countP (fun v => vcByte b v == t) != 1)
    || (List.range t).any (fun u => vcStr b u == vcStr b t && !maySharing b t u)

/-- A merge breaks R343. -/
def mergeBad (b : List Byte) (k : Nat) : Bool :=
  let n := vcTokens b
  let l := vcLeft b k
  let r := vcRight b k
  let o := vcResult b k
  decide (n ≤ l) || decide (n ≤ r) || decide (n ≤ o) || vcIsSpecial b l || vcIsSpecial b r || vcIsSpecial b o
    || vcStr b o != vcStr b l ++ vcStr b r || (List.range k).any (fun j => vcLeft b j == l && vcRight b j == r)

/-- R343: every check of a vocabulary body, by byte offset. -/
def vocabBad (b : List Byte) : List (Nat × Bool) :=
  if b.length < 64 then [(0, true)]
  else
    vocabHeadBad b
    ++ (List.range (vcTokens b)).map (fun t => (vcTokenOff b + 8 * t, tokenBad b t))
    ++ (List.range 256).map (fun v =>
        (vcByteMapOff b + 4 * v,
          decide (vcTokens b ≤ vcByte b v) || !vcIsByte b (vcByte b v) || vcStr b (vcByte b v) != [BitVec.ofNat 8 v]))
    ++ (if vcModel b = 0 then (List.range (vcMerges b)).map (fun k => (vcMergeOff b + 12 * k, mergeBad b k))
        else (List.range (vcTokens b)).map (fun t => (vcScoreOff b + 4 * t, bits (vcScore b t) 30 23 == 255)))

/-! ### UTF-8 (R349) -/

/-- What stands at the front of a byte string: a code point and its length, a maximal subpart and its length, or bytes that begin
a well-formed sequence and do not complete it. -/
inductive Utf8 where
  | cp (c len : Nat)
  | bad (len : Nat)
  | cut
  deriving DecidableEq, Repr

/-- Continuation bytes: `n` still needed, the next between `lo` and `hi`. -/
def utf8Rest : Nat → Nat → Nat → Nat → Nat → List Byte → Utf8
  | 0, acc, len, _, _, _ => .cp acc len
  | _ + 1, _, _, _, _, [] => .cut
  | n + 1, acc, len, lo, hi, b :: r =>
    if lo ≤ b.toNat ∧ b.toNat ≤ hi then utf8Rest n (acc * 64 + b.toNat % 64) (len + 1) 0x80 0xBF r else .bad len

/-- The front of a byte string under RFC 3629 (R349). -/
def utf8Front : List Byte → Utf8
  | [] => .cut
  | b :: r =>
    let v := b.toNat
    if v < 0x80 then .cp v 1
    else if v < 0xC2 then .bad 1
    else if v < 0xE0 then utf8Rest 1 (v % 32) 1 0x80 0xBF r
    else if v = 0xE0 then utf8Rest 2 0 1 0xA0 0xBF r
    else if v = 0xED then utf8Rest 2 13 1 0x80 0x9F r
    else if v < 0xF0 then utf8Rest 2 (v % 16) 1 0x80 0xBF r
    else if v = 0xF0 then utf8Rest 3 0 1 0x90 0xBF r
    else if v < 0xF4 then utf8Rest 3 (v % 8) 1 0x80 0xBF r
    else if v = 0xF4 then utf8Rest 3 4 1 0x80 0x8F r
    else .bad 1

/-- The UTF-8 bytes of a code point. -/
def utf8Of (c : Nat) : List Byte :=
  let w := fun (v : Nat) => BitVec.ofNat 8 v
  if c < 0x80 then [w c]
  else if c < 0x800 then [w (0xC0 + c / 64), w (0x80 + c % 64)]
  else if c < 0x10000 then [w (0xE0 + c / 4096), w (0x80 + c / 64 % 64), w (0x80 + c % 64)]
  else [w (0xF0 + c / 262144), w (0x80 + c / 4096 % 64), w (0x80 + c / 64 % 64), w (0x80 + c % 64)]

/-! ### Stages 1 and 2 of tokenizing (R344, R350, R351) -/

/-- A unit of the checked input, with the offset in the input just after it. -/
inductive TItem where
  | cp (c stop : Nat)
  | fallback (b stop : Nat)
  | special (t stop : Nat)
  deriving DecidableEq, Repr

/-- The items of a byte string from offset `off`, the offset from which its end is held, and the offset of a subpart that fails
under REJECT. -/
def utf8Items (policy : Nat) (final : Bool) : Nat → Nat → List Byte → List TItem × Nat × Option Nat
  | 0, off, _ => ([], off, none)
  | _, off, [] => ([], off, none)
  | n + 1, off, b :: r =>
    let bad := fun (len : Nat) =>
      if policy = 2 then ([], off, some off)
      else
        let rest := utf8Items policy final n (off + len) ((b :: r).drop len)
        let front := if policy = 0 then
            (List.range len).map (fun i => TItem.fallback (((b :: r).drop i).headD 0#8).toNat (off + i + 1))
          else [TItem.cp 0xFFFD (off + len)]
        (front ++ rest.1, rest.2)
    match utf8Front (b :: r) with
    | .cp c len =>
      let rest := utf8Items policy final n (off + len) ((b :: r).drop len)
      (.cp c (off + len) :: rest.1, rest.2)
    | .bad len => bad len
    | .cut => if final then bad (r.length + 1) else ([], off, none)

/-- The bytes of the code points at the front of a list of items, and whether the list holds nothing else. -/
def cpBytes : List TItem → List Byte × Bool
  | [] => ([], true)
  | .cp c _ :: r => (utf8Of c ++ (cpBytes r).1, (cpBytes r).2)
  | _ :: _ => ([], false)

/-- The items after `n` bytes of code points, if a code point ends there, and the offset reached. -/
def dropBytes : List TItem → Nat → Nat → Option (List TItem × Nat)
  | l, 0, stop => some (l, stop)
  | .cp c e :: r, n + 1, _ => if (utf8Of c).length ≤ n + 1 then dropBytes r (n + 1 - (utf8Of c).length) e else none
  | _, _ + 1, _ => none

/-- The special tokens of a vocabulary. -/
def specialsOf (b : List Byte) : List Nat := (List.range (vcTokens b)).filter (vcIsSpecial b)

/-- The longest special string at the front: its token, the items after it, and the offset reached. -/
def matchSpecial (b : List Byte) (sp : List Nat) (l : List TItem) : Option (Nat × List TItem × Nat) :=
  let bs := (cpBytes l).1
  sp.foldl (fun acc t =>
    let str := vcStr b t
    if str.isPrefixOf bs then
      match dropBytes l str.length 0 with
      | some (r, e) =>
        match acc with
        | some (u, q) => if (vcStr b u).length < str.length then some (t, r, e) else some (u, q)
        | none => some (t, r, e)
      | none => acc
    else acc) none

/-- Stage 2: special strings become their tokens. `tail` is what follows the last item and is held; with it, the answer gives the
offset from which input is held because a longer special string could begin there. -/
def stage2 (b : List Byte) (sp : List Nat) (final : Bool) (tail : List Byte) (heldFrom : Nat) :
    Nat → Nat → List TItem → List TItem × Nat
  | 0, _, l => (l, heldFrom)
  | _, _, [] => ([], heldFrom)
  | n + 1, off, i :: r =>
    let rest := cpBytes (i :: r)
    let open_ := !final && rest.2 && sp.any (fun t =>
      (rest.1 ++ tail).isPrefixOf (vcStr b t) && decide ((rest.1 ++ tail).length < (vcStr b t).length))
    if open_ then ([], off)
    else
      match matchSpecial b sp (i :: r) with
      | some (t, r', e) =>
        let q := stage2 b sp final tail heldFrom n e r'
        (.special t e :: q.1, q.2)
      | none =>
        let e := match i with | .cp _ e => e | .fallback _ e => e | .special _ e => e
        let q := stage2 b sp final tail heldFrom n e r
        (i :: q.1, q.2)

/-! ### Stages 3 and 4: normalisation and pieces (R344, R345) -/

/-- The class of a code point: 0 L, 1 N, 2 M, 3 S, 4 P (R345). -/
def cpClass (c : Nat) : Nat :=
  if c < 128 then
    if (65 ≤ c ∧ c ≤ 90) ∨ (97 ≤ c ∧ c ≤ 122) then 0
    else if 48 ≤ c ∧ c ≤ 57 then 1
    else if c = 32 ∨ (9 ≤ c ∧ c ≤ 13) then 3
    else 4
  else Config.ucClass c % 5

/-- The quick check of a code point is Yes; `form` is 2 under NFKC and 1 otherwise. -/
def cpQuick (form c : Nat) : Bool := if c < 128 then true else Config.ucQuick form c

/-- The normal form of code points: unchanged with NORMALIZE 0, and for ASCII. -/
def normOf (form : Nat) (cs : List Nat) : List Nat :=
  if form = 0 ∨ cs.all (fun c => decide (c < 128)) then cs else Config.ucNorm form cs

/-- Code points, with their offsets, cut where a normal form cannot reach across. -/
def normChunks (form : Nat) : List (Nat × Nat) → List (List (Nat × Nat))
  | [] => []
  | x :: r =>
    match normChunks form r with
    | [] => [[x]]
    | q :: qs =>
      match q with
      | y :: _ => if cpQuick form y.1 && cpClass y.1 != 2 then [x] :: q :: qs else (x :: q) :: qs
      | [] => [x] :: qs

/-- A run normalised, each code point with the offset after the input it came from. -/
def normRun (form : Nat) (l : List (Nat × Nat)) : List (Nat × Nat) :=
  (normChunks (max form 1) l).flatMap (fun q =>
    (normOf form (q.map (·.1))).map (fun c => (c, q.foldl (fun m x => max m x.2) 0)))

/-- Bytes of code points. -/
def cpsLen (l : List (Nat × Nat)) : Nat := l.foldl (fun n x => n + (utf8Of x.1).length) 0

/-- Category splitting: `cur` is the piece so far, `k` its class, `n` its digits (R345). -/
def splitGo (form digit : Nat) : List (Nat × Nat) → Nat → Nat → List (Nat × Nat) → List (List (Nat × Nat))
  | cur, _, _, [] => if cur.isEmpty then [] else [cur]
  | cur, k, n, x :: r =>
    let c := cpClass x.1
    if cur.isEmpty then splitGo form digit [x] c (if c = 1 then 1 else 0) r
    else if 8192 < cpsLen cur + (utf8Of x.1).length then cur :: splitGo form digit [x] c (if c = 1 then 1 else 0) r
    else if c = 2 ∨ cpQuick form x.1 = false then splitGo form digit (cur ++ [x]) k n r
    else if c = k ∧ ¬(c = 1 ∧ digit ≠ 0 ∧ n = digit) then splitGo form digit (cur ++ [x]) k (if c = 1 then n + 1 else n) r
    else if k = 3 ∧ c ≠ 3 ∧ (cur.getLast?.map (·.1)) = some 0x20 then
      (if cur.length = 1 then [] else [cur.dropLast])
        ++ splitGo form digit ((cur.getLast?.toList) ++ [x]) c (if c = 1 then 1 else 0) r
    else cur :: splitGo form digit [x] c (if c = 1 then 1 else 0) r

/-- With SPLIT 0 a run is one piece, cut at 8,192 bytes. -/
def cutGo : List (Nat × Nat) → List (Nat × Nat) → List (List (Nat × Nat))
  | cur, [] => if cur.isEmpty then [] else [cur]
  | cur, x :: r =>
    if cur.isEmpty then cutGo [x] r
    else if 8192 < cpsLen cur + (utf8Of x.1).length then cur :: cutGo [x] r
    else cutGo (cur ++ [x]) r

/-- The pieces of a normalised run. -/
def piecesOf (b : List Byte) (l : List (Nat × Nat)) : List (List (Nat × Nat)) :=
  if vcSplit b = 1 then splitGo (if vcNormalize b = 2 then 2 else 1) (vcDigitRun b) [] 9 0 l else cutGo [] l

/-! ### Stage 5: segmentation (R346, R347) -/

/-- The rank and RESULT of the merge of two tokens. -/
def mergeOf (b : List Byte) (l r : Nat) : Option (Nat × Nat) :=
  ((List.range (vcMerges b)).find? (fun k => vcLeft b k == l && vcRight b k == r)).map (fun k => (k, vcResult b k))

/-- The lowest-ranked pair of a token list, the leftmost among equals: its rank, its place and its RESULT. -/
def bestPair (b : List Byte) : List Nat → Nat → Option (Nat × Nat × Nat)
  | x :: y :: r, j =>
    match mergeOf b x y, bestPair b (y :: r) (j + 1) with
    | some (k, o), some q => if q.1 < k then some q else some (k, j, o)
    | some (k, o), none => some (k, j, o)
    | none, q => q
  | _, _ => none

/-- R346: merge the best pair until none is left. -/
def bpeGo (b : List Byte) : Nat → List Nat → List Nat
  | 0, s => s
  | n + 1, s =>
    match bestPair b s 0 with
    | some (_, j, o) => bpeGo b n (s.take j ++ [o] ++ s.drop (j + 2))
    | none => s

/-- R346: byte-level BPE of a piece. -/
def bpe (b : List Byte) (piece : List Byte) : List Nat :=
  bpeGo b piece.length (piece.map (fun v => vcByte b v.toNat))

/-- A path of the unigram lattice: score, tokens counted, tokens. -/
structure UniPath where
  score : FVal
  count : Nat
  toks : List Nat

/-- A list of tokens is lower than another at their first difference. -/
def toksLower : List Nat → List Nat → Bool
  | a :: r, b :: q => if a = b then toksLower r q else decide (a < b)
  | _, _ => false

/-- R347: a path replaces the best one so far. -/
def uniBetter (v p : UniPath) : Bool :=
  fLt p.score v.score
    || (!fLt v.score p.score && (decide (v.count < p.count) || (v.count == p.count && toksLower v.toks p.toks)))

/-- A path with tokens after it, each score added and rounded. -/
def uniAppend (b : List Byte) (p : UniPath) (ts : List Nat) : UniPath :=
  ts.foldl (fun p t =>
    { score := r32 (fAdd p.score (dec32 (vcScore b t))), count := p.count + 1, toks := p.toks ++ [t] }) p

/-- The plain tokens of a vocabulary: neither BYTE nor SPECIAL. -/
def plainToks (b : List Byte) : List Nat := (List.range (vcTokens b)).filter (fun t => !vcIsByte b t && !vcIsSpecial b t)

/-- The best path to each code point end so far, extended to end `i` (R347). -/
def uniStep (b : List Byte) (plain : List Nat) (strs : List (List Byte)) (tab : List (Option UniPath)) (i : Nat) :
    Option UniPath :=
  (List.range i).foldl (fun acc j =>
    match (tab.drop j).headD none with
    | none => acc
    | some p =>
      let here := ((strs.take i).drop j).flatten
      let starts := (strs.drop j).flatten
      let cands := (plain.filter (fun t => vcStr b t == here)).map (fun t => uniAppend b p [t])
      let more := if i = j + 1 ∧ (plain.any (fun t => (vcStr b t).isPrefixOf starts
          && (List.range (strs.length + 1)).any (fun e => vcStr b t == ((strs.take e).drop j).flatten))) = false then
          [uniAppend b p (here.map (fun v => vcByte b v.toNat))] else []
      (cands ++ more).foldl (fun acc v =>
        match acc with
        | none => some v
        | some q => if uniBetter v q then some v else some q) acc) none

/-- R347: unigram segmentation of a piece of code points. -/
def unigram (b : List Byte) (cps : List Nat) : List Nat :=
  let strs := cps.map utf8Of
  let tab := (List.range cps.length).foldl (fun tab i => tab ++ [uniStep b (plainToks b) strs tab (i + 1)])
    [some { score := fZero, count := 0, toks := [] }]
  match tab.getLast? with
  | some (some p) => p.toks
  | _ => []

/-- Stage 5 on one piece. -/
def segment (b : List Byte) (cps : List Nat) : List Nat :=
  if vcModel b = 0 then bpe b (cps.flatMap utf8Of) else unigram b cps

/-! ### A tokenize request (R344, R351, R357, R358) -/

/-- A finished piece: its tokens, its code points with their offsets (none for a token on its own), and the offset after it. -/
structure TPiece where
  toks : List Nat
  cps : List (Nat × Nat)
  stop : Nat

/-- Items cut into pieces; `run` is the run of code points so far. The flag says that the last piece could still grow. -/
def toPieces (b : List Byte) : List (Nat × Nat) → List TItem → List TPiece × Bool
  | run, [] => (closeRun b run, !run.isEmpty)
  | run, .cp c e :: r => toPieces b (run ++ [(c, e)]) r
  | run, .fallback v e :: r =>
    let q := toPieces b [] r
    (closeRun b run ++ { toks := [vcByte b v], cps := [], stop := e } :: q.1, q.2)
  | run, .special t e :: r =>
    let q := toPieces b [] r
    (closeRun b run ++ { toks := [t], cps := [], stop := e } :: q.1, q.2)
where
  closeRun (b : List Byte) (run : List (Nat × Nat)) : List TPiece :=
    (piecesOf b (normRun (vcNormalize b) run)).map (fun p =>
      { toks := segment b (p.map (·.1)), cps := p, stop := p.foldl (fun m x => max m x.2) 0 })

/-- What a tokenize request does: the pieces it may write in order, what is held after all of them, and where it fails. -/
structure TokRun where
  pieces : List TPiece
  /-- The last piece is not complete and is held. -/
  openEnd : Bool
  /-- Offset in held and input bytes together from which raw bytes are held. -/
  rawFrom : Nat
  fail : Option Nat

/-- Tokenize `held` code points, then raw bytes (held ones first): R344, R351. -/
def tokenizeRun (b : List Byte) (special final : Bool) (heldCps : List Nat) (raw : List Byte) : TokRun :=
  let d := utf8Items (vcPolicy b) final (raw.length + 1) 0 raw
  let items := d.1
  let q := if special && d.2.2.isNone then stage2 b (specialsOf b) final (raw.drop d.2.1) d.2.1 (items.length + 1) 0 items
    else if special then stage2 b (specialsOf b) true [] d.2.1 (items.length + 1) 0 items
    else (items, d.2.1)
  let p := toPieces b (heldCps.map (fun c => (c, 0))) q.1
  { pieces := p.1, openEnd := p.2 && !final, rawFrom := q.2, fail := d.2.2 }

/-! ### Detokenizing (R352) -/

/-- Bytes turned to well-formed text: what is written, what is held at the end, and the offset of a subpart that fails under
REJECT. -/
def detokGo (policy : Nat) : Nat → Nat → List Byte → List Byte × List Byte × Option Nat
  | 0, _, bs => ([], bs, none)
  | n + 1, off, bs =>
    match utf8Front bs with
    | .cp _ len =>
      let r := detokGo policy n (off + len) (bs.drop len)
      (bs.take len ++ r.1, r.2)
    | .bad len =>
      if policy = 2 then ([], bs, some off)
      else
        let r := detokGo policy n (off + len) (bs.drop len)
        ([0xEF#8, 0xBF#8, 0xBD#8] ++ r.1, r.2)
    | .cut => ([], bs, none)

/-- What detokenizing gives: text, tokens consumed, bytes joined, held bytes, and the offset in the joined bytes of a failure. -/
structure Detok where
  text : List Byte := []
  used : Nat := 0
  joined : Nat := 0
  carry : List Byte
  fail : Option Nat := none

/-- Detokenize tokens while their text fits in `cap` bytes (R352, R360). -/
def detokRun (b : List Byte) (skip : Bool) (cap : Nat) : List Nat → Detok → Detok
  | [], x => x
  | t :: r, x =>
    let str := if skip && vcIsSpecial b t then [] else vcStr b t
    let bs := x.carry ++ str
    let o := detokGo (vcPolicy b) (bs.length + 1) 0 bs
    match o.2.2 with
    | some off =>
      if cap < x.text.length + o.1.length then x
      else { x with text := x.text ++ o.1, fail := some (x.joined + off - x.carry.length) }
    | none =>
      if cap < x.text.length + o.1.length then x
      else detokRun b skip cap r
        { text := x.text ++ o.1, used := x.used + 1, joined := x.joined + str.length, carry := o.2.1 }

/-- The end of a stream: held bytes become one U+FFFD, or fail under REJECT (R352). -/
def detokEnd (b : List Byte) (cap : Nat) (x : Detok) : Detok :=
  if x.carry.isEmpty ∨ x.fail.isSome then x
  else if vcPolicy b = 2 then { x with fail := some (x.joined - x.carry.length) }
  else if cap < x.text.length + 3 then x
  else { x with text := x.text ++ [0xEF#8, 0xBF#8, 0xBD#8], carry := [] }

end Sys2Proof.Machine
end

