-- ==== Sys2Proof/Machine/CSets.lean ====
section
/-! DEFINITION. Constraint sets, rule lists, the automaton and the masks of nodes (R362 to R374). -/

namespace Sys2Proof.Machine

/-! ### The constraint set body (Tables 8.8 to 8.12) -/

def csTokens (b : List Byte) : Nat := field b 0 4
def csStates (b : List Byte) : Nat := field b 4 4
def csStart (b : List Byte) : Nat := field b 8 4
def csResume (b : List Byte) : Nat := field b 12 4
def csEpoch (b : List Byte) : Nat := field b 16 4
def csClasses (b : List Byte) : Nat := field b 20 4
def csTransCount (b : List Byte) : Nat := field b 24 4
def csBanCount (b : List Byte) : Nat := field b 28 4
def csForceCount (b : List Byte) : Nat := field b 32 4
def csEscLen (b : List Byte) : Nat := field b 36 1
def csEscTok (b : List Byte) (i : Nat) : Nat := field b (40 + 4 * i) 4
def csStateOff (b : List Byte) : Nat := field b 72 4
def csTransOff (b : List Byte) : Nat := field b 76 4
def csClassOff (b : List Byte) : Nat := field b 80 4
def csSeqOff (b : List Byte) : Nat := field b 84 4
def csSeqBytes (b : List Byte) : Nat := field b 88 4

/-- Mask size of a token count (R372). -/
def maskSize (tokens : Nat) : Nat := (tokens + 511) / 512 * 64

def stClass (b : List Byte) (q : Nat) : Nat := field b (csStateOff b + 16 * q) 4
def stDefault (b : List Byte) (q : Nat) : Nat := field b (csStateOff b + 16 * q + 4) 4
def stFirst (b : List Byte) (q : Nat) : Nat := field b (csStateOff b + 16 * q + 8) 4
def stNum (b : List Byte) (q : Nat) : Nat := field b (csStateOff b + 16 * q + 12) 4
def trTok (b : List Byte) (k : Nat) : Nat := field b (csTransOff b + 8 * k) 4
def trTarget (b : List Byte) (k : Nat) : Nat := field b (csTransOff b + 8 * k + 4) 4

/-- No state, no class, no target: all ones (Tables 8.10 and R369). -/
def offGrammar : Nat := 0xFFFFFFFF

/-! ### Sequence entries (Table 8.12) -/

/-- Sequences read from a list of bytes at `off`: bans then forces, and the offset of the first entry or field that fails. -/
structure Seqs where
  bans : List (List Nat) := []
  forces : List (List Nat) := []
  bad : Option Nat := none

/-- The offset at which one sequence entry fails, if it does. -/
def seqBad (bs : List Byte) (off size pos kind tokens : Nat) : Option Nat :=
  let o := off + pos
  let len := field bs o 1
  if size < pos + 4 then some o
  else if field bs (o + 1) 1 ≠ kind then some (o + 1)
  else if field bs (o + 2) 2 ≠ 0 then some (o + 2)
  else if len < (if kind = 0 then 1 else 2) ∨ 64 < len ∨ size < pos + 4 + 4 * len then some o
  else ((List.range len).find? (fun j => decide (tokens ≤ field bs (o + 4 + 4 * j) 4))).map (fun j => o + 4 + 4 * j)

/-- Read `nb` bans and `nf` forces, which fill `size` bytes exactly (R364). -/
def readSeqs (bs : List Byte) (off size tokens : Nat) : Nat → Nat → Nat → Nat → Seqs
  | 0, _, _, _ => {}
  | n + 1, pos, nb, nf =>
    if nb = 0 ∧ nf = 0 then (if pos = size then {} else { bad := some (off + pos) })
    else
      let kind := if nb = 0 then 1 else 0
      match seqBad bs off size pos kind tokens with
      | some o => { bad := some o }
      | none =>
        let len := field bs (off + pos) 1
        let ts := (List.range len).map (fun j => field bs (off + pos + 4 + 4 * j) 4)
        let r := readSeqs bs off size tokens n (pos + 4 + 4 * len) (if kind = 0 then nb - 1 else nb)
          (if kind = 0 then nf else nf - 1)
        if kind = 0 then { r with bans := ts :: r.bans } else { r with forces := ts :: r.forces }

/-- The sequences of a constraint set. -/
def csSeqs (b : List Byte) : Seqs :=
  readSeqs b (csSeqOff b) (csSeqBytes b) (csTokens b) (csBanCount b + csForceCount b + 1) 0 (csBanCount b) (csForceCount b)

/-- The sequences of a rule list (R366). -/
def ruleSeqs (bs : List Byte) (tokens : Nat) : Seqs :=
  let nb := field bs 0 4
  let nf := field bs 4 4
  readSeqs bs 16 (bs.length - 16) tokens (nb + nf + 1) 0 nb nf

/-- R366: the first offset at which a rule list fails for a vocabulary of `tokens` tokens. -/
def rulesBad (bs : List Byte) (tokens : Option Nat) : Option Nat :=
  if bs.length < 16 then some 0
  else if 4096 < field bs 0 4 then some 0
  else if 256 < field bs 4 4 then some 4
  else if some (field bs 8 4) ≠ tokens then some 8
  else if field bs 12 4 ≠ 0 then some 12
  else (ruleSeqs bs (field bs 8 4)).bad

/-! ### The checks of a constraint set (R364) -/

/-- The areas of a constraint set, each with the offset of the field that places it: start and size. -/
def csAreas (b : List Byte) : List (Nat × Nat × Nat) :=
  [ (72, csStateOff b, 16 * csStates b), (76, csTransOff b, 8 * csTransCount b),
    (80, csClassOff b, csClasses b * maskSize (csTokens b)), (84, csSeqOff b, csSeqBytes b) ]

/-- A state entry's transitions are in the table, in ascending TOKEN, none twice, and its class and targets exist. -/
def stateBad (b : List Byte) (q : Nat) : Bool :=
  let first := stFirst b q
  let num := stNum b q
  decide (csTransCount b < first + num)
    || (List.range (num - 1)).any (fun i => decide (trTok b (first + i + 1) ≤ trTok b (first + i)))
    || (stClass b q != offGrammar && decide (csClasses b ≤ stClass b q))
    || (stDefault b q != offGrammar && decide (csStates b ≤ stDefault b q))

/-- R364: every check of a constraint set body, by byte offset. -/
def csetBad (b : List Byte) : List (Nat × Bool) :=
  if b.length < 128 then [(0, true)]
  else
    [ (0, csTokens b == 0 || decide (262144 < csTokens b)), (4, csStates b == 0 || decide (1048576 < csStates b)),
      (8, decide (csStates b ≤ csStart b)), (12, decide (csStates b ≤ csResume b)), (20, decide (16384 < csClasses b)),
      (24, decide (67108864 < csTransCount b)), (28, decide (65536 < csBanCount b)), (32, decide (4096 < csForceCount b)),
      (36, decide (8 < csEscLen b)) ]
    ++ (List.range 3).map (fun i => (37 + i, field b (37 + i) 1 != 0))
    ++ (List.range 8).map (fun i => (40 + 4 * i, decide (i < csEscLen b) && decide (csTokens b ≤ csEscTok b i)))
    ++ (csAreas b).map (fun a => (a.1, !areaOk b.length 128 (csAreas b) a))
    ++ (List.range 36).map (fun i => (92 + i, field b (92 + i) 1 != 0))
    ++ (List.range (csStates b)).map (fun q => (csStateOff b + 16 * q, stateBad b q))
    ++ (List.range (csTransCount b)).map (fun k =>
        (csTransOff b + 8 * k, decide (csTokens b ≤ trTok b k) || decide (csStates b ≤ trTarget b k)))
    ++ (match (csSeqs b).bad with
        | some o => [(o, true)]
        | none => [])

/-! ### The automaton (R369 to R371) -/

/-- A captured constraint set: the open set of R362, or a body. -/
inductive CSet where
  | opened
  | body (b : List Byte)
  deriving DecidableEq, Repr

/-- Start state, state count, epoch, escape sequence and RESUME_STATE of a constraint set. -/
def CSet.start : CSet → Nat
  | .opened => 0
  | .body b => csStart b
def CSet.states : CSet → Nat
  | .opened => 1
  | .body b => csStates b
def CSet.epoch : CSet → Nat
  | .opened => 0
  | .body b => csEpoch b
def CSet.esc : CSet → List Nat
  | .opened => []
  | .body b => (List.range (csEscLen b)).map (csEscTok b)
def CSet.resume : CSet → Nat
  | .opened => 0
  | .body b => csResume b
def CSet.seqs : CSet → Seqs
  | .opened => {}
  | .body b => csSeqs b

/-- The token is allowed by the MASK_CLASS of a state; a state the set does not have allows none (R371). -/
def CSet.allows (c : CSet) (q t : Nat) : Bool :=
  match c with
  | .opened => q == 0
  | .body b =>
    decide (q < csStates b) && decide (t < csTokens b)
      && (stClass b q == offGrammar
          || bit (field b (csClassOff b + stClass b q * maskSize (csTokens b) + t / 8) 1) (t % 8))

/-- The target of a token listed among the transitions of a state. -/
def listedTarget (b : List Byte) (q t : Nat) : Option Nat :=
  ((List.range (stNum b q)).find? (fun i => trTok b (stFirst b q + i) == t)).map (fun i => trTarget b (stFirst b q + i))

/-- R369: next_state. -/
def CSet.next (c : CSet) (q t : Nat) : Nat :=
  if q = offGrammar then offGrammar
  else if !c.allows q t then offGrammar
  else
    match c with
    | .opened => 0
    | .body b => (listedTarget b q t).getD (stDefault b q)

/-- What the masks of a round depend on (R373): the set, the token counts, the rule list, the command set. -/
structure MaskRules where
  cset : Option CSet
  tokens : Nat
  mismatch : Bool
  set4 : Bool
  rules : Seqs

/-- A mask's outcome (Table 8.13), by its code in OUTCOMES: 0 OK, 1 FORCED, 2 ESCAPED, 3 EMPTY. -/
structure NodeMask where
  allowed : Nat → Bool
  outcome : Nat

/-- The last `n` tokens of a history. -/
def lastToks (h : List Nat) (n : Nat) : List Nat := h.drop (h.length - n)

/-- R367: token `t` is banned by a ban entry after a history. -/
def bannedBy (h : List Nat) (t : Nat) (ban : List Nat) : Bool :=
  ban.getLast? == some t && decide (ban.length - 1 ≤ h.length) && lastToks h (ban.length - 1) == ban.dropLast

/-- R368: the largest progress of a force entry after a history. -/
def forceProgress (h f : List Nat) : Option Nat :=
  ((List.range f.length).filter (fun j => j != 0 && decide (j ≤ h.length) && lastToks h j == f.take j)).getLast?

/-- R368: the forced token: the winner has the largest progress, the lower entry among equals. -/
def forcedToken (h : List Nat) (fs : List (List Nat)) : Option Nat :=
  (fs.foldl (fun (acc : Option (Nat × Nat)) f =>
    match forceProgress h f with
    | none => acc
    | some j =>
      match acc with
      | some (k, u) => if k < j then some (j, (f.drop j).headD 0) else some (k, u)
      | none => some (j, (f.drop j).headD 0)) none).map (·.2)

/-- R370: an escape the set cannot go on with is dropped. -/
def fixEscape (c : CSet) (n : Node) : Node :=
  if n.escActive ∧ c.esc.length < n.escPos + 1 then { n with escActive := false, escPos := 0 } else n

/-- Empty or first-escape outcome of a node where nothing is left (R373). -/
def escapeOr (r : MaskRules) (c : CSet) : NodeMask :=
  match c.esc with
  | e :: _ => if r.set4 then { allowed := fun t => t == e, outcome := 2 } else { allowed := fun _ => false, outcome := 3 }
  | [] => { allowed := fun _ => false, outcome := 3 }

/-- R373, R374: the mask of a node. -/
def nodeMask (r : MaskRules) (n0 : Node) : NodeMask :=
  match r.cset with
  | none => { allowed := fun _ => false, outcome := 3 }
  | some c =>
    if r.mismatch then { allowed := fun _ => false, outcome := 3 }
    else
      let n := fixEscape c n0
      let bans := c.seqs.bans ++ r.rules.bans
      let banned := fun t => bans.any (bannedBy n.hist t)
      if n.escActive then { allowed := fun t => t == (c.esc.drop n.escPos).headD 0, outcome := 2 }
      else
        match forcedToken n.hist (r.rules.forces ++ c.seqs.forces) with
        | some f => if banned f then escapeOr r c else { allowed := fun t => t == f, outcome := 1 }
        | none =>
          let ok := fun t => c.allows n.state t && !banned t
          if (List.range r.tokens).any ok then { allowed := ok, outcome := 0 } else escapeOr r c

/-- R369: advance along one token. Without a set that resolved, the state stays and only the history grows. -/
def advanceNode (r : MaskRules) (n0 : Node) (t : Nat) : Node :=
  match r.cset with
  | none => { n0 with hist := lastToks (n0.hist ++ [t]) 63 }
  | some c =>
    let n := fixEscape c n0
    let m :=
      if n.escActive then
        if t = (c.esc.drop n.escPos).headD 0 then
          if n.escPos + 1 = c.esc.length then { n with escActive := false, escPos := 0, state := c.resume }
          else { n with escPos := n.escPos + 1 }
        else { n with escActive := false, escPos := 0, state := c.next n.state t }
      else if (nodeMask r n).outcome = 2 ∧ c.esc.head? = some t then
        if c.esc.length = 1 then { n with state := c.resume } else { n with escActive := true, escPos := 1 }
      else { n with state := c.next n.state t }
    { m with hist := lastToks (n.hist ++ [t]) 63 }

/-- A mask's bytes (R372): bit t mod 8 of byte t div 8, zero at and above TOKEN_COUNT. -/
def maskBytes (tokens : Nat) (allowed : Nat → Bool) : List Byte :=
  (List.range (maskSize tokens)).map (fun k =>
    BitVec.ofNat 8 ((List.range 8).foldl (fun v i =>
      if decide (8 * k + i < tokens) && allowed (8 * k + i) then v + 2 ^ i else v) 0))

end Sys2Proof.Machine
end

