-- ==== Sys2Proof/Machine/MaskSets.lean ====
section
/-! DEFINITION. A round's mask set: opened by the commit before it, computed by the text cells, read by READ_MASK (R369 to R381). -/

namespace Sys2Proof.Machine

/-- The token recorded at a position of a session. -/
def tokenAt (x : Session) (p : Nat) : Nat := ((amGetD x.toks (p / 256) []).drop (p % 256)).headD 0

/-- A session's history: up to 63 token IDs before position TOKENS, oldest first. -/
def historyOf (x : Session) : List Nat :=
  let n := min 63 x.tokens
  (List.range n).map (fun i => tokenAt x (x.tokens - n + i))

/-- The constraint set a session's reference resolves to now; number 0 is the open set (R362). -/
def csetNow (s : State) (x : Session) : Option Ref :=
  if x.constraintRef.num = 0 then some { num := 0, ver := 0 } else resolveRef s 2 x.constraintRef

/-- A captured constraint set. -/
def csetOf (s : State) (r : Ref) : CSet := if r.num = 0 then .opened else .body (cfgBody s 2 r)

/-- TOKEN_COUNT that a mask set works with: the vocabulary's, or the constraint set's where no vocabulary resolved. -/
def maskTokens (s : State) (m : MaskSet) : Nat :=
  match m.vocab with
  | some v => vcTokens (cfgBody s 1 v)
  | none =>
    match m.cset with
    | some r =>
      match csetOf s r with
      | .opened => 0
      | .body b => csTokens b
    | none => 0

/-- R373: the round's vocabulary and constraint set differ in TOKEN_COUNT, or one is not resolved. -/
def maskMismatch (s : State) (m : MaskSet) : Bool :=
  match m.vocab, m.cset with
  | some v, some r =>
    match csetOf s r with
    | .opened => false
    | .body b => csTokens b != vcTokens (cfgBody s 1 v)
  | _, _ => true

/-- What the masks of a session's round depend on (R373). -/
def maskRules (s : State) (x : Session) (m : MaskSet) : MaskRules :=
  { cset := m.cset.map (csetOf s), tokens := maskTokens s m, mismatch := maskMismatch s m
    set4 := !(getFn s x.partition).set3
    rules := if x.rules.isEmpty then {} else ruleSeqs x.rules (field x.rules 8 4) }

/-- The root of a session now: descriptor and text record. -/
def rootNode (x : Session) : Node :=
  { state := x.automaton, escActive := x.escActive, escPos := x.escPos, hist := historyOf x }

/-- The node of candidate `c` of the round's tree, advanced from the root along its path (R369). -/
def candNode (r : MaskRules) (root : Node) (rd : Round) : Nat → Nat → Node
  | 0, _ => root
  | n + 1, c =>
    let p := (rd.parents.drop c).headD 0x1F
    advanceNode r (if p = 0x1F then root else candNode r root rd n p) ((rd.ids.drop c).headD 0)

/-- Node `m` of a mask set: 16 the root, else a candidate. -/
def maskNode (r : MaskRules) (ms : MaskSet) (rd : Round) (m : Nat) : Node :=
  if m = 16 then ms.root else candNode r ms.root rd 17 m

/-- Open a round's mask set with the versions captured by the commit before it (R371, R376). -/
def openRound (s : State) (d : Nat) (vocab cset : Option Ref) : State :=
  match amGet s.sessions d with
  | none => s
  | some x =>
    let c := cset.map (csetOf s)
    let restart := match c with
      | some c => c.epoch != x.stateEpoch
      | none => false
    upd s d (fun x =>
      let x := match c with
        | some c =>
          if restart then { x with automaton := c.start, escActive := false, escPos := 0, stateEpoch := c.epoch }
          else if x.escActive ∧ c.esc.length < x.escPos + 1 then { x with escActive := false, escPos := 0 }
          else x
        | none => x
      let m : MaskSet :=
        { round := x.round.num, tokens := x.tokens, vocab := vocab, cset := cset, restarted := restart, root := rootNode x }
      { x with masks := some m })

/-- The masks of the round are discarded and computed again from the root as it is now (R366, RESET_CONSTRAINT). -/
def recomputeMasks (s : State) (d : Nat) : State :=
  upd s d (fun x => { x with masks := x.masks.map (fun m => { m with root := rootNode x, ready := [], readyPm := none }) })

/-- The accepted tokens advance the automaton under the round that closes (R369). -/
def advanceSession (s : State) (x : Session) (ids : List Nat) : Session :=
  match x.masks with
  | none => x
  | some m =>
    let r := maskRules s x m
    let n := ids.foldl (advanceNode r) (rootNode x)
    { x with automaton := n.state, escActive := n.escActive, escPos := n.escPos }

/-- The masks a READ_MASK writes: the root first, then candidates below C in ascending index (R377, R378). -/
def maskWanted (x : Session) (which : Nat) : List Nat :=
  (if bit which 16 then [16] else []) ++ (List.range 16).filter (fun c => bit which c && x.round.fixed && decide (c < x.round.cands))

/-- Every mask a read asks for is ready; a candidate asked for waits for the tree (R378). -/
def masksReady (x : Session) (m : MaskSet) (which : Nat) : Bool :=
  (x.round.fixed || which % 65536 == 0) && (maskWanted x which).all (fun k => amHas m.ready k)

/-- The 64 B header of a mask set (Table 8.14a) for the masks `ks` written. -/
def maskHeader (s : State) (x : Session) (m : MaskSet) (ks : List Nat) (readyPm : Nat) : List Byte :=
  let r := maskRules s x m
  let cands := if x.round.fixed then x.round.cands else 0
  let outcomes := ks.foldl (fun n k => n + (match amGet m.ready k with | some q => q.outcome | none => 0) * 2 ^ (2 * k)) 0
  let allowed := (List.range cands).foldl (fun n c =>
    let p := (x.round.parents.drop c).headD 0x1F
    let q := nodeMask r (maskNode r m x.round (if p = 0x1F then 16 else p))
    if q.allowed ((x.round.ids.drop c).headD 0) then n + 2 ^ c else n) 0
  leBytes 64 (m.round % 65536 + cands * 2 ^ 16 + b2n m.ranBe * 2 ^ 21 + b2n m.restarted * 2 ^ 22
    + b2n (maskMismatch s m) * 2 ^ 23 + allowed * 2 ^ 32 + outcomes * 2 ^ 64 + ks.foldl (fun n k => n + 2 ^ k) 0 * 2 ^ 128
    + m.root.state * 2 ^ 192 + m.tokens * 2 ^ 224 + readyPm * 2 ^ 256)

/-- Write results where they go; the answer is the first host address that failed (R740). -/
def viaWrite (s : State) (via : ResultVia) (addr : Nat) (bs : List Byte) : State × Option Nat :=
  match via with
  | .host fn => hostWrite s fn addr bs
  | .tideway c m k => (sendResult s c m k addr bs, none)
  | .resp c m => (sendResp s c m bs, none)

/-- Write a mask set whose masks are ready, and say how the read completes (R377 to R379, R740). -/
def writeMasks (s : State) (x : Session) (m : MaskSet) (q : MaskRead) : State × Rcpt :=
  let ks := maskWanted x q.which
  let size := maskSize (maskTokens s m)
  if q.len < 64 + size * ks.length then (s, rInvalid 12)
  else
    let f := takeFresh s
    let pm := m.readyPm.getD (Config.readyPm f.1)
    let s := f.2
    let got := ks.filterMap (amGet m.ready)
    let bs := maskHeader s x m ks pm ++ got.flatMap (·.bytes)
    match viaWrite s q.via q.addr bs with
    | (s, some a) => (s, rInvalid 16 a)
    | (s, none) =>
      let esc := got.any (fun k => k.outcome == 2)
      let s := modSession s q.d (fun x => { x with masks := x.masks.map (fun m =>
        { m with got := m.got ++ ks.filter (fun k => !m.got.contains k) }) })
      (s, { status := if got.any (fun k => k.outcome == 3) then .maskEmpty else if esc then .escaped else .ok
            notes := if esc then 2 else 0, resA := bs.length })

/-- What a READ_MASK does now: it completes with VERSION, waits, or writes (R378). -/
def serveRead (s : State) (tag : Nat) (q : MaskRead) : State :=
  match amGet s.sessions q.d with
  | none => resolveTag { s with maskReads := amErase s.maskReads tag } tag (rBusy 1)
  | some x =>
    let cur := x.round.num
    if q.round = (cur + 1) % 65536 ∧ x.round.closing then s
    else if q.round ≠ cur then resolveTag { s with maskReads := amErase s.maskReads tag } tag (rVersion cur)
    else
      match x.masks with
      | none => s
      | some m =>
        if masksReady x m q.which then
          let w := writeMasks s x m q
          resolveTag { w.1 with maskReads := amErase w.1.maskReads tag } tag w.2
        else
          modSession s q.d (fun x => { x with masks := x.masks.map (fun m =>
            { m with asked := m.asked ++ (maskWanted x q.which).filter (fun k => !m.asked.contains k) }) })

/-- Every READ_MASK of a session is looked at again. -/
def serveMasks (s : State) (d : Nat) : State :=
  (s.maskReads.filter (fun e => e.2.d == d)).foldl (fun s e => serveRead s e.1 e.2) s

/-! ### The mask store and the LC test (R338, R380, R381) -/

/-- Mask bytes that a set holds in the store. -/
def storeBytes (m : MaskSet) : Nat := m.ready.foldl (fun n e => n + e.2.bytes.length) 0

/-- Mask bytes in the store. -/
def storeUsed (s : State) : Nat :=
  s.sessions.foldl (fun n e => n + (match e.2.masks with | some m => storeBytes m | none => 0)) 0

/-- The mask set the store frees: the oldest whose asked masks have all been read, else the oldest (R380). -/
def storeVictim (s : State) (keep : Nat) : Option Nat :=
  let sets := s.sessions.filterMap (fun e =>
    match e.2.masks with
    | some m => if e.1 ≠ keep ∧ m.ready ≠ [] then some (e.1, m.notice.getD 0, m.asked.all m.got.contains) else none
    | none => none)
  let oldest := fun (l : List (Nat × Nat × Bool)) => (sortBy (fun e => e.2.1) l).head?.map (·.1)
  match oldest (sets.filter (fun e => e.2.2)) with
  | some d => some d
  | none => oldest sets

/-- Free mask sets until the store's 48 MiB hold what is ready; `n` bounds them. -/
def fitStore (keep : Nat) : Nat → State → State
  | 0, s => s
  | n + 1, s =>
    if storeUsed s ≤ 50331648 then s
    else
      match storeVictim s keep with
      | some d => fitStore keep n (modSession s d (fun x => { x with masks := x.masks.map (fun m => { m with ready := [] }) }))
      | none => s

/-- Loads of the last 100 µs on TX_0, of all partitions or of one. -/
def txLoad (s : State) (p : Option Nat) : Nat :=
  (s.txLoads.filter (fun l => decide (s.postmark < l.pm + 100000)
    && (match p with | some q => l.partition == q | none => true))).foldl (fun n l => n + l.bytes) 0

/-- The test of R330 over TX_0 in mask bytes (R381). -/
def txAdmit (s : State) (p n : Nat) : Bool :=
  let cap := liveVal s .lcLimit * 128000
  let res := fun q => if q = 0 then 0 else liveVal s (.lcShare q) * cap / 100
  let idle := ((List.range 64).map (· + 1)).foldl (fun k q => if q = p then k else k + (res q - txLoad s (some q))) 0
  decide (txLoad s (some p) + n ≤ res p) || decide (txLoad s none + n + idle ≤ cap)

end Sys2Proof.Machine
end

