-- ==== Sys2Proof/Machine/TextOps.lean ====
section
/-! DEFINITION. Session text, edits of constraints, and stream requests (R352, R356 to R361, R366, R385). -/

namespace Sys2Proof.Machine

/-! ### Session text (R360, R361) -/

/-- The lowest position READ_TEXT can reach (R361). -/
def textFloor (s : State) (x : Session) : Nat :=
  let tailHere := match amGet x.refs (pk 0 (tailIndex x)) with
    | some r => (recOf s r).isSome
    | none => false
  if tailHere then min (x.tokens - 63) (256 * tailIndex x) else x.tokens - 63

/-- Read a session's text from its cursor and say how the command completes (R358, R360, R740). -/
def readText (s : State) (q : TextRead) : State × Rcpt :=
  match amGet s.sessions q.d with
  | none => (s, rBusy 1)
  | some x =>
    let b := cfgBody s 1 q.vocab
    let ids := (List.range (x.tokens - x.textCursor)).map (fun i => tokenAt x (x.textCursor + i))
    let t := detokRun b (bit q.flags 0) q.len ids { carry := x.carry }
    let t' := if bit q.flags 1 then detokEnd b q.len t else t
    match viaWrite s q.via q.addr t'.text with
    | (s, some a) =>
      let w := detokRun b (bit q.flags 0) (a - q.addr) ids { carry := x.carry }
      (upd s q.d (fun x => { x with textCursor := x.textCursor + w.used, carry := w.carry }),
        { rInvalid 16 a with resB := x.textCursor + w.used })
    | (s, none) =>
      let s := upd s q.d (fun x => { x with textCursor := x.textCursor + t'.used, carry := t'.carry })
      match t'.fail with
      | some _ =>
        let f := takeFresh s
        (f.2, { rInvalid 64 (Config.textOffset f.1) with resB := x.textCursor + t'.used })
      | none => (s, rOk t'.text.length (x.textCursor + t'.used))

/-- A READ_TEXT that waited completes with what is there. -/
def endTextRead (s : State) (tag : Nat) (q : TextRead) : State :=
  let r := readText s q
  resolveTag { r.1 with textReads := amErase r.1.textReads tag } tag r.2

/-- The READ_TEXTs of a session whose TOKENS has risen complete (R360). -/
def serveText (s : State) (d : Nat) : State :=
  (s.textReads.filter (fun e => e.2.d == d)).foldl (fun s e =>
    match amGet s.sessions d with
    | some x => if x.textCursor < x.tokens then endTextRead s e.1 e.2 else s
    | none => endTextRead s e.1 e.2) s

/-! ### SET_RULES and RESET_CONSTRAINT (R366, R385, Table 8.7) -/

/-- The refusal of an edit, on the session as it is now. -/
def editRefuse (s : State) (d : Nat) : TextEdit → Option Rcpt
  | .rules list =>
    match amGet s.sessions d with
    | none => some (rBusy 1)
    | some x =>
      let toks := (resolveRef s 1 x.vocabRef).map (fun v => vcTokens (cfgBody s 1 v))
      if list.isEmpty then none
      else
        match rulesBad list toks with
        | some o => some (rInvalid (64 + o))
        | none => refuseIf (!poolFits s (handleAccount x.handle) (list.length - x.rules.length)) (rQuota 0)
  | .reset st =>
    match (amGet s.sessions d).bind (fun x => x.masks.bind (fun m => m.cset.map (csetOf s))) with
    | some c => refuseIf (st != 0xFFFFFFFE && decide (c.states ≤ st)) (rInvalid 32)
    | none => refuseIf (st != 0xFFFFFFFE) (rInvalid 32)

/-- Put an edit in force and recompute the round's masks. -/
def applyEdit (s : State) (d : Nat) (e : TextEdit) : State × Rcpt :=
  match editRefuse s d e with
  | some r => (s, r)
  | none =>
    match e with
    | .rules list =>
      let s := upd s d (fun x => { x with rules := list })
      match amGet s.sessions d with
      | some x => (recomputeMasks (noteQuotas (fitPool s (handleAccount x.handle)) (handleAccount x.handle)) d, rOk)
      | none => (s, rOk)
    | .reset st =>
      let start := match (amGet s.sessions d).bind (fun x => x.masks.bind (fun m => m.cset.map (csetOf s))) with
        | some c => c.start
        | none => 0
      (recomputeMasks (upd s d (fun x =>
        { x with automaton := if st = 0xFFFFFFFE then start else st, escActive := false, escPos := 0 })) d, rOk)

/-- The edits that waited for a round's closing take effect, in the order of their tags' admission (R385). -/
def runDefers (s : State) (d : Nat) : State :=
  let adm := fun (tag : Nat) => match amGet s.ops tag with
    | some o => o.admPm
    | none => 0
  (sortBy (fun e => adm e.1) (s.textDefers.filter (fun e => e.2.d == d))).foldl (fun s e =>
    let r := applyEdit s d e.2.edit
    resolveTag { r.1 with textDefers := amErase r.1.textDefers e.1 } e.1 r.2) s

/-- What the text engine does once a session's round has closed or its text has moved on (R360, R378, R385). -/
def textAfterCommit (s : State) (d : Nat) : State := serveText (serveMasks (runDefers s d) d) d

/-- A freed session's waiting text commands complete with BUSY, as Table 8.14 gives for CLOSING. -/
def endText (s : State) (d : Nat) : State :=
  let tags := (s.maskReads.filter (fun e => e.2.d == d)).map (·.1) ++ (s.textReads.filter (fun e => e.2.d == d)).map (·.1)
    ++ (s.textDefers.filter (fun e => e.2.d == d)).map (·.1)
  let s := tags.foldl (fun s t => resolveTag s t (rBusy 1)) s
  { s with maskReads := amFilter s.maskReads (fun _ q => q.d != d), textReads := amFilter s.textReads (fun _ q => q.d != d)
           textDefers := amFilter s.textDefers (fun _ q => q.d != d) }

/-! ### Streams (R356 to R358) -/

def streamKey (fn n : Nat) : Nat := fn * 4096 + n

/-- The streams a function has open. -/
def streamsOf (s : State) (fn : Nat) : AMap Stream := s.streams.filter (fun e => e.1 / 4096 == fn)

/-- Pieces written under a limit of tokens, of those that are complete. -/
def fitPieces (cap : Nat) : Nat → List TPiece → List TPiece
  | _, [] => []
  | n, p :: r => if cap < n + p.toks.length then [] else p :: fitPieces cap (n + p.toks.length) r

/-- A stream after it has written `k` pieces of a run that stopped there, and the input bytes it consumed. -/
def stopStream (st : Stream) (run : TokRun) (k : Nat) : Stream × Nat :=
  let done := run.pieces.take k
  let stop := done.foldl (fun m p => max m p.stop) 0
  if k = 0 then (st, 0)
  else if stop = 0 then ({ st with norm := st.norm.drop (done.foldl (fun n p => n + p.cps.length) 0) }, 0)
  else
    let rest := ((run.pieces.drop k).flatMap (·.cps)).filter (fun c => decide (c.2 ≤ stop))
    let used := stop - st.raw.length
    ({ st with norm := rest.map (·.1), raw := st.raw.drop stop, count := st.count + used }, used)

/-- A stream after a run that went to its end: the last piece and the unfinished bytes are held. -/
def endStream (st : Stream) (run : TokRun) (raw : List Byte) (input : Nat) : Stream :=
  { st with norm := if run.openEnd then (match run.pieces.getLast? with | some p => p.cps.map (·.1) | none => []) else []
            raw := raw.drop run.rawFrom, count := st.count + input }

/-- What a TOKENIZE writes and leaves with room for `cap` tokens: tokens, stream, input bytes consumed, whether it went to its
end, and its failure under REJECT (offset in held and input bytes). -/
structure TokOut where
  toks : List Nat
  stream : Stream
  used : Nat
  all : Bool
  fail : Option Nat

/-- R357: tokenize `input` on a stream. -/
def tokOut (b : List Byte) (st : Stream) (final : Bool) (input : List Byte) (cap : Nat) : TokOut :=
  let raw := st.raw ++ input
  let run := tokenizeRun b (bit st.flags 0) final st.norm raw
  let ready := if run.openEnd || (run.fail.isSome && run.pieces.getLast?.any (fun p => !p.cps.isEmpty)) then run.pieces.dropLast
    else run.pieces
  let out := fitPieces cap 0 ready
  let toks := out.flatMap (·.toks)
  if out.length = ready.length ∧ run.fail = none then
    { toks := toks, stream := endStream st run raw input.length, used := input.length, all := true, fail := none }
  else
    let q := stopStream st run out.length
    { toks := toks, stream := q.1, used := q.2, all := false, fail := if out.length = ready.length then run.fail else none }

end Sys2Proof.Machine
end

