-- ==== Sys2Proof/Machine/Steps.lean ====
section
/-! DEFINITION. Steps, rounds, commits and the scheduling of page tasks (R24 to R26, R41 to R44, R238 to R241, R287 to R335). -/

namespace Sys2Proof.Machine

/-! ### Estimates and page tasks (R256, R269, R281) -/

/-- Rows of one row group: 32, or 16 in latent mode. -/
def groupRows (b : List Byte) : Nat := if pfLatent b then 16 else 32

/-- Bytes of one slot of one section in a format. -/
def slotBytes (b : List Byte) (fmt : Nat) : Nat :=
  if pfLatent b then rowBytes fmt (pfHeadDim b) else 2 * rowBytes fmt (pfHeadDim b)

/-- The candidates of a row group of a KV head's row list (R255). -/
def groupCands (b : List Byte) (cands g : Nat) : List Nat :=
  let grp := max 1 (pfGroup b)
  let lo := g * groupRows b
  let hi := min (cands * grp) (lo + groupRows b)
  (List.range cands).filter (fun c => decide (c * grp < hi) && decide (lo < (c + 1) * grp))

/-- 16-slot groups of page `i` that hold a slot attended by one of these candidates (R269). -/
def slotGroups (x : AttnIn) (cs : List Nat) (i : Nat) : Nat :=
  (List.range 16).countP (fun j => (List.range 16).any (fun k => cs.any (fun c => attended x c (256 * i + 16 * j + k))))

/-- The estimate of a page task in units of 1/16 fs: the longer of read time and compute time (R281). -/
def taskEst (b : List Byte) (fmt rows groups : Nat) (firstGroup : Bool) : Nat :=
  let read := if firstGroup then groups * 16 * slotBytes b fmt * 31250 else 0
  let macs := rows * 16 * (pfHeadDim b + pfValueDim b)
  max read (macs * (if fmt = 2 then 31250 else 15625))

/-- The page tasks of a step on the pages from `a` to `n`, in the order of R42: KV head, page, row group. -/
def stepTasks (x : AttnIn) (tag part pm : Nat) (be : Bool) (pf : Ref) (a n : Nat) : List Task :=
  let b := x.body
  let kv := if pfLatent b then 1 else pfKvHeads b
  let rowsAll := x.cands * pfGroup b
  let ng := (rowsAll + groupRows b - 1) / groupRows b
  (List.range kv).flatMap (fun h => (List.range (n - a)).flatMap (fun k => (List.range ng).filterMap (fun g =>
    let i := a + k
    let cs := groupCands b x.cands g
    let sg := slotGroups x cs i
    if sg = 0 then none
    else
      let fmt := match (x.pages.drop i).head? with
        | some v => if v.present then v.format else pfResident b
        | none => pfResident b
      let rows := min (groupRows b) (rowsAll - g * groupRows b)
      some { tag := tag, page := i, head := h, group := g, est := taskEst b fmt rows sg (g == 0), be := be, partition := part,
             pm := pm, profile := pf, format := fmt })))

/-! ### Blocks (R41 to R44, R333, R334) -/

def blockKey (region b : Nat) : Nat := region * 8 + b

def getBlock (s : State) (region b : Nat) : Block := amGetD s.blocks (blockKey region b) {}

def setBlock (s : State) (region b : Nat) (x : Block) : State := { s with blocks := amSet s.blocks (blockKey region b) x }

/-- The queued estimate of a block in a class (R333). -/
def queuedEst (x : Block) (be : Bool) : Nat :=
  ((x.queued ++ x.waiting).filter (fun t => t.be == be)).foldl (fun n t => n + t.est) 0

/-- Attention block `b` of a region is in service and ON (R651). -/
def blockOn (s : State) (region b : Nat) : Bool := !(getBlock s region b).out && getDom s (14 * region + b) == 0

/-- The blocks in service of a region that are ON, and those whose wake is admitted (R652). -/
def blocksOn (s : State) (region : Nat) : Nat := (List.range 8).countP (blockOn s region)

def blocksRamping (s : State) (region : Nat) : Nat :=
  (List.range 8).countP (fun b => !(getBlock s region b).out && s.pow.ramps.any (fun r => r.dom == 14 * region + b))

/-- A BE hold stands in region `r` (R665, R666, R668). -/
def beHeld (s : State) (r : Nat) : Bool := [1, 2, 3].any (fun c => amHas s.pow.holds (4 * r + c))

/-- The n of R644 at which region `r` runs: the lowest that its causes call for (R665, R670). -/
def clockOf (s : State) (r : Nat) : Nat :=
  [1, 2, 3, 4].foldl (fun n c => min n (match amGet s.pow.clocks (8 * r + c) with | some v => v.1 | none => 8)) 8

/-- The block of a list with the least queued estimate, the lowest of those that tie; blocks that are not ON or out of service take no part
(R651). -/
def leastBlock (s : State) (region : Nat) (be : Bool) (bs : List Nat) : Option Nat :=
  bs.foldl (fun acc b =>
    if !blockOn s region b then acc
    else
      match acc with
      | none => some b
      | some a => if queuedEst (getBlock s region b) be < queuedEst (getBlock s region a) be then some b else some a) none

/-- R333: the block for a page on `stack`: the least loaded near block, or a far one lower by more than 1 µs. -/
def chooseBlock (s : State) (stack : Nat) (be : Bool) : Nat :=
  let region := stack / 2
  let near := if stack % 2 = 0 then [0, 1, 2, 3] else [4, 5, 6, 7]
  let far := if stack % 2 = 0 then [4, 5, 6, 7] else [0, 1, 2, 3]
  match leastBlock s region be near, leastBlock s region be far with
  | some a, some f =>
    if queuedEst (getBlock s region f) be + 16000000000 < queuedEst (getBlock s region a) be then f else a
  | some a, none => a
  | none, some f => f
  | none, none => 0

/-- The order of tasks within a class: admission postmark, tag, KV head, page, row group (R42). -/
def taskBefore (a b : Task) : Bool :=
  decide (a.pm < b.pm) || (a.pm == b.pm && (decide (a.tag < b.tag) || (a.tag == b.tag && (decide (a.head < b.head)
    || (a.head == b.head && (decide (a.page < b.page) || (a.page == b.page && decide (a.group < b.group))))))))

/-- The first task of a list under that order. -/
def firstTask (l : List Task) : Option Task :=
  l.foldl (fun acc t =>
    match acc with
    | none => some t
    | some a => if taskBefore t a then some t else some a) none

/-- A task's cost in bytes: its estimate at 512 GB/s, at least 256 (R43). -/
def taskCost (t : Task) : Nat := max 256 ((t.est + 31249) / 31250)

/-- R43: the BE task that starts next, by deficit round robin over 65 participants; `n` bounds the turns looked at. -/
def beNext : Nat → Block → Option (Task × Block)
  | 0, _ => none
  | n + 1, x =>
    let p := x.turn
    match firstTask (x.queued.filter (fun t => t.be && t.partition == p)) with
    | none => beNext n { x with deficit := amErase x.deficit p, turn := (p + 1) % 65, granted := false }
    | some t =>
      let def_ := amGetD x.deficit p 0 + (if x.granted then 0 else 65536)
      if taskCost t ≤ def_ then some (t, { x with deficit := amSet x.deficit p (def_ - taskCost t), granted := true })
      else beNext n { x with deficit := amSet x.deficit p def_, turn := (p + 1) % 65, granted := false }

/-- The task a free block starts: an LC task whenever one is queued (R41). -/
def nextTask (x : Block) : Option (Task × Block) :=
  match firstTask (x.queued.filter (fun t => !t.be)) with
  | some t => some (t, x)
  | none => if x.queued.any (fun t => t.be) then beNext 1300 x else none

/-- The dispatcher's tasks move into a queue of 1,024 as it has room, LC ahead of BE (R44). -/
def refill (x : Block) : Block :=
  let room := 1024 - x.queued.length
  let w := x.waiting.filter (fun t => !t.be) ++ x.waiting.filter (fun t => t.be)
  { x with queued := x.queued ++ w.take room, waiting := w.drop room }

/-- A profile context moves to the front, loaded if it is not among the block's 16 (R334). -/
def useContext (x : Block) (r : Ref) : Block :=
  { x with contexts := (r :: x.contexts.filter (· != r)).take 16 }

/-- A free block starts its next task; under a BE hold no BE task starts (R666). -/
def startBlock (hold : Bool) (x : Block) : Block :=
  if x.running.isSome || x.out then x
  else
    match (if hold && !(refill x).queued.any (fun t => !t.be) then none else nextTask (refill x)) with
    | some (t, y) =>
      refill { useContext y t.profile with
        queued := y.queued.filter (· != t), running := some t, last := some (t.profile, t.format) }
    | none => refill x

/-- PROFILE consent is in force for partition `p` (R688, R691). -/
def profiled (s : State) (p : Nat) : Bool :=
  match amGet s.sec.consents p with
  | some c => bit c.scope 0
  | none => false

/-- A block changed, and its next task started if it is ON; a start or end of a task sets its idle time, and a task that starts under
PROFILE consent is traced (R649, R691). -/
def runBlock (s : State) (region b : Nat) (x : Block) : State :=
  let old := (getBlock s region b).running
  let y := if blockOn s region b then startBlock (beHeld s region) x else x
  let y := if y.running = old then y
    else { y with sincePm := s.postmark, traced := match y.running with | some t => profiled s t.partition | none => false }
  setBlock s region b y

/-- The block that already has the page and KV head of a step's task in its queue (R26, R333). -/
def sameBlock (s : State) (region : Nat) (t : Task) : Option Nat :=
  (List.range 8).find? (fun b =>
    let x := getBlock s region b
    (x.queued ++ x.waiting ++ x.running.toList).any (fun q => q.tag == t.tag && q.page == t.page && q.head == t.head))

/-- The queued estimate of a region in a class. -/
def regionEst (s : State) (region : Nat) (be : Bool) : Nat :=
  (List.range 8).foldl (fun n b => n + queuedEst (getBlock s region b) be) 0

/-- Wakes requested in reserve order until the estimate per block that is ON or asked for is at most `thr` (R651). -/
def wakeBlocks (region thr est : Nat) (lc : Bool) : List Nat → State → State
  | [], s => s
  | b :: r, s =>
    let here := (List.range 8).countP (fun c => !(getBlock s region c).out && (blockOn s region c
      || s.pow.ramps.any (fun q => q.dom == 14 * region + c)
      || s.pow.wakes.any (fun q => q.dom == 14 * region + c && (!lc || q.lc))))
    if est ≤ thr * here then s
    else wakeBlocks region thr est lc r (if (getBlock s region b).out then s else requestWake s (14 * region + b) lc 0)

/-- The wakes a region's queues call for: 4 µs of LC work a block, 50 µs of BE work (R651). -/
def wantWakes (s : State) (region : Nat) : State :=
  wakeBlocks region 800000000000 (regionEst s region true) false reserveOrder
    (wakeBlocks region 64000000000 (regionEst s region false) true reserveOrder s)

/-- Queue one page task on the block R333 chooses; where no block is ON it waits in the dispatcher (R651). -/
def queueTask (stack : Nat) (s : State) (t : Task) : State :=
  let region := stack / 2
  let b := match (if t.group = 0 then none else sameBlock s region t) with
    | some b => b
    | none => chooseBlock s stack t.be
  let x := getBlock s region b
  wantWakes (runBlock s region b { x with waiting := x.waiting ++ [t] }) region

/-! ### LC admission (R329, R330) -/

/-- M of R329 for region `k` in units of 1/16 fs: LIMIT_PCT × b µs, with b the blocks in service that are ON or have an admitted wake (R620,
R652), times n ÷ 8 (R667). -/
def lcCap (s : State) (k : Nat) : Nat :=
  liveVal s .lcLimit * (blocksOn s k + blocksRamping s k) * clockOf s k * 2000000000

/-- Loads whose step was admitted in the last 100 µs. -/
def lcRecent (s : State) : List LcLoad := s.lcLoads.filter (fun l => decide (s.postmark < l.pm + 100000))

/-- W_k, and W_pk of one partition. -/
def lcLoad (s : State) (k : Nat) (p : Option Nat) : Nat :=
  ((lcRecent s).filter (fun l => l.region == k && (match p with | some q => l.partition == q | none => true))).foldl
    (fun n l => n + l.est) 0

/-- R_p in region `k`. -/
def lcReserve (s : State) (k p : Nat) : Nat := if p = 0 then 0 else liveVal s (.lcShare p) * lcCap s k / 100

/-- R330: admit_lc over regions and their estimates; while a block in service is not ON, a region also takes at most 1 µs a block that is ON
(R652). -/
def admitLc (s : State) (p : Nat) (es : List (Nat × Nat)) : Bool :=
  es.all (fun e =>
    let idle := ((List.range 64).map (· + 1)).foldl (fun n q =>
      if q = p then n else n + (lcReserve s e.1 q - lcLoad s e.1 (some q))) 0
    let serving := (List.range 8).countP (fun b => !(getBlock s e.1 b).out)
    (blocksOn s e.1 == serving || decide (e.2 ≤ blocksOn s e.1 * 16000000000))
    && (decide (lcLoad s e.1 (some p) + e.2 ≤ lcReserve s e.1 p) || decide (lcLoad s e.1 none + e.2 + idle ≤ lcCap s e.1)))

/-! ### What a step finds (R239, R306) -/

/-- The stack a page's tasks run by: its run's, or its scout area's (R333). -/
def srcStack (s : State) (x : Session) (d i l : Nat) (q : PageSrc) : Nat :=
  match q with
  | .hbm loc =>
    match amGet s.pages loc with
    | some p => p.stack
    | none => 2 * (d % 6)
  | .scout =>
    match x.scout with
    | some c => c.run / 2 ^ 20
    | none => 2 * (d % 6)
  | .missing => (stackOrder (d % 6) i l (clStriped (sessClass s x))).headD 0

/-- Where page `i` of stream `l` can be read: its HBM page if the reference is at tier 0 and its generation agrees (R167), else
its scout page. -/
def pageSrc (s : State) (x : Session) (l i : Nat) : PageSrc :=
  match amGet x.refs (pk l i) with
  | some r =>
    match recOf s r with
    | some _ => .hbm r.loc
    | none =>
      match x.scout with
      | some c => if r.tier ≠ 4 ∧ amHas c.pages (pk l i) then .scout else .missing
      | none => .missing
  | none => .missing

/-- Pages of a stream up to the tail. -/
def streamSrcs (s : State) (x : Session) (l : Nat) : List PageSrc :=
  if x.tokens = 0 then [] else (List.range (tailIndex x + 1)).map (pageSrc s x l)

/-- The view of a page from its source. -/
def srcView (s : State) (x : Session) (l i : Nat) (q : PageSrc) : PageView :=
  match q with
  | .hbm loc =>
    match amGet s.pages loc with
    | some p => { present := true, scout := false, format := p.format, rows := p.rows }
    | none => { present := false, scout := false, format := 0, rows := [] }
  | .scout =>
    match x.scout with
    | some c =>
      match amGet c.pages (pk l i) with
      | some p => { present := true, scout := true, format := p.format, rows := p.rows }
      | none => { present := false, scout := false, format := 0, rows := [] }
    | none => { present := false, scout := false, format := 0, rows := [] }
  | .missing => { present := false, scout := false, format := 0, rows := [] }

/-- Sources paired with their page index. -/
def indexed {α : Type} (l : List α) : List (Nat × α) := (List.range l.length).zip l

/-- Size QB of the query block (R254, R292). -/
def queryBytes (b : List Byte) (cands : Nat) : Nat := cands * pfQueryHeads b * elBytes (pfQuery b) (pfHeadDim b)

/-- Offset of the row block in the operand area (Table 7.2). -/
def rowOff (b : List Byte) (e : StepEntry) : Nat :=
  if e.mode = 2 then 64 else 64 + roundUp (queryBytes b (e.candsM1 + 1)) 64

/-- Candidate token IDs of an operand area. -/
def entryIds (e : StepEntry) : List Nat := (List.range (e.candsM1 + 1)).map (fun c => field (bodyBytes e.operand) (4 * c) 4)

/-- The step's new rows in RESIDENT_FORMAT (R258, R293). -/
def entryRows (b : List Byte) (e : StepEntry) : List SlotRow :=
  (List.range (e.candsM1 + 1)).map (fun c =>
    convSlot e.rowFormat (pfResident b)
      (parseRecord b ((bodyBytes e.operand).drop (rowOff b e + c * recordBytes b e.rowFormat)) e.rowFormat))

/-- Rows that stand in the provisional slots of a stream (R303). -/
def provRows (s : State) (x : Session) (l n : Nat) : List SlotRow :=
  (List.range n).map (fun c =>
    let t := x.tokens + c
    match amGet x.refs (pk l (t / 256)) with
    | some r =>
      match recOf s r with
      | some p => (amGet p.rows (t % 256)).getD []
      | none => []
    | none => [])

/-- What a running step's result depends on (R284). -/
def attnIn (s : State) (x : Session) (q : StepRec) : AttnIn :=
  let b := sessProfile s x
  { body := b, tokens := q.tokens, cands := q.entry.candsM1 + 1, parents := q.entry.parents
    query := (bodyBytes q.entry.operand).drop 64
    own := q.rows
    pages := (indexed q.srcs).map (fun e => srcView s x q.entry.layer e.1 e.2) }

/-- First page and one past the last page a step attends. -/
def stepSpan (e : StepEntry) (x : AttnIn) : Nat × Nat := if e.mode = 1 then (e.firstPage, e.lastPage + 1) else (0, finalPages x)

/-! ### Results (R240, R295 to R297, R741) -/

/-- Every reference of a session not at tier 0, in page order and then layer order (R296). -/
def missingList (s : State) (x : Session) : List (Nat × PRef) :=
  (List.range (streamLen x 0 + 1 + tailIndex x)).flatMap (fun i =>
    (x.refs.filter (fun e => pkPage e.1 == i && (recOf s e.2).isNone)))

/-- One missing-page entry (Table 5.10). -/
def missingEntry (x : Session) (e : Nat × PRef) : List Byte :=
  let i := pkPage e.1
  let filled := if i < tailIndex x then 256 else tailFilled x
  leBytes 8 (filled + i * 2 ^ 16 + pkLayer e.1 * 2 ^ 32 + e.2.format * 2 ^ 56 + e.2.tier * 2 ^ 61)

/-- The missing-page list (R240). -/
def missingBytes (s : State) (x : Session) : List Byte :=
  let m := missingList s x
  leBytes 4 m.length ++ leBytes 4 0 ++ m.flatMap (missingEntry x)

/-- Write result bytes where the step's results go; the answer says whether host memory could be written. -/
def stepWrite (s : State) (via : ResultVia) (addr : Nat) (bs : List Byte) : State × Bool :=
  match via with
  | .host fn =>
    match hostWrite s fn addr bs with
    | (s, none) => (s, true)
    | (s, some _) => (s, false)
  | .tideway c m k => (sendResult s c m k addr bs, true)
  | .resp c m => (sendResp s c m bs, true)

/-- A STEP's receipt with its flags (Table 7.4). -/
def stepRcpt (q : StepRec) (st : Status) (pagesRead missing : Nat) : Rcpt :=
  { status := st, notes := if st = .degraded then 1 else 0
    detail := q.entry.round % 65536 + (q.entry.candsM1 + 1) * 2 ^ 16
    resA := b2n q.rowsKept + b2n q.ranBe * 2 + b2n q.fenceWait * 4 + b2n q.roundHeld * 8 + pagesRead * 2 ^ 32
    resB := missing }

/-- The step under `tag` is finished. -/
def finishStep (s : State) (tag : Nat) (q : StepRec) (r : Rcpt) : State :=
  resolveTag { s with steps := amSet s.steps tag { q with phase := .finished } } tag r

/-- Write a step's results in order; a write that fails turns the receipt to INVALID with the field's offset (R741). -/
def finishWith (s : State) (tag : Nat) (q : StepRec) (r : Rcpt) (ws : List (Nat × Nat × List Byte)) : State :=
  let o := ws.foldl (fun (acc : State × Option Nat) w =>
    match acc.2 with
    | some _ => acc
    | none =>
      match stepWrite acc.1 q.via w.2.1 w.2.2 with
      | (s, true) => (s, none)
      | (s, false) => (s, some w.1)) (s, none)
  finishStep o.1 tag q (match o.2 with
    | some off => { r with status := .invalid, notes := 0, detail := off }
    | none => r)

/-- The write of the missing-page list, if the step names an address for it (R296). -/
def missingWrite (s : State) (x : Session) (q : StepRec) : List (Nat × Nat × List Byte) :=
  if q.entry.missingAddr = 0 then [] else [(48, q.entry.missingAddr, missingBytes s x)]

/-- Pages from which at least one slot is read (Table 7.4). -/
def pagesRead (x : AttnIn) (a n : Nat) : Nat :=
  (List.range (n - a)).countP (fun k =>
    let i := a + k
    (match (x.pages.drop i).head? with
     | some v => v.present
     | none => true) && (List.range 256).any (fun t => (List.range x.cands).any (fun c => attended x c (256 * i + t))))

/-! ### Admission of a step (R299 to R309, R325, Tables 3.11 and 5.9) -/

/-- The fields of a STEP entry that are out of range, by byte offset (R288 to R291, R294, R278, R309). -/
def stepBad (s : State) (fn : Nat) (e : StepEntry) : List (Nat × Bool) :=
  let c := e.candsM1 + 1
  let op := bodyBytes e.operand
  let sess := (findHandle s e.handle).bind (amGet s.sessions)
  let set3 := (getFn s fn).set3
  let fixed :=
    [ accBad s fn (handleAccount e.handle) 8,
      (19, decide (2 < e.mode) || (e.mode == 2 && !e.newRows) || decide (15 < e.candsM1) || (set3 && decide (7 < e.candsM1))),
      (21, set3 && decide (2 < e.rowFormat)),
      (22, !((List.range 16).all (fun i =>
        let p := (e.parents.drop i).headD 0x1F
        if i < c then p == 0x1F || decide (p < i) else p == 0x1F))),
      (32, e.operandAddr % 64 != 0 || (match e.operand with | .fail _ => true | .ok _ => false)),
      (40, e.resultAddr % 64 != 0 || (e.mode == 2 && e.resultAddr != 0)),
      (48, e.missingAddr % 8 != 0),
      (58, if e.mode = 1 then decide (e.lastPage < e.firstPage) else e.firstPage != 0),
      (60, if e.mode = 1 then decide (e.treePages ≤ e.lastPage) else e.lastPage != 0),
      (62, if e.mode = 1 then e.treePages == 0 || decide (8192 < e.treePages) else e.treePages != 0) ]
    ++ (List.range 64).map (fun k => (64 + k, decide (4 * c ≤ k) && field op k 1 != 0))
  match sess with
  | none => fixed
  | some x =>
    let b := sessProfile s x
    let ids := entryIds e
    let cur := x.round.num == e.round && !x.round.closing && x.round.fixed
    let vocab := match resolveRef s 1 x.vocabRef with
      | some v => some (vcTokens (cfgBody s 1 v))
      | none => none
    fixed ++
    [ (8, set3 && (pfLatent b || decide (2 < pfResident b))),
      (19, decide (256 < c * pfGroup b) || decide (2097152 < x.tokens + c) || (cur && c != x.round.cands)),
      (20, decide (x.layersM1 < e.layer)),
      (21, e.rowFormat != pfResident b && e.rowFormat != 2),
      (22, cur && e.parents.take c != x.round.parents.take c) ]
    ++ (indexed ids).map (fun i =>
        (64 + 4 * i.1, (match vocab with | some n => decide (n ≤ i.2) | none => false)
          || (cur && c == x.round.cands && (x.round.ids.drop i.1).headD 0 != i.2)))

/-- The stream's provisional slots reach a page the stream does not hold: the page the step opens (R304). -/
def opensPage (x : Session) (e : StepEntry) : Option Nat :=
  if !e.newRows then none
  else
    let last := (x.tokens + e.candsM1) / 256
    if amHas x.refs (pk e.layer last) then none else some last

/-- Frames of the page a step opens. -/
def openFrames (s : State) (x : Session) (e : StepEntry) : Nat :=
  match opensPage x e with
  | some _ => pageFrames (sessProfile s x) (pfResident (sessProfile s x))
  | none => 0

/-- Every stream of a session holds the same positions (R749). -/
def streamsEven (s : State) (x : Session) : Bool :=
  (List.range (x.layersM1 + 1)).all (fun l =>
    let held := (streamRefs x l).foldl (fun n r => n + (match recOf s r.2 with
      | some p => p.filled
      | none => if pkPage r.1 < tailIndex x then 256 else tailFilled x)) 0
    held == x.tokens)

/-- The state a step or commit is judged by: the state before MIGRATING for an old owner before handover (R142). -/
def workState (x : Session) : SState := if x.state = .migrating ∧ !x.stub then x.prior else x.state

/-- The refusals of a STEP after INVALID, in the order of R325. -/
def stepRefuse (s : State) (fn : Nat) (e : StepEntry) (be : Bool) : List (Option Rcpt) :=
  sessRefuse s fn e.handle ++
  (match (findHandle s e.handle).bind (amGet s.sessions) with
   | none => []
   | some x =>
     let st := workState x
     let cur := x.round.num
     [ refuseIf (st == .failed || s.faults.configsLost.contains (cfgKey 0 x.profileRef.num * 65536 + x.profileRef.ver)) { status := .fault },
       refRefuse s 1 x.vocabRef,
       refuseIf (e.round == cur && x.round.closing) (rVersion ((cur + 1) % 65536)),
       refuseIf (e.round != cur && !(e.round == (cur + 1) % 65536 && x.round.closing)) (rVersion cur),
       refuseIf (st == .closing) (rBusy 1),
       refuseIf (e.round == cur && e.newRows && x.round.rowsHeld.contains e.layer) (rBusy 1),
       refuseIf (e.round == cur && !e.newRows && e.mode != 2 && !x.round.rowsHeld.contains e.layer) (rBusy 1),
       refuseIf (e.newRows && !streamsEven s x) (rBusy 1),
       refuseIf (decide (0 < openFrames s x e) && !canCharge s (handleAccount e.handle) 0 (openFrames s x e * 65536)) (rQuota 0),
       refuseIf (st == .parked && (be || e.mode == 2)
         && !canCharge s (handleAccount e.handle) 0 (floodFrames s x (floodOrder x) * 65536)) (rQuota 0) ])

/-- R139, Table 3.11: what the arrival of a step or page write does to the session's state and wait. -/
def arrive (s : State) (d : Nat) (be isStep : Bool) : State :=
  let s := endWait s d
  let s := upd s d (fun x => { x with lastOpPm := s.postmark, lastStepPm := if isStep then s.postmark else x.lastStepPm })
  match amGet s.sessions d with
  | none => s
  | some x =>
    match x.state with
    | .new => enterActive s d
    | .active => s
    | .idle => enterActive s d
    | .ebbing => enterActive (cancelEbb s d) d
    | .parked =>
      let s := (startFlood s d (!be) false).1
      modSession s d (fun x => { x with
        flood := match x.flood with
          | some f => some { f with stepSeen := f.stepSeen || isStep }
          | none => none })
    | .flooding =>
      let s := match x.flood with
        | some f =>
          if f.predictor && !f.stepSeen && isStep then
            modAccount s (handleAccount x.handle) (fun a => { a with floodsOvertaken := (a.floodsOvertaken + 1) % 2 ^ 32 })
          else s
        | none => s
      modSession s d (fun x => { x with
        floodLc := x.floodLc || !be
        flood := match x.flood with
          | some f => some { f with stepSeen := f.stepSeen || isStep }
          | none => none })
    | _ => s

/-- The round's tree is fixed by its first admitted STEP (R300). -/
def fixTree (x : Session) (e : StepEntry) : Session :=
  if x.round.fixed then x
  else { x with round := { x.round with fixed := true, cands := e.candsM1 + 1, parents := e.parents, ids := entryIds e } }

/-- Open the page a step's provisional slots reach (R304): an overflow page with TAIL 0, or page 0 as the tail page. -/
def openForStep (s : State) (d : Nat) (e : StepEntry) : State :=
  match amGet s.sessions d with
  | none => s
  | some x =>
    match opensPage x e with
    | none => s
    | some i =>
      match openPage s x d e.layer i (pfResident (sessProfile s x)) none with
      | none => s
      | some (loc, s) =>
        let first := streamLen x e.layer == 0
        let gen := match amGet s.pages loc with
          | some p => p.gen
          | none => 0
        let s := modPage s loc (fun p => { p with tail := first })
        checkPressure (noteQuotas (setRef s d (pk e.layer i)
          { tier := 0, format := pfResident (sessProfile s x), gen := gen, loc := loc }) (handleAccount x.handle))

/-- The stream's tail page and overflow page, where it needs one, are at tier 0 (R306). -/
def canKeep (s : State) (x : Session) (e : StepEntry) : Bool :=
  let ok := fun i =>
    match amGet x.refs (pk e.layer i) with
    | some r => (recOf s r).isSome
    | none => false
  ok ((x.tokens + e.candsM1) / 256) && (x.tokens == 0 || ok (tailIndex x))

/-- Write a step's rows into the provisional slots of its stream (R306, R305). -/
def keepRows (s : State) (d : Nat) (x : Session) (e : StepEntry) (rows : List SlotRow) : State :=
  let s := (indexed rows).foldl (fun s r =>
    let t := x.tokens + r.1
    match amGet x.refs (pk e.layer (t / 256)) with
    | some q => modPage s q.loc (fun p => { p with rows := amSet p.rows (t % 256) r.2 })
    | none => s) s
  let s := match amGet x.refs (pk e.layer (tailIndex x)) with
    | some q => modPage s q.loc (fun p => { p with prov := rows.length })
    | none => s
  upd s d (fun x => { x with round := { x.round with rowsHeld := insertBy id e.layer x.round.rowsHeld } })

/-- The pages of a step's range that it cannot read from HBM: page and source. -/
def stepMissing (e : StepEntry) (srcs : List PageSrc) : List (Nat × PageSrc) :=
  (indexed srcs).filter (fun q =>
    (match q.2 with
     | .hbm _ => false
     | _ => true) && (e.mode != 1 || (decide (e.firstPage ≤ q.1) && decide (q.1 ≤ e.lastPage))))

/-- Region and estimate of each region a step touches. -/
def regionEsts (ts : List (Nat × Task)) : List (Nat × Nat) :=
  regions.filterMap (fun k =>
    let n := (ts.filter (fun t => t.1 / 2 == k)).foldl (fun n t => n + t.2.est) 0
    if n = 0 then none else some (k, n))

/-- Queue a step's page tasks, as LC under R330 or as BE, and let it run (R330 to R333). -/
def dispatchStep (s : State) (tag d : Nat) (q : StepRec) : State :=
  match amGet s.sessions d with
  | none => s
  | some x =>
    let inp := attnIn s x q
    let span := stepSpan q.entry inp
    let ts := (stepTasks inp tag q.partition q.admPm q.be x.profileRef span.1 span.2).map (fun t =>
      (srcStack s x d t.page q.entry.layer ((q.srcs.drop t.page).headD
        (match amGet x.refs (pk q.entry.layer t.page) with | some r => .hbm r.loc | none => .missing)), t))
    let es := regionEsts ts
    let lc := !q.be && admitLc s q.partition es
    let s := if lc then
        { s with lcLoads := lcRecent s ++ es.map (fun e =>
            { pm := q.admPm, region := e.1, partition := q.partition, est := e.2 }) }
      else s
    let q := { q with phase := .running, ranBe := !q.be && !lc, tasksLeft := ts.length }
    let s := { s with steps := amSet s.steps tag q }
    ts.foldl (fun s t => queueTask t.1 s { t.2 with be := !lc }) s

/-- A step whose pages are settled: it runs, degrades, or completes with PAGES_ABSENT (Table 5.9); a BE step waits. -/
def settleStep (s : State) (tag : Nat) (q : StepRec) : State :=
  match amGet s.sessions q.d with
  | none => s
  | some x =>
    let e := q.entry
    let b := sessProfile s x
    let srcs := streamSrcs s x e.layer
    let miss := stepMissing e srcs
    let own := if e.newRows then entryRows b e else provRows s x e.layer (e.candsM1 + 1)
    let q := { q with tokens := x.tokens, srcs := srcs, rows := own }
    if e.mode = 2 then
      if canKeep s x e then
        finishStep (keepRows s q.d x e own) tag { q with rowsKept := true }
          (stepRcpt { q with rowsKept := true } .ok 0 0)
      else { s with
        steps := amSet s.steps tag { q with phase := .waitTail }
        ops := amMod s.ops tag (fun o => { o with state := .waiting .stepWork }) }
    else if q.be && !miss.isEmpty then
      { s with
        steps := amSet s.steps tag { q with phase := .waitFlood }
        ops := amMod s.ops tag (fun o => { o with state := .waiting .stepWork }) }
    else
      let keep := e.newRows && canKeep s x e
      let s := if keep then keepRows s q.d x e own else s
      let q := { q with rowsKept := keep || (!e.newRows) }
      let allScout := miss.all (fun p => match p.2 with | .scout => true | _ => false)
      let permits := clDegradeOk (sessClass s x) && !e.noDegrade
      if miss.isEmpty then dispatchStep s tag q.d q
      else if allScout && permits then
        let s := modAccount s (handleAccount x.handle) (fun a => { a with stepsDegraded := (a.stepsDegraded + 1) % 2 ^ 32 })
        dispatchStep s tag q.d { q with degraded := true }
      else
        let s := modAccount s (handleAccount x.handle) (fun a => { a with stepsAbsent := (a.stepsAbsent + 1) % 2 ^ 32 })
        let hide := fun (p : PageSrc) => match p with
          | .scout => PageSrc.missing
          | p => p
        let q := { q with srcs := srcs.map hide }
        if e.mode = 1 then dispatchStep s tag q.d q
        else finishWith s tag q (stepRcpt q .pagesAbsent 0 (missingList s x).length) (missingWrite s x q)

/-- A STEP that passed its checks is admitted (R326): its tree is fixed, the session's state moves (Table 3.11), the page it opens
is opened, and it goes on to its pages. -/
def admitStep (s : State) (tag : Nat) (q : StepRec) : State :=
  let s := arrive s q.d q.be true
  let s := upd s q.d (fun x => fixTree x q.entry)
  let s := openForStep s q.d q.entry
  match amGet s.sessions q.d with
  | none => s
  | some x =>
    let q := { q with admPm := s.postmark, vocab := (resolveRef s 1 x.vocabRef).getD x.vocabRef }
    let s := { s with ops := amMod s.ops tag (fun o =>
      { o with captured := [(cfgKey 0 x.profileRef.num, x.profileRef.ver), (cfgKey 1 q.vocab.num, q.vocab.ver)] }) }
    settleStep s tag q

/-- The checks of a held STEP when it is admitted: those of R325 again, against the round now current. -/
def readmitStep (fn : Nat) (s : State) (tag : Nat) : State :=
  match amGet s.steps tag with
  | none => s
  | some q =>
    match (firstBad (stepBad s fn q.entry)).map (fun o => rInvalid o) with
    | some r => finishStep s tag q r
    | none =>
      match firstRefusal (stepRefuse s fn q.entry q.be) with
      | some r => finishStep s tag q r
      | none => admitStep s tag q

/-- The steps of a session held in a phase, in tag order of their arrival. -/
def heldSteps (s : State) (d : Nat) (ph : StepPhase) : List Nat :=
  (sortBy (fun e => e.2.admPm) (s.steps.filter (fun e => e.2.d == d && e.2.phase == ph))).map (·.1)

/-- Admit the steps that waited for a commit of their session (R299). -/
def admitHeldRound (s : State) (d : Nat) : State :=
  (heldSteps s d .heldRound).foldl (fun s tag =>
    match amGet s.ops tag with
    | some o => readmitStep (originFn o.origin) s tag
    | none => s) s

/-- A STEP is taken: admitted, held for the round's commit or for a fence, under its tag (R299, R322). -/
def takeStep (s : State) (tag d fn : Nat) (e : StepEntry) (be : Bool) (via : ResultVia) (o : Op) : State :=
  match amGet s.sessions d with
  | none => putOp s tag o
  | some x =>
    let o := { o with session := some d, account := some (handleAccount x.handle), be := be, state := .waiting .stepWork }
    let part := if fn = 0 then 0 else x.partition
    let q : StepRec :=
      { entry := e, d := d, via := via, partition := part, be := be, phase := .running, admPm := s.postmark }
    let s := putOp s tag o
    if x.fence then { s with steps := amSet s.steps tag { q with phase := .heldFence, fenceWait := true } }
    else if e.round ≠ x.round.num then { s with steps := amSet s.steps tag { q with phase := .heldRound, roundHeld := true } }
    else admitStep { s with steps := amSet s.steps tag q } tag q

/-- STEP on a step ring (R287 to R309, R325). -/
def stepSpec (h : Hdr) (n : Nat) (e : StepEntry) : RingCmd :=
    { set3 := true
      bad := fun s => stepBad s h.fn e
      refuse := fun s => stepRefuse s h.fn e h.be
      waits := fun s => flrWaits h.fn (handleAccount e.handle) s || (getLive s .lcLimit).stalled || migHeld s e.handle
      run := fun s tag =>
        match findHandle s e.handle with
        | some d => takeStep s tag d h.fn e h.be (.host h.fn) (ringOp s h (.step n) (.waiting .stepWork))
        | none => finish s h (.step n) tag (rNotOwner (handleAccount e.handle)) }

/-- STEP. -/
def execStep (h : Hdr) (n : Nat) (e : StepEntry) (s : State) : Out := ringCmd (.step n) h (stepSpec h n e) s

/-- The trace ring of a partition whose consent has ended is cleared once its traced tasks have (R691, R709). -/
def clearTrace (s : State) (p : Nat) : State :=
  if profiled s p || s.blocks.any (fun e => e.2.traced && (match e.2.running with | some t => t.partition == p | none => false)) then s
  else { s with sec := { s.sec with traces := amErase s.sec.traces p } }

/-- A traced task has ended: its entry enters the partition's ring of 65,536 (R691). -/
def traceTask (s : State) (region block : Nat) (x : Block) (t : Task) : State :=
  if x.traced then
    match (amGet s.steps t.tag) with
    | none => s
    | some q =>
      let e : TraceEntry :=
        { start := x.sincePm, handle := q.entry.handle, dur := s.postmark - x.sincePm, layer := q.entry.layer, region := region
          block := block, page := t.page }
      let l := amGetD s.sec.traces t.partition []
      { s with sec := { s.sec with traces := amSet s.sec.traces t.partition ((if l.length < 65536 then l else l.tail) ++ [e]) } }
  else s

/-- PAGE_TASK_DONE (R41): the running task of a block ends, and the block starts its next. -/
def execPageTaskDone (region block pm : Nat) (s : State) : Out :=
  let s := advance pm s
  let x := getBlock s region block
  match x.running with
  | none => .next s
  | some t =>
    let s := traceTask s region block x t
    let s := { s with steps := amMod s.steps t.tag (fun q => { q with tasksLeft := q.tasksLeft - 1 }) }
    .next (clearTrace (runBlock s region block { x with running := none }) t.partition)

/-- STEP_MERGE (R271 to R279, R295): the last partials have arrived, and the home region forms and writes the result. -/
def execStepMerge (tag pm : Nat) (s : State) : Out :=
  let s := advance pm s
  match amGet s.steps tag with
  | none => .next s
  | some q =>
    match amGet s.sessions q.d with
    | none => .next s
    | some x =>
      if q.phase ≠ .running ∨ q.tasksLeft ≠ 0 then .next s
      else
        let inp := attnIn s x q
        let span := stepSpan q.entry inp
        let absent := q.srcs.any (fun p => p == .missing) && !(stepMissing q.entry q.srcs).isEmpty && !q.degraded
        let n := (missingList s x).length
        let rd := pagesRead inp span.1 span.2
        if q.entry.mode = 1 then
          let blk := (40, q.entry.resultAddr, partialBlock inp q.entry.firstPage q.entry.lastPage q.entry.treePages)
          if absent then .next (finishWith s tag q (stepRcpt q .pagesAbsent rd n) (blk :: missingWrite s x q))
          else .next (finishWith s tag q (stepRcpt q (if q.degraded then .degraded else .ok) rd 0) [blk])
        else
          .next (finishWith s tag q (stepRcpt q (if q.degraded then .degraded else .ok) rd 0)
            [(40, q.entry.resultAddr, finalBlock inp)])

/-! ### Commits (R310 to R319) -/

/-- The accepted candidates of a mask, in order of depth, if they form one path from the root (R311). -/
def acceptPath (cands : Nat) (parents : List Nat) (mask : Nat) : Option (List Nat) :=
  let acc := (List.range 16).filter (fun c => bit mask c)
  let byDepth := sortBy (candDepth parents) acc
  let ok := acc.all (fun c => decide (c < cands)) &&
    (indexed byDepth).all (fun e =>
      candDepth parents e.2 == e.1 + 1 &&
        (match parentOf parents e.2 with
         | none => e.1 == 0
         | some p => decide (0 < e.1) && (byDepth.drop (e.1 - 1)).headD 99 == p))
  if ok then some byDepth else none

/-- The refusals of a COMMIT in the order of R325 (R311, R312, Table 7.8). -/
def commitBad (s : State) (fn handle mask : Nat) : List (Nat × Bool) :=
  [ accBad s fn (handleAccount handle) 8,
    (21, match (findHandle s handle).bind (amGet s.sessions) with
      | some x => mask != 0 && (!x.round.fixed || (acceptPath x.round.cands x.round.parents mask).isNone)
      | none => false) ]

def commitRefuse (s : State) (fn handle round mask : Nat) : List (Option Rcpt) :=
  sessRefuse s fn handle ++
  (match (findHandle s handle).bind (amGet s.sessions) with
   | none => []
   | some x =>
     let st := workState x
     [ refuseIf (st == .failed) { status := .fault },
       refuseIf (round != x.round.num) (rVersion x.round.num),
       refuseIf (st == .closing) (rBusy 1),
       refuseIf (x.round.closing) (rBusy 1),
       refuseIf (mask != 0 && !streamsEven s x) (rBusy 1) ])

/-- A COMMIT is taken under its tag: CLOSING is set (R313), or it is held by a fence (R322). -/
def takeCommit (s : State) (tag d round mask : Nat) (o : Op) : State :=
  match amGet s.sessions d with
  | none => putOp s tag o
  | some x =>
    let v := resolveRef s 1 x.vocabRef
    let q := csetNow s x
    let caps := (v.toList.map (fun r => (cfgKey 1 r.num, r.ver))) ++ (q.toList.map (fun r => (cfgKey 2 r.num, r.ver)))
    let s := putOp s tag { o with session := some d, account := some (handleAccount x.handle), captured := caps
                                  state := .waiting .stepWork }
    let c : CommitRec := { d := d, round := round, mask := mask, held := x.fence, be := o.be, vocab := v, cset := q }
    let s := { s with commits := amSet s.commits tag c }
    if x.fence then s
    else upd s d (fun x => { x with lastOpPm := s.postmark, round := { x.round with closing := true } })

/-- COMMIT on a step ring. -/
def commitSpec (h : Hdr) (n handle descIndex round mask : Nat) : RingCmd :=
  let _ := descIndex
  { set3 := true
    bad := fun s => commitBad s h.fn handle mask
    refuse := fun s => commitRefuse s h.fn handle round mask
    waits := fun s => flrWaits h.fn (handleAccount handle) s || migHeld s handle
    run := fun s tag =>
      match findHandle s handle with
      | some d => takeCommit s tag d round mask (ringOp s h (.step n) (.waiting .stepWork))
      | none => finish s h (.step n) tag (rNotOwner (handleAccount handle)) }

/-- COMMIT. -/
def execCommit (h : Hdr) (n handle descIndex round mask : Nat) (s : State) : Out := ringCmd (.step n) h (commitSpec h n handle descIndex round mask) s

/-- Move the accepted rows of one stream into their committed slots (R314). -/
def moveRows (x : Session) (path : List Nat) (s : State) (l : Nat) : State :=
  let own := provRows s x l 16
  (indexed path).foldl (fun s a =>
    let t := x.tokens + a.1
    match amGet x.refs (pk l (t / 256)) with
    | some r => modPage s r.loc (fun p => { p with rows := amSet p.rows (t % 256) ((own.drop a.2).headD []) })
    | none => s) s

/-- After a commit or rollback, one stream's provisional slots are cleared, an overflow page with no committed slot is freed or
becomes the tail page, and after a commit FILLED and TAIL follow TOKENS (R314, R316). -/
def settleStream (d n : Nat) (accept : Bool) (s : State) (l : Nat) : State :=
  match amGet s.sessions d with
  | none => s
  | some x =>
    let ti := tailIndex { x with tokens := n }
    (streamRefs x l).foldl (fun s e =>
      match recOf s e.2 with
      | none => s
      | some p =>
        let i := pkPage e.1
        if n ≤ 256 * i ∧ p.tail = false ∧ p.filled = 0 then
          dropRef (modSession s d (fun x => { x with refs := amErase x.refs e.1 })) e.2.loc
        else if ti ≤ i + 1 then
          let filled := if accept then min 256 (n - 256 * i) else p.filled
          modPage s e.2.loc (fun p =>
            { p with prov := 0, filled := filled, tail := if accept then decide (i = ti) else p.tail
                     rows := cutRows filled p.rows })
        else s) s

/-- The tokens recorded after `ids` join at position `t` (R176, R314). -/
def recordTokens : List Nat → Nat → AMap (List Nat) → AMap (List Nat)
  | [], _, m => m
  | i :: r, t, m => recordTokens r (t + 1) (amSet m (t / 256) (((amGetD m (t / 256) []).take (t % 256)) ++ [i]))

/-- R171: where a copy of the tail pages stands below HBM, a commit raises GEN in every tail page's record and reference, and
TAIL_GEN. -/
def bumpGen (s : State) (d : Nat) : State :=
  match amGet s.sessions d with
  | none => s
  | some x =>
    if x.tailCopied then
      let g := (x.tailGen + 1) % 256
      let s := (List.range (x.layersM1 + 1)).foldl (fun s l =>
        match amGet x.refs (pk l (tailIndex x)) with
        | some r => setRef (modPage s r.loc (fun p => { p with gen := g })) d (pk l (tailIndex x)) { r with gen := g }
        | none => s) s
      modSession s d (fun x => { x with tailGen := g, tailCopied := false })
    else s

/-- A commit is applied with the accepted path (empty for a rollback): R314 to R317, R369, R376. -/
def applyCommit (s : State) (d : Nat) (path : List Nat) (c : CommitRec) : State :=
  match amGet s.sessions d with
  | none => s
  | some x =>
    let layers := List.range (x.layersM1 + 1)
    let n := x.tokens + path.length
    let ids := path.map (fun c => (x.round.ids.drop c).headD 0)
    let s := layers.foldl (moveRows x path) s
    let s := if path = [] then s else bumpGen s d
    let s := layers.foldl (settleStream d n (!path.isEmpty)) s
    let seq := (x.commitSeq + 1) % 2 ^ 32
    let s := upd s d (fun y =>
      let y := advanceSession s x ids |> fun z =>
        { y with automaton := z.automaton, escActive := z.escActive, escPos := z.escPos }
      { y with tokens := n, toks := recordTokens ids y.tokens y.toks, commitSeq := seq
               round := { num := seq % 65536 }
               ckptSteps := if path = [] then y.ckptSteps else min 4096 (y.ckptSteps + 1)
               ckptDirty := y.ckptDirty || !path.isEmpty })
    let s := openRound (settleChain s d false) d c.vocab c.cset
    let s := { s with notices := s.notices ++ [{ d := d, tokens := n, round := seq % 65536, ids := ids, be := c.be }] }
    noteQuotas (fitPool s (handleAccount x.handle)) (handleAccount x.handle)

/-- The steps of a session's current round that have no receipt yet. -/
def roundOpen (s : State) (d round : Nat) : Bool :=
  s.steps.any (fun e => e.2.d == d && e.2.entry.round == round && e.2.phase != .heldRound && amHas s.ops e.1)

/-- The lowest stream that holds no rows of the round. -/
def missingRows (x : Session) : Option Nat :=
  (List.range (x.layersM1 + 1)).find? (fun l => !x.round.rowsHeld.contains l)

/-- COMMIT_APPLY (R313 to R319): the steps of the round have their receipts, so the commit is applied, or refused with BUSY where
a stream's rows are missing; then held steps are admitted. -/
def execCommitApply (d pm : Nat) (s : State) : Out :=
  let s := advance pm s
  match amGet s.sessions d, s.commits.find? (fun e => e.2.d == d && !e.2.held && (match amGet s.ops e.1 with
      | some o => o.state == .waiting .stepWork
      | none => false)) with
  | some x, some (tag, c) =>
    if !x.round.closing || roundOpen s d c.round then .next s
    else
      match (if c.mask = 0 then none else missingRows x) with
      | some l =>
        let s := upd s d (fun x => { x with round := { x.round with closing := false } })
        .next (textAfterCommit (resolveTag s tag { rBusy 1 with resA := l }) d)
      | none =>
        let path := (acceptPath x.round.cands x.round.parents c.mask).getD []
        let s := applyCommit s d path c
        let s := resolveTag s tag
          { status := .ok, detail := c.round, resA := x.tokens + path.length, resB := path.length }
        .next (admitHeldRound (textAfterCommit s d) d)
  | _, _ => .next s

/-- Steps that waited for a flood or for their stream's tail page look at their pages again (Table 5.9, R134). -/
def resumeSteps (s : State) (d : Nat) : State :=
  (heldSteps s d .waitTail ++ heldSteps s d .waitFlood).foldl (fun s tag =>
    match amGet s.steps tag with
    | some q => settleStep s tag q
    | none => s) s

/-- R136: at CLOSE_SESSION a step that waits for pages completes with PAGES_ABSENT and its list, a ROWS_ONLY step as a page write
with BUSY 1. -/
def closeSteps (s : State) (d : Nat) : State :=
  let s := (heldSteps s d .waitTail).foldl (fun s tag =>
    match amGet s.steps tag with
    | some q => finishStep s tag q (rBusy 1)
    | none => s) s
  (heldSteps s d .waitFlood).foldl (fun s tag =>
    match amGet s.steps tag, amGet s.sessions d with
    | some q, some x => finishWith s tag q (stepRcpt q .pagesAbsent 0 (missingList s x).length) (missingWrite s x q)
    | _, _ => s) s

/-- What a fence held is admitted in order when the fence lifts (R322). -/
def liftFence (s : State) (d : Nat) : State :=
  let s := upd s d (fun x => { x with fence := false })
  let s := (heldSteps s d .heldFence).foldl (fun s tag =>
    match amGet s.ops tag with
    | some o => readmitStep (originFn o.origin) s tag
    | none => s) s
  match s.commits.find? (fun e => e.2.d == d && e.2.held) with
  | some (tag, c) =>
    upd { s with commits := amSet s.commits tag { c with held := false } } d
      (fun x => { x with round := { x.round with closing := true } })
  | none => s

/-- LC_LIMIT (R327): 10 to 90 percent. -/
def execLcLimit (value : Word32) (s : State) : Out :=
  let v := value.toNat % 128
  .next (if regsOpen s 0 then writeLive s .lcLimit v (decide (10 ≤ v) && decide (v ≤ 90)) else s)

/-- The value a live field will have once its pending write is applied. -/
def livePending (s : State) (f : LiveField) : Nat := ((getLive s f).shadow).getD (getLive s f).value

/-- LC_SHARE_n (R328): ignored if the pending shares would sum above 100. -/
def execLcShare (partition : Nat) (value : Word32) (s : State) : Out :=
  let v := value.toNat % 128
  let rest := ((List.range 64).map (· + 1)).foldl (fun n q =>
    if q = partition then n else n + livePending s (.lcShare q)) 0
  .next (if regsOpen s 0 ∧ 1 ≤ partition ∧ partition ≤ 64 ∧ vfLocked s partition = false then writeLive s (.lcShare partition) v (decide (rest + v ≤ 100)) else s)

end Sys2Proof.Machine
end

