-- ==== Sys2Proof/Machine/PageWrites.lean ====
section
/-! DEFINITION. Page writes (R172 to R176, R748, R749). -/

namespace Sys2Proof.Machine

/-- A refusal of a page write or its acceptance as a repeat (R175). -/
inductive WriteCheck where
  | store
  | repeated
  | refuse (r : Rcpt)
  deriving DecidableEq, Repr

/-- The payload's fields that are out of range, by byte offset from its start (R748, R172 to R174, R176, R146). -/
def writeBad (s : State) (x : Session) (w : PageWriteMsg) : List (Nat × Bool) :=
  let b := sessProfile s x
  let len := streamLen x w.layer
  let top := (amGet x.refs (pk w.layer (len - 1))).bind (recOf s)
  let below := match top with
    | some p => p.filled
    | none => if len = 0 then 256 else 256
  let known := amGetD x.toks w.pageIndex []
  (match w.rsvBad with | some o => [(o, true)] | none => []) ++
  [ (18, decide (x.layersM1 < w.layer)),
    (20, decide (8191 < w.pageIndex) || (!amHas x.refs (pk w.layer w.pageIndex)
      && (decide (w.pageIndex != len) || (decide (0 < len) && below != 256)))),
    (22, w.slots == 0 || decide (256 < w.slots) || (decide (w.slots < 256) && decide (w.pageIndex + 1 < len))),
    (24, w.format != pfResident b && w.format != 2),
    (1088, w.body.length != pageBytes b w.format) ]
  ++ (indexed w.tokens).map (fun t =>
      (64 + 4 * t.1, (decide (w.slots ≤ t.1) && t.2 != 0)
        || (decide (t.1 < w.slots) && decide (t.1 < known.length)
            && (match amGet x.refs (pk w.layer w.pageIndex) with | some r => r.tier == 4 | none => true) && (known.drop t.1).headD 0 != t.2)))

/-- The page is there already: a repeat if its tokens and SLOTS are the same, else BUSY 1 (R175); BUSY 1 also over provisional
slots (R308). A reference at tier 4 is written again whatever is there (R622). -/
def writeBusy (s : State) (x : Session) (w : PageWriteMsg) : WriteCheck :=
  match amGet x.refs (pk w.layer w.pageIndex) with
  | some r =>
    if r.tier = 4 then .store else
    let filled := match recOf s r with
      | some p => p.filled
      | none => if w.pageIndex < tailIndex x then 256 else tailFilled x
    if filled = w.slots ∧ (amGetD x.toks w.pageIndex []).take w.slots = w.tokens.take w.slots then .repeated
    else .refuse (rBusy 1)
  | none => if streamProv s x w.layer ≠ 0 ∧ tailIndex x ≤ w.pageIndex then .refuse (rBusy 1) else .store

/-- Positions a stream holds from 0 (R749). -/
def heldOf (s : State) (x : Session) (l : Nat) : Nat :=
  (streamRefs x l).foldl (fun n r => n + (match recOf s r.2 with
    | some p => p.filled
    | none => if pkPage r.1 < tailIndex x then 256 else tailFilled x)) 0

/-- TOKENS: the positions that every stream holds (R749). -/
def tokensHeld (s : State) (x : Session) : Nat :=
  (List.range (x.layersM1 + 1)).foldl (fun n l => min n (heldOf s x l)) (heldOf s x 0)

/-- Store a page write that passed its checks (R173, R174, R180, R749): the answer is its receipt. -/
def storeWrite (s : State) (d : Nat) (w : PageWriteMsg) : State × Rcpt :=
  match amGet s.sessions d with
  | none => (s, { status := .fault })
  | some x =>
    let b := sessProfile s x
    let a := handleAccount x.handle
    let fmt := pfResident b
    if !canCharge s a 0 (pageFrames b fmt * 65536) then (s, rQuota 0)
    else
      match openPage s x d w.layer w.pageIndex fmt none with
      | none => (s, rQuota 0)
      | some (loc, s) =>
        let key := pk w.layer w.pageIndex
        let s := modPage s loc (fun p =>
          { p with filled := w.slots, tail := !amHas x.refs (pk w.layer (w.pageIndex + 1)), rows := convRows w.format fmt (parseBody b w.body w.format w.slots) })
        let s := if w.pageIndex = 0 then s
          else match amGet x.refs (pk w.layer (w.pageIndex - 1)) with
            | some r => if (recOf s r).isSome then modPage s r.loc (fun p => { p with tail := false }) else s
            | none => s
        let gen := match amGet s.pages loc with
          | some p => p.gen
          | none => 0
        let ids := w.tokens.take w.slots
        let s := upd s d (fun x =>
          { x with refs := amSet x.refs key { tier := 0, format := fmt, gen := gen, loc := loc }
                   rootSalt := if w.pageIndex = 0 ∧ x.rootSalt = none then some w.rootSalt else x.rootSalt
                   toks := if (amGetD x.toks w.pageIndex []).length < ids.length then amSet x.toks w.pageIndex ids else x.toks })
        let s := settleChain s d true
        let s := match amGet s.sessions d with
          | some y => upd s d (fun x => { x with tokens := max x.tokens (tokensHeld s y) })
          | none => s
        let s := serveText (checkPressure (noteQuotas (fitPool s a) a)) d
        (if (match amGet x.refs key with | some r => r.tier == 4 | none => false) then resumeSteps s d else s, rOk)

/-- The checks of a page write beyond its payload's fields: the class of the session's state (Table 3.11), in the order of
R325. -/
def writeRefuse (s : State) (x : Session) (w : PageWriteMsg) : WriteCheck :=
  let st := workState x
  if st = .failed then .refuse { status := .fault }
  else if st = .closing then .refuse (rBusy 1)
  else
    match writeBusy s x w with
    | .store =>
      if st = .parked ∧ !canCharge s (handleAccount x.handle) 0 (floodFrames s x (floodOrder x) * 65536) = true then
        .refuse (rQuota 0)
      else if !canCharge s (handleAccount x.handle) 0
          (pageFrames (sessProfile s x) (pfResident (sessProfile s x)) * 65536) then .refuse (rQuota 0)
      else .store
    | c => c

/-- The stream's tail page is at tier 0, or it has none (R134), or it is lost and no flood brings it (R622). -/
def tailHere (s : State) (x : Session) (l : Nat) : Bool :=
  match amGet x.refs (pk l (tailIndex x)) with
  | some r => r.tier == 4 || (recOf s r).isSome
  | none => true

/-- A page write for descriptor `d` under its tag (Table 3.11, R134, R322): refused, stored, or held. -/
def takeWrite (s : State) (tag d : Nat) (be : Bool) (w : PageWriteMsg) (o : Op) : State :=
  match amGet s.sessions d with
  | none => putOp s tag { o with state := .ready { status := .fault } }
  | some x =>
    let o := { o with session := some d, account := some (handleAccount x.handle), be := be }
    match (firstBad (writeBad s x w)).map (fun k => rInvalid k) with
    | some r => putOp s tag { o with state := .ready r }
    | none =>
      match writeRefuse s x w with
      | .refuse r => putOp s tag { o with state := .ready r }
      | .repeated => putOp s tag { o with state := .ready (rOk) }
      | .store =>
        let hold := fun (s : State) => putOp { s with heldWrites := s.heldWrites ++ [(tag, w)] } tag
          { o with state := .waiting (.tailPage d w.layer) }
        if x.fence then hold s
        else
          let s := arrive s d be false
          match amGet s.sessions d with
          | none => putOp s tag { o with state := .ready { status := .fault } }
          | some y =>
            if tailHere s y w.layer then
              let r := storeWrite s d w
              putOp r.1 tag { o with state := .ready r.2 }
            else hold s

/-- One held page write of a session is tried again. -/
def retryWrite (d : Nat) (s : State) (e : Nat × PageWriteMsg) : State :=
  match amGet s.ops e.1, amGet s.sessions d with
  | some o, some x =>
    if o.state = .waiting (.tailPage d e.2.layer) then
      if tailHere s x e.2.layer && !x.fence then
        let s := { s with heldWrites := s.heldWrites.filter (fun q => q.1 != e.1) }
        match (firstBad (writeBad s x e.2)).map (fun k => rInvalid k) with
        | some r => resolveTag s e.1 r
        | none =>
          match writeRefuse s x e.2 with
          | .refuse r => resolveTag s e.1 r
          | .repeated => resolveTag s e.1 (rOk)
          | .store => let r := storeWrite s d e.2; resolveTag r.1 e.1 r.2
      else s
    else s
  | _, _ => s

/-- Page writes that waited for their stream's tail page, or for a fence, are tried again (R134, R322). -/
def resumeWrites (s : State) (d : Nat) : State := s.heldWrites.foldl (retryWrite d) s

end Sys2Proof.Machine
end

