-- ==== Sys2Proof/Machine/Cells.lean ====
section
/-! DEFINITION. Byte memories: addresses in strictly rising order, no entry equal to what an unlisted address reads as. The two
addressed memories the spec gives the block (harbourmaster memory, and the HBM bytes of window extents) read as zero where
nothing has been written since their frames were given (R220, R447). -/

namespace Sys2Proof.Machine

/-- The cells are in their one form. -/
def Memory.wf : List Host.Cell → Bool
  | [] => true
  | [c] => c.2 != 0#8
  | c :: d :: r => c.2 != 0#8 && decide (c.1 < d.1) && Memory.wf (d :: r)

/-- One byte written; a zero byte leaves no entry. -/
def cellSet : List Host.Cell → Nat → Byte → List Host.Cell
  | [], a, b => if b = 0#8 then [] else [(a, b)]
  | c :: r, a, b =>
    if a < c.1 then (if b = 0#8 then c :: r else (a, b) :: c :: r)
    else if a = c.1 then (if b = 0#8 then r else (a, b) :: r)
    else c :: cellSet r a b

/-- One byte read; an unlisted address reads as zero. -/
def cellGet : List Host.Cell → Nat → Byte
  | [], _ => 0#8
  | c :: r, a => if a = c.1 then c.2 else cellGet r a

/-- Bytes written from address `a` on. -/
def cellsWrite (m : List Host.Cell) : Nat → List Byte → List Host.Cell
  | _, [] => m
  | a, b :: r => cellsWrite (cellSet m a b) (a + 1) r

/-- `n` bytes read from address `a` on. -/
def cellsRead (m : List Host.Cell) (a n : Nat) : List Byte := (List.range n).map (fun i => cellGet m (a + i))

/-- The bytes from `lo` up to but not at `hi` written with zeros. -/
def cellsZero (m : List Host.Cell) (lo hi : Nat) : List Host.Cell := m.filter (fun c => !(decide (lo ≤ c.1) && decide (c.1 < hi)))

end Sys2Proof.Machine
end

