-- ==== Sys2Proof/Machine/Window.lean ====
section
/-! DEFINITION. The shared window: regions and extents, the directory and the order of requests at a line, snoops, releases, host
crashes and the loss log (The Shared Window: CXL Memory, Extents and the Directory). -/

namespace Sys2Proof.Machine

def modWin (s : State) (f : Window → Window) : State := { s with win := f s.win }

/-! ### Regions, extents and addresses (R441 to R444) -/

def swReg (s : State) (n : Nat) : Nat := (amGetD s.win.regions n 0#64).toNat
def rgEnable (v : Nat) : Bool := bit v 0
def rgInterleave (v : Nat) : Bool := bit v 4
def rgHome (v : Nat) : Nat := bits v 7 5
def rgExtents (v : Nat) : Nat := bits v 42 32

def extKey (r e : Nat) : Nat := r * 1024 + e

/-- The extent of a line, as a key: DPA bits [40:28]. -/
def lineExt (line : Nat) : Nat := line / 2 ^ 22

def dpaOf (r e o : Nat) : Nat := r * 2 ^ 38 + e * 2 ^ 28 + o

def getExt (s : State) (k : Nat) : Extent := amGetD s.win.extents k {}

def modExt (s : State) (k : Nat) (f : Extent → Extent) : State :=
  modWin s (fun w => { w with extents := amSet w.extents k (f (getExt s k)) })

/-- An extent of region `r` is granted, being granted or being scrubbed: LOCKED. -/
def rgLocked (s : State) (r : Nat) : Bool := s.win.extents.any (fun e => e.1 / 1024 == r)

/-- The stack that holds a line (R443). -/
def lineStack (s : State) (line : Nat) : Nat :=
  let v := swReg s (lineExt line / 1024)
  let j := line / 1024 % 4096
  if rgInterleave v then 2 * rgHome v + j % 2 else j % 12

/-- The directory slice of a line (R22, R443). -/
def lineSlice (s : State) (line : Nat) : Nat := lineStack s line / 2

/-- Entries of a directory slice (R451). -/
def dirEntries (k : Nat) : Nat := if k < 4 then 11184811 else 11184810

/-- Entries of a slice in use. -/
def dirUsed (s : State) (k : Nat) : Nat := s.win.dir.countP (fun e => lineSlice s e.1 == k)

/-! ### Frames (R447, R451) -/

/-- `n` frames of a stack as runs from its gaps, lowest first. -/
def takeFrames : Nat → State → Nat → Nat → List Nat → Option (List Nat × State)
  | _, s, _, 0, acc => some (acc, s)
  | 0, _, _, _ + 1, _ => none
  | fuel + 1, s, st, n + 1, acc =>
    match findRun s st (n + 1) with
    | some b => some (acc ++ [runKey st b], takeRun s st b (n + 1) none)
    | none =>
      match findRun s st 1 with
      | none => none
      | some b =>
        let gap := ((stackRuns s st).foldl (fun (g : Option Nat) r => if b < r.1 ∧ g.isNone then some r.1 else g) none).getD stackFrames
        let k := max 1 (min (n + 1) (gap - b))
        takeFrames fuel (takeRun s st b k none) st (n + 1 - k) (acc ++ [runKey st b])

/-- Frames on several stacks, all or none. -/
def takeStacks (s : State) : List (Nat × Nat) → List Nat → Option (List Nat × State)
  | [], acc => some (acc, s)
  | (st, n) :: r, acc =>
    match takeFrames (s.runs.length + 2) s st n [] with
    | some (ks, s) => takeStacks s r (acc ++ ks)
    | none => none

/-- The frames of an extent by stack: 4,096 over twelve stacks or two (R443). -/
def extFrames (v : Nat) : List (Nat × Nat) :=
  if rgInterleave v then [(2 * rgHome v, 2048), (2 * rgHome v + 1, 2048)]
  else (List.range 12).map (fun i => (i, if i < 4 then 342 else 341))

/-- Take the frames of the directory: 683 of each stack. -/
def takeDirectory (s : State) : Option State :=
  (takeStacks s ((List.range 12).map (fun i => (i, 683))) []).map (fun r => modWin r.2 (fun w => { w with dirRuns := r.1 }))

/-- Give the directory's frames back. -/
def freeDirectory (s : State) : State := modWin (s.win.dirRuns.foldl freeRun s) (fun w => { w with dirRuns := [] })

/-! ### Hosts (R437, R440) -/

/-- The host port of a CXL host: the port that its logical device is bound on, or its own directly attached port. -/
def hostPort (s : State) (h : Nat) : Option HostPort :=
  ([0, 1].filterMap (fun p =>
    let x := amGetD s.win.ports p {}
    if x.version = 0 ∨ x.inReset then none
    else if x.switched then (if s.win.lds.contains (p * 16 + h) then some x else none)
    else if p = h then some x else none)).head?

/-- The CXL version of a host's link: 0 where it has none. -/
def hostVersion (s : State) (h : Nat) : Nat :=
  match hostPort s h with
  | some x => x.version
  | none => 0

/-- A host whose lines the directory does not track: on a CXL 2.0 link (R440). -/
def hostUntracked (s : State) (h : Nat) : Bool := h != 16 && hostVersion s h == 2

/-! ### Memory and poison (R465, R469 to R471) -/

def lineBytes (s : State) (line : Nat) : List Byte := cellsRead s.win.mem (line * 64) 64

/-- A full-line mask. -/
def fullMask : Nat := 2 ^ 64 - 1

/-- A line after a write of the bytes a mask enables. -/
def maskedBytes (old new : List Byte) (mask : Nat) : List Byte :=
  (List.range 64).map (fun i => if bit mask i then (new.drop i).headD 0#8 else (old.drop i).headD 0#8)

def setLine (s : State) (line : Nat) (bs : List Byte) (mask : Nat) : State :=
  modWin s (fun w => { w with mem := cellsWrite w.mem (line * 64) (maskedBytes (lineBytes s line) bs mask) })

def isPoisoned (s : State) (line : Nat) : Bool := amHas s.win.poison line

/-- Clear a line's poison mark and its loss record; an empty log counts no losses any longer (R469, R471). -/
def clearPoison (s : State) (line : Nat) : State :=
  modWin s (fun w =>
    let loss := w.loss.filter (fun r => r.line != line)
    { w with poison := amErase w.poison line, loss := loss
             lost := if loss.isEmpty then 0 else w.lost, lossFull := if loss.isEmpty then false else w.lossFull })

/-- Mark a line POISONED, with its loss record (R464, R467, R471). -/
def poisonLine (s : State) (line cause host : Nat) : State :=
  if isPoisoned s line then s
  else
    let s := modWin s (fun w => { w with poison := amSet w.poison line (), dir := amErase w.dir line })
    if s.win.loss.length < 65536 then
      modWin s (fun w =>
        let seq := (w.lossSeq + 1) % 2 ^ 32
        { w with lossSeq := seq, loss := w.loss ++ [{ pm := s.postmark, seq := seq, line := line, cause := cause, host := host }] })
    else
      let full := s.win.lossFull
      let s := modWin s (fun w => { w with lost := w.lost + 1, lossFull := true })
      if full then s else postPf s 0x0502 0 (s.win.loss.length % 2 ^ 32)

/-- A write dropped is counted for its host and extent, and the first posts WRITE_DROPPED (R449, R459). -/
def dropWrite (s : State) (host line : Nat) : State :=
  let k := lineExt line * 32 + host
  let n := amGetD s.win.dropped k 0
  let s := modWin s (fun w => { w with dropped := amSet w.dropped k (n + 1) })
  if n = 0 then postPf s 0x0504 host (line * 64) else s

/-! ### Answers -/

/-- A line of a Tideway transfer is served; the last ends the transfer: its packet is placed, or its data returned, or it completes
with POISONED or FENCED (R453, R458, R491). -/
def xferLine (s : State) (id line : Nat) (bs : List Byte) (poison fence : Bool) : State :=
  match amGet s.win.xfers id with
  | none => s
  | some x =>
    let x := { x with left := x.left - 1, poisoned := x.poisoned || poison, fenced := x.fenced || fence, data := amSet x.data line bs }
    if x.left ≠ 0 then modWin s (fun w => { w with xfers := amSet w.xfers id x })
    else
      let s := modWin s (fun w => { w with xfers := amErase w.xfers id })
      let go : Option Placing := match getConn s x.conn with
        | some c => c.placing.find? (fun (p : Placing) => p.xfer == some id)
        | none => none
      let s := modConn s x.conn (fun c => { c with placing := c.placing.filter (fun (p : Placing) => p.xfer != some id) })
      match go with
      | none => s
      | some p =>
        if x.write then
          let s := if x.fenced then refuseWrite s x.conn x.msg p.msg.key p.msg.be { status := .fenced }
            else writePlaced s x.conn x.msg x.len
          packetTaken s x.conn x.psn p.last
        else if x.poisoned then refuseRead s x.conn x.msg p.msg.key p.msg.be { status := .poisoned }
        else if x.fenced then refuseRead s x.conn x.msg p.msg.key p.msg.be { status := .fenced }
        else
          let all := x.data.flatMap (fun (e : Nat × List Byte) => e.2)
          sendResp s x.conn x.msg ((all.drop (x.dpa % 64)).take x.len)

/-- A read of a line is answered. -/
def answerRead (s : State) (q : LineReq) (bs : List Byte) (poison fence : Bool) : State :=
  match q.for_ with
  | .host => emit (.memData q.host (q.line * 64) bs (poison || fence)) s
  | .core _ => emit (if poison || fence then .coreFault false (q.line * 64) else .coreData (q.line * 64) bs) s
  | .xfer id => xferLine s id q.line bs poison fence
  | .slice => s

/-- A write of a line is answered; `ok` says that it was not dropped. -/
def answerWrite (s : State) (q : LineReq) (ok : Bool) : State :=
  match q.for_ with
  | .host => emit (.memDone q.host (q.line * 64)) s
  | .core _ => emit (if ok then .coreStored (q.line * 64) else .coreFault true (q.line * 64)) s
  | .xfer id => xferLine s id q.line [] false (!ok)
  | .slice => s

/-! ### The directory (R451 to R457) -/

def setDir (s : State) (line : Nat) (holders : List Nat) (owned : Bool) : State :=
  modWin s (fun w =>
    if holders.isEmpty then { w with dir := amErase w.dir line }
    else { w with dir := amSet w.dir line { holders := holders, owned := owned, granted := w.grantSeq }, grantSeq := w.grantSeq + 1 })

/-- The snoops a request needs against the line's state (Table 10.5, R455, R460). -/
def snoopsFor (e : Option DirEntry) (q : LineReq) : List (Nat × Nat) :=
  match e with
  | none => []
  | some e =>
    let others := e.holders.filter (· != q.host)
    match q.ask with
    | .read 2 => others.map (fun h => (h, 0))
    | .read 1 => if e.owned then others.map (fun h => (h, 1)) else []
    | .read _ => if e.owned && !q.curDone then others.map (fun h => (h, 2)) else []
    | .write _ _ => others.map (fun h => (h, 0))
    | .recall h => if e.holders.contains h then [(h, 0)] else []
    | .evict => e.holders.map (fun h => (h, 0))

/-- Snoops of a host that wait are issued while it has fewer than 1,024 outstanding (R457); `n` bounds them. -/
def issueSnoops : Nat → State → Nat → State
  | 0, s, _ => s
  | n + 1, s, h =>
    if 1024 ≤ s.win.snoops.countP (fun p => p.host == h && p.issued.isSome) then s
    else
      match s.win.snoops.find? (fun p => p.host == h && p.issued.isNone) with
      | none => s
      | some p =>
        let s := modWin s (fun w => { w with snoops := w.snoops.map (fun r => if r = p then { r with issued := some s.postmark } else r) })
        issueSnoops n (emit (.snoop p.host (p.line * 64) p.kind) s) h

/-- Send the snoops of a request. -/
def sendSnoops (s : State) (line : Nat) (ps : List (Nat × Nat)) : State :=
  ps.foldl (fun s p =>
    let q : Snoop := { line := line, host := p.1, kind := p.2, issued := none }
    issueSnoops 1 (modWin s (fun w => { w with snoops := w.snoops ++ [q] })) p.1) s

/-- The line of a slice granted least recently that has no request in progress (R455). -/
def dirVictim (s : State) (k : Nat) : Option Nat :=
  ((s.win.dir.filter (fun e => lineSlice s e.1 == k && !s.win.reqs.any (fun q => q.line == e.1))).foldl
    (fun (b : Option (Nat × DirEntry)) e =>
      match b with
      | none => some e
      | some x => if e.2.granted < x.2.granted then some e else some x) none).map (·.1)

/-- R473: DIR_EVICTING at a slice's first eviction. -/
def noteEvict (s : State) (k : Nat) : State :=
  if s.win.evicting.contains k then s
  else postPf (modWin s (fun w => { w with evicting := k :: w.evicting })) 0x0503 k (dirUsed s k % 2 ^ 32)

/-- R473: a slice with 1/16 of its entries free may post again. -/
def noteDirFree (s : State) (k : Nat) : State :=
  if dirUsed s k + dirEntries k / 16 ≤ dirEntries k then modWin s (fun w => { w with evicting := w.evicting.filter (· != k) }) else s

/-- The request needs a new directory entry (R455). -/
def needsEntry (s : State) (q : LineReq) : Bool :=
  (match q.ask with
   | .read h => h != 0
   | _ => false) && !amHas s.win.dir q.line && !isPoisoned s q.line && !hostUntracked s q.host

/-- A recall is done: counted if a snoop was answered (R461). -/
def countRecall (s : State) (line host : Nat) (answered : Bool) : State :=
  if answered then
    modWin s (fun w => { w with releases := w.releases.map (fun r =>
      if extKey r.region r.extent = lineExt line ∧ r.host = host then { r with recalled := r.recalled + 1 } else r) })
  else s

/-- A request whose snoops are answered takes effect (Table 10.5). -/
def finishReq (s : State) (q : LineReq) : State :=
  let e := amGet s.win.dir q.line
  let others := match e with
    | some e => e.holders.filter (· != q.host)
    | none => []
  if isPoisoned s q.line then
    match q.ask with
    | .read _ => answerRead s q (lineBytes s q.line) true false
    | .write bs mask =>
      let core := match q.for_ with
        | .core _ => true
        | _ => false
      if mask = fullMask ∧ core = false then answerWrite (clearPoison (setLine s q.line bs mask) q.line) q true
      else answerWrite (dropWrite s q.host q.line) q false
    | .recall h => countRecall s q.line h q.curDone
    | .evict => s
  else
    match q.ask with
    | .read hold =>
      let s :=
        if hold = 0 ∨ hostUntracked s q.host then s
        else if hold = 2 then setDir s q.line [q.host] true
        else setDir s q.line (insertBy id q.host others) false
      answerRead s q (lineBytes s q.line) false false
    | .write bs mask =>
      let s := setLine s q.line bs mask
      answerWrite s q true
    | .recall h => countRecall s q.line h q.curDone
    | .evict => noteDirFree s (lineSlice s q.line)

/-- Drop the first request of a line from the order. -/
def dropReq (s : State) (line : Nat) : State :=
  modWin s (fun w => { w with reqs := w.reqs.eraseP (fun q => q.line == line) })

/-- The first request of a line changed. -/
def modReq (s : State) (line : Nat) (f : LineReq → LineReq) : State :=
  modWin s (fun w =>
    let go := w.reqs.foldl (fun (acc : List LineReq × Bool) q =>
      if acc.2 = false ∧ q.line = line then (acc.1 ++ [f q], true) else (acc.1 ++ [q], acc.2)) ([], false)
    { w with reqs := go.1 })

/-- Serve the requests of a line in order, as far as snoops and directory entries let it (R452 to R455). -/
def serveLine : Nat → State → Nat → State
  | 0, s, _ => s
  | n + 1, s, line =>
    match s.win.reqs.find? (fun q => q.line == line) with
    | none => s
    | some q =>
      if s.win.snoops.any (fun p => p.line == line) then s
      else
        let ps := snoopsFor (amGet s.win.dir line) q
        if !ps.isEmpty then sendSnoops (modReq s line (fun q => { q with started := true })) line ps
        else if needsEntry s q && decide (dirEntries (lineSlice s line) ≤ dirUsed s (lineSlice s line)) then
          match q.evicting with
          | some v =>
            if amHas s.win.dir v then s else serveLine n (modReq s line (fun q => { q with evicting := none })) line
          | none =>
            match dirVictim s (lineSlice s line) with
            | none => s
            | some v =>
              let s := noteEvict (modReq s line (fun q => { q with started := true, evicting := some v })) (lineSlice s line)
              let ev : LineReq := { line := v, host := 31, ask := .evict, for_ := .slice }
              serveLine n (modWin s (fun w => { w with reqs := w.reqs ++ [ev] })) v
        else
          let s := dropReq (finishReq s q) line
          let s := (s.win.reqs.filter (fun r => r.evicting == some line)).foldl (fun s r => serveLine n s r.line) s
          serveLine n s line

/-- Serve a line with fuel for every request there is. -/
def serve (s : State) (line : Nat) : State := serveLine (2 * s.win.reqs.length + 4) s line

/-! ### Releases and crashes (R459 to R464) -/

/-- A host still holds, or is being recalled from, some line of an extent. -/
def stillHeld (s : State) (k host : Nat) : Bool :=
  s.win.dir.any (fun e => lineExt e.1 == k && e.2.holders.contains host)
    || s.win.reqs.any (fun q => lineExt q.line == k && q.ask == .recall host)

/-- The extent has no host left: it is scrubbed if it was granted (R462). -/
def endGrant (s : State) (k : Nat) (host : Nat) : State :=
  modExt s k (fun e =>
    let hs := e.hosts.filter (· != host)
    { e with hosts := hs, fenced := e.fenced.filter (· != host), scrubbing := hs.isEmpty })

/-- A release whose lines are all recalled or settled completes (R450, R461). -/
def settleRelease (s : State) (r : ReleaseRun) : State :=
  let k := extKey r.region r.extent
  if stillHeld s k r.host then s
  else
    let drops := amGetD s.win.dropped (k * 32 + r.host) 0
    let s := endGrant s k r.host
    let s := modWin s (fun w =>
      { w with releases := w.releases.filter (fun q => !(q.region == r.region && q.extent == r.extent && q.host == r.host))
               dropped := amErase w.dropped (k * 32 + r.host) })
    let s := match r.tags with
      | [] => s
      | t :: ts =>
        ts.foldl (fun s t => resolveTag s t rOk)
          (resolveTag s t { status := .ok, resA := r.recalled, resB := drops, detail := r.poisoned })
    if r.byHost then postPf s 0x0505 r.host (dpaOf r.region r.extent 0) else s

/-- Every release that can complete does. -/
def settleReleases (s : State) : State :=
  s.win.releases.foldl (fun s r =>
    match s.win.releases.find? (fun q => q.region == r.region && q.extent == r.extent && q.host == r.host) with
    | some q => settleRelease s q
    | none => s) s

/-- A release starts: the fence, the forced Release Capacity record, and the recall of every line held (R459, R460). -/
def startRelease (s : State) (r e host : Nat) (byHost : Bool) (tags : List Nat) : State :=
  let k := extKey r e
  let s := modExt s k (fun x => { x with fenced := if x.fenced.contains host then x.fenced else host :: x.fenced })
  let s := modWin s (fun w =>
    { w with releases := w.releases ++ [{ region := r, extent := e, host := host, byHost := byHost, tags := tags }]
             capLogs := if host = 16 ∨ byHost then w.capLogs
               else amSet w.capLogs host (amGetD w.capLogs host [] ++ [{ add := false, forced := true, region := r, extent := e }]) })
  let lines := (s.win.dir.filter (fun d => lineExt d.1 == k && d.2.holders.contains host)).map (·.1)
  let s := modWin s (fun w =>
    { w with reqs := w.reqs ++ lines.map (fun l => { line := l, host := 31, ask := .recall host, for_ := .slice }) })
  settleReleases (lines.foldl serve s)

/-- Crash handling of a host (R463, R464). -/
def crashHost (s : State) (host cause : Nat) : State :=
  if s.win.crashed.contains host then s
  else
    let s := modWin s (fun w =>
      { w with crashed := host :: w.crashed
               extents := amMap w.extents (fun _ x =>
                 if x.hosts.contains host ∧ x.fenced.contains host = false then { x with fenced := host :: x.fenced } else x) })
    let owned := (s.win.dir.filter (fun e => e.2.owned && e.2.holders == [host])).map (·.1)
    let shared := (s.win.dir.filter (fun e => !e.2.owned && e.2.holders.contains host)).map (·.1)
    let waits := (s.win.snoops.filter (fun p => p.host == host)).map (·.line)
    let s := owned.foldl (fun s l =>
      modWin (poisonLine s l cause host) (fun w => { w with releases := w.releases.map (fun r =>
        if extKey r.region r.extent = lineExt l ∧ r.host = host then { r with poisoned := r.poisoned + 1 } else r) })) s
    let s := shared.foldl (fun s l =>
      match amGet s.win.dir l with
      | some e => setDir s l (e.holders.filter (· != host)) false
      | none => s) s
    let s := modWin s (fun w =>
      { w with snoops := w.snoops.filter (fun p => p.host != host)
               reqs := w.reqs.filter (fun q => !(q.host == host && !q.started)) })
    let s := (owned ++ shared ++ waits).foldl serve s
    settleReleases (postPf s 0x0501 host (owned.length % 2 ^ 32 + shared.length % 2 ^ 32 * 2 ^ 32 + cause * 2 ^ 64))

/-! ### Requests on arrival (R449, R452, R456, R459) -/

/-- The host may reach the extent of a line. -/
def mayReach (s : State) (host line : Nat) : Bool :=
  match amGet s.win.extents (lineExt line) with
  | some e => e.hosts.contains host && !e.scrubbing && !e.fenced.contains host
  | none => false

/-- A request arrives at its slice: refused as R449 and R459 say, or queued behind the requests of its line. -/
def arriveLine (s : State) (q : LineReq) : State :=
  if !mayReach s q.host q.line then
    match q.ask with
    | .read _ => answerRead s q (List.replicate 64 0#8) false true
    | .write _ _ => answerWrite (dropWrite s q.host q.line) q false
    | _ => s
  else serve (modWin s (fun w => { w with reqs := w.reqs ++ [q] })) q.line

/-- The lines of `n` bytes from a DPA. -/
def linesOf (dpa n : Nat) : List Nat := (List.range ((dpa + n + 63) / 64 - dpa / 64)).map (fun i => dpa / 64 + i)

end Sys2Proof.Machine
end

