-- ==== Sys2Proof/Machine/WindowCmds.lean ====
section
/-! DEFINITION. The commands and messages of the shared window: region registers, extents, CXL.mem requests and snoop answers, the
harbourmaster cores' accesses, the CXL mailbox and the FM API (R435 to R473, Table 10.2). -/

namespace Sys2Proof.Machine

/-! ### Region registers (R442) -/

/-- Extents of the enabled regions other than `n`. -/
def otherExtents (s : State) (n : Nat) : Nat :=
  (List.range 8).foldl (fun k i => if i ≠ n ∧ rgEnable (swReg s i) = true then k + rgExtents (swReg s i) else k) 0

/-- SW_REGION: a write of the register's RW bits; ignored while LOCKED, and unchanged where ENABLE is set and a check fails. -/
def execSwRegion (n : Nat) (value : Word64) (s : State) : Out :=
  if 8 ≤ n ∨ !regsOpen s 0 ∨ rgLocked s n then .next s
  else
    let w := value.toNat
    let v := (if rgEnable w then 1 else 0) + (if rgInterleave w then 16 else 0) + rgHome w * 32 + rgExtents w * 2 ^ 32
    let put := fun (s : State) => modWin s (fun x => { x with regions := amSet x.regions n (BitVec.ofNat 64 v) })
    if rgEnable v then
      if rgExtents v = 0 ∨ 1024 < rgExtents v ∨ 5 < rgHome v ∨ 2048 < otherExtents s n + rgExtents v then .next s
      else if s.win.dirRuns.isEmpty then
        match takeDirectory s with
        | some s => .next (checkPressure (put s))
        | none => .next s
      else .next (put s)
    else
      let s := put s
      .next (if (List.range 8).any (fun i => rgEnable (swReg s i)) then s else freeDirectory s)

/-! ### Extents (R446 to R450, R459 to R466) -/

/-- The fields of an extent command that are INVALID: region not enabled, extent at or above EXTENTS, host above `top`. -/
def extBad (s : State) (region extent host top : Nat) : List (Nat × Bool) :=
  [ (8, decide (8 ≤ region) || !rgEnable (swReg s region)),
    (24, decide (rgExtents (swReg s region) ≤ extent)), (28, decide (top < host)) ]

/-- R440: the grant of an extent touches a CXL 2.0 host. -/
def grant20 (s : State) (k host : Nat) : Bool :=
  let others := (getExt s k).hosts.filter (· != host)
  amHas s.win.decoders host || others.any (hostUntracked s) || (hostUntracked s host && !others.isEmpty)

/-- A grant ends with an outcome; an extent that no host is granted or awaits gives its frames back. -/
def endGrantWait (s : State) (region extent host outcome : Nat) : State :=
  let k := extKey region extent
  let s := modWin s (fun w => { w with grants := amErase w.grants (k * 32 + host) })
  let s :=
    if outcome = 1 then
      modExt (modWin s (fun w =>
          { w with crashed := w.crashed.filter (· != host), dropped := amErase w.dropped (k * 32 + host) })) k
        (fun e => { e with hosts := insertBy id host e.hosts })
    else if (getExt s k).hosts.isEmpty && !s.win.grants.any (fun g => extKey g.2.region g.2.extent == k) then
      modWin ((getExt s k).runs.foldl freeRun s) (fun w => { w with extents := amErase w.extents k })
    else s
  resolveWait s (.extentGrant region extent host) (rOk outcome)

/-- A grant with its frames: at once for host 16 and for a CXL 2.0 host, else the Add Capacity record is posted and the host's answer
awaited (R446). -/
def offerGrant (s : State) (region extent host : Nat) : State :=
  if host = 16 ∨ hostUntracked s host then endGrantWait s region extent host 1
  else
    modWin s (fun w =>
      let g : GrantWait := { region := region, extent := extent, host := host, framesHeld := true, since := s.postmark }
      { w with grants := amSet w.grants (extKey region extent * 32 + host) g
               capLogs := amSet w.capLogs host (amGetD w.capLogs host [] ++
                 [{ add := true, forced := false, region := region, extent := extent }]) })

/-- Take an extent's frames, zeroed, if it has none yet (R447). -/
def takeExtent (s : State) (region k : Nat) : Option State :=
  if amHas s.win.extents k then some s
  else
    (takeStacks s (extFrames (swReg s region)) []).map (fun r =>
      modWin r.2 (fun w => { w with extents := amSet w.extents k { runs := r.1 } }))

/-- A grant that waits for frames is tried again. -/
def retryGrant (s : State) (g : GrantWait) : State :=
  if g.framesHeld then s
  else
    match takeExtent s g.region (extKey g.region g.extent) with
    | some s => offerGrant (checkPressure s) g.region g.extent g.host
    | none => s

/-- Every grant that waits for frames is tried again. -/
def retryGrants (s : State) : State := s.win.grants.foldl (fun s g => retryGrant s g.2) s

/-- ADD_EXTENT. -/
def addExtentSpec (h : Hdr) (extent host : Nat) : RingCmd :=
  let k := extKey h.target extent
  { pfOnly := true
    bad := fun s => extBad s h.target extent host 16
    refuse := fun s =>
      [refuseIf ((getExt s k).scrubbing || (getExt s k).hosts.contains host || amHas s.win.grants (k * 32 + host)
        || grant20 s k host) (rBusy 1)]
    run := fun s tag =>
      let g : GrantWait := { region := h.target, extent := extent, host := host, framesHeld := false, since := s.postmark }
      let s := park s h tag (.extentGrant h.target extent host)
      retryGrant (modWin s (fun w => { w with grants := amSet w.grants (k * 32 + host) g })) g }

/-- ADD_EXTENT. -/
def execAddExtent (h : Hdr) (extent host : Nat) (s : State) : Out := adminCmd h (addExtentSpec h extent host) s

/-- ADD_DYNAMIC_CAPACITY_RESPONSE: the host's answer to an add (R446). -/
def execAddDynamicCapacityResponse (host region extent : Nat) (accept : Bool) (s : State) : Out :=
  match amGet s.win.grants (extKey region extent * 32 + host) with
  | some g =>
    if g.framesHeld ∧ hostVersion s host = 3 then .next (endGrantWait s region extent host (if accept then 1 else 0)) else .next s
  | none => .next s

/-- ADD_EXTENT_TIMEOUT: 1,000 ms have passed without a response (outcome 2) or without frames (outcome 3); before that, a grant that
waits for frames is tried again (R446, R447). -/
def execAddExtentTimeout (region extent host pm : Nat) (s : State) : Out :=
  let s := advance pm s
  match amGet s.win.grants (extKey region extent * 32 + host) with
  | some g =>
    if g.since + 1000000000 ≤ s.postmark then
      .next (if g.framesHeld then endGrantWait s region extent host 2
        else resolveWait (modWin s (fun w => { w with grants := amErase w.grants (extKey region extent * 32 + host) }))
          (.extentGrant region extent host) (rOk 3))
    else .next (retryGrant s g)
  | none => .next s

/-- The release of an extent by a host that already runs. -/
def releaseRuns (s : State) (region extent host : Nat) : Bool :=
  s.win.releases.any (fun r => r.region == region && r.extent == extent && r.host == host)

/-- RELEASE_EXTENT (R459 to R461). -/
def releaseExtentSpec (h : Hdr) (extent host : Nat) : RingCmd :=
    { pfOnly := true
      bad := fun _ => [(8, decide (8 ≤ h.target)), (24, decide (1024 ≤ extent)), (28, decide (16 < host))]
      refuse := fun s => [refuseIf (amHas s.win.decoders host) (rBusy 1)]
      run := fun s tag =>
        if releaseRuns s h.target extent host then
          modWin (park s h tag (.extentRecall h.target extent host)) (fun w => { w with releases := w.releases.map (fun r =>
            if r.region = h.target ∧ r.extent = extent ∧ r.host = host then { r with tags := r.tags ++ [tag] } else r) })
        else if (getExt s (extKey h.target extent)).hosts.contains host then
          startRelease (park s h tag (.extentRecall h.target extent host)) h.target extent host false [tag]
        else done s h tag rOk }

/-- RELEASE_EXTENT. -/
def execReleaseExtent (h : Hdr) (extent host : Nat) (s : State) : Out := adminCmd h (releaseExtentSpec h extent host) s

/-- RELEASE_DYNAMIC_CAPACITY: a host releases an extent (R450). -/
def execReleaseDynamicCapacity (host region extent : Nat) (s : State) : Out :=
  if hostVersion s host ≠ 3 then .next (emit (.mailbox host .unsupported) s)
  else if (getExt s (extKey region extent)).hosts.contains host then
    let s := emit (.mailbox host .done) s
    .next (if releaseRuns s region extent host then s else startRelease s region extent host true [])
  else .next (emit (.mailbox host .invalidInput) s)

/-- SCRUB_COMPLETE: every line zero, no poison, no loss record, the frames freed, and the extent FREE (R462). -/
def execScrubComplete (region extent : Nat) (s : State) : Out :=
  let k := extKey region extent
  match amGet s.win.extents k with
  | some e =>
    if e.scrubbing then
      let s := (s.win.poison.filter (fun p => lineExt p.1 == k)).foldl (fun s p => clearPoison s p.1) s
      let s := modWin (e.runs.foldl freeRun s) (fun w =>
        { w with extents := amErase w.extents k, mem := cellsZero w.mem (k * 2 ^ 28) ((k + 1) * 2 ^ 28) })
      .next (retryGrants s)
    else .next s
  | none => .next s

/-- HOST_LOST: the fabric manager's crash notice, cause 1 (R463). -/
def hostLostSpec (h : Hdr) (host : Nat) : RingCmd :=
    { pfOnly := true
      bad := fun _ => [(24, decide (16 ≤ host))]
      run := fun s tag => done (crashHost s host 1) h tag rOk }

/-- HOST_LOST. -/
def execHostLost (h : Hdr) (host : Nat) (s : State) : Out := adminCmd h (hostLostSpec h host) s

/-- ACCEPT_LOSS (R466). -/
def acceptLossSpec (h : Hdr) (extent offset : Nat) : RingCmd :=
  let k := extKey h.target extent
  { pfOnly := true
    bad := fun s =>
      [ (8, decide (8 ≤ h.target) || !rgEnable (swReg s h.target)), (24, decide (rgExtents (swReg s h.target) ≤ extent)),
        (28, offset != 2 ^ 64 - 1 && (offset % 64 != 0 || decide (2 ^ 28 ≤ offset))) ]
    run := fun s tag =>
      let ls := (s.win.poison.filter (fun p => lineExt p.1 == k
        && (offset == 2 ^ 64 - 1 || p.1 == k * 2 ^ 22 + offset / 64))).map (·.1)
      done (ls.foldl clearPoison s) h tag (rOk ls.length) }

/-- ACCEPT_LOSS. -/
def execAcceptLoss (h : Hdr) (extent offset : Nat) (s : State) : Out := adminCmd h (acceptLossSpec h extent offset) s

/-! ### CXL.mem (R449 to R457) -/

/-- A CXL host that can send CXL.mem requests names a line of the window. -/
def memOk (s : State) (host dpa : Nat) : Bool :=
  decide (host < 16) && decide (2 ≤ hostVersion s host) && dpa % 64 == 0 && decide (dpa < 2 ^ 41)

/-- The owner's full-line write: memory takes it, and the line is left as its MetaValue says (R454). -/
def acceptWriteBack (s : State) (host line hold : Nat) (bytes : List Byte) : State :=
  let s := setLine s line bytes fullMask
  let s := if hold = 0 then setDir s line [] false else setDir s line [host] (hold == 2)
  settleReleases (serve s line)

/-- A host owns a line. -/
def owns (s : State) (host line : Nat) : Bool :=
  match amGet s.win.dir line with
  | some e => e.owned && e.holders == [host]
  | none => false

/-- MEM_READ (R453). -/
def execMemRead (host dpa hold : Nat) (s : State) : Out :=
  if memOk s host dpa && decide (hold < 3) then
    let q : LineReq := { line := dpa / 64, host := host, ask := .read (if hostUntracked s host then 0 else hold), for_ := .host }
    .next (arriveLine (leaveSlack s 4) q)
  else .next s

/-- MEM_WRITE (R453); the owner's write of the whole line is a write-back (R454). -/
def execMemWrite (host dpa hold : Nat) (bytes : List Byte) (mask : Nat) (s : State) : Out :=
  if memOk s host dpa then
    let s := leaveSlack s 4
    if mask = fullMask ∧ owns s host (dpa / 64) = true then
      .next (emit (.memDone host dpa) (acceptWriteBack s host (dpa / 64) hold bytes))
    else .next (arriveLine s { line := dpa / 64, host := host, ask := .write bytes mask, for_ := .host })
  else .next s

/-- WRITE_BACK (R454); from a host that does not own the line it is a full-line write. -/
def execWriteBack (host dpa hold : Nat) (bytes : List Byte) (s : State) : Out :=
  if memOk s host dpa then
    let s := leaveSlack s 4
    if owns s host (dpa / 64) then .next (emit (.memDone host dpa) (acceptWriteBack s host (dpa / 64) hold bytes))
    else .next (arriveLine s { line := dpa / 64, host := host, ask := .write bytes fullMask, for_ := .host })
  else .next s

/-- The line after a snoop of a kind is answered by a host (Table 10.5). -/
def answerSnoop (s : State) (p : Snoop) : State :=
  match amGet s.win.dir p.line with
  | none => s
  | some e =>
    if !e.holders.contains p.host then s
    else
      match p.kind with
      | 0 =>
        let hs := e.holders.filter (· != p.host)
        let put := fun (d : AMap DirEntry) => if hs.isEmpty then amErase d p.line else amSet d p.line { e with holders := hs }
        modWin s (fun w => { w with dir := put w.dir })
      | 1 => modWin s (fun w => { w with dir := amSet w.dir p.line { e with owned := false } })
      | _ => s

/-- BIRSPI: a snoop is answered, and the request that waited goes on (R453). -/
def execBirspi (host dpa : Nat) (s : State) : Out :=
  match s.win.snoops.find? (fun p => p.host == host && p.line == dpa / 64 && p.issued.isSome) with
  | none => .next s
  | some p =>
    let s := modWin s (fun w => { w with snoops := w.snoops.filter (· != p) })
    let s := modReq (answerSnoop s p) p.line (fun q =>
      match q.ask with
      | .recall h => if h = host then { q with curDone := true } else q
      | _ => if p.kind = 2 then { q with curDone := true } else q)
    .next (settleReleases (serve (issueSnoops 1 s host) p.line))

/-- SNOOP_TIMEOUT_EXPIRED: a snoop has gone SNOOP_TIMEOUT unanswered, so its host is handled as crashed, cause 2 (R457, R463). -/
def execSnoopTimeoutExpired (host dpa pm : Nat) (s : State) : Out :=
  let s := advance pm s
  let late := s.win.snoops.any (fun p => p.host == host && p.line == dpa / 64 && (match p.issued with
    | some t => decide (t + liveVal s .snoopTimeout * 1000000 ≤ s.postmark)
    | none => false))
  .next (if late then crashHost s host 2 else s)

/-- HM_WINDOW_ACCESS: a harbourmaster core reaches the window as host 16 (R457, R458). -/
def execHmWindowAccess (dpa : Nat) (acc : HmAccess) (s : State) : Out :=
  if s.hm.running = 0 ∨ 2 ^ 41 ≤ dpa ∨ dpa % 64 ≠ 0 then .next s
  else
    let line := dpa / 64
    match acc with
    | .load hold =>
      .next (arriveLine s { line := line, host := 16, ask := .read (min 2 hold), for_ := .core false })
    | .store bytes mask =>
      .next (arriveLine s { line := line, host := 16, ask := .write bytes mask, for_ := .core true })
    | .writeBack hold bytes =>
      if owns s 16 line then .next (acceptWriteBack s 16 line hold bytes)
      else .next (arriveLine s { line := line, host := 16, ask := .write bytes fullMask, for_ := .core true })

/-! ### The CXL mailbox and the FM API (Table 10.2, R437) -/

/-- CLEAR_POISON: a full-line write (R465). -/
def execClearPoison (host dpa : Nat) (bytes : List Byte) (s : State) : Out :=
  if memOk s host dpa then
    .next (arriveLine (emit (.mailbox host .done) s) { line := dpa / 64, host := host, ask := .write bytes fullMask, for_ := .slice })
  else .next (emit (.mailbox host .unsupported) s)

/-- GET_POISON_LIST (R468). -/
def execGetPoisonList (host : Nat) (s : State) : Out :=
  .next (emit (.mailbox host
    (if 2 ≤ hostVersion s host then
      .poisonList (s.win.loss.filter (fun r => (getExt s (lineExt r.line)).hosts.contains host)) (s.win.lost != 0)
     else .unsupported)) s)

/-- Extents a host is granted, as region and number. -/
def grantedTo (s : State) (host : Nat) : List (Nat × Nat) :=
  (s.win.extents.filter (fun e => e.2.hosts.contains host)).map (fun e => (e.1 / 1024, e.1 % 1024))

/-- IDENTIFY_MEMORY_DEVICE (Table 10.2, R440). -/
def execIdentifyMemoryDevice (host : Nat) (s : State) : Out :=
  .next (emit (.mailbox host
    (match hostVersion s host with
     | 3 => .identify 0 true
     | 2 => .identify (2 ^ 28 * (match amGet s.win.decoders host with
         | some es => es.length
         | none => (grantedTo s host).length)) false
     | _ => .unsupported)) s)

/-- GET_DYNAMIC_CAPACITY_CONFIGURATION: the regions with ENABLE set, in blocks of 256 MiB. -/
def execGetDynamicCapacityConfiguration (host : Nat) (s : State) : Out :=
  .next (emit (.mailbox host
    (if hostVersion s host = 3 then
      .regions (((List.range 8).filter (fun n => rgEnable (swReg s n))).map
        (fun n => (n, dpaOf n 0 0, rgExtents (swReg s n) * 2 ^ 28))) (2 ^ 28)
     else .unsupported)) s)

/-- GET_DYNAMIC_CAPACITY_EXTENT_LIST: the extents the host has accepted. -/
def execGetDynamicCapacityExtentList (host : Nat) (s : State) : Out :=
  .next (emit (.mailbox host (if hostVersion s host = 3 then .extents (grantedTo s host) else .unsupported)) s)

/-- GET_EVENT_RECORDS: the dynamic-capacity log, or the general log, which no rule posts to. -/
def execGetEventRecords (host : Nat) (dynamic : Bool) (s : State) : Out :=
  .next (emit (.mailbox host
    (if hostVersion s host = 0 then .unsupported else .events (if dynamic then amGetD s.win.capLogs host [] else []))) s)

/-- CLEAR_EVENT_RECORDS: the oldest `n` records go. -/
def execClearEventRecords (host : Nat) (dynamic : Bool) (n : Nat) (s : State) : Out :=
  if hostVersion s host = 0 then .next (emit (.mailbox host .unsupported) s)
  else
    let s := if dynamic then modWin s (fun w => { w with capLogs := amSet w.capLogs host ((amGetD w.capLogs host []).drop n) }) else s
    .next (emit (.mailbox host .done) s)

/-- A host port with a switch attached. -/
def switchedPort (s : State) (port : Nat) : Bool :=
  decide (port < 2) && (amGetD s.win.ports port {}).switched && (amGetD s.win.ports port {}).version != 0

/-- BIND_LD: refused while the logical device is bound on the other port (R437). -/
def execBindLd (port ld : Nat) (s : State) : Out :=
  if !switchedPort s port then .next (emit (.mailbox ld .unsupported) s)
  else if 16 ≤ ld ∨ s.win.lds.contains ((1 - port) * 16 + ld) then .next (emit (.mailbox ld .invalidInput) s)
  else
    let k := port * 16 + ld
    .next (emit (.mailbox ld .done) (modWin s (fun w => { w with lds := if w.lds.contains k then w.lds else insertBy id k w.lds })))

/-- UNBIND_LD. -/
def execUnbindLd (port ld : Nat) (s : State) : Out :=
  if !switchedPort s port then .next (emit (.mailbox ld .unsupported) s)
  else .next (emit (.mailbox ld .done) (modWin s (fun w => { w with lds := w.lds.filter (· != port * 16 + ld) })))

/-- GET_LD_INFO: the logical devices bound, of sixteen per port. -/
def execGetLdInfo (port : Nat) (s : State) : Out :=
  if !switchedPort s port then .next (emit (.mailbox 0 .unsupported) s)
  else .next (emit (.mailbox 0 (.lds ((s.win.lds.filter (fun k => k / 16 == port)).map (fun k => (k / 16, k % 16))) 16)) s)

end Sys2Proof.Machine
end

