-- ==== Sys2Proof/Machine/AdminSession.lean ====
section
/-! DEFINITION. The session commands of Table 2.23 that act on a session already here, by the states of Table 3.10, and the
timed session and tier events (Sessions and the Descriptor Table; Tiers, Placement and the Tide Predictor). -/

namespace Sys2Proof.Machine

/-- A session command: the handle at byte 24, the checks of R742, R87 and R114, and those of the command itself. -/
def sessionSpec (h : Hdr) (handle : Nat) (hasBuffer : Bool) (bad : State → List (Nat × Bool))
    (refuse : State → List (Option Rcpt)) (run : State → Nat → Nat → State) : RingCmd :=
    { set3 := true, hasBuffer := hasBuffer
      bad := fun s => accBad s h.fn (handleAccount handle) 24 :: bad s
      refuse := fun s => sessRefuse s h.fn handle ++ refuse s
      waits := fun s => flrWaits h.fn (handleAccount handle) s || homeHeld s handle || slotRebuilding s handle
      run := fun s tag =>
        match findHandle s handle with
        | some d => run (modSession s d (fun x => { x with lastOpPm := s.postmark })) tag d
        | none => done s h tag (rNotOwner (handleAccount handle)) }

/-- BUSY 1 unless the session is in one of these states (Table 3.10). -/
def stateRefuse (s : State) (handle : Nat) (ok : List SState) : Option Rcpt :=
  refuseIf (!sessTest s handle (fun x => ok.contains x.state)) (rBusy 1)

/-- R136: CLOSING begins. A running ebb or flood is abandoned, and the operations that waited on it complete. -/
def beginClose (s : State) (d : Nat) : State :=
  let s := cancelEbb s d
  let s := upd s d (fun x =>
    { x with state := .closing, flood := none, move := none, waiting := false, ebbDeferred := false, ebbAtPm := 0, resumePm := 0 })
  let s := writeBack s d
  let s := resolveWait (resolveWait (resolveWait s (.parked d) (rBusy 1)) (.flooded d) (rBusy 1)) (.replaced d) (rBusy 1)
  let s := closeSteps s d
  match amGet s.sessions d with
  | some x => (List.range (x.layersM1 + 1)).foldl (fun s l => resolveWait s (.tailPage d l) (rBusy 1)) s
  | none => s

/-- CLOSE_SESSION (R136, Table 3.10): the receipt follows the freeing of the session. -/
def closeSessionSpec (h : Hdr) (handle : Nat) : RingCmd :=
  sessionSpec h handle false (fun _ => [])
    (fun s => [stateRefuse s handle [.new, .active, .idle, .ebbing, .parked, .flooding, .failed]])
    (fun s tag d =>
      let s := beginClose s d
      putOp s tag { ringOp s h .admin (.waiting (.freed d)) with account := some (handleAccount handle) })

/-- CLOSE_SESSION. -/
def execCloseSession (h : Hdr) (handle : Nat) (s : State) : Out := adminCmd h (closeSessionSpec h handle) s

/-- SET_WAITING (R218, Table 3.10). -/
def setWaitingSpec (h : Hdr) (handle expectedMs : Nat) : RingCmd :=
  sessionSpec h handle false (fun _ => []) (fun s => [stateRefuse s handle [.active, .idle]])
    (fun s tag d =>
      let s := upd s d (fun x => { x with waitHint := expectedMs != 0, expectedMs := expectedMs })
      let s :=
        match amGet s.sessions d with
        | some x =>
          if x.state = .active then enterIdle s d
          else upd s d (fun x => schedule s x (predictedWait s x) x.waitStartPm)
        | none => s
      done s h tag (rOk))

/-- SET_WAITING. -/
def execSetWaiting (h : Hdr) (handle expectedMs : Nat) (s : State) : Out := adminCmd h (setWaitingSpec h handle expectedMs) s

/-- PARK_NOW (R131, R750, Table 3.10): the receipt follows PARKED. -/
def parkNowSpec (h : Hdr) (handle : Nat) : RingCmd :=
  sessionSpec h handle false (fun _ => [])
    (fun s => [ stateRefuse s handle [.idle, .ebbing],
                refuseIf (sessTest s handle (fun x => clTierPref (sessClass s x) 0 == 0)) (rBusy 1) ])
    (fun s tag d =>
      let s := putOp s tag { ringOp s h .admin (.waiting (.parked d)) with account := some (handleAccount handle) }
      if sessTest s handle (fun x => x.state == .idle) then dueEbb s d else s)

/-- PARK_NOW. -/
def execParkNow (h : Hdr) (handle : Nat) (s : State) : Out := adminCmd h (parkNowSpec h handle) s

/-- The frames FLOOD_NOW would charge do not fit (Table 5.5). -/
def floodRefuse (s : State) (handle : Nat) : Option Rcpt :=
  refuseIf (sessTest s handle (fun x => x.state == .parked
    && !canCharge s (handleAccount handle) 0 (floodFrames s x (floodOrder x) * 65536))) (rQuota 0)

/-- FLOOD_NOW (R135, Table 3.10). -/
def floodNowSpec (h : Hdr) (handle : Nat) : RingCmd :=
  sessionSpec h handle false (fun _ => [])
    (fun s => [stateRefuse s handle [.new, .active, .idle, .ebbing, .parked, .flooding], floodRefuse s handle])
    (fun s tag d =>
      match amGet s.sessions d with
      | none => done s h tag (rBusy 1)
      | some x =>
        match x.state with
        | .ebbing =>
          done (upd (cancelEbb s d) d (fun x => { x with state := .idle, ebbAtPm := 0, floodLc := !h.be })) h tag (rOk)
        | .parked =>
          let s := putOp s tag { ringOp s h .admin (.waiting (.flooded d)) with account := some (handleAccount handle) }
          endFlood (startFlood s d (!h.be) false).1 d
        | .flooding =>
          let s := upd s d (fun x => { x with floodLc := x.floodLc || !h.be })
          putOp s tag { ringOp s h .admin (.waiting (.flooded d)) with account := some (handleAccount handle) }
        | _ =>
          if allHbm x then done s h tag (rOk)
          else putOp s tag { ringOp s h .admin (.waiting (.flooded d)) with account := some (handleAccount handle) })

/-- FLOOD_NOW. -/
def execFloodNow (h : Hdr) (handle : Nat) (s : State) : Out := adminCmd h (floodNowSpec h handle) s

/-- QUERY_SESSION writes the 256 B descriptor (R127); a buffer shorter than that is INVALID at LEN. -/
def querySessionSpec (h : Hdr) (handle : Nat) : RingCmd :=
  sessionSpec h handle true (fun _ => []) (fun _ => [])
    (fun s tag d =>
      let s := touch s d false
      match amGet s.sessions d with
      | some x => doneWrite s h tag (descBytes s d x) (rOk)
      | none => done s h tag (rBusy 1))

/-- QUERY_SESSION. -/
def execQuerySession (h : Hdr) (handle : Nat) (s : State) : Out := adminCmd h (querySessionSpec h handle) s

/-! ### Class changes (R747) -/

/-- Pages in HBM with one reference are placed again under R203 for the new class; a page that finds no run stays. -/
def replacePage (d : Nat) (s : State) (key : Nat) : State :=
  match amGet s.sessions d with
  | none => s
  | some x =>
    match amGet x.refs key with
    | none => s
    | some r =>
      match recOf s r with
      | some p =>
        let order := stackOrder (d % 6) (pkPage key) (pkLayer key) (clStriped (sessClass s x))
        if p.refCount ≠ 1 ∨ order.head? = some p.stack then s
        else
          match firstRun s p.frames order with
          | some (st, base) =>
            if st = p.stack then s
            else
              let loc := amLowestFree s.pages (st / 2 * 2 ^ 21)
              let s := takeRun s st base p.frames (some p.account)
              let s := { freePage s r.loc with
                pages := amSet (freePage s r.loc).pages loc { p with stack := st, frameBase := base }
                idents := s.idents.map (fun e => if e.2 = r.loc then (e.1, loc) else e) }
              setRef s d key { r with loc := loc }
          | none => s
      | none => s

/-- The copies of a session on tiers that a class does not name, by page key. -/
def strayCopies (x : Session) (cls : List Byte) : List Nat :=
  (x.refs.filter (fun e => e.2.tier != 0 && e.2.tier != 4 && !(clTiers cls).contains e.2.tier)).map (·.1)

/-- Stored bytes of copies. -/
def strayBytes (s : State) (x : Session) (keys : List Nat) : Nat :=
  keys.foldl (fun n k =>
    match amGet x.refs k with
    | some r => n + (match amGet s.copies (copyKey r.tier r.loc) with | some c => c.size | none => 0)
    | none => n) 0

/-- Their stored sizes. -/
def straySizes (s : State) (x : Session) (keys : List Nat) : List Nat :=
  keys.filterMap (fun k =>
    match amGet x.refs k with
    | some r => (amGet s.copies (copyKey r.tier r.loc)).map (fun c => c.size)
    | none => none)

/-- A copy of a class change sets out for its new tier. -/
def sendMove (s : State) (d key : Nat) : State :=
  match amGet s.sessions d with
  | none => s
  | some x =>
    match x.move, amGet x.refs key with
    | some j, some r =>
      match amGet s.copies (copyKey r.tier r.loc) with
      | some c =>
        let t := sendCopy s d x j.tier key { c with mirrored := false, retained := none }
        match t.1 with
        | some loc => modSession t.2 d (fun x => { x with move := x.move.map (fun j => { j with placed := amSet j.placed key loc }) })
        | none => t.2
      | none => s
    | _, _ => s

/-- The tier a class change moves stray copies to, or the refusal of R747. -/
def moveTier (s : State) (a : Nat) (cls : List Byte) (n : Nat) (sizes : List Nat) : Option Nat × Option Rcpt :=
  let ok := fun t => canCharge s a t n && tierRoom s t sizes && (t != 3 || canCharge s a 5 n)
  match (clTiers cls).find? ok with
  | some t => (some t, none)
  | none =>
    match (clTiers cls).find? (fun t => !canCharge s a t n) with
    | some t => (none, some (rQuota t))
    | none => (none, some (rQuota (clTierPref cls 0)))

/-- R747: the charge a class change of a session needs is refused. -/
def classChangeRefuse (s : State) (handle cls : Nat) : Option Rcpt :=
  match findHandle s handle, resolveRef s 3 { num := cls, ver := 0xFFFF } with
  | some d, some cr =>
    match amGet s.sessions d with
    | some x =>
      let c := cfgBody s 3 cr
      let keys := strayCopies x c
      if keys.isEmpty then none
      else if clTierPref c 0 = 0 then
        refuseIf (!canCharge s (handleAccount handle) 0 (floodFrames s x keys * 65536)) (rQuota 0)
      else (moveTier s (handleAccount handle) c (strayBytes s x keys) (straySizes s x keys)).2
    | none => none
  | _, _ => none

/-- SET_SESSION_CLASS (R119, R747, Table 3.10). -/
def setSessionClassSpec (h : Hdr) (handle cls : Nat) : RingCmd :=
  sessionSpec h handle false (fun _ => [(32, decide (1023 < cls))])
    (fun s => [ refRefuse s 3 { num := cls, ver := 0xFFFF },
                stateRefuse s handle [.new, .active, .idle, .parked],
                classChangeRefuse s handle cls ])
    (fun s tag d =>
      match resolveRef s 3 { num := cls, ver := 0xFFFF }, amGet s.sessions d with
      | some cr, some x =>
        let c := cfgBody s 3 cr
        let keys := strayCopies x c
        let mv := moveTier s (handleAccount handle) c (strayBytes s x keys) (straySizes s x keys)
        let s := upd s d (fun x => { x with classRef := cr, mirrored := clMirror c })
        let s := (x.refs.map (·.1)).foldl (replacePage d) s
        let s := if clMirror c then s
          else { s with copies := amMap s.copies (fun k q =>
            if x.refs.any (fun e => copyKey e.2.tier e.2.loc == k) then { q with mirrored := false } else q) }
        if keys.isEmpty then done s h tag (rOk)
        else
          let s := putOp s tag { ringOp s h .admin (.waiting (.replaced d)) with account := some (handleAccount handle) }
          if clTierPref c 0 = 0 then
            let s := putOp s tag { ringOp s h .admin (.waiting (.flooded d)) with account := some (handleAccount handle) }
            (startFlood s d (!h.be) false).1
          else
            match mv.1 with
            | some t =>
              let s := upd s d (fun x => { x with move := some { todo := keys, tier := t, reserve := strayBytes s x keys } })
              keys.foldl (fun s k => sendMove s d k) s
            | none => s
      | _, _ => done s h tag (rBusy 1))

/-- SET_SESSION_CLASS. -/
def execSetSessionClass (h : Hdr) (handle cls : Nat) (s : State) : Out := adminCmd h (setSessionClassSpec h handle cls) s

/-! ### Timed session events -/

/-- SESSION_FREED (R136): a CLOSING session with nothing in flight frees what it holds. -/
def execSessionFreed (d : Nat) (s : State) : Out :=
  match amGet s.sessions d with
  | some x =>
    if x.state = .closing ∧ inflight s d = 0 then
      let s := freeSession (endText s d) d
      .next (retryGrants (settlePartition (resolveWait s (.freed d) (rOk)) x.partition))
    else .next s
  | none => .next s

/-- IDLE_TIMER (R130). -/
def execIdleTimer (d pm : Nat) (s : State) : Out :=
  let s := advance pm s
  match amGet s.sessions d with
  | some x =>
    if x.state = .active ∧ inflight s d = 0 ∧ x.lastOpPm + 2000000000 ≤ s.postmark then
      .next (enterIdle (upd s d (fun x => { x with waitHint := false })) d)
    else .next s
  | none => .next s

/-- EBB_START (R229, R131): EBB_AT_PM is reached, or a deferred ebb's counts have reached 0. -/
def execEbbStart (d pm : Nat) (s : State) : Out :=
  let s := advance pm s
  match amGet s.sessions d with
  | some x =>
    if x.state = .idle ∧ x.ebbDeferred then .next (retryDeferred s d)
    else if x.state = .idle ∧ x.ebbAtPm ≠ 0 ∧ x.ebbAtPm ≤ s.postmark then .next (dueEbb s d)
    else .next s
  | none => .next s

/-- A copy set out for a tier has been stored there: on media once its rows are programmed (R547); elsewhere once the other device
has said so. -/
def copyThere (s : State) (tier : Nat) (loc : Option Nat) : Option Nat :=
  match loc with
  | none => none
  | some l => if tier = 3 then (if onMedia s l then some l else none) else if tier = 2 then some (l % 2 ^ 24) else some l

/-- A page of an ebb is stored below HBM (R230, R231): its reference switches tier. -/
def storeEbb (s : State) (d key : Nat) (x : Session) (j : EbbJob) (r : PRef) (p : PageRec) : State :=
  let a := handleAccount x.handle
  let ret := if j.tier = 3 then retainedFor s x key p else none
  let mir := j.tier == 3 && mirrorNow s x
  let c := ebbCopy s x key p mir
  let there := match ret with
    | some k => some (k % 2 ^ 48)
    | none => copyThere s j.tier (amGet j.placed key)
  match there with
  | none => s
  | some loc =>
    let s :=
      match ret with
      | some k =>
        modAccount { s with copies := amMod s.copies k (fun c => { c with retained := none }) } a
          (fun c => { c with ebbsRetained := if j.switched.isEmpty then (c.ebbsRetained + 1) % 2 ^ 32 else c.ebbsRetained })
      | none =>
        let s := { s with copies := amSet s.copies (copyKey j.tier loc) c }
        if j.tier = 3 then countWritten s a (copyCharge 3 c) else s
    upd s d (fun x =>
      { x with refs := amSet x.refs key { tier := j.tier, format := c.format, gen := p.gen, loc := loc }
               ebb := some { j with todo := j.todo.filter (· != key), switched := amSet j.switched key r,
                                    reserve := if ret.isSome then j.reserve else j.reserve - copyCharge j.tier c } })

/-- A copy of a class change is stored on its new tier (R747); the receipt follows the last. -/
def storeMove (s : State) (d key : Nat) (x : Session) (j : MoveJob) (r : PRef) : State :=
  match amGet s.copies (copyKey r.tier r.loc), copyThere s j.tier (amGet j.placed key) with
  | some c, some loc =>
    let s := releaseCopy { s with copies := amSet s.copies (copyKey j.tier loc) { c with mirrored := false } } (copyKey r.tier r.loc)
    let s := if j.tier = 3 ∧ j.upkeep = false then countWritten s c.account c.size else s
    let todo := j.todo.filter (· != key)
    let s := upd s d (fun x =>
      { x with refs := amSet x.refs key { r with tier := j.tier, loc := loc }
               move := if todo = [] then none else some { j with todo := todo, reserve := j.reserve - c.size } })
    if todo = [] then noteQuotas (resolveWait s (.replaced d) (rOk)) (handleAccount x.handle) else s
  | _, _ => s

/-- COPY_STORED (R547, R230, R747): a page copy of an ebb or of a class change is at its lower tier, so its reference switches. -/
def execCopyStored (d layer page : Nat) (s : State) : Out :=
  let key := pk layer page
  match amGet s.sessions d with
  | none => .next s
  | some x =>
    match amGet x.refs key, x.ebb, x.move with
    | some r, some j, _ =>
      if j.todo.contains key then
        match recOf s r with
        | some p => .next (noteQuotas (storeEbb s d key x j r p) (handleAccount x.handle))
        | none => .next s
      else .next s
    | some r, none, some j => if j.todo.contains key then .next (storeMove s d key x j r) else .next s
    | _, _, _ => .next s

/-- The tide predictor's flood time of a session has come (R234). -/
def floodDue (s : State) (x : Session) : Bool :=
  x.resumePm != 0 && decide (x.resumePm - clLead (sessClass s x) * 1000000 ≤ s.postmark)

/-- EBB_COMPLETE (R230, Table 3.9): every page the class ebbs is at its lower tier, so its HBM frames are freed and the session
is PARKED. A flood already due starts at once (R234). -/
def execEbbComplete (d : Nat) (s : State) : Out :=
  match amGet s.sessions d with
  | none => .next s
  | some x =>
    match x.ebb with
    | none => .next s
    | some j =>
      if x.state = .ebbing ∧ j.todo = [] then
        let s := j.switched.foldl (fun s e => dropRef s e.2.loc) s
        let s := upd s d (fun x => { x with state := .parked, ebb := none, ebbAtPm := 0, policyTier := none })
        let s := modAccount s (handleAccount x.handle) (fun c =>
          if x.predFlood then { c with floodsUnused := (c.floodsUnused + 1) % 2 ^ 32 } else c)
        let s := modSession s d (fun x => { x with predFlood := false })
        let s := retryGrants (checkPressure (noteQuotas (resolveWait (writeBack s d) (.parked d) (rOk)) (handleAccount x.handle)))
        if floodDue s x then
          match startFlood s d (clFloodLc (sessClass s x)) true with
          | (s, true) => .next (endFlood s d)
          | (s, false) => .next (floodBlocked s d)
        else .next s
      else .next s

/-- FLOOD_START (R234): the predictor's flood of a PARKED session starts, or is blocked (R210, R211); an ebb still running is
cancelled as under FLOOD_NOW. -/
def execFloodStart (d pm : Nat) (s : State) : Out :=
  let s := advance pm s
  match amGet s.sessions d with
  | none => .next s
  | some x =>
    if !floodDue s x then .next s
    else
      match x.state with
      | .parked =>
        match startFlood s d (clFloodLc (sessClass s x)) true with
        | (s, true) => .next (endFlood s d)
        | (s, false) => .next (floodBlocked s d)
      | .ebbing => .next (upd (cancelEbb s d) d (fun x => { x with state := .idle, ebbAtPm := 0 }))
      | _ => .next s

/-- A page of a flood can be placed: its bytes have come from the other device, or the media serves reads (Table 12.4). -/
def pageHere (s : State) (x : Session) (j : FloodJob) (key : Nat) : Bool :=
  match amGet x.refs key with
  | some r => if r.tier = 3 then s.media.state == 3 || s.media.state == 4 else j.arrived.contains key
  | none => false

/-- FLOOD_PAGE_ARRIVED (R50, R235): a page of a flood is fully written into HBM; the flood ends with the last, and what waited for
a page or for the flood goes on. Under a BE hold no page of a BE flood is copied (R666). -/
def execFloodPageArrived (d layer page pm : Nat) (s : State) : Out :=
  let s := advance pm s
  match amGet s.sessions d with
  | none => .next s
  | some x =>
    match x.flood with
    | none => .next s
    | some j =>
      if j.todo.contains (pk layer page) ∧ pageHere s x j (pk layer page) = true ∧ (x.floodLc || !beHeld s (d % 6)) = true then
        .next (resumeWrites (resumeSteps (checkPressure (endFlood (placePage s d (pk layer page)) d)) d) d)
      else .next s

/-- RESUME_PM_PASSED (R219): an IDLE session's wait is predicted again. -/
def execResumePmPassed (d pm : Nat) (s : State) : Out :=
  let s := advance pm s
  match amGet s.sessions d with
  | none => .next s
  | some x =>
    if x.state = .idle ∧ x.waiting ∧ x.resumePm ≠ 0 ∧ x.resumePm ≤ s.postmark then
      let a := handleAccount x.handle
      let e := (s.postmark - x.waitStartPm) / 1000000
      let h := match amGet s.accounts a with
        | some c => c.waitHist.filter (fun b => decide (e < binEdge b.1))
        | none => []
      let w := if 64 ≤ histTotal h then binEdge (quantileBin h (clQuantile (sessClass s x)) 80) else 2 * e
      let s := if x.predFlood then
          modAccount s a (fun c => { c with floodsUnused := (c.floodsUnused + 1) % 2 ^ 32 }) else s
      .next (upd s d (fun x => { schedule s x w s.postmark with predFlood := false }))
    else .next s

/-- BLOCKED_RETRY (R211, R235): a blocked ebb or flood, or a flood page without frames, is tried again. -/
def execBlockedRetry (d pm : Nat) (s : State) : Out :=
  let s := advance pm s
  match amGet s.sessions d with
  | none => .next s
  | some x =>
    let s := s.bundles.foldl (fun s e =>
      if e.2.account = handleAccount x.handle ∧ e.2.flooding = true then raiseBundle s e.1 e.2.floodLc else s) s
    if x.state = .idle ∧ x.ebbBlocked ∧ ebbClear s d = true then .next (startEbb s d)
    else if x.state = .parked ∧ x.floodBlocked then
      .next (endFlood (startFlood s d (clFloodLc (sessClass s x)) true).1 d)
    else .next s

/-- BUDGET_DAY (R209): at a multiple of one day, every count against a write budget returns to zero. -/
def execBudgetDay (pm : Nat) (s : State) : Out :=
  let s := advance pm s
  if pm % 86400000000000 = 0 ∧ pm = s.postmark then
    .next { s with accounts := amMap s.accounts (fun _ c => { c with writtenToday := 0, budgetSpent := false }) }
  else .next s

/-- SOUNDINGS_AGING (R215): at a multiple of 600 s, every count c becomes c − ⌊c ÷ 16⌋. -/
def execSoundingsAging (pm : Nat) (s : State) : Out :=
  let s := advance pm s
  let age := fun (h : AMap Nat) => h.map (fun e => (e.1, e.2 - e.2 / 16))
  if pm % 600000000000 = 0 ∧ pm = s.postmark then
    .next { s with accounts := amMap s.accounts (fun _ c =>
      { c with waitHist := age c.waitHist, ratioHist := age c.ratioHist }) }
  else .next s

/-- DESC_DIRTY_TIMEOUT (R124): an entry dirty for 10 ms is written back. -/
def execDescDirtyTimeout (d pm : Nat) (s : State) : Out :=
  let s := advance pm s
  match amGet s.dcache d with
  | some e => .next (if e.dirty ∧ e.dirtySince + 10000000 ≤ s.postmark then writeBack s d else s)
  | none => .next s

end Sys2Proof.Machine
end

