-- ==== Sys2Proof/Machine/ConfigCmds.lean ====
section
/-! DEFINITION. The configuration commands of Table 2.22: publishing, retiring and querying versions, and sealed bodies (R88 to
R91, R339 to R343, R362, R364, R611, R693 to R696, R743 to R746). -/

namespace Sys2Proof.Machine

/-! ### Sealed bodies (Table 16.9, R696, R746) -/

/-- "ZX4SEAL1" as a little-endian number. -/
def sealMagic : Nat := leNat ([0x5A, 0x58, 0x34, 0x53, 0x45, 0x41, 0x4C, 0x31].map (BitVec.ofNat 8))

/-- A body is sealed when its first 8 bytes are the magic (R695). -/
def isSealed (b : List Byte) : Bool := decide (8 ≤ b.length) && field b 0 8 == sealMagic

/-- The wrap entries' devices. -/
def sealDevices (b : List Byte) : List Nat := (List.range (field b 9 1)).map (fun i => field b (192 + 48 * i) 8)

/-- Step 1 of R746 on the sealed header: KIND, SET_COUNT, and a LEN that holds header, wrap entries and tag. -/
def sealHeaderBad (b : List Byte) (len : Nat) : Option Rcpt :=
  firstRefusal
    [ refuseIf (decide (3 < field b 8 1)) (rInvalid 8),
      refuseIf (field b 9 1 == 0 || decide (16 < field b 9 1)) (rInvalid 9),
      refuseIf (decide (len < 192 + 48 * field b 9 1 + 16)) (rInvalid 12) ]

/-- R696: unseal a body for an account and a kind. What the keys give is the security engine's answer; the entry for this device,
the KIND and the ACCOUNT are read from the header. -/
def openSealed (s : State) (b : List Byte) (account kind : Nat) (sv : SealVerdict) : Option (List Byte) × Option Rcpt :=
  if !(sealDevices b).contains s.boot.deviceId then (none, some (rKey 3))
  else if field b 8 1 != kind || (field b 10 2 != 0xFFFF && field b 10 2 != account) then (none, some (rKey 2))
  else
    match sv with
    | .opened p => (some p, none)
    | .badSet => (none, some (rKey 3))
    | _ => (none, some (rKey 2))

/-! ### Bodies by kind -/

/-- R611: the fields of a role profile body that are out of range. -/
def roleBad (b : List Byte) : List (Nat × Bool) :=
  [ (0, field b 0 4 == 0 || decide (3600000 < field b 0 4)), (4, decide (90 < field b 4 2)) ]
    ++ (List.range 58).map (fun i => (6 + i, field b (6 + i) 1 != 0))

/-- The size a body of kind 0, 3 or 4 must have (R743). -/
def cfgSize (kind : Nat) : Nat := if kind = 0 then 128 else 64

/-- Kinds 1 and 2 belong to accounts; the others are the device's. -/
def cfgOwnedKind (kind : Nat) : Bool := kind == 1 || kind == 2

/-- The fields of an unsealed body that are not as its chapter asks. -/
def cfgBodyBad (kind : Nat) (b : List Byte) : List (Nat × Bool) :=
  match kind with
  | 0 => profileBad b
  | 1 => vocabBad b
  | 2 => csetBad b
  | 3 => classBad b
  | _ => roleBad b

/-- The owner of a number: the account of any version stored (R745). -/
def cfgOwner (s : State) (kind num : Nat) : Option Nat :=
  match amGet s.configs (cfgKey kind num) with
  | some c => (c.vers.head?).map (fun e => e.2.account)
  | none => none

/-- Versions of a kind whose storage is held. -/
def cfgCount (s : State) (kind : Nat) : Nat :=
  (s.configs.filter (fun e => e.1 / 65536 == kind)).foldl (fun n e => n + e.2.vers.length) 0

/-- The resident table of a kind is full (R339, R362). -/
def cfgFull (s : State) (kind : Nat) : Bool :=
  (kind == 1 && decide (64 ≤ cfgCount s 1)) || (kind == 2 && decide (1024 ≤ cfgCount s 2))

/-- Frames charged for a version (R341). -/
def cfgFrames (kind : Nat) (b : List Byte) : Nat := (b.length + (if kind = 2 then 8 * csTransCount b else 0) + 65535) / 65536

/-- R341: a version of an account cannot be charged or held. -/
def cfgQuota (s : State) (kind account : Nat) (b : List Byte) : Option Rcpt :=
  if account = 0xFFFF then none
  else refuseIf (!canCharge s account 0 (cfgFrames kind b * 65536) || (takeAnywhere s (cfgFrames kind b) (some account)).isNone)
    (rQuota 0)

/-- Store a new version: it becomes the current one (R88, R90). -/
def storeVersion (s : State) (kind num account : Nat) (b : List Byte) : State × Nat :=
  let ver := cfgCurrent s kind num + 1
  let t : Option Nat × State :=
    if account = 0xFFFF then (none, s)
    else
      match takeAnywhere s (cfgFrames kind b) (some account) with
      | some (k, s) => (some k, s)
      | none => (none, s)
  let v : CfgVer := { account := account, body := b, run := t.1 }
  let old := match amGet t.2.configs (cfgKey kind num) with
    | some c => c.vers
    | none => []
  let s := { t.2 with configs := amSet t.2.configs (cfgKey kind num) { current := ver, vers := amSet old ver v } }
  (if account = 0xFFFF then s else noteQuotas s account, ver)

/-- What is refused of a body as it was read: a buffer that fails, a sealed header, or a field of an unsealed body. -/
def cfgReadRefuse (kind len : Nat) (body : HostRead) : Option Rcpt :=
  match body with
  | .fail a => some (rInvalid 16 a)
  | .ok b =>
    if cfgOwnedKind kind && isSealed b then sealHeaderBad b len
    else (firstBad (cfgBodyBad kind b)).map (fun o => rInvalid o)

/-- The sealed kind of a configuration kind. -/
def sealKindOf (kind : Nat) : Nat := if kind = 1 then 2 else 3

/-- The body a publish stores, or the refusal of steps 5 and 6 of R746. -/
def cfgPlain (s : State) (kind account : Nat) (b : List Byte) (sv : SealVerdict) : Option (List Byte) × Option Rcpt :=
  if cfgOwnedKind kind && isSealed b then
    match openSealed s b account (sealKindOf kind) sv with
    | (some p, _) =>
      match firstBad (cfgBodyBad kind p) with
      | some o => (none, some (rInvalid o 1))
      | none => (some p, none)
    | (none, r) => (none, r)
  else (some b, none)

/-- The fields of a PUBLISH_CONFIG that are INVALID (R198, R362, R742, R743). -/
def publishBad (s : State) (h : Hdr) (kind account : Nat) : List (Nat × Bool) :=
  [ (24, decide (4 < kind)),
    (8, decide (65535 < h.target) || (kind == 3 && decide (1023 < h.target)) || (kind == 2 && h.target == 0)),
    (27, if cfgOwnedKind kind then h.fn == 0 && account != 0xFFFF && !amHas s.accounts account
         else decide (kind ≤ 4) && account != 0xFFFF) ]

/-- The sealed or plain body's refusal for its buffer, LEN and fields, in the order of byte offsets that R743 and R746 leave. -/
def publishLen (h : Hdr) (kind : Nat) : Option Rcpt :=
  refuseIf (!cfgOwnedKind kind && h.len != cfgSize kind) (rInvalid 12 (cfgSize kind))

/-- R340, R745: the function may not publish for the number. -/
def publishOwner (s : State) (h : Hdr) (kind account : Nat) : Option Rcpt :=
  let own := cfgOwner s kind h.target
  refuseIf (cfgOwnedKind kind &&
    ((own.isSome && own != some account) || (h.fn != 0 && (account == 0xFFFF || !accOwned s h.fn account)))) (rNotOwner account)

/-- PUBLISH_CONFIG (R84, R746). -/
def publishConfigSpec (h : Hdr) (kind base account : Nat) (body : HostRead) (sv : SealVerdict) : RingCmd :=
  let b := bodyBytes body
  { pfOnly := decide (kind ≤ 4) && !cfgOwnedKind kind
    set3 := true, hasBuffer := true
    bad := fun s => publishBad s h kind account
    refuse := fun s =>
      let cur := cfgCurrent s kind h.target
      let p := cfgPlain s kind account b sv
      [ publishLen h kind, cfgReadRefuse kind h.len body, publishOwner s h kind account,
        refuseIf (base != cur || decide (65534 ≤ cur)) (rVersion cur),
        refuseIf (cfgFull s kind) (rBusy 2),
        p.2,
        match p.1 with
        | some q => cfgQuota s kind account q
        | none => none ]
    waits := fun s => cfgOwnedKind kind && flrWaits h.fn account s
    run := fun s tag =>
      match (cfgPlain s kind account b sv).1 with
      | some q =>
        let r := storeVersion s kind h.target account q
        done r.1 h tag (rOk r.2)
      | none => done s h tag (rKey 2) }

/-- PUBLISH_CONFIG. -/
def execPublishConfig (h : Hdr) (kind base account : Nat) (body : HostRead) (sv : SealVerdict) (s : State) : Out := adminCmd h (publishConfigSpec h kind base account body sv) s

/-- RETIRE_CONFIG: no new operation or session captures the version, and it is freed once nothing holds it (R90, R91, R745). -/
def retireConfigSpec (h : Hdr) (kind version : Nat) : RingCmd :=
    { pfOnly := decide (kind ≤ 4) && !cfgOwnedKind kind
      set3 := true
      bad := fun _ => [(24, decide (4 < kind)), (8, decide (65535 < h.target))]
      refuse := fun s =>
        [ (match cfgOwner s kind h.target with
           | some a => refuseIf (cfgOwnedKind kind && h.fn != 0 && !accOwned s h.fn a) (rNotOwner a)
           | none => none),
          (match cfgVer s kind h.target version with
           | some v => refuseIf v.retired (rVersion (cfgCurrent s kind h.target))
           | none => some (rVersion (cfgCurrent s kind h.target))) ]
      run := fun s tag =>
        let c := amMod s.configs (cfgKey kind h.target) (fun c =>
          { c with vers := amMod c.vers version (fun v => { v with retired := true }) })
        done (freeConfigs { s with configs := c }) h tag (rOk) }

/-- RETIRE_CONFIG. -/
def execRetireConfig (h : Hdr) (kind version : Nat) (s : State) : Out := adminCmd h (retireConfigSpec h kind version) s

/-- Descriptors in use, stubs excluded, whose reference of a kind names a number. -/
def cfgNamed (s : State) (kind num : Nat) : Nat :=
  s.sessions.countP (fun e => !e.2.stub &&
    (match kind with
     | 0 => e.2.profileRef.num == num
     | 1 => e.2.vocabRef.num == num
     | 2 => e.2.constraintRef.num == num
     | 3 => e.2.classRef.num == num
     | _ => false))

/-- QUERY_CONFIG. -/
def queryConfigSpec (h : Hdr) (kind : Nat) : RingCmd :=
    { set3 := true
      bad := fun _ => [(24, decide (4 < kind)), (8, decide (65535 < h.target))]
      refuse := fun s => [refuseIf (cfgCurrent s kind h.target == 0) (rVersion 0)]
      run := fun s tag => done s h tag (rOk (cfgCurrent s kind h.target) (cfgNamed s kind h.target)) }

/-- QUERY_CONFIG. -/
def execQueryConfig (h : Hdr) (kind : Nat) (s : State) : Out := adminCmd h (queryConfigSpec h kind) s

end Sys2Proof.Machine
end

