-- ==== Sys2Proof/Machine/Graph.lean ====
section
/-! DEFINITION. Graph search over one shard: parameters, distances, snapshots, traversal, filters, and the changes of a shard
(R387 to R424). -/

namespace Sys2Proof.Machine

/-! ### The parameter block (Table 9.1) -/

def ixBuildQueue (b : List Byte) : Nat := if field b 37 2 = 0 then 128 else field b 37 2
def ixOversample (b : List Byte) : Nat := if field b 39 1 = 0 then 4 else field b 39 1
def ixShardsM1 (b : List Byte) : Nat := field b 40 1
def ixDegree (b : List Byte) : Nat := field b 41 1
def ixMetric (b : List Byte) : Nat := field b 42 1
def ixFormat (b : List Byte) : Nat := field b 43 1
def ixRerank (b : List Byte) : Nat := field b 44 1
def ixSubspaces (b : List Byte) : Nat := field b 45 1
def ixDim (b : List Byte) : Nat := field b 46 2
def ixExh (b : List Byte) : Nat := if field b 48 4 = 0xFFFFFFFF then 65536 else field b 48 4
def ixCapacity (b : List Byte) : Nat := field b 52 4
def ixUid (b : List Byte) : Nat := field b 56 8
/-- LOCAL_SHARDS: the shards held here. -/
def ixLocal (b : List Byte) : List Nat := (List.range 256).filter (fun i => bit (field b (96 + i / 8) 1) (i % 8))

/-- Bytes of an element of a vector format: 0 FP32, 1 BF16, 2 FP16. -/
def vecElBytes (f : Nat) : Nat := if f = 0 then 4 else 2

/-- Bytes of the codebook of a parameter block. -/
def codebookBytes (b : List Byte) : Nat := if ixFormat b = 3 then 1024 * ixDim b else 0

/-- R388: the fields of Table 9.1 that fail, by byte offset; `len` is LEN. -/
def indexBad (b : List Byte) (len : Nat) : List (Nat × Bool) :=
  let f := ixFormat b
  let d := ixDim b
  let ex := field b 48 4
  [ (37, field b 37 2 != 0 && !(decide (16 ≤ field b 37 2) && decide (field b 37 2 ≤ 1024))),
    (39, decide (16 < field b 39 1)), (41, decide (ixDegree b < 8) || decide (64 < ixDegree b)),
    (42, decide (2 < ixMetric b) || (ixMetric b == 2 && f == 3)), (43, decide (3 < f)),
    (44, if f = 3 then !(decide (ixRerank b ≤ 2) || ixRerank b == 0xFF) else ixRerank b != 0xFF),
    (45, if f = 3 then ixSubspaces b == 0 || decide (64 < ixSubspaces b) || d % ixSubspaces b != 0 else ixSubspaces b != 0),
    (46, d == 0 || decide (4096 < d) || d % 32 != 0),
    (48, ex != 0 && ex != 0xFFFFFFFF && decide (1048576 < ex)),
    (52, ixCapacity b == 0 || decide (2147483648 < ixCapacity b)),
    (96, (ixLocal b).isEmpty || (ixLocal b).any (fun i => decide (ixShardsM1 b < i))),
    (128, len != 128 + codebookBytes b) ]
  ++ (List.range 37).map (fun i => (i, field b i 1 != 0)) ++ (List.range 32).map (fun i => (64 + i, field b (64 + i) 1 != 0))

/-! ### Vectors and distances (R405, R406, R422, R423) -/

/-- A 16-bit float of IEEE 754. -/
def decF16 (c : Nat) : FVal := fpIeee 5 10 15 c

/-- `n` elements of a vector in a format. -/
def vecVals (f n : Nat) (bs : List Byte) : List FVal :=
  (List.range n).map (fun i =>
    match f with
    | 0 => dec32 (field bs (4 * i) 4)
    | 1 => decBf16 (field bs (2 * i) 2)
    | _ => decF16 (field bs (2 * i) 2))

/-- The square root, exact but for a sticky lowest bit far below any rounding place (R405). -/
def fSqrt : FVal → FVal
  | .nan => .nan
  | .inf n => if n then .nan else .inf false
  | .fin n m e =>
    if m = 0 then .fin n 0 e
    else if n then .nan
    else
      let k : Nat := if e % 2 = 0 then 128 else 129
      let v := m * 2 ^ k
      let r := sqrtGo v (Nat.log2 v / 2 + 1) 0
      .fin false (2 * r + (if r * r = v then 0 else 1)) ((e - (k : Int)) / 2 - 1)
where
  sqrtGo (v : Nat) : Nat → Nat → Nat
    | 0, r => r
    | n + 1, r => if (r + 2 ^ n) * (r + 2 ^ n) ≤ v then sqrtGo v n (r + 2 ^ n) else sqrtGo v n r

/-- R405: ssq. -/
def sqDist (a b : List FVal) : FVal :=
  treeSum ((chunks 32 (a.length / 32 + 1) (List.zipWith (fun x y => fMul (fSub x y) (fSub x y)) a b)).map treeSum)

/-- R405: rnorm, as the FP32 code. -/
def rnormCode (a : List FVal) : Nat := rne32 (fDiv (fInt 1) (r32 (fSqrt (dotProd a a))))

/-- R405: dist, as the FP32 code. -/
def distCode (metric : Nat) (q : List FVal) (rq : Nat) (x : List FVal) (rx : Nat) : Nat :=
  match metric with
  | 0 => rne32 (sqDist q x)
  | 1 => rne32 (fNeg (dotProd q x))
  | _ => rne32 (fSub (fInt 1) (r32 (fMul (r32 (fMul (dotProd q x) (dec32 rq))) (dec32 rx))))

/-- The vector a stored node enters distances with: its elements, or its centroids (R406). -/
def nodeVec (ix : Index) (n : SNode) : List FVal :=
  let b := ix.params
  if ixFormat b = 3 then
    let w := ixDim b / max 1 (ixSubspaces b)
    (List.range (ixSubspaces b)).flatMap (fun m => vecVals 0 w (ix.codebook.drop (4 * w * (256 * m + field n.vec m 1))))
  else vecVals (ixFormat b) (ixDim b) n.vec

/-- The distance of a query to a node in a traversal: R405, or the table sum of R423. -/
def queryDist (ix : Index) (q : List FVal) (rq : Nat) (n : SNode) : Nat :=
  let b := ix.params
  if ixFormat b = 3 then
    let w := ixDim b / max 1 (ixSubspaces b)
    rne32 (treeSum ((List.range (ixSubspaces b)).map (fun m =>
      let qm := (q.drop (m * w)).take w
      let cm := vecVals 0 w (ix.codebook.drop (4 * w * (256 * m + field n.vec m 1)))
      if ixMetric b = 1 then fNeg (dotProd qm cm) else sqDist qm cm)))
  else distCode (ixMetric b) q rq (nodeVec ix n) n.rnorm

/-- The distance between two stored nodes, the first in the place of the query (R406). -/
def nodeDist (ix : Index) (a b : SNode) : Nat := distCode (ixMetric ix.params) (nodeVec ix a) a.rnorm (nodeVec ix b) b.rnorm

/-- R406: the keys of two entries in order. -/
def hitLt (a b : Hit) : Bool :=
  let x := dec32 a.dist
  let y := dec32 b.dist
  fLt x y || (!fLt y x && (decide (a.gid < b.gid) || (a.gid == b.gid && decide (a.shard < b.shard))))

/-- Put an entry in a list sorted by key, after its equals. -/
def hitInsert (x : Hit) : List Hit → List Hit
  | [] => [x]
  | y :: r => if hitLt x y then x :: y :: r else y :: hitInsert x r

/-! ### Changes and snapshots (R395, R396, R408) -/

/-- The cycle of sequence values: 1 to 0xFFFF_FFFE. -/
def seqCycle : Nat := 0xFFFFFFFE

def seqNext (c : Nat) : Nat := if c = seqCycle then 1 else c + 1

/-- How many changes `a` lies behind `c`. -/
def seqBehind (c a : Nat) : Nat := (c + seqCycle - a) % seqCycle

/-- A stamp is not after `c`; 0xFFFF_FFFF is after every value. -/
def seqNotAfter (a c : Nat) : Bool := a != 0xFFFFFFFF && decide (seqBehind c a < seqCycle / 2)

/-- A slot is present at `q` (R396). -/
def presentAt (q : Nat) (n : SNode) : Bool := n.inUse && seqNotAfter n.insSeq q

/-- A present node is tombstoned at `q`. -/
def tombAt (q : Nat) (n : SNode) : Bool := seqNotAfter n.delSeq q

/-- Version A is the one used at `q`: the latest that is not after it. -/
def usesA (q : Nat) (n : SNode) : Bool :=
  seqNotAfter n.seqA q && (!seqNotAfter n.seqB q || decide (seqBehind q n.seqA < seqBehind q n.seqB))

/-- The edges of a node at `q`. -/
def edgesAt (q : Nat) (n : SNode) : List (Nat × Nat) :=
  if usesA q n then n.edgesA else if seqNotAfter n.seqB q then n.edgesB else []

/-- R408: an edge is usable at `q`. -/
def usable (h : Shard) (q : Nat) (e : Nat × Nat) : Bool :=
  match amGet h.nodes e.1 with
  | some n => presentAt q n && n.gen == e.2
  | none => false

/-! ### Traversal (R407, R409) -/

/-- What R407 works on. -/
structure Walk where
  queue : Nat
  visits : Nat
  width : Nat
  kr : Nat
  scan : Bool

/-- The state of a traversal: Q, F, R, the slots seen, and v. -/
structure Trav where
  qs : List Hit := []
  fs : List Hit := []
  rs : List Hit := []
  seen : List Nat := []
  v : Nat := 0

/-- R407: evaluate a node. -/
def travEval (w : Walk) (h : Shard) (sh s : Nat) (dist : SNode → Nat) (pass : SNode → Bool) (slot : Nat) (t : Trav) : Trav :=
  match amGet h.nodes slot with
  | none => t
  | some n =>
    let k : Hit := { dist := dist n, gid := n.gid, slot := slot, gen := n.gen, shard := sh }
    { t with v := t.v + 1, qs := (hitInsert k t.qs).take w.queue, fs := (hitInsert k t.fs).take 1024
             rs := if !tombAt s n && pass n then (hitInsert k t.rs).take w.kr else t.rs }

/-- R407: the targets of the edges of expanded nodes that are usable and not seen, and the slots seen then. -/
def travNew (h : Shard) (s : Nat) (xs : List Hit) (seen : List Nat) : List Nat × List Nat :=
  (xs.flatMap (fun x => match amGet h.nodes x.slot with | some n => edgesAt s n | none => [])).foldl
    (fun acc e => if usable h s e && !acc.2.contains e.1 then (acc.1 ++ [e.1], acc.2 ++ [e.1]) else acc) ([], seen)

/-- R407: evaluate nodes in order while the budget lasts; the flag says that it ran out. -/
def travAll (w : Walk) (eval : Nat → Trav → Trav) : List Nat → Trav → Trav × Bool
  | [], t => (t, false)
  | n :: r, t => if t.v = w.visits then (t, true) else travAll w eval r (eval n t)

/-- R407: the loop; the second part is the stop reason, 1 BUDGET, 2 EXHAUSTED, 4 CONVERGED. -/
def travLoop (w : Walk) (h : Shard) (s : Nat) (eval : Nat → Trav → Trav) : Nat → Trav → Trav × Nat
  | 0, t => (t, 2)
  | n + 1, t =>
    let near := t.fs.filter (fun x =>
      match (if t.qs.length < w.queue then none else t.qs.getLast?) with
      | some y => !hitLt y x
      | none => true)
    let x0 := near.take w.width
    if x0.isEmpty && (!w.scan || t.rs.length == w.kr) then (t, 4)
    else
      let xs := if x0.isEmpty then t.fs.take w.width else x0
      if xs.isEmpty then (t, 2)
      else
        let nw := travNew h s xs t.seen
        let t := { t with fs := t.fs.filter (fun y => !xs.contains y), seen := nw.2 }
        match travAll w eval nw.1 t with
        | (t, true) => (t, 1)
        | (t, false) => travLoop w h s eval n t

/-- R407: search one shard at `s`. -/
def shardWalk (w : Walk) (h : Shard) (sh s : Nat) (dist : SNode → Nat) (pass : SNode → Bool) : Trav × Nat :=
  match h.nodes.find? (fun e => presentAt s e.2) with
  | none => ({}, 2)
  | some (slot, _) =>
    let eval := travEval w h sh s dist pass
    travLoop w h s eval (h.nodes.length + 1) (eval slot { seen := [slot] })

/-! ### Filters (R410 to R414) -/

/-- A predicate atom (Table 9.13). -/
structure Atom where
  op : Nat
  fld : Nat
  clause : Nat
  label : Nat
  lo : Int
  hi : Int

/-- The atoms of a predicate. -/
def predAtoms (p : List Byte) : List Atom :=
  (List.range (field p 0 1)).map (fun i =>
    let o := 8 + 24 * i
    { op := field p o 1, fld := field p (o + 1) 1, clause := field p (o + 2) 1, label := field p (o + 4) 4
      lo := toSigned 64 (field p (o + 8) 8), hi := toSigned 64 (field p (o + 16) 8) })

/-- R410: the fields of a predicate of `n` bytes that fail, by byte offset in it. -/
def predBad (p : List Byte) (n : Nat) : List (Nat × Bool) :=
  let atoms := field p 0 1
  let clauses := field p 1 1
  [ (0, atoms == 0 || decide (32 < atoms) || n != 8 + 24 * atoms), (1, clauses == 0 || decide (8 < clauses)
      || (List.range clauses).any (fun c => !(predAtoms p).any (fun a => a.clause == c))) ]
  ++ (List.range 6).map (fun i => (2 + i, field p (2 + i) 1 != 0))
  ++ (List.range (min atoms 32)).flatMap (fun i =>
      let o := 8 + 24 * i
      let op := field p o 1
      let rng := op == 3 || op == 4
      [ (o, op == 0 || decide (4 < op)), (o + 1, rng && decide (3 < field p (o + 1) 1)),
        (o + 2, decide (clauses ≤ field p (o + 2) 1)), (o + 3, field p (o + 3) 1 != 0),
        (o + 4, (op == 1 || op == 2) && field p (o + 4) 4 == 0xFFFFFFFF),
        (o + 8, rng && decide (toSigned 64 (field p (o + 16) 8) < toSigned 64 (field p (o + 8) 8))) ])

/-- The labels of an attribute record. -/
def attrLabels (r : List Byte) : List Nat := ((List.range 6).map (fun i => field r (4 * i) 4)).filter (· != 0xFFFFFFFF)

/-- NUM_n of an attribute record. -/
def attrNum (r : List Byte) (n : Nat) : Int := toSigned 64 (field r (24 + 8 * n) 8)

/-- The record's ATTR_CRC agrees (R393). -/
def attrOk (r : List Byte) : Bool := field r 60 4 == crc32c (slice r 0 60)

/-- R411: an atom is true of a record. -/
def atomTrue (r : List Byte) (a : Atom) : Bool :=
  match a.op with
  | 1 => (attrLabels r).contains a.label
  | 2 => !(attrLabels r).contains a.label
  | 3 => decide (a.lo ≤ attrNum r a.fld) && decide (attrNum r a.fld ≤ a.hi)
  | _ => !(decide (a.lo ≤ attrNum r a.fld) && decide (attrNum r a.fld ≤ a.hi))

/-- R411: a record passes a predicate; an empty one passes every node. -/
def predPass (p : List Byte) (r : List Byte) : Bool :=
  p.isEmpty || (List.range (field p 1 1)).all (fun c => (predAtoms p).any (fun a => a.clause == c && atomTrue r a))

/-- The slots in a label's posting list at `s`. -/
def postings (h : Shard) (s label : Nat) : List (Nat × SNode) :=
  h.nodes.filter (fun e => presentAt s e.2 && (attrLabels e.2.attr).contains label)

/-- R412: the driving label of a predicate: label and postings. -/
def drivingLabel (h : Shard) (s : Nat) (p : List Byte) : Option (Nat × Nat) :=
  ((List.range (field p 1 1)).filterMap (fun c =>
    match (predAtoms p).filter (fun a => a.clause == c) with
    | [a] => if a.op = 1 then some (a.label, (postings h s a.label).length) else none
    | _ => none)).foldl (fun acc x =>
      match acc with
      | none => some x
      | some y => if x.2 < y.2 ∨ (x.2 = y.2 ∧ x.1 < y.1) then some x else some y) none

/-- What a SEARCH asks of each shard (R402). -/
structure SearchReq where
  k : Nat
  queue : Nat
  visits : Nat
  rerank : Nat
  width : Nat
  oversample : Nat
  noExhaustive : Bool
  pred : List Byte
  query : List FVal

/-- R424: the entries of R rescored against the full vectors. -/
def rescore (ix : Index) (h : Shard) (r : SearchReq) (hits : List Hit) : List Hit :=
  if r.rerank = 0 then hits
  else
    let rq := rnormCode r.query
    ((hits.map (fun x =>
      match amGet h.nodes x.slot with
      | some n => { x with dist := distCode (ixMetric ix.params) r.query rq
                              (vecVals (ixRerank ix.params) (ixDim ix.params) n.full) n.rnorm }
      | none => x)).foldl (fun acc x => hitInsert x acc) []).take r.k

/-- R412 to R414: one shard's answer at `s`. -/
def shardSearch (ix : Index) (sh : Nat) (h : Shard) (r : SearchReq) : SearchAnswer :=
  let s := h.changeSeq
  let rq := if ixMetric ix.params = 2 then rnormCode r.query else 0
  let dist := queryDist ix r.query rq
  let kr := if r.rerank = 0 then r.k else r.rerank
  let seqs := [(sh, s)]
  let base : Walk := { queue := r.queue, visits := r.visits, width := r.width, kr := kr, scan := false }
  if r.pred.isEmpty then
    let t := shardWalk base h sh s dist (fun _ => true)
    { hits := rescore ix h r (t.1.rs.take kr), modes := 8, stop := t.2, visits := t.1.v, seqs := seqs }
  else if h.verified then
    match drivingLabel h s r.pred with
    | some (l, n) =>
      if n ≤ ixExh ix.params ∧ r.noExhaustive = false then
        let ps := postings h s l
        let hits := ps.foldl (fun acc e =>
          if !tombAt s e.2 && predPass r.pred e.2.attr then
            let x : Hit := { dist := dist e.2, gid := e.2.gid, slot := e.1, gen := e.2.gen, shard := sh }
            (hitInsert x acc).take kr
          else acc) []
        { hits := rescore ix h r hits, modes := 2, stop := 0, visits := ps.length, seqs := seqs }
      else inScan base dist kr seqs s
    | none => inScan base dist kr seqs s
  else
    let kp := min 1024 (r.k * r.oversample)
    let t := shardWalk { base with queue := max r.queue kp, kr := kp } h sh s dist (fun _ => true)
    let ok := t.1.rs.filter (fun x =>
      match amGet h.nodes x.slot with
      | some n => attrOk n.attr && predPass r.pred n.attr
      | none => false)
    { hits := rescore ix h r (ok.take kr), modes := 4, stop := t.2, visits := t.1.v, seqs := seqs }
where
  inScan (base : Walk) (dist : SNode → Nat) (kr : Nat) (seqs : AMap Nat) (s : Nat) : SearchAnswer :=
    let t := shardWalk { base with scan := true } h sh s dist (fun n => predPass r.pred n.attr)
    { hits := rescore ix h r (t.1.rs.take kr), modes := 1, stop := t.2, visits := t.1.v, seqs := seqs }

/-- Bits set in either of two small masks. -/
def orBits (a b : Nat) : Nat := Nat.lor a b

/-- R428: two answers pooled; the first `k` entries by key are kept. -/
def mergeAnswers (k : Nat) (a b : SearchAnswer) : SearchAnswer :=
  { hits := (b.hits.foldl (fun acc x => hitInsert x acc) a.hits).take k
    modes := orBits a.modes b.modes, stop := orBits a.stop b.stop, visits := a.visits + b.visits
    seqs := b.seqs.foldl (fun m e => amSet m e.1 e.2) a.seqs }

/-! ### Changes (R416 to R420) -/

/-- R416: prune. -/
def prune (ix : Index) (o : SNode) (cs : List (Nat × SNode)) : List (Nat × SNode) :=
  cs.foldl (fun out c =>
    if ixDegree ix.params ≤ out.length then out
    else if out.all (fun y => !fLt (dec32 (nodeDist ix y.2 c.2)) (dec32 (nodeDist ix o c.2))) then out ++ [c] else out) []

/-- Nodes in key order from `o`. -/
def byKeyFrom (ix : Index) (o : SNode) (cs : List (Nat × SNode)) : List (Nat × SNode) :=
  (cs.foldl (fun acc c =>
    hitInsert { dist := nodeDist ix o c.2, gid := c.2.gid, slot := c.1, gen := c.2.gen, shard := 0 } acc) []).filterMap
    (fun x => cs.find? (fun c => c.1 == x.slot))

/-- Edge entries to nodes. -/
def edgesTo (cs : List (Nat × SNode)) : List (Nat × Nat) := cs.map (fun c => (c.1, c.2.gen))

/-- The nodes that the usable edges of a node lead to now. -/
def targetsOf (h : Shard) (n : SNode) : List (Nat × SNode) :=
  ((edgesAt h.changeSeq n).filter (usable h h.changeSeq)).filterMap (fun e => (amGet h.nodes e.1).map (fun m => (e.1, m)))

/-- A node with new edges: the version that is not current takes them (R397). -/
def writeEdges (q seq : Nat) (n : SNode) (es : List (Nat × Nat)) : SNode :=
  if usesA q n then { n with edgesB := es, seqB := seq } else { n with edgesA := es, seqA := seq }

/-- The lowest slot of a shard that is free. -/
def freeSlot (h : Shard) : Nat → Nat → Nat
  | 0, n => n
  | fuel + 1, n =>
    match amGet h.nodes n with
    | some x => if x.inUse then freeSlot h fuel (n + 1) else n
    | none => n

/-- R416: a shard after the insert of `o` in `slot`. -/
def insertNode (ix : Index) (sh : Nat) (h : Shard) (slot : Nat) (o0 : SNode) : Shard :=
  let q := h.changeSeq
  let seq := seqNext q
  let o := { o0 with insSeq := seq, seqA := seq }
  if h.nodes.any (fun e => presentAt q e.2) then
    let bq := ixBuildQueue ix.params
    let w : Walk := { queue := bq, visits := 4 * bq, width := 4, kr := bq, scan := false }
    let t := (shardWalk w h sh q (nodeDist ix o) (fun _ => true)).1
    let cs := (t.qs.filterMap (fun x => (amGet h.nodes x.slot).map (fun n => (x.slot, n)))).filter (fun c => !tombAt q c.2)
    let near := prune ix o cs
    let o := { o with edgesA := edgesTo near }
    let nodes := near.foldl (fun m c =>
      let ds := (targetsOf h c.2).filter (fun d => !tombAt q d.2)
      let out := prune ix c.2 (byKeyFrom ix c.2 (ds ++ [(slot, o)]))
      if out.any (fun d => d.1 == slot) then amSet m c.1 (writeEdges q seq c.2 (edgesTo out)) else m) h.nodes
    { h with changeSeq := seq, nodes := amSet nodes slot o }
  else { h with changeSeq := seq, nodes := amSet h.nodes slot o }

/-- R419: a node that a sweep rewires. -/
def needsMending (h : Shard) (n : SNode) : Bool :=
  presentAt h.changeSeq n && (edgesAt h.changeSeq n).any (fun e => !usable h h.changeSeq e ||
    (match amGet h.nodes e.1 with
     | some m => tombAt h.changeSeq m
     | none => true))

/-- R419: the new edges of a node that a sweep rewires. -/
def mendEdges (ix : Index) (h : Shard) (slot : Nat) (n : SNode) : List (Nat × Nat) :=
  let q := h.changeSeq
  let ts := targetsOf h n
  let far := (ts.filter (fun t => tombAt q t.2)).flatMap (fun t => targetsOf h t.2)
  let cs := (ts ++ far).foldl (fun acc c =>
    if c.1 = slot ∨ tombAt q c.2 = true ∨ acc.any (fun a => a.1 == c.1) then acc else acc ++ [c]) []
  edgesTo (prune ix n (byKeyFrom ix n cs))

/-- R419: the next up to 64 nodes of a sweep from slot `from_`. -/
def mendNext (h : Shard) (from_ : Nat) : List (Nat × SNode) :=
  (h.nodes.filter (fun e => decide (from_ ≤ e.1) && needsMending h e.2)).take 64

/-- The stamp as R398 rebases it. -/
def rebaseStamp (q v : Nat) : Nat :=
  if v = 0xFFFFFFFF ∨ v = 0 then v
  else if 2 ^ 29 < seqBehind q v then (q + seqCycle - 2 ^ 29 - 1) % seqCycle + 1 else v

/-- R398: a node with its old stamps rebased. -/
def rebaseNode (q : Nat) (n : SNode) : SNode :=
  if !n.inUse then n
  else
    let old := fun v => v != 0xFFFFFFFF && decide (2 ^ 29 < seqBehind q v)
    let a := usesA q n
    { n with insSeq := rebaseStamp q n.insSeq, delSeq := rebaseStamp q n.delSeq
             seqA := if old n.seqA then (if a then rebaseStamp q n.seqA else 0xFFFFFFFF) else n.seqA
             seqB := if old n.seqB then (if a then 0xFFFFFFFF else rebaseStamp q n.seqB) else n.seqB }

/-- A shard whose old stamps are rebased, as one change, if it has any. -/
def rebaseShard (h : Shard) : Shard :=
  let q := seqNext h.changeSeq
  let nodes := h.nodes.map (fun e => (e.1, rebaseNode h.changeSeq e.2))
  if nodes = h.nodes then h else { h with changeSeq := q, nodes := nodes }

/-- The oldest stamp of a shard, in changes behind its CHANGE_SEQ. -/
def oldestStamp (h : Shard) : Nat :=
  h.nodes.foldl (fun m e =>
    if e.2.inUse then
      [e.2.insSeq, e.2.delSeq, e.2.seqA, e.2.seqB].foldl (fun m v => if v = 0xFFFFFFFF then m else max m (seqBehind h.changeSeq v)) m
    else m) 0

end Sys2Proof.Machine
end

