-- ==== Sys2Proof/Machine/IndexBase.lean ====
section
/-! DEFINITION. Search indexes and their shards: placement, the order of changes, and the answers of a search (R386 to R390, R395 to R398,
R403, R404, R415 to R421, R426 to R433). -/

namespace Sys2Proof.Machine

/-! ### Objects -/

/-- A fresh object number: indexes and bundles share the numbers. -/
def newObject (s : State) : Nat × State :=
  let t := takeFresh s
  let both : AMap Unit := s.bundles.foldl (fun m e => amSet m e.1 ()) (s.indexes.map (fun e => (e.1, ())))
  (amNewKey both 1 (2 ^ 32) (Config.newName t.1), t.2)

/-- The tier that takes an object's bytes below HBM: the first of the class's list that qualifies under R229, or the refusal of R747. -/
def objectTier (s : State) (a : Nat) (cls : List Byte) (n : Nat) (sizes : List Nat) : Option Nat × Option Rcpt :=
  let chg := fun (t : Nat) => if t = 3 ∧ clMirror cls ∧ bound s then 2 * n else n
  let fits := fun (t : Nat) => canCharge s a t (chg t) && (t != 3 || canCharge s a 5 (chg t))
  match (clTiers cls).find? (fun t => fits t && tierRoom s t sizes) with
  | some t => (some t, none)
  | none =>
    match (clTiers cls).find? (fun t => !fits t) with
    | some t => (none, some (rQuota (if canCharge s a t (chg t) then 5 else t)))
    | none => (none, some (rQuota (clTierPref cls 0)))

/-! ### Areas (R389, R390) -/

def framesOf (n : Nat) : Nat := (n + 65535) / 65536

/-- Frames of the areas of a shard that stay at tier 0. -/
def graphAreas (b : List Byte) : List Nat :=
  let cap := ixCapacity b
  (if ixFormat b = 3 then [framesOf (cap * ixSubspaces b), framesOf (1024 * ixDim b)] else [])
    ++ [framesOf (cap * 16 * ixDegree b), framesOf (cap * 32), framesOf (cap * 64)]

/-- Frames of the index vectors of one shard: the areas that other tiers may hold. -/
def vectorFrames (b : List Byte) : Nat :=
  if ixFormat b = 3 then (if ixRerank b = 0xFF then 0 else framesOf (ixCapacity b * ixDim b * vecElBytes (ixRerank b)))
  else framesOf (ixCapacity b * ixDim b * vecElBytes (ixFormat b))

/-- Frames of the posting area that a shard's postings need. -/
def postFrames (h : Shard) : Nat :=
  let ls := h.nodes.flatMap (fun e => if e.2.inUse then attrLabels e.2.attr else [])
  framesOf (4 * ls.length + 16 * ls.eraseDups.length)

/-- Take runs of frames in a region, each whole, franked to an account. -/
def takeAreas (s : State) (region a : Nat) : List Nat → List Nat → Option (List Nat × State)
  | [], acc => some (acc, s)
  | n :: r, acc =>
    if n = 0 then takeAreas s region a r acc
    else
      match firstRun s n [2 * region, 2 * region + 1] with
      | some (st, base) => takeAreas (takeRun s st base n (some a)) region a r (acc ++ [runKey st base])
      | none => none

/-- The node slots of every shard on this device. -/
def slotsUsed (s : State) : Nat := s.indexes.foldl (fun n e => n + e.2.shards.length * ixCapacity e.2.params) 0

/-- The regions of an index's local shards, in ascending shard number (R389). -/
def shardRegions (s : State) (striped : Bool) (shards : List Nat) : List (Nat × Nat) :=
  match bestRegion s regions with
  | some home => (List.range shards.length).map (fun j =>
      ((shards.drop j).headD 0, if striped then (home + j) % 6 else home))
  | none => []

/-- The frames of a new shard's areas, and of its vectors if they lie in HBM. -/
def placeShards (a : Nat) (b : List Byte) (inHbm : Bool) (mk : Nat → Shard) :
    List (Nat × Nat) → State → AMap Shard → List Nat → Option (State × AMap Shard × List Nat)
  | [], s, m, vs => some (s, m, vs)
  | (sh, rg) :: r, s, m, vs =>
    let h := mk sh
    match takeAreas s rg a (graphAreas b) [] with
    | none => none
    | some (areas, s) =>
      match takeAreas s rg a (if inHbm then [vectorFrames b] else []) [] with
      | none => none
      | some (v, s) =>
        match takeAreas s rg a (List.replicate (postFrames h) 1) [] with
        | none => none
        | some (ps, s) => placeShards a b inHbm mk r s (amSet m sh { h with region := rg, areas := areas, postRuns := ps }) (vs ++ v)

/-- A new index placed: the refusal of R388 and R390, or the state with its frames and the index (R206, R208). -/
def buildIndex (s : State) (a : Nat) (cr : Ref) (b cb : List Byte) (mk : Nat → Shard) : Except Rcpt (State × Index) :=
  let cls := cfgBody s 3 cr
  let ls := ixLocal b
  let hbm := clTierPref cls 0 == 0
  let graph := ls.foldl (fun n i => n + (graphAreas b).foldl (fun n k => n + k) 0 + postFrames (mk i)) 0
  let vec := ls.length * vectorFrames b
  let need := 65536 * (graph + (if hbm then vec else 0))
  let low := if hbm || vec == 0 then (none, none) else objectTier s a cls (65536 * vec) (ls.map (fun _ => 65536 * vectorFrames b))
  if !canCharge s a 0 need then .error (rQuota 0)
  else
    match low.2 with
    | some r => .error r
    | none =>
      match placeShards a b hbm mk (shardRegions s (clStriped cls) ls) s [] [] with
      | none => .error (rBusy 2)
      | some (t, m, vs) =>
        let tier := low.1.getD 0
        let mir := tier == 3 && clMirror cls && bound s
        let ix : Index :=
          { account := a, classRef := cr, vecTier := tier, vecBytes := if tier = 0 then 0 else 65536 * vec, mirrored := mir, vecRuns := vs
            params := b.take 128, codebook := cb, shards := m }
        .ok (if tier = 3 then countWritten t a ((if mir then 2 else 1) * 65536 * vec) else t, ix)

/-- The frames of an index go, and the index with them. -/
def freeIndexObject (s : State) (k : Nat) : State :=
  match amGet s.indexes k with
  | none => s
  | some ix =>
    let runs := ix.vecRuns ++ ix.shards.flatMap (fun e => e.2.areas ++ e.2.postRuns)
    let s := runs.foldl freeRun { s with indexes := amErase s.indexes k }
    noteQuotas s ix.account

/-! ### Changes in their order (R395, R397, R398, R415) -/

def modIndex (s : State) (k : Nat) (f : Index → Index) : State := { s with indexes := amMod s.indexes k f }

def setShard (s : State) (k sh : Nat) (h : Shard) : State := modIndex s k (fun ix => { ix with shards := amSet ix.shards sh h })

/-- The snapshots that running searches hold of a shard. -/
def snapshots (s : State) (k sh : Nat) : List Nat :=
  s.searches.filterMap (fun e => if e.2.index = k then amGet e.2.answer.seqs sh else none)

/-- The sequence of the edge version current at `q`. -/
def currentSeq (q : Nat) (n : SNode) : Nat := if usesA q n then n.seqA else n.seqB

/-- A running search still needs the version of `n` that a change would overwrite (R397). -/
def versionHeld (snaps : List Nat) (q : Nat) (n : SNode) : Bool := snaps.any (fun c => !seqNotAfter (currentSeq q n) c)

/-- Edges of nodes that a change would rewrite are still needed by a running search. -/
def editBlocked (snaps : List Nat) (h h' : Shard) (slot : Nat) : Bool :=
  h.nodes.any (fun e => e.1 != slot && amGet h'.nodes e.1 != some e.2 && versionHeld snaps h.changeSeq e.2)

/-- A change must wait for the sweep to rebase the shard (R398). -/
def stampsOld (h : Shard) : Bool := decide (2 ^ 30 - 1 ≤ oldestStamp h)

/-- Posting frames that a changed shard needs beyond those it has; none if the quota or the region cannot give them. -/
def growPostings (s : State) (a : Nat) (h : Shard) : Except Rcpt (State × Shard) :=
  let n := postFrames h - h.postRuns.length
  if n = 0 then .ok (s, h)
  else if !canCharge s a 0 (65536 * n) then .error (rQuota 0)
  else
    match takeAreas s h.region a (List.replicate n 1) [] with
    | some (rs, s) => .ok (noteQuotas s a, { h with postRuns := h.postRuns ++ rs })
    | none => .error (rBusy 2)

/-- A runtime's change is applied (R416, R418): none while it must wait, else the state and its receipt. -/
def applyChange (s : State) (c : ChangeRec) : Option (State × Rcpt) :=
  match amGet s.indexes c.index with
  | none => some (s, rInvalid 8)
  | some ix =>
    match amGet ix.shards c.shard with
    | none => some (s, rNotOwner ix.account)
    | some h =>
      if !h.verified || stampsOld h || s.regionsOut.contains h.region then none
      else
        match c.change with
        | .insert gid attr vec full =>
          let slot := freeSlot h (h.nodes.length + 1) 0
          if ixCapacity ix.params ≤ slot then some (s, rBusy 2)
          else
            let gen := match amGet h.nodes slot with
              | some n => (n.gen + 1) % 256
              | none => 0
            let n0 : SNode := { gid := gid, gen := gen, vec := vec, full := full, attr := attr }
            let o := { n0 with rnorm := if ixMetric ix.params = 2 then rnormCode (nodeVec ix n0) else 0 }
            let h' := insertNode ix c.shard h slot o
            if editBlocked (snapshots s c.index c.shard) h h' slot then none
            else
              match growPostings s ix.account h' with
              | .error r => some (s, r)
              | .ok (s, h') => some (setShard s c.index c.shard h', rOk (slot + gen * 2 ^ 32) h'.changeSeq)
        | .delete slot gen =>
          match amGet h.nodes slot with
          | none => some (s, rVersion 0)
          | some n =>
            if !n.inUse || n.gen != gen then some (s, rVersion n.gen)
            else if n.delSeq ≠ 0xFFFFFFFF then some (s, rBusy 1)
            else
              let q := seqNext h.changeSeq
              some (setShard s c.index c.shard { h with changeSeq := q, nodes := amSet h.nodes slot { n with delSeq := q } }, rOk 0 q)

/-- An earlier change of the same shard still waits. -/
def changeBehind (s : State) (k sh : Nat) : Bool := s.changes.any (fun c => c.index == k && c.shard == sh)

/-- The waiting changes are tried in order; one behind another of its shard stays. -/
def changesGo : List ChangeRec → State → State
  | [], s => s
  | c :: r, s =>
    if changeBehind s c.index c.shard then changesGo r { s with changes := s.changes ++ [c] }
    else
      match applyChange s c with
      | none => changesGo r { s with changes := s.changes ++ [c] }
      | some (s, rc) => changesGo r (resolveTag s c.tag rc)

/-- Changes that waited for a search, a check or a sweep are applied where they can be (R397, R415). -/
def settleChanges (s : State) : State := changesGo s.changes { s with changes := [] }

/-- A change of the runtime, under its tag, with its operation: applied now, or held behind what it waits for. -/
def takeChange (s : State) (c : ChangeRec) (o : Op) : State :=
  let hold := putOp { s with changes := s.changes ++ [c] } c.tag { o with state := .waiting .searchWork }
  if changeBehind s c.index c.shard then hold
  else
    match applyChange s c with
    | none => hold
    | some (s, r) => putOp s c.tag { o with state := .ready r }

/-- An index whose deletion waits goes once nothing works on it; a compaction ends with its last shard's sweep. -/
def settleIndex (s : State) (k : Nat) : State :=
  match amGet s.indexes k with
  | none => s
  | some ix =>
    let s := if ix.shards.any (fun e => match e.2.sweep with
        | some w => w.compact
        | none => false) then s else resolveWait s (.compacted k) (rOk)
    if ix.deleting && !s.searches.any (fun e => e.2.index == k) && !s.changes.any (fun c => c.index == k)
      && (waitersOn s (.compacted k)).isEmpty then resolveWait (freeIndexObject s k) (.indexIdle k) (rOk)
    else s

/-- What the end of an operation lets go on in the indexes. -/
def settleIndexes (s : State) : State := (s.indexes.map (·.1)).foldl settleIndex (settleChanges s)

/-! ### Answers (Tables 9.10, 9.11, R403, R404, R427 to R429) -/

/-- Bits of a set of shards, as 32 bytes. -/
def shardBits (l : List Nat) : List Byte :=
  (List.range 32).map (fun i => BitVec.ofNat 8 ((List.range 8).foldl (fun n j => n + (if l.contains (8 * i + j) then 2 ^ j else 0)) 0))

def shardsOf (bs : List Byte) : List Nat := (List.range 256).filter (fun i => bit (field bs (i / 8) 1) (i % 8))

/-- One result entry. -/
def hitBytes (x : Hit) : List Byte :=
  leBytes 24 (x.gid % 2 ^ 64 + x.dist % 2 ^ 32 * 2 ^ 64 + x.slot % 2 ^ 32 * 2 ^ 96 + x.gen % 256 * 2 ^ 128 + x.shard % 256 * 2 ^ 136)

def hitOf (bs : List Byte) : Hit :=
  { gid := field bs 0 8, dist := field bs 8 4, slot := field bs 12 4, gen := field bs 16 1, shard := field bs 17 1 }

/-- The result area of a search. -/
def answerBytes (q : SearchRec) : List Byte :=
  let a := q.answer
  leBytes 64 (a.hits.length + a.visits % 2 ^ 32 * 2 ^ 32 + (a.modes % 16 + a.stop % 8 * 16 + b2n q.ranBe * 128) * 2 ^ 64)
    ++ shardBits q.missing ++ shardBits q.searched ++ a.hits.flatMap hitBytes
    ++ ((sortBy (fun x => x) (q.searched.filter (fun i => !q.missing.contains i))).flatMap (fun i => leBytes 4 (amGetD a.seqs i 0)))

/-- The answer of another device, from the same layout. -/
def answerOf (bs : List Byte) : SearchAnswer :=
  let n := min 1024 (field bs 0 4)
  let missing := shardsOf (slice bs 64 32)
  let shards := (shardsOf (slice bs 96 32)).filter (fun i => !missing.contains i)
  { hits := (List.range n).map (fun i => hitOf (slice bs (128 + 24 * i) 24)), modes := field bs 8 1 % 16
    stop := field bs 8 1 / 16 % 8, visits := field bs 4 4
    seqs := (List.range shards.length).map (fun i => ((shards.drop i).headD 0, field bs (128 + 24 * n + 4 * i) 4)) }

/-- The receipt of a search. -/
def searchRcpt (q : SearchRec) : Rcpt :=
  let a := q.answer
  let short := decide (a.hits.length < q.k)
  let post := bit a.modes 2
  let part := !q.missing.isEmpty
  { status := notedStatus false false short post part, notes := notesOf false false short post part
    detail := if q.set3 && part then q.missing.length else a.stop * 256 + a.modes
    resA := q.missing.length + a.visits % 2 ^ 32 * 2 ^ 32, resB := a.hits.length }

/-- Write a search's results and decide its receipt (R403, R741). -/
def finishSearch (s : State) (tag : Nat) (q : SearchRec) : State :=
  let s := { s with searches := amSet s.searches tag { q with finished := true, asked := [] } }
  match q.via with
  | .host fn =>
    match hostWrite s fn q.resultAddr (answerBytes q) with
    | (s, none) => resolveTag s tag (searchRcpt q)
    | (s, some _) => resolveTag s tag (rInvalid 24)
  | .tideway c m k => resolveTag (sendResult s c m k q.resultAddr (answerBytes q)) tag (searchRcpt q)
  | .resp c m => resolveTag (sendResp s c m (answerBytes q)) tag (searchRcpt q)

/-- A device asked has answered, or will not: its shards that it gave join the answer, the others are MISSING (R427, R428). -/
def searchAnswered (s : State) (tag dev : Nat) (a : Option SearchAnswer) : State :=
  match amGet s.searches tag with
  | none => s
  | some q =>
    if q.finished then s
    else
      match amGet q.asked dev with
      | none => s
      | some shards =>
        let given := match a with
          | some x => shards.filter (fun i => amHas x.seqs i)
          | none => []
        let q := { q with asked := amErase q.asked dev, missing := q.missing ++ shards.filter (fun i => !given.contains i) }
        let q := match a with
          | some x =>
            let x := { x with hits := x.hits.filter (fun h => given.contains h.shard), seqs := x.seqs.filter (fun e => given.contains e.1) }
            { q with answer := mergeAnswers q.k q.answer x }
          | none => q
        if q.asked.isEmpty then finishSearch s tag q else { s with searches := amSet s.searches tag q }

end Sys2Proof.Machine
end

