-- ==== Sys2Proof/Machine/Text.lean ====
section
/-! DEFINITION. The text-ring commands of Table 8.7 and the text engine's events (R353 to R385). -/

namespace Sys2Proof.Machine

/-- A text-ring command; a function in command set 3 is refused every one (R355). -/
def textCmd (h : Hdr) (c : RingCmd) (s : State) : Out := ringCmd .text h c s

/-- A text command is finished with receipt `r`. -/
def tdone (s : State) (h : Hdr) (tag : Nat) (r : Rcpt) : State := finish s h .text tag r

/-! ### Streams -/

/-- A stream of the issuing function. -/
def streamAt (s : State) (h : Hdr) : Option Stream := if h.target < 4096 then amGet s.streams (streamKey h.fn h.target) else none

/-- R340: the vocabulary version belongs to another account. -/
def vocabRefuse (s : State) (account vocab : Nat) : Option Rcpt :=
  match resolveRef s 1 (refOf vocab) with
  | some v =>
    match cfgVer s 1 v.num v.ver with
    | some c =>
      if c.account != 0xFFFF && c.account != account then some (rNotOwner c.account)
      else refuseIf (s.faults.configsLost.contains (cfgKey 1 v.num * 65536 + v.ver)) { status := .fault }
    | none => none
  | none => none

/-- OPEN_STREAM (R356). -/
def openStreamSpec (h : Hdr) (direction flags vocab : Nat) : RingCmd :=
    { bad := fun s => [accBad s h.fn h.target 8, (24, decide (1 < direction)), (25, decide (3 < flags))]
      refuse := fun s =>
        [ accRefuse s h.fn h.target, vocabRefuse s h.target vocab, refRefuse s 1 (refOf vocab),
          refuseIf (decide (4096 ≤ (streamsOf s h.fn).length)) (rBusy 2),
          refuseIf (!poolFits s h.target (64 + (if direction = 1 then 0 else 8192))) (rQuota 0) ]
      waits := flrWaits h.fn h.target
      run := fun s tag =>
        match resolveRef s 1 (refOf vocab) with
        | none => tdone s h tag (rVersion 0)
        | some v =>
          let k := amLowestFree s.streams (streamKey h.fn 0)
          let st : Stream := { account := h.target, detok := direction == 1, flags := flags, vocab := v }
          let s := { s with streams := amSet s.streams k st }
          tdone (noteQuotas (fitPool s h.target) h.target) h tag (rOk (k % 4096)) }

/-- OPEN_STREAM. -/
def execOpenStream (h : Hdr) (direction flags vocab : Nat) (s : State) : Out := textCmd h (openStreamSpec h direction flags vocab) s

/-- A stream is freed, and its pool bytes with it. -/
def dropStream (s : State) (k : Nat) : State :=
  match amGet s.streams k with
  | some st => freeConfigs (fitPool { s with streams := amErase s.streams k } st.account)
  | none => s

/-- The stream named is the issuing function's and of this direction. -/
def streamBad (s : State) (h : Hdr) (detok : Bool) : Nat × Bool :=
  (8, match streamAt s h with | some st => st.detok != detok | none => true)

/-- Write tokens, keep the stream, and finish (R357, R358, R740). -/
def tokFinish (s : State) (h : Hdr) (tag outAddr : Nat) (b : List Byte) (st : Stream) (final : Bool) (input : List Byte)
    (o : TokOut) : State :=
  let k := streamKey h.fn h.target
  match hostWrite s h.fn outAddr (o.toks.flatMap (leBytes 4)) with
  | (s, some a) =>
    let w := tokOut b st final input ((a - outAddr) / 4)
    let s := { s with streams := amSet s.streams k (if w.all then st else w.stream) }
    tdone s h tag { rInvalid 24 a with resB := if w.all then 0 else w.used }
  | (s, none) =>
    match o.fail with
    | some off =>
      let s := { s with streams := amSet s.streams k o.stream }
      tdone s h tag
        { rInvalid (if st.raw.length ≤ off then 64 + (off - st.raw.length) else 64) (st.count - st.raw.length + off) with
          resB := o.used }
    | none =>
      let s := if final && o.all then dropStream s k else { s with streams := amSet s.streams k o.stream }
      tdone s h tag (rOk o.toks.length o.used)

/-- TOKENIZE (R344, R357). -/
def tokenizeSpec (h : Hdr) (outAddr outCap final : Nat) (input : HostRead) : RingCmd :=
    { hasBuffer := true
      bad := fun s => [streamBad s h false, (32, decide (outCap < 8192)), (36, decide (1 < final))]
      refuse := fun _ => [bodyRefusal input]
      run := fun s tag =>
        match streamAt s h with
        | none => tdone s h tag (rInvalid 8)
        | some st =>
          let b := cfgBody s 1 st.vocab
          tokFinish s h tag outAddr b st (final == 1) (bodyBytes input) (tokOut b st (final == 1) (bodyBytes input) outCap) }

/-- TOKENIZE. -/
def execTokenize (h : Hdr) (outAddr outCap final : Nat) (input : HostRead) (s : State) : Out := textCmd h (tokenizeSpec h outAddr outCap final input) s

/-- The token IDs of a buffer. -/
def idsOf (bs : List Byte) : List Nat := (List.range (bs.length / 4)).map (fun i => field bs (4 * i) 4)

/-- DETOKENIZE (R352). -/
def detokenizeSpec (h : Hdr) (outAddr outCap final : Nat) (input : HostRead) : RingCmd :=
    { hasBuffer := true
      bad := fun s =>
        [streamBad s h true, (12, h.len % 4 != 0), (32, decide (outCap < 1024)), (36, decide (1 < final))]
      refuse := fun s =>
        [ bodyRefusal input,
          match streamAt s h with
          | some st =>
            ((indexed (idsOf (bodyBytes input))).find? (fun e => decide (vcTokens (cfgBody s 1 st.vocab) ≤ e.2))).map
              (fun e => rInvalid (64 + 4 * e.1))
          | none => none ]
      run := fun s tag =>
        match streamAt s h with
        | none => tdone s h tag (rInvalid 8)
        | some st =>
          let b := cfgBody s 1 st.vocab
          let k := streamKey h.fn h.target
          let ids := idsOf (bodyBytes input)
          let skip := bit st.flags 1
          let x0 : Detok := { carry := st.raw, joined := st.count }
          let t := detokRun b skip outCap ids x0
          let t' := if final = 1 ∧ t.used = ids.length then detokEnd b outCap t else t
          match hostWrite s h.fn outAddr t'.text with
          | (s, some a) =>
            let w := detokRun b skip (a - outAddr) ids x0
            tdone { s with streams := amSet s.streams k { st with count := w.joined, raw := w.carry } } h tag
              { rInvalid 24 a with resB := w.used }
          | (s, none) =>
            let st' := { st with count := t'.joined, raw := t'.carry }
            match t'.fail with
            | some off => tdone { s with streams := amSet s.streams k st' } h tag { rInvalid 64 off with resB := t'.used }
            | none =>
              let s := if final = 1 ∧ t'.used = ids.length ∧ t'.carry = [] then dropStream s k
                else { s with streams := amSet s.streams k st' }
              tdone s h tag (rOk t'.text.length t'.used) }

/-- DETOKENIZE. -/
def execDetokenize (h : Hdr) (outAddr outCap final : Nat) (input : HostRead) (s : State) : Out := textCmd h (detokenizeSpec h outAddr outCap final input) s

/-- CLOSE_STREAM. -/
def closeStreamSpec (h : Hdr) : RingCmd :=
    { bad := fun s => [(8, (streamAt s h).isNone)]
      run := fun s tag => tdone (dropStream s (streamKey h.fn h.target)) h tag rOk }

/-- CLOSE_STREAM. -/
def execCloseStream (h : Hdr) (s : State) : Out := textCmd h (closeStreamSpec h) s

/-! ### Session commands of the text ring (R383, Table 8.14) -/

/-- A session the text ring cannot act on: CLOSING or FAILED. -/
def textStateRefuse (s : State) (handle : Nat) : Option Rcpt :=
  refuseIf (sessTest s handle (fun x => x.state == .closing || x.state == .failed)) (rBusy 1)

/-- Note an admitted operation of a session (R130). -/
def noteOp (s : State) (d : Nat) : State := modSession s d (fun x => { x with lastOpPm := s.postmark })

/-- A session command of the text ring: handle at byte 24. -/
def textSpec (h : Hdr) (handle : Nat) (hasBuffer : Bool) (bad : State → List (Nat × Bool))
    (refuse : State → List (Option Rcpt)) (run : State → Nat → Nat → State) : RingCmd :=
    { hasBuffer := hasBuffer
      bad := fun s => accBad s h.fn (handleAccount handle) 24 :: bad s
      refuse := fun s => sessRefuse s h.fn handle ++ [textStateRefuse s handle] ++ refuse s
      waits := fun s => flrWaits h.fn (handleAccount handle) s || migHeld s handle
      run := fun s tag =>
        match findHandle s handle with
        | some d => run (noteOp s d) tag d
        | none => tdone s h tag (rNotOwner (handleAccount handle)) }

/-- The start position of a READ_TEXT cannot be reached (R361). -/
def textStartBad (s : State) (handle cursor : Nat) : Bool :=
  sessTest s handle (fun x =>
    let c := if cursor = 0xFFFFFFFF then x.textCursor else cursor
    decide (c < textFloor s x) || decide (x.tokens < c))

/-- READ_TEXT under its tag (R360): it writes what there is, or waits. -/
def takeReadText (s : State) (tag d cursor waitMs flags len addr : Nat) (via : ResultVia) (o : Op) : State :=
  match amGet s.sessions d with
  | none => putOp s tag o
  | some x =>
    let v := (resolveRef s 1 x.vocabRef).getD x.vocabRef
    let s := if cursor = 0xFFFFFFFF then s else upd s d (fun x => { x with textCursor := cursor, carry := [] })
    let q : TextRead :=
      { d := d, flags := flags, len := len, addr := addr, via := via, vocab := v, until_ := s.postmark + waitMs * 1000000 }
    let s := putOp s tag { o with account := some (handleAccount x.handle), captured := [(cfgKey 1 v.num, v.ver)]
                                  state := .waiting (.newText d) }
    let start := if cursor = 0xFFFFFFFF then x.textCursor else cursor
    if start = x.tokens ∧ waitMs ≠ 0 then { s with textReads := amSet s.textReads tag q } else endTextRead s tag q

/-- READ_TEXT. -/
def readTextSpec (h : Hdr) (handle cursor waitMs flags : Nat) : RingCmd :=
  textSpec h handle true
    (fun s => [ (12, decide (h.len < 1024)), (32, textStartBad s handle cursor), (36, decide (10000 < waitMs)),
                (38, decide (3 < flags)) ])
    (fun s => [match (findHandle s handle).bind (amGet s.sessions) with
      | some x => refRefuse s 1 x.vocabRef
      | none => none])
    (fun s tag d => takeReadText s tag d cursor waitMs flags h.len h.addr (.host h.fn) (ringOp s h .text (.waiting (.newText d))))

/-- READ_TEXT. -/
def execReadText (h : Hdr) (handle cursor waitMs flags : Nat) (s : State) : Out := textCmd h (readTextSpec h handle cursor waitMs flags) s

/-- READ_TEXT_WAIT_EXPIRY: WAIT_MS passes with no new tokens (R360). -/
def execReadTextWaitExpiry (tag pm : Nat) (s : State) : Out :=
  let s := advance pm s
  match amGet s.textReads tag with
  | some q => if q.until_ ≤ s.postmark then .next (endTextRead s tag q) else .next s
  | none => .next s

/-- READ_MASK under its tag (R378). -/
def takeReadMask (s : State) (tag d round which len addr : Nat) (via : ResultVia) (o : Op) : State :=
  let q : MaskRead := { d := d, round := round, which := which % 2 ^ 17, len := len, addr := addr, via := via }
  let s := putOp s tag { o with state := .waiting (.masks d) }
  serveRead { s with maskReads := amSet s.maskReads tag q } tag q

/-- READ_MASK. -/
def readMaskSpec (h : Hdr) (handle round which : Nat) : RingCmd :=
  textSpec h handle true (fun _ => []) (fun _ => [])
    (fun s tag d => takeReadMask s tag d round which h.len h.addr (.host h.fn) (ringOp s h .text (.waiting (.masks d))))

/-- READ_MASK. -/
def execReadMask (h : Hdr) (handle round which : Nat) (s : State) : Out := textCmd h (readMaskSpec h handle round which) s

/-- SET_RULES or RESET_CONSTRAINT under its tag: at once, or after the round that closes (R385). -/
def takeEdit (s : State) (h : Hdr) (tag d : Nat) (e : TextEdit) : State :=
  match amGet s.sessions d with
  | none => tdone s h tag (rBusy 1)
  | some x =>
    if x.round.closing then
      putOp { s with textDefers := amSet s.textDefers tag { d := d, edit := e } } tag (ringOp s h .text (.waiting (.masks d)))
    else
      let r := applyEdit s d e
      tdone r.1 h tag r.2

/-- SET_RULES (R366). -/
def setRulesSpec (h : Hdr) (handle : Nat) (body : HostRead) : RingCmd :=
  textSpec h handle (h.len != 0) (fun _ => []) (fun _ => if h.len = 0 then [] else [bodyRefusal body])
    (fun s tag d => takeEdit s h tag d (.rules (if h.len = 0 then [] else bodyBytes body)))

/-- SET_RULES. -/
def execSetRules (h : Hdr) (handle : Nat) (body : HostRead) (s : State) : Out := textCmd h (setRulesSpec h handle body) s

/-- RESET_CONSTRAINT. -/
def resetConstraintSpec (h : Hdr) (handle state : Nat) : RingCmd :=
  textSpec h handle false (fun _ => []) (fun _ => []) (fun s tag d => takeEdit s h tag d (.reset state))

/-- RESET_CONSTRAINT. -/
def execResetConstraint (h : Hdr) (handle state : Nat) (s : State) : Out := textCmd h (resetConstraintSpec h handle state) s

/-! ### The text engine's events -/

/-- COMMIT_NOTICE (R317, R376, R381): the oldest notice reaches TX_0, which starts the round's root mask as LC or BE. -/
def execCommitNotice (pm : Nat) (s : State) : Out :=
  let s := advance pm s
  match s.notices with
  | [] => .next s
  | n :: rest =>
    let s := { s with notices := rest }
    match amGet s.sessions n.d with
    | none => .next s
    | some x =>
      match x.masks with
      | none => .next s
      | some m =>
        if m.round ≠ n.round then .next s
        else
          let cands := if x.round.fixed then x.round.cands else 16
          let bytes := maskSize (maskTokens s m) * (1 + cands)
          let lc := !n.be && txAdmit s x.partition bytes
          let s := if lc then
              { s with txLoads := s.txLoads.filter (fun l => decide (s.postmark < l.pm + 100000))
                  ++ [{ pm := s.postmark, partition := x.partition, bytes := bytes }] }
            else s
          .next (modSession s n.d (fun x => { x with masks := some { m with notice := some s.postmark, ranBe := !lc } }))

/-- MASK_READY (R367 to R374): a text cell finishes the mask of node `m` of a session's round (16 the root), once TX_0 has the
round's notice, the tree is fixed for a candidate, and its parent's mask is done; reads that waited for it complete. -/
def execMaskReady (d m pm : Nat) (s : State) : Out :=
  let s := advance pm s
  match amGet s.sessions d with
  | none => .next s
  | some x =>
    match x.masks with
    | none => .next s
    | some ms =>
      let parent := (x.round.parents.drop m).headD 0x1F
      let ok := ms.notice.isSome && !amHas ms.ready m &&
        (m == 16 || (x.round.fixed && decide (m < x.round.cands) && amHas ms.ready (if parent = 0x1F then 16 else parent)))
      if !ok then .next s
      else
        let r := maskRules s x ms
        let q := nodeMask r (maskNode r ms x.round m)
        let ms' := { ms with ready := amSet ms.ready m { outcome := q.outcome, bytes := maskBytes r.tokens q.allowed }
                             readyPm := if m = 16 then some s.postmark else ms.readyPm }
        let s := modSession s d (fun x => { x with masks := some ms' })
        .next (serveMasks (fitStore d (s.sessions.length + 1) s) d)

end Sys2Proof.Machine
end

