-- ==== Sys2Proof/Machine/SessionCreate.lean ====
section
/-! DEFINITION. CREATE_SESSION (R105 to R120, R154, R340, R362, R365, R521, Table 13.16). -/

namespace Sys2Proof.Machine

/-- The role now, and the role a drain leads to, both admit work that the roles of a list admit (R610, R612). -/
def roleAdmits (s : State) (roles : List Nat) : Bool :=
  roles.contains s.role && (match s.roleNext with | some r => roles.contains r | none => true)

/-- R610: work outside the role is BUSY 1. -/
def roleRefuse (s : State) (roles : List Nat) : Option Rcpt := refuseIf (!roleAdmits s roles) (rBusy 1)

/-- Indices homed in region `k`. -/
def regionIndices (k : Nat) : Nat := if k < 4 then 2796203 else 2796202

/-- Descriptors in use that are homed in region `k`. -/
def regionInUse (s : State) (k : Nat) : Nat := s.sessions.countP (fun e => e.1 % 6 == k)

/-- The lowest `q` at which index 6q + k is free; at most `n` are looked at. -/
def freeIndex (s : State) (k : Nat) : Nat → Nat → Nat
  | 0, q => q
  | n + 1, q => if amHas s.sessions (6 * q + k) then freeIndex s k n (q + 1) else q

/-- R111: the index a new session takes: the region with the most free frames that has a free index, and its lowest index. -/
def newIndex (s : State) : Option Nat :=
  (bestRegion s (regions.filter (fun k => !s.regionsOut.contains k && decide (regionInUse s k < regionIndices k)))).map
    (fun k => 6 * freeIndex s k (s.sessions.length + 1) 0 + k)

/-- A configuration number belongs to another account than `a` (R340). -/
def foreignRefuse (s : State) (kind a : Nat) (r : Ref) : Option Rcpt :=
  match resolveRef s kind r with
  | some q =>
    match cfgVer s kind q.num q.ver with
    | some c => refuseIf (c.account != 0xFFFF && c.account != a) (rNotOwner c.account)
    | none => none
  | none => none

/-- R154: a set-3 function names a profile it cannot use. -/
def profileSet3Bad (s : State) (fn : Nat) (r : Ref) : Bool :=
  match resolveRef s 0 r with
  | some q => (getFn s fn).set3 && (!(decide (pfResident (cfgBody s 0 q) ≤ 2)) || pfLatent (cfgBody s 0 q))
  | none => false

/-- R365: the constraint set's token count differs from the vocabulary's. -/
def tokensDiffer (s : State) (vocab cset : Ref) : Bool :=
  match resolveRef s 1 vocab, resolveRef s 2 cset with
  | some v, some c => cset.num != 0 && csTokens (cfgBody s 2 c) != vcTokens (cfgBody s 1 v)
  | _, _ => false

/-- The new session of a handle (Tables 3.1 to 3.5, RESET column). -/
def newSession (s : State) (handle : Nat) (profile vocab cset cls : Ref) (pageList : Nat) : Session :=
  let pb := cfgBody s 0 profile
  let cb := cfgBody s 3 cls
  let c : Option CSet :=
    if cset.num = 0 then some .opened else (resolveRef s 2 cset).map (fun r => .body (cfgBody s 2 r))
  { handle := handle, partition := accPartition s (handleAccount handle), chartEpoch := s.chartEpoch, pageList := pageList
    layersM1 := pfLayersM1 pb, classRef := cls, constraintRef := cset, vocabRef := vocab, profileRef := profile
    mirrored := clMirror cb, createdPm := s.postmark, lastOpPm := s.postmark
    automaton := (c.map (·.start)).getD 0, stateEpoch := (c.map (·.epoch)).getD 0 }

/-- Place a new session at index `d`: its page list is carved, its descriptor written, its redirect record removed (R521), the mask
set of round 0 opened with the versions its references resolve to, and TABLE_HIGH considered (R149). -/
def placeSession (s : State) (d : Nat) (x : Session) : State :=
  let a := handleAccount x.handle
  let s := { s with sessions := amSet s.sessions d x, redirects := s.redirects.filter (fun r => r.1 != x.handle) }
  let s := noteQuotas (fitPool s a) a
  let s := openRound s d (resolveRef s 1 x.vocabRef) (csetNow s x)
  let s := { s with sessions := amMod s.sessions d (fun y => { y with ckptDirty := false })
                    notices := s.notices ++ [{ d := d, tokens := 0, round := 0, ids := [] }] }
  noteTable (touch s d true)

/-- CREATE_SESSION. -/
def createSessionSpec (h : Hdr) (handle profile vocab constr cls : Nat) : RingCmd :=
  let a := handleAccount handle
  let cl : Ref := { num := cls, ver := 0xFFFF }
  { set3 := true
    bad := fun s =>
      [ accBad s h.fn a 24, (32, profileSet3Bad s h.fn (refOf profile)), (44, decide (1023 < cls)) ]
    refuse := fun s =>
      let need := match resolveRef s 0 (refOf profile) with
        | some r => (pfLayersM1 (cfgBody s 0 r) + 1) * 528 + 448
        | none => 0
      [ accRefuse s h.fn a,
        foreignRefuse s 1 a (refOf vocab),
        (if (refOf constr).num = 0 then none else foreignRefuse s 2 a (refOf constr)),
        refRefuse s 0 (refOf profile), refRefuse s 1 (refOf vocab),
        (if (refOf constr).num = 0 then none else refRefuse s 2 (refOf constr)),
        refRefuse s 3 cl,
        refuseIf (tokensDiffer s (refOf vocab) (refOf constr)) (rInvalid 40),
        roleRefuse s [0],
        refuseIf ((findHandle s handle).isSome) (rBusy 1),
        refuseIf (decide (16777216 ≤ descInUse s) || (newIndex s).isNone) (rBusy 2),
        refuseIf (!poolFits s a need) (rQuota 0) ]
    waits := flrWaits h.fn a
    run := fun s tag =>
      match newIndex s, resolveRef s 0 (refOf profile), resolveRef s 3 cl with
      | some d, some p, some c =>
        let (k, s) := takeFresh s
        let x := newSession s handle p (refOf vocab) (refOf constr) c (Config.hbmAddr k)
        done (placeSession s d x) h tag (rOk d)
      | _, _, _ => done s h tag (rBusy 2) }

/-- CREATE_SESSION. -/
def execCreateSession (h : Hdr) (handle profile vocab constr cls : Nat) (s : State) : Out := adminCmd h (createSessionSpec h handle profile vocab constr cls) s

end Sys2Proof.Machine
end

