-- ==== Sys2Proof/Machine/Search.lean ====
section
/-! DEFINITION. The search ring's commands, the index commands of the admin ring, and the sweeps of shards (R386 to R433). -/

namespace Sys2Proof.Machine

/-! ### Naming an index (R401, R52, R53) -/

def indexAt (s : State) (k : Nat) : Option Index := amGet s.indexes k

/-- The checks every index command makes: the index exists, its account is the function's, and it is not being deleted. -/
def indexRefuse (s : State) (fn k : Nat) (owner : Bool) : List (Option Rcpt) :=
  match indexAt s k with
  | none => [refuseIf (s.faults.objectsLost.contains k) { status := .fault }]
  | some ix =>
    [ if owner then ownerRefuse s fn ix.account else accRefuse s fn ix.account, refuseIf ix.deleting (rBusy 1) ]

def indexAbsent (s : State) (k : Nat) : Nat × Bool := (8, (indexAt s k).isNone && !s.faults.objectsLost.contains k)

def indexAccount (s : State) (k : Nat) : Nat :=
  match indexAt s k with
  | some ix => ix.account
  | none => 0

/-! ### CREATE_INDEX, COMPACT_INDEX, DELETE_INDEX -/

/-- CREATE_INDEX (R386 to R390, R206, R207). -/
def createIndexSpec (h : Hdr) (cls : Nat) (params : HostRead) : RingCmd :=
  let b := bodyBytes params
  let cr := fun (s : State) => resolveRef s 3 { num := cls, ver := 0xFFFF }
  let build := fun (s : State) => match cr s with
    | some c => buildIndex s h.target c b (b.drop 128) (fun _ => { region := 0 })
    | none => .error (rVersion 0)
  { set3 := true, hasBuffer := true
    bad := fun s => [accBad s h.fn h.target 8, (24, decide (1023 < cls))]
    refuse := fun s =>
      [ bodyRefusal params, (firstBad (indexBad b h.len)).map (fun o => rInvalid o), ownerRefuse s h.fn h.target, refRefuse s 3 { num := cls, ver := 0xFFFF },
        roleRefuse s [0, 1],
        refuseIf (decide (2147483648 < slotsUsed s + (ixLocal b).length * ixCapacity b)) (rBusy 2),
        match build s with
        | .error r => some r
        | .ok _ => none ]
    waits := flrWaits h.fn h.target
    run := fun s tag =>
      match build s with
      | .ok (s, ix) =>
        let t := newObject s
        done (checkPressure (noteQuotas { t.2 with indexes := amSet t.2.indexes t.1 ix } h.target)) h tag (rOk t.1)
      | .error r => done s h tag r }

/-- CREATE_INDEX. -/
def execCreateIndex (h : Hdr) (cls : Nat) (params : HostRead) (s : State) : Out := adminCmd h (createIndexSpec h cls params) s

/-- The tombstoned slots of a shard now. -/
def tombstones (h : Shard) : List Nat := (h.nodes.filter (fun e => e.2.inUse && e.2.delSeq != 0xFFFFFFFF)).map (·.1)

/-- COMPACT_INDEX (R421). -/
def compactIndexSpec (h : Hdr) : RingCmd :=
    { set3 := true
      bad := fun s => [indexAbsent s h.target]
      refuse := fun s => indexRefuse s h.fn h.target true
        ++ [refuseIf (match indexAt s h.target with
          | some ix => ix.shards.any (fun e => !e.2.verified)
          | none => false) (rBusy 1)]
      run := fun s tag =>
        let s := park s h tag (.compacted h.target)
        modIndex s h.target (fun ix =>
          { ix with shards := amMap ix.shards (fun _ x => { x with sweep := some { tombs := tombstones x, compact := true } }) }) }

/-- COMPACT_INDEX. -/
def execCompactIndex (h : Hdr) (s : State) : Out := adminCmd h (compactIndexSpec h) s

/-- DELETE_INDEX: the index goes once its searches have completed. -/
def deleteIndexSpec (h : Hdr) : RingCmd :=
    { set3 := true
      bad := fun s => [indexAbsent s h.target]
      refuse := fun s => indexRefuse s h.fn h.target true
      run := fun s tag =>
        settleIndex (modIndex (park s h tag (.indexIdle h.target)) h.target (fun ix => { ix with deleting := true })) h.target }

/-- DELETE_INDEX. -/
def execDeleteIndex (h : Hdr) (s : State) : Out := adminCmd h (deleteIndexSpec h) s

/-! ### SEARCH (R402 to R404, R412, R426 to R433) -/

def searchPredBytes (b : List Byte) : Nat := field b 32 4

/-- Where the query vector starts in an operand area. -/
def queryOff (b : List Byte) : Nat := 64 + roundUp (searchPredBytes b) 64

/-- The shards a SEARCH selects: all of them where SHARD_SEL is zero. -/
def searchSel (ix : Index) (b : List Byte) : List Nat :=
  let l := shardsOf (slice b 0 32)
  if l.isEmpty then List.range (ixShardsM1 ix.params + 1) else l

/-- The elements of the query. -/
def queryOf (ix : Index) (e : SearchEntry) (b : List Byte) : List FVal := vecVals e.queryFormat (ixDim ix.params) (b.drop (queryOff b))

def finiteVal : FVal → Bool
  | .fin _ _ _ => true
  | _ => false

/-- R402: the entry's fields that are out of range, by byte offset. -/
def searchFieldBad (ix : Index) (e : SearchEntry) (b : List Byte) (len : Nat) : List (Nat × Bool) :=
  [ (12, decide (len < queryOff b + ixDim ix.params * vecElBytes e.queryFormat)),
    (32, e.k == 0 || decide (1024 < e.k)), (34, decide (e.queue < e.k) || decide (1024 < e.queue)),
    (36, e.visits == 0 || decide (65536 < e.visits)),
    (40, e.rerank != 0 && !(decide (e.k ≤ e.rerank) && decide (e.rerank ≤ e.queue) && ixFormat ix.params == 3 && ixRerank ix.params != 0xFF)),
    (42, decide (8 < e.width)), (43, decide (16 < e.oversample)), (44, decide (2 < e.queryFormat)), (45, decide (3 < e.flags)),
    (46, decide (1000000 < e.deadlineUs)) ]

/-- The operand area's bytes that fail, by 64 plus their offset (R402, R410). -/
def searchAreaBad (ix : Index) (e : SearchEntry) (b : List Byte) : List (Nat × Bool) :=
  let n := searchPredBytes b
  let w := vecElBytes e.queryFormat
  (List.range 28).map (fun i => (100 + i, field b (36 + i) 1 != 0))
  ++ (if n = 0 then [] else (predBad (slice b 64 n) n).map (fun x => (128 + x.1, x.2)))
  ++ (indexed (queryOf ix e b)).map (fun x => (64 + queryOff b + w * x.1, !finiteVal x.2))
where
  indexed (l : List FVal) : List (Nat × FVal) := (List.range l.length).zip l

/-- A shard that a set-3 function may not search: its store is unverified and there is a predicate (Table 9.14). -/
def set3Blocked (ix : Index) (b : List Byte) : Bool :=
  searchPredBytes b != 0 && (searchSel ix b).any (fun i =>
    match amGet ix.shards i with
    | some h => !h.verified
    | none => false)

/-- What a SEARCH asks of each shard. -/
def searchReq (ix : Index) (e : SearchEntry) (b : List Byte) : SearchReq :=
  { k := e.k, queue := e.queue, visits := e.visits, rerank := e.rerank, width := if e.width = 0 then 4 else e.width
    oversample := if e.oversample = 0 then ixOversample ix.params else e.oversample, noExhaustive := bit e.flags 0
    pred := slice b 64 (searchPredBytes b), query := queryOf ix e b }

/-- Bytes of one traversal vector or code, B_V (R433). -/
def traversalBytes (b : List Byte) : Nat := if ixFormat b = 3 then ixSubspaces b else ixDim b * vecElBytes (ixFormat b)

/-- R433 in bytes at 64 GB/s: the LC loads of a block, and whether one more is admitted (160 µs are 10,240,000 B). -/
def admitSearch (s : State) (mine : List (Nat × Nat)) (region est : Nat) : Bool :=
  let all := s.searches.flatMap (fun e => e.2.loads) ++ mine
  decide ((all.filter (fun l => l.1 == region)).foldl (fun n l => n + l.2) 0 + 8 * est ≤ 81920000)

/-- The 64 bytes of a shard search's entry (R427): the SEARCH with LOCAL_ONLY set. -/
def entryBytes (e : SearchEntry) (set : Nat) (be : Bool) (len : Nat) : List Byte :=
  leBytes 64 (set * 2 ^ 8 + 0x0300 * 2 ^ 16 + b2n be * 2 ^ 33 + len % 2 ^ 32 * 2 ^ 96 + e.resultAddr % 2 ^ 64 * 2 ^ 192 + e.k % 2 ^ 16 * 2 ^ 256
    + e.queue % 2 ^ 16 * 2 ^ 272) |>.take 36
  |> fun head => head ++ leBytes 4 e.visits ++ leBytes 2 e.rerank ++ leBytes 1 e.width ++ leBytes 1 e.oversample ++ leBytes 1 e.queryFormat
    ++ leBytes 1 (e.flags % 2 + 2) ++ leBytes 4 e.deadlineUs ++ List.replicate 14 0#8

/-- A SEARCH entry from its bytes. -/
def entryOfBytes (b : List Byte) : SearchEntry :=
  { resultAddr := field b 24 8, k := field b 32 2, queue := field b 34 2, visits := field b 36 4, rerank := field b 40 2, width := field b 42 1
    oversample := field b 43 1, queryFormat := field b 44 1, flags := field b 45 1, deadlineUs := field b 46 4 }

/-- The other devices that the map names for a set of shards, with the shards of each (R427). -/
def remoteShards (s : State) (ix : Index) (shards : List Nat) : AMap (List Nat) :=
  shards.foldl (fun m i =>
    let dev := amGetD ix.map i 0
    if dev = 0 ∨ dev = s.boot.deviceId then m else amSet m dev (amGetD m dev [] ++ [i])) []

/-- Ask one device for its shards, if a connection reaches it. -/
def askShards (tag : Nat) (ix : Index) (e : SearchEntry) (b : List Byte) (set3 be : Bool) (s : State) (q : Nat × List Nat) : State :=
  match connTo s q.1 with
  | some c =>
    let area := shardBits q.2 ++ b.drop 32
    sendRequest s c { op := opSearch, be := be, addr := ixUid ix.params
                      payload := entryBytes e (if set3 then 3 else 4) be area.length ++ area } { for_ := .search tag q.2 }
  | none => s

/-- A SEARCH is admitted under its tag: its local shards are searched at their CHANGE_SEQ of now, and the others are asked (R396, R427). -/
def takeSearch (s : State) (tag k : Nat) (ix : Index) (e : SearchEntry) (b : List Byte) (set3 be : Bool) (via : ResultVia) (o : Op) : State :=
  let sel := searchSel ix b
  let lonly := bit e.flags 1
  let here := sel.filter (fun i => amHas ix.shards i)
  let away := if lonly then [] else sel.filter (fun i => !amHas ix.shards i)
  let req := searchReq ix e b
  let est := e.visits * (traversalBytes ix.params + 96)
  let up := here.filterMap (fun i => (amGet ix.shards i).bind (fun h => if s.regionsOut.contains h.region then none else some (i, h)))
  let ans := up.foldl (fun a p => mergeAnswers e.k a (shardSearch ix p.1 p.2 req)) {}
  let loads := if be then ([], false) else up.foldl (fun (t : List (Nat × Nat) × Bool) p =>
    if admitSearch s t.1 p.2.region est then (t.1 ++ [(p.2.region, est)], t.2) else (t.1, true)) ([], false)
  let asked := (remoteShards s ix away).filter (fun q => (connTo s q.1).isSome)
  let missing := here.filter (fun i => !up.any (fun p => p.1 == i))
    ++ away.filter (fun i => !asked.any (fun q => q.2.contains i))
  let q : SearchRec :=
    { index := k, k := e.k, via := via, resultAddr := e.resultAddr, set3 := set3, loads := loads.1, ranBe := loads.2
      searched := if lonly then here else sel, missing := missing, answer := ans, asked := asked
      until_ := s.postmark + 1000 * (if e.deadlineUs = 0 then 1000 else e.deadlineUs) }
  let s := putOp s tag { o with account := some ix.account, object := some k, state := .waiting .searchWork }
  let s := { s with searches := amSet s.searches tag q }
  let s := up.foldl (fun s p => requestWake s (14 * p.2.region + 10) (!be) 0) s
  if asked.isEmpty then finishSearch s tag q else asked.foldl (askShards tag ix e b set3 be) s

/-- A BE hold stands in a region that holds a shard of the index: no BE shard search starts there (R666). -/
def searchHeld (s : State) (k : Nat) : Bool :=
  match indexAt s k with
  | some ix => ix.shards.any (fun e => beHeld s e.2.region)
  | none => false

/-- SEARCH. -/
def searchSpec (h : Hdr) (e : SearchEntry) (operand : HostRead) : RingCmd :=
  let b := bodyBytes operand
  { set3 := true, hasBuffer := true
    bad := fun s => indexAbsent s h.target :: (match indexAt s h.target with
      | some ix => searchFieldBad ix e b h.len
      | none => [])
    refuse := fun s => bodyRefusal operand :: (match indexAt s h.target with
      | some ix => [(firstBad (searchAreaBad ix e b)).map (fun o => rInvalid o)]
      | none => []) ++ indexRefuse s h.fn h.target false
      ++ [refuseIf (match indexAt s h.target with
        | some ix => (getFn s h.fn).set3 && set3Blocked ix b
        | none => false) (rBusy 1)]
    waits := fun s => flrWaits h.fn (indexAccount s h.target) s || (h.be && searchHeld s h.target)
    run := fun s tag =>
      match indexAt s h.target with
      | some ix => takeSearch s tag h.target ix e b (getFn s h.fn).set3 h.be (.host h.fn) (ringOp s h .search (.waiting .searchWork))
      | none => finish s h .search tag (rInvalid 8) }

/-- SEARCH. -/
def execSearch (h : Hdr) (e : SearchEntry) (operand : HostRead) (s : State) : Out := ringCmd .search h (searchSpec h e operand) s

/-- SEARCH_DEADLINE (R427): the shards of devices that have not answered are MISSING. -/
def execSearchDeadline (tag pm : Nat) (s : State) : Out :=
  let s := advance pm s
  match amGet s.searches tag with
  | some q =>
    if q.finished = false ∧ q.until_ ≤ s.postmark then
      .next ((q.asked.map (·.1)).foldl (fun s dev => searchAnswered s tag dev none) s)
    else .next s
  | none => .next s

/-- A peer's shard search under its tag (R428): a SEARCH with LOCAL_ONLY set, for the index of its INDEX_UID. -/
def takeShardSearch (s : State) (tag uid : Nat) (payload : List Byte) (be : Bool) (via : ResultVia) (o : Op) : State :=
  let e := entryOfBytes payload
  let b := payload.drop 64
  let set3 := field payload 1 1 == 3
  let fail := fun (r : Rcpt) => putOp s tag { o with state := .ready r }
  match s.indexes.find? (fun x => ixUid x.2.params == uid) with
  | none => fail (rNotOwner 0)
  | some (k, ix) =>
    let e := { e with flags := e.flags % 2 + 2 }
    match firstRefusal
      [ (firstBad (searchFieldBad ix e b b.length)).map (fun o => rInvalid o), (firstBad (searchAreaBad ix e b)).map (fun o => rInvalid o),
        refuseIf ix.deleting (rBusy 1), roleRefuse s [0, 1], refuseIf (set3 && set3Blocked ix b) (rBusy 1) ] with
    | some r => fail r
    | none => takeSearch s tag k ix e b set3 be via o

/-! ### Changes named by the runtime (R416 to R418) -/

/-- Bytes of an INSERT's buffer for an index. -/
def insertLen (b : List Byte) : Nat :=
  64 + (if ixFormat b = 3 then ixSubspaces b + (if ixRerank b = 0xFF then 0 else ixDim b * vecElBytes (ixRerank b))
        else ixDim b * vecElBytes (ixFormat b))

/-- The vector that an INSERT brings as numbers, with its place and element size: the full one for a product code. -/
def insertVec (b : List Byte) : Option (Nat × Nat) :=
  if ixFormat b = 3 then (if ixRerank b = 0xFF then none else some (64 + ixSubspaces b, ixRerank b)) else some (64, ixFormat b)

/-- A vector whose norm is zero. -/
def normZero (v : List FVal) : Bool := fIsZero (dotProd v v)

/-- The bytes of an INSERT's buffer that fail, by 64 plus their offset (R405, R417). -/
def insertBad (b body : List Byte) : List (Nat × Bool) :=
  let ls := (List.range 6).map (fun i => field body (4 * i) 4)
  (List.range 6).map (fun i =>
    let l := (ls.drop i).headD 0
    (64 + 4 * i, l != 0xFFFFFFFF && (ls.take i).contains l))
  ++ (List.range 4).map (fun i => (120 + i, field body (56 + i) 1 != 0))
  ++ (match insertVec b with
      | some (off, f) =>
        let v := vecVals f (ixDim b) (body.drop off)
        (64 + off, ixMetric b == 2 && normZero v) :: (List.range v.length).map (fun i =>
          (64 + off + vecElBytes f * i, !finiteVal ((v.drop i).headD .nan)))
      | none => [])

/-- INSERT. -/
def insertSpec (h : Hdr) (shard gid : Nat) (body : HostRead) : RingCmd :=
  let b := bodyBytes body
  { set3 := true, hasBuffer := true
    bad := fun s => indexAbsent s h.target :: (match indexAt s h.target with
      | some ix => [(12, h.len != insertLen ix.params), (24, decide (ixShardsM1 ix.params < shard))]
      | none => [])
    refuse := fun s => bodyRefusal body :: (match indexAt s h.target with
      | some ix => [(firstBad (insertBad ix.params b)).map (fun o => rInvalid o)]
      | none => []) ++ indexRefuse s h.fn h.target true
      ++ [match indexAt s h.target with
        | some ix => refuseIf (!amHas ix.shards shard) (rNotOwner ix.account)
        | none => none]
    run := fun s tag =>
      match indexAt s h.target with
      | some ix =>
        let n := if ixFormat ix.params = 3 then ixSubspaces ix.params else ixDim ix.params * vecElBytes (ixFormat ix.params)
        let attr := slice b 0 60
        takeChange s { tag := tag, index := h.target, shard := shard
                       change := .insert gid (attr ++ leBytes 4 (crc32c attr)) (slice b 64 n) (b.drop (64 + n)) }
          { ringOp s h .search (.waiting .searchWork) with account := some ix.account, object := some h.target }
      | none => finish s h .search tag (rInvalid 8) }

/-- INSERT. -/
def execInsert (h : Hdr) (shard gid : Nat) (body : HostRead) (s : State) : Out := ringCmd .search h (insertSpec h shard gid body) s

/-- DELETE_NODE. -/
def deleteNodeSpec (h : Hdr) (shard slot gen : Nat) : RingCmd :=
    { set3 := true
      bad := fun s => indexAbsent s h.target :: (match indexAt s h.target with
        | some ix => [(24, decide (ixShardsM1 ix.params < shard)), (25, decide (ixCapacity ix.params ≤ slot))]
        | none => [])
      refuse := fun s => indexRefuse s h.fn h.target true
        ++ [match indexAt s h.target with
          | some ix => refuseIf (!amHas ix.shards shard) (rNotOwner ix.account)
          | none => none]
      run := fun s tag =>
        takeChange s { tag := tag, index := h.target, shard := shard, change := .delete slot gen }
          { ringOp s h .search (.waiting .searchWork) with account := some (indexAccount s h.target), object := some h.target } }

/-- DELETE_NODE. -/
def execDeleteNode (h : Hdr) (shard slot gen : Nat) (s : State) : Out := ringCmd .search h (deleteNodeSpec h shard slot gen) s

/-- MAP_SHARDS (R426). -/
def mapShardsSpec (h : Hdr) (body : HostRead) : RingCmd :=
  let b := bodyBytes body
  let entry := fun (i : Nat) => field b (8 * i) 8
  { set3 := true, hasBuffer := true
    bad := fun s => [indexAbsent s h.target, (12, h.len != 2048)]
    refuse := fun s => bodyRefusal body :: (match indexAt s h.target with
      | some ix => [(firstBad ((List.range 256).map (fun i => (64 + 8 * i, amHas ix.shards i && entry i != s.boot.deviceId)))).map (fun o => rInvalid o)]
      | none => []) ++ indexRefuse s h.fn h.target true
    run := fun s tag =>
      match indexAt s h.target with
      | some ix =>
        let m := ((List.range 256).filter (fun i => entry i != 0)).map (fun i => (i, entry i))
        finish (modIndex s h.target (fun ix => { ix with map := m, mapVer := ix.mapVer + 1 })) h .search tag (rOk (ix.mapVer + 1))
      | none => finish s h .search tag (rInvalid 8) }

/-- MAP_SHARDS. -/
def execMapShards (h : Hdr) (body : HostRead) (s : State) : Out := ringCmd .search h (mapShardsSpec h body) s

/-- The record of one local shard (R415). -/
def shardRecord (i : Nat) (ix : Index) (h : Shard) : List Byte :=
  let used := h.nodes.countP (fun e => e.2.inUse)
  leBytes 64 (i + h.region * 2 ^ 8 + b2n h.verified * 2 ^ 16 + h.changeSeq * 2 ^ 32 + used * 2 ^ 64 + (tombstones h).length * 2 ^ 96
    + (ixCapacity ix.params - used) * 2 ^ 128)

/-- QUERY_INDEX. -/
def queryIndexSpec (h : Hdr) : RingCmd :=
    { set3 := true, hasBuffer := true
      bad := fun s => indexAbsent s h.target :: (match indexAt s h.target with
        | some ix => [(12, decide (h.len < 64 * ix.shards.length))]
        | none => [])
      refuse := fun s => indexRefuse s h.fn h.target false
      waits := fun s => flrWaits h.fn (indexAccount s h.target) s
      run := fun s tag =>
        match indexAt s h.target with
        | some ix =>
          match hostWrite s h.fn h.addr (ix.shards.flatMap (fun e => shardRecord e.1 ix e.2)) with
          | (s, none) => finish s h .search tag (rOk)
          | (s, some a) => finish s h .search tag (rInvalid 16 a)
        | none => finish s h .search tag (rInvalid 8) }

/-- QUERY_INDEX. -/
def execQueryIndex (h : Hdr) (s : State) : Out := ringCmd .search h (queryIndexSpec h) s

/-! ### Sweeps (R398, R415, R419 to R421) -/

/-- A sweep whose slots are walked ends when its last tombstone is released. -/
def endSweep (h : Shard) : Shard :=
  match h.sweep with
  | some w => if w.walked && w.tombs.isEmpty then { h with sweep := none } else h
  | none => h

/-- MENDING_BATCH (R419, R398): the next batch of a shard's sweep, as one change; a sweep starts where none runs, and at its end old stamps
are rebased. A batch that a running search holds up waits (R397). -/
def execMendingBatch (index shard : Nat) (s : State) : Out :=
  match (indexAt s index).bind (fun ix => (amGet ix.shards shard).map (fun h => (ix, h))) with
  | none => .next s
  | some (ix, h) =>
    let w := h.sweep.getD { tombs := tombstones h }
    if s.regionsOut.contains h.region || w.walked then .next s
    else
      let batch := mendNext h w.next
      if batch.isEmpty then
        let h := rebaseShard { h with sweep := some { w with walked := true } }
        .next (settleIndexes (setShard s index shard (endSweep h)))
      else if batch.any (fun e => versionHeld (snapshots s index shard) h.changeSeq e.2) || stampsOld h then
        .next (if stampsOld h then settleIndexes (setShard s index shard (rebaseShard h)) else s)
      else
        let q := seqNext h.changeSeq
        let nodes := batch.foldl (fun m e => amSet m e.1 (writeEdges h.changeSeq q e.2 (mendEdges ix h e.1 e.2))) h.nodes
        let last := (batch.getLast?.map (·.1)).getD 0
        .next (setShard s index shard { h with changeSeq := q, nodes := nodes, sweep := some { w with next := last + 1 } })

/-- SLOT_RELEASE (R420, R397): a node tombstoned before the sweep began is released, as one change, once no search that began before runs. -/
def execSlotRelease (index shard slot : Nat) (s : State) : Out :=
  match (indexAt s index).bind (fun ix => amGet ix.shards shard) with
  | none => .next s
  | some h =>
    match h.sweep, amGet h.nodes slot with
    | some w, some n =>
      if w.walked && w.tombs.contains slot && (snapshots s index shard).isEmpty && !stampsOld h && !s.regionsOut.contains h.region then
        let n : SNode := { n with inUse := false, edgesA := [], edgesB := [] }
        let h : Shard := { h with changeSeq := seqNext h.changeSeq, nodes := amSet h.nodes slot n
                                  sweep := some { w with tombs := w.tombs.filter (· != slot) } }
        .next (settleIndexes (setShard s index shard (endSweep h)))
      else .next s
    | _, _ => .next s

/-- SHARD_VERIFIED (R415): the shard's records are checked and its postings rebuilt. -/
def execShardVerified (index shard : Nat) (s : State) : Out :=
  match (indexAt s index).bind (fun ix => amGet ix.shards shard) with
  | none => .next s
  | some h =>
    if s.regionsOut.contains h.region then .next s
    else .next (settleIndexes (setShard s index shard { h with verified := true }))

end Sys2Proof.Machine
end

