-- ==== Sys2Proof/Machine/Bundles.lean ====
section
/-! DEFINITION. Sealed objects: LOAD_BUNDLE, DROP_BUNDLE, PLACE_OBJECT, and the ebbs and deliveries of adapter bundles (R206, R207, R243
to R247, R386, R746, R747). -/

namespace Sys2Proof.Machine

def modBundle (s : State) (o : Nat) (f : Bundle → Bundle) : State := { s with bundles := amMod s.bundles o f }

/-- A delivery of a bundle is pinned: an admitted read of it has not ended (R247). -/
def bundlePinned (s : State) (o : Nat) : Bool :=
  s.ops.any (fun e => e.2.object == some o && (match e.2.origin with
    | .tideway _ _ _ => true
    | .ring _ _ => false))

/-- The frames that a bundle holds in HBM go. -/
def dropBundleRun (s : State) (b : Bundle) : State :=
  match b.run with
  | some r => freeRun s r
  | none => s

/-- A bundle goes down to a tier (R244, R747). -/
def lowerBundle (s : State) (o : Nat) (b : Bundle) (tier : Nat) (cls : List Byte) : State :=
  let mir := tier == 3 && clMirror cls && bound s
  let s := dropBundleRun s b
  let s := if tier = 3 then countWritten s b.account ((if mir then 2 else 1) * b.body.length) else s
  noteQuotas (modBundle s o (fun b => { b with tier := tier, run := none, mirrored := mir })) b.account

/-! ### LOAD_BUNDLE (R746, R243, R386) -/

/-- A shard of a sealed index as it stands on this device. -/
def shardOfImg (l : List ShardImg) (i : Nat) : Shard :=
  match l.find? (fun x => x.shard == i) with
  | some x =>
    { region := 0, changeSeq := x.changeSeq
      nodes := x.nodes.foldl (fun m n => amSet m n.slot
        { gid := n.gid, insSeq := n.insSeq, delSeq := n.delSeq, seqA := n.seqA, seqB := n.seqB, gen := n.gen, inUse := n.inUse
          edgesA := n.edgesA, edgesB := n.edgesB, vec := n.vec, full := n.full, attr := n.attr }) [] }
  | none => { region := 0 }

/-- RNORM of every node of a loaded shard, as an insert would have stored it (R405). -/
def withNorms (ix : Index) : Index :=
  if ixMetric ix.params = 2 then
    { ix with shards := amMap ix.shards (fun _ h => { h with nodes := amMap h.nodes (fun _ n => { n with rnorm := rnormCode (nodeVec ix n) }) }) }
  else ix

/-- The frames of an adapter bundle of `n` bytes, in the region with the most free ones. -/
def bundleRun (s : State) (n : Nat) : Option (Nat × Nat) :=
  (bestRegion s regions).bind (fun r => firstRun s (framesOf n) [2 * r, 2 * r + 1])

/-- Steps 5 to 7 of R746: unsealing, the plaintext's own checks, and its charge. -/
def loadRefuse (s : State) (h : Hdr) (kind : Nat) (cr : Ref) (b : List Byte) (sv : SealVerdict) (shards : List ShardImg) : Option Rcpt :=
  match openSealed s b h.target kind sv with
  | (none, r) => r
  | (some p, _) =>
    if kind = 0 then refuseIf (!canCharge s h.target 0 (65536 * framesOf p.length)) (rQuota 0)
    else
      match firstBad (indexBad p (128 + codebookBytes p)) with
      | some o => some (rInvalid o 1)
      | none =>
        match buildIndex s h.target cr p (slice p 128 (codebookBytes p)) (shardOfImg shards) with
        | .error r => some r
        | .ok _ => none

/-- LOAD_BUNDLE. The plaintext of an index starts with its parameter block and codebook; what its shards hold stands in `shards`. -/
def loadBundleSpec (h : Hdr) (bundleKind cls : Nat) (body : HostRead) (sv : SealVerdict) (shards : List ShardImg) : RingCmd :=
  let b := bodyBytes body
  let cr := fun (s : State) => resolveRef s 3 { num := cls, ver := 0xFFFF }
  { hasBuffer := true
    bad := fun s => [accBad s h.fn h.target 8, (24, decide (1 < bundleKind)), (25, decide (1023 < cls))]
    refuse := fun s =>
      [ bodyRefusal body, refuseIf (!isSealed b) (rInvalid 64), sealHeaderBad b h.len, ownerRefuse s h.fn h.target,
        refRefuse s 3 { num := cls, ver := 0xFFFF }, roleRefuse s (if bundleKind = 0 then [0] else [0, 1]),
        refuseIf (bundleKind == 0 && (bundleRun s (field b 12 8)).isNone) (rBusy 2),
        match cr s with
        | some c => loadRefuse s h bundleKind c b sv shards
        | none => none ]
    waits := flrWaits h.fn h.target
    run := fun s tag =>
      match cr s, (openSealed s b h.target bundleKind sv).1 with
      | some c, some p =>
        if bundleKind = 0 then
          match bundleRun s p.length with
          | some (st, base) =>
            let t := newObject (takeRun s st base (framesOf p.length) (some h.target))
            let o : Bundle := { account := h.target, classRef := c, body := p, tier := 0, run := some (runKey st base), lastLive := s.postmark }
            done (checkPressure (noteQuotas { t.2 with bundles := amSet t.2.bundles t.1 o } h.target)) h tag (rOk t.1)
          | none => done s h tag (rBusy 2)
        else
          match buildIndex s h.target c p (slice p 128 (codebookBytes p)) (shardOfImg shards) with
          | .ok (s, ix) =>
            let t := newObject s
            done (checkPressure (noteQuotas { t.2 with indexes := amSet t.2.indexes t.1 (withNorms ix) } h.target)) h tag (rOk t.1)
          | .error r => done s h tag r
      | _, _ => done s h tag (rKey 2) }

/-- LOAD_BUNDLE. -/
def execLoadBundle (h : Hdr) (bundleKind cls : Nat) (body : HostRead) (sv : SealVerdict) (shards : List ShardImg) (s : State) : Out := adminCmd h (loadBundleSpec h bundleKind cls body sv shards) s

/-- DROP_BUNDLE (R247). -/
def dropBundleSpec (h : Hdr) : RingCmd :=
    { bad := fun s => [(8, !amHas s.bundles h.target && !s.faults.objectsLost.contains h.target)]
      refuse := fun s => match amGet s.bundles h.target with
        | some b => [ownerRefuse s h.fn b.account, refuseIf (bundlePinned s h.target) (rBusy 1)]
        | none => [refuseIf (s.faults.objectsLost.contains h.target) { status := .fault }]
      run := fun s tag =>
        match amGet s.bundles h.target with
        | some b =>
          let s := dropBundleRun { s with bundles := amErase s.bundles h.target } b
          done (noteQuotas s b.account) h tag (rOk)
        | none => done s h tag (rInvalid 8) }

/-- DROP_BUNDLE. -/
def execDropBundle (h : Hdr) (s : State) : Out := adminCmd h (dropBundleSpec h) s

/-! ### PLACE_OBJECT (R206, R207, R747) -/

/-- The account, the bytes below HBM, the tier now, and the frames that HBM would need, of an object. -/
structure ObjView where
  account : Nat
  bytes : Nat
  sizes : List Nat
  tier : Nat
  frames : Nat
  index : Bool

def objView (s : State) (o : Nat) : Option ObjView :=
  match amGet s.bundles o, amGet s.indexes o with
  | some b, _ => some { account := b.account, bytes := b.body.length, sizes := [b.body.length], tier := b.tier, frames := framesOf b.body.length
                        index := false }
  | none, some ix =>
    let v := vectorFrames ix.params
    some { account := ix.account, bytes := 65536 * v * ix.shards.length, sizes := ix.shards.map (fun _ => 65536 * v), tier := ix.vecTier
           frames := v * ix.shards.length, index := true }
  | none, none => none

/-- Where the new class puts an object: none where it stays, or the tier it moves to, or the refusal. -/
def objMove (s : State) (v : ObjView) (cls : List Byte) : Option Nat × Option Rcpt :=
  if clTierPref cls 0 = 0 then
    if v.tier = 0 then (none, none)
    else if canCharge s v.account 0 (65536 * v.frames) then (some 0, none) else (none, some (rQuota 0))
  else if v.tier = 0 then (if v.index && v.frames != 0 then objectTier s v.account cls v.bytes v.sizes else (none, none))
  else if (clTiers cls).contains v.tier then (none, none)
  else objectTier s v.account cls v.bytes v.sizes

/-- The vectors of an index go to a tier below HBM. -/
def lowerVectors (s : State) (k : Nat) (ix : Index) (tier bytes : Nat) (cls : List Byte) : State :=
  let mir := tier == 3 && clMirror cls && bound s
  let s := ix.vecRuns.foldl freeRun s
  let s := if tier = 3 then countWritten s ix.account ((if mir then 2 else 1) * bytes) else s
  modIndex s k (fun ix => { ix with vecTier := tier, vecBytes := bytes, mirrored := mir, vecRuns := [] })

/-- The vectors of an index go up to HBM, beside their shards; none where a region has no run for them. -/
def raiseVectors (s : State) (k : Nat) (ix : Index) : Option State :=
  let go : Option (State × List Nat) := ix.shards.foldl (fun acc e =>
    match acc with
    | none => none
    | some (s, vs) => (takeAreas s e.2.region ix.account [vectorFrames ix.params] []).map (fun t => (t.2, vs ++ t.1))) (some (s, []))
  go.map (fun t => modIndex t.1 k (fun ix => { ix with vecTier := 0, vecBytes := 0, mirrored := false, vecRuns := t.2 }))

/-- PLACE_OBJECT. -/
def placeObjectSpec (h : Hdr) (cls : Nat) : RingCmd :=
  let cr := fun (s : State) => resolveRef s 3 { num := cls, ver := 0xFFFF }
  { bad := fun s => [(8, (objView s h.target).isNone && !s.faults.objectsLost.contains h.target), (24, decide (1023 < cls))]
    refuse := fun s =>
      match objView s h.target with
      | none => [refuseIf (s.faults.objectsLost.contains h.target) { status := .fault }]
      | some v =>
        [ accRefuse s h.fn v.account, refRefuse s 3 { num := cls, ver := 0xFFFF },
          (match cr s with
           | some c => (objMove s v (cfgBody s 3 c)).2
           | none => none) ]
    waits := fun s => match objView s h.target with
      | some v => flrWaits h.fn v.account s
      | none => false
    run := fun s tag =>
      match objView s h.target, cr s with
      | some v, some c =>
        let body := cfgBody s 3 c
        let mv := (objMove s v body).1
        let s := if v.index then modIndex s h.target (fun ix => { ix with classRef := c, mirrored := ix.mirrored && clMirror body })
          else modBundle s h.target (fun b => { b with classRef := c, mirrored := b.mirrored && clMirror body })
        match mv with
        | none => done (noteQuotas s v.account) h tag (rOk)
        | some t =>
          match amGet s.bundles h.target, amGet s.indexes h.target with
          | some b, _ =>
            if t = 0 then raiseBundle (park s h tag (.objReplaced h.target)) h.target (clFloodLc body)
            else done (lowerBundle s h.target b t body) h tag (rOk)
          | none, some ix =>
            if t = 0 then
              match raiseVectors s h.target ix with
              | some s => done (checkPressure (noteQuotas s v.account)) h tag (rOk)
              | none => done s h tag (rQuota 0)
            else done (noteQuotas (lowerVectors s h.target ix t v.bytes body) v.account) h tag (rOk)
          | none, none => done s h tag (rInvalid 8)
      | _, _ => done s h tag (rInvalid 8) }

/-- PLACE_OBJECT. -/
def execPlaceObject (h : Hdr) (cls : Nat) (s : State) : Out := adminCmd h (placeObjectSpec h cls) s

/-! ### Ebbs and deliveries of bundles (R244 to R247) -/

/-- BUNDLE_EBB: no session of the account has been live for EBB_DELAY_MAX_MS, and no delivery runs. -/
def execBundleEbb (object pm : Nat) (s : State) : Out :=
  let s := advance pm s
  match amGet s.bundles object with
  | none => .next s
  | some b =>
    let cls := cfgBody s 3 b.classRef
    let live := s.sessions.any (fun e => handleAccount e.2.handle == b.account && keepsBundles e.2)
    if b.tier ≠ 0 ∨ live = true ∨ bundlePinned s object = true ∨ s.postmark < b.lastLive + 1000000 * clDelayMax cls then .next s
    else
      match (objectTier s b.account cls b.body.length [b.body.length]).1 with
      | some t => .next (lowerBundle s object b t cls)
      | none => .next s

/-- A Tideway read of a bundle under its tag (R246): delivered from HBM, or after its flood. -/
def takeBundleRead (s : State) (tag c req object off n : Nat) (be : Bool) (o : Op) : State :=
  match amGet s.bundles object with
  | none => putOp s tag { o with state := .ready (if s.faults.objectsLost.contains object then { status := .fault } else rNotOwner 0) }
  | some b =>
    let s := putOp s tag { o with account := some b.account, object := some object, state := .waiting (.bundleHbm object) }
    if b.tier = 0 then resolveTag (sendResp s c req (slice b.body off n)) tag (rOk)
    else raiseBundle (modBundle s object (fun b => { b with reads := amSet b.reads tag (off, n) })) object (!be)

end Sys2Proof.Machine
end

