-- ==== Sys2Proof/Machine/Harbour.lean ====
section
/-! DEFINITION. Harbourmaster cores, their memory, and the policy ring (R220 to R228, Tables 5.8a, 5.8b and 5.9a). -/

namespace Sys2Proof.Machine

/-- Bits of `m` that are not in `n`. -/
def bitsOut (m n : Nat) : Nat := (List.range 16).foldl (fun k i => if bit m i && !bit n i then k + 2 ^ i else k) 0

/-- Bits of `m` or `n`. -/
def bitsOr (m n : Nat) : Nat := m + bitsOut n m

/-- Cores assigned and not stopped by an error (R222). -/
def hmUsable (s : State) : Nat := bitsOut s.hm.assigned s.hm.failed

/-- Bytes of harbourmaster memory. -/
def hmSize (s : State) : Nat := s.hm.memFrames * 65536

/-- The mask names a running core. -/
def hmRuns (s : State) (mask : Nat) : Bool := bitsOut mask (bitsOut mask s.hm.running) != 0

/-- Frames of harbourmaster memory taken as one run, none for no frames; none if no run is free. -/
def hmTake (s : State) (n : Nat) : Option (List Nat × State) :=
  if n = 0 then some ([], s) else (takeAnywhere s n none).map (fun r => ([r.1], r.2))

/-- The old memory is zeroed and freed. -/
def hmFree (s : State) : State :=
  let h : Harbourmaster := { s.hm with memRuns := [], memFrames := 0, mem := [] }
  { s.hm.memRuns.foldl freeRun s with hm := h }

/-- HM_ASSIGN (R220). -/
def hmAssignSpec (h : Hdr) (mask memFrames : Nat) : RingCmd :=
    { pfOnly := true
      bad := fun _ => [(24, decide (65535 < mask)), (26, decide (65536 < memFrames))]
      refuse := fun s =>
        [ refuseIf (bitsOut s.hm.running mask != 0 || (s.hm.running != 0 && memFrames != s.hm.memFrames)) (rBusy 1),
          refuseIf (memFrames != s.hm.memFrames && (hmTake (hmFree s) memFrames).isNone) (rBusy 2) ]
      run := fun s tag =>
        let s :=
          if memFrames = s.hm.memFrames then s
          else
            match hmTake (hmFree s) memFrames with
            | some (rs, s) =>
              let m : Harbourmaster := { s.hm with memRuns := rs, memFrames := memFrames }
              checkPressure { s with hm := m }
            | none => s
        let m : Harbourmaster := { s.hm with assigned := mask }
        let blocks := [2, 3, 4, 5].filter (fun b => bits mask (4 * (b - 2) + 3) (4 * (b - 2)) != 0)
        done (blocks.foldl (fun s b => requestWake s (96 + b) false 0) { s with hm := m }) h tag (rOk memFrames) }

/-- HM_ASSIGN. -/
def execHmAssign (h : Hdr) (mask memFrames : Nat) (s : State) : Out := adminCmd h (hmAssignSpec h mask memFrames) s

/-- HM_LOAD: bytes copied into harbourmaster memory. -/
def hmLoadSpec (h : Hdr) (offset : Nat) (body : HostRead) : RingCmd :=
    { pfOnly := true, hasBuffer := true
      bad := fun s => [(24, decide (hmSize s < offset + h.len))]
      refuse := fun s => [bodyRefusal body, refuseIf (s.hm.running != 0) (rBusy 1)]
      run := fun s tag =>
        let m : Harbourmaster := { s.hm with mem := cellsWrite s.hm.mem offset ((bodyBytes body).take h.len) }
        done { s with hm := m } h tag (rOk) }

/-- HM_LOAD. -/
def execHmLoad (h : Hdr) (offset : Nat) (body : HostRead) (s : State) : Out := adminCmd h (hmLoadSpec h offset body) s

/-- HM_START: the memory is measured, and the cores of MASK leave reset at ENTRY (R221, R222). -/
def hmStartSpec (h : Hdr) (mask entry : Nat) : RingCmd :=
    { pfOnly := true
      bad := fun s =>
        [ (24, decide (65535 < mask) || bitsOut mask (hmUsable s) != 0),
          (26, !(decide (0x80000000 ≤ entry) && decide (entry < 0x80000000 + hmSize s))) ]
      refuse := fun s => [refuseIf (hmRuns s mask) (rBusy 1)]
      run := fun s tag =>
        let e := (List.range 16).foldl (fun m i => if bit mask i then amSet m i entry else m) s.hm.entry
        let m : Harbourmaster :=
          { s.hm with running := bitsOr s.hm.running mask, entry := e, digest := some (sha384 (cellsRead s.hm.mem 0 (hmSize s))) }
        done { s with hm := m } h tag (rOk) }

/-- HM_START. -/
def execHmStart (h : Hdr) (mask entry : Nat) (s : State) : Out := adminCmd h (hmStartSpec h mask entry) s

/-- Hold cores in reset; the digest stands while a core runs (R222, Table 16.6). -/
def hmHold (s : State) (mask : Nat) : State :=
  let run := bitsOut s.hm.running mask
  let m : Harbourmaster :=
    { s.hm with running := run, entry := s.hm.entry.filter (fun e => !bit mask e.1)
                digest := if run = 0 then none else s.hm.digest }
  { s with hm := m }

/-- HM_STOP. -/
def hmStopSpec (h : Hdr) (mask : Nat) : RingCmd :=
    { pfOnly := true
      bad := fun _ => [(24, decide (65535 < mask))]
      run := fun s tag => done (hmHold s mask) h tag (rOk) }

/-- HM_STOP. -/
def execHmStop (h : Hdr) (mask : Nat) (s : State) : Out := adminCmd h (hmStopSpec h mask) s

/-- The machine external interrupt of every running core (R223). -/
def hmInterrupt (s : State) : State :=
  (List.range 16).foldl (fun s i => if bit s.hm.running i then emit (.coreInterrupt i) s else s) s

/-- POLICY_PRODUCER_INDEX: harbourmaster software stores the producer index, having written the entries up to it; an index of 4,096
or more is ignored (R224). -/
def execPolicyProducerIndex (value : Word32) (entries : List PolicyEntry) (s : State) : Out :=
  let v := value.toNat
  if s.hm.running = 0 ∨ 4096 ≤ v then .next s
  else
    let n := (v + 4096 - s.hm.policyProd) % 4096
    let ring := (List.range n).foldl (fun m i =>
      match (entries.drop i).head? with
      | some e => amSet m ((s.hm.policyProd + i) % 4096) e
      | none => m) s.hm.policy
    let m : Harbourmaster := { s.hm with policy := ring, policyProd := v }
    .next { s with hm := m }

/-- The entry at the policy ring's consumer index; ring memory that nothing has written is zero. -/
def policyHead (s : State) : PolicyEntry :=
  amGetD s.hm.policy s.hm.policyCons { resumePm := 0, ebbAtPm := 0, targetTier := 0, handle := 0 }

/-- R228: an entry clamped for its session, and whether clamping changed it. -/
def policyClamp (s : State) (x : Session) (e : PolicyEntry) : PolicyEntry × Bool :=
  let c := sessClass s x
  let lo := x.waitStartPm + clDelayMin c * 1000000
  let hi := x.waitStartPm + clDelayMax c * 1000000
  let e' : PolicyEntry :=
    { e with
      ebbAtPm := if e.ebbAtPm = 0 ∨ e.ebbAtPm = 2 ^ 64 - 1 then e.ebbAtPm else min hi (max lo e.ebbAtPm)
      targetTier := if (clTiers c).contains e.targetTier then e.targetTier else 0xFF
      resumePm := if e.resumePm = 0 then 0 else max s.postmark e.resumePm }
  (e', e' != e)

/-- A clamped entry applied to its session (R225, R227, R228): RESUME_PM first, with R218 for an IDLE session, then EBB_AT_PM of an
IDLE session whose class lets it ebb, and the tier to try first. -/
def policyApply (s : State) (d : Nat) (x : Session) (e : PolicyEntry) : State :=
  let c := sessClass s x
  upd s d (fun x =>
    let x :=
      if e.resumePm = 0 then x
      else if x.state = .idle then { schedule s x ((e.resumePm - x.waitStartPm) / 1000000) x.waitStartPm with resumePm := e.resumePm }
      else { x with resumePm := e.resumePm }
    let x :=
      if e.ebbAtPm = 0 ∨ x.state ≠ .idle ∨ clTierPref c 0 = 0 then x
      else if e.ebbAtPm = 2 ^ 64 - 1 then { x with ebbAtPm := 0 }
      else { x with ebbAtPm := e.ebbAtPm }
    { x with policyTier := if e.targetTier = 0xFF then none else some e.targetTier })

/-- POLICY_ENTRY: the entry at the consumer index is applied or dropped, and the index moves on (R224 to R228). -/
def execPolicyEntry (s : State) : Out :=
  if s.hm.policyCons = s.hm.policyProd then .next s
  else
    let e := policyHead s
    let s := leaveSlack s 5
    let s :=
      match findHandle s e.handle with
      | none => s
      | some d =>
        match amGet s.sessions d with
        | none => s
        | some x =>
          if x.stub ∨ !(x.state == SState.idle || x.state == SState.ebbing || x.state == SState.parked) then s
          else
            let q := policyClamp s x e
            let s := if q.2 then
                modAccount s (handleAccount x.handle) (fun a => { a with policyClamped := (a.policyClamped + 1) % 2 ^ 32 })
              else s
            policyApply s d x q.1
    let m : Harbourmaster := { s.hm with policyCons := (s.hm.policyCons + 1) % 4096 }
    .next (hmInterrupt { s with hm := m })

end Sys2Proof.Machine
end

