-- ==== Sys2Proof/Machine/MediaCmds.lean ====
section
/-! DEFINITION. The media commands and events: format, attach, reclaim, the wall clock, reads, programs, erases, relocation, scans and
failures (Flash Media). -/

namespace Sys2Proof.Machine

/-! ### FLASH_CH and training (R530 to R533) -/

def getCh (s : State) (n : Nat) : FlashCh := amGetD s.media.channels n {}

/-- FLASH_CH: a write is ignored unless the media is ABSENT or FAILED (R531). -/
def execFlashCh (n : Nat) (value : Word64) (s : State) : Out :=
  let v := value.toNat
  if n < 32 ∧ regsOpen s 0 = true ∧ (s.media.state = 0 ∨ s.media.state = 5) then
    let c : FlashCh := { getCh s n with
      enable := bit v 0, iface := bits v 7 4, ceMask := bits v 15 8, rate := bits v 31 16 }
    let s := modMedia s (fun m => { m with channels := amSet m.channels n c })
    .next (if c.enable then requestWake s (106 + n / 8) false 0 else s)
  else .next s

/-- What training found on a channel. -/
def foundOn (found : List ChFound) (n : Nat) : Option ChFound := found.find? (fun f => f.ch == n)

/-- The LUNs that answer behind the chip enables used, lowest chip enable and LUN first, at most 32 (R533). -/
def foundLuns (c : FlashCh) (f : ChFound) : List LunFound :=
  (sortBy (fun l => l.ce * 256 + l.lun) (f.luns.filter (fun l => bit c.ceMask l.ce))).take 32

/-- A channel comes up (R532). -/
def channelUp (p : MediaProfile) (c : FlashCh) (f : Option ChFound) : Bool :=
  match f with
  | none => false
  | some f =>
    (ifaceRates c.iface).contains c.rate && decide (c.rate ≤ (p.topRates.drop (c.iface - 1)).headD 0) && f.trained && c.ceMask != 0
      && !(foundLuns c f).isEmpty

/-- The enabled channels. -/
def enabledChs (s : State) : List Nat := (s.media.channels.filter (fun e => e.2.enable)).map (·.1)

/-- Record what a channel showed, or post CHANNEL_FAILED (R532). -/
def trainOne (p : MediaProfile) (found : List ChFound) (s : State) (n : Nat) : State :=
  let c := getCh s n
  let f := foundOn found n
  let ls := match f with
    | some f => foundLuns c f
    | none => []
  let s := modMedia s (fun m => { m with channels := amSet m.channels n { c with
    luns := ls.length, ceFound := (List.range 8).foldl (fun k e => if ls.any (fun l => l.ce == e) then k + 2 ^ e else k) 0 } })
  if channelUp p c f then s else postPf s 0x0602 n 0

def train (p : MediaProfile) (found : List ChFound) (s : State) : State := (enabledChs s).foldl (trainOne p found) s

/-- The LUNs of the channels that came up, by position, with the profile's. -/
def newLuns (p : MediaProfile) (found : List ChFound) (s : State) : AMap Lun :=
  (enabledChs s).foldl (fun m n =>
    match foundOn found n with
    | some f =>
      if channelUp p (getCh s n) (some f) then
        ((foundLuns (getCh s n) f).foldl (fun (t : Nat × AMap Lun) l =>
          let u : Lun := { ce := l.ce, lun := l.lun, online := l.matched
                           factory := l.bad.filter (fun i => decide (1 ≤ i) && decide (i ≤ p.eusPerLun))
                           grown := l.eraseFailed.filter (fun i => decide (1 ≤ i) && decide (i ≤ p.eusPerLun) && !l.bad.contains i) }
          (t.1 + 1, amSet t.2 (n * 32 + t.1) u)) (0, m)).2
      else m
    | none => m) []

/-- The channels with an online LUN. -/
def onlineOf (luns : AMap Lun) : List Nat :=
  (List.range 32).filter (fun n => luns.any (fun e => e.1 / 32 == n && e.2.online))

/-- The state that a format or an attach ends in (Table 12.5). -/
def endState (s : State) : Nat :=
  if s.media.online.isEmpty ∨ s.media.format = none then 5 else if s.media.online.length < 24 then 4 else 3

/-- What the media commands refuse alike: the profile's buffer, its geometry (R543), the state, the signature. -/
def profileRefuse (p : ProfileRead) (busy : Bool) : List (Option Rcpt) :=
  [ (match p with
     | .fail a => some (rInvalid 16 a)
     | .ok q => refuseIf (!profileFits q) (rInvalid 64)
     | .unsigned => none),
    refuseIf busy (rBusy 1),
    (match p with
     | .unsigned => some (rKey 2)
     | _ => none) ]

/-- Some reference or mirror copy names the media. -/
def mediaNamed (s : State) : Bool := s.sessions.any (fun e => e.2.refs.any (fun r => r.2.tier == 3)) || !s.media.mirrors.isEmpty

/-- LUNs left unused at a format: those that do not match, and those beyond the limits. -/
def unusedLuns (p : MediaProfile) (found : List ChFound) (s : State) : Nat :=
  (enabledChs s).foldl (fun n c =>
    match foundOn found c with
    | some f =>
      if channelUp p (getCh s c) (some f) then
        n + ((f.luns.filter (fun l => bit (getCh s c).ceMask l.ce)).length - 32) + (foundLuns (getCh s c) f).countP (fun l => !l.matched)
      else n
    | none => n) 0

/-- Erase units left unused. -/
def unusedUnits (s : State) : Nat := s.media.luns.foldl (fun n e => n + e.2.factory.length + e.2.grown.length) 0

/-- The work of MEDIA_FORMAT (R532 to R534, R538). -/
def formatMedia (s : State) (lifeDays : Nat) (p : MediaProfile) (found : List ChFound) : State :=
  let s := train p found (setMedia s 1)
  let luns := newLuns p found s
  let rec_ : FormatRecord :=
    { channels := s.media.channels, profile := p, lifeDays := lifeDays, device := s.boot.deviceId, wall := wallWord s
      formatPm := s.postmark, formatWall := wallWord s }
  let m : Media :=
    { state := 1, channels := s.media.channels, wallOffset := s.media.wallOffset, format := some rec_, luns := luns
      online := onlineOf luns, hourPm := s.postmark, writeSeq := s.media.writeSeq }
  let s := { s with media := m }
  setMedia s (endState s)

/-- MEDIA_FORMAT. -/
def mediaFormatSpec (h : Hdr) (lifeDays : Nat) (profile : ProfileRead) (found : List ChFound) : RingCmd :=
    { pfOnly := true, hasBuffer := true
      bad := fun _ => [(24, lifeDays == 0 || decide (3650 < lifeDays))]
      refuse := fun s => profileRefuse profile (!(s.media.state == 0 || s.media.state == 5) || mediaNamed s)
      run := fun s tag =>
        match profile with
        | .ok p =>
          let n := unusedLuns p found s
          let s := formatMedia s lifeDays p found
          done s h tag (rOk (formable s) (unusedUnits s + n))
        | _ => done s h tag (rKey 2) }

/-- MEDIA_FORMAT. -/
def execMediaFormat (h : Hdr) (lifeDays : Nat) (profile : ProfileRead) (found : List ChFound) (s : State) : Out := adminCmd h (mediaFormatSpec h lifeDays profile found) s

/-! ### Failures (R559, R560) -/

/-- A channel goes offline. -/
def failChannel (s : State) (ch : Nat) : State :=
  if s.media.online.contains ch then
    let n := s.media.luns.countP (fun e => e.1 / 32 == ch)
    postPf (modMedia s (fun m => { m with online := m.online.filter (· != ch) })) 0x0602 ch (n % 256)
  else s

/-- The index of a writer's copies whose rows are not complete goes on to the next open shingle, from where they still are (Table 12.10). -/
def replaceCopy (w n : Nat) (s : State) (e : Nat × MediaCopy) : State :=
  let old := mLoc n e.1
  if mediaPlacing s old || s.media.mirrors.any (fun q => q.2 == old) then
    match mediaPlace s w e.2 with
    | (some loc, s) =>
      let move := fun (m : AMap Nat) => m.map (fun p => if p.2 = old then (p.1, loc) else p)
      let s := { s with sessions := amMap s.sessions (fun _ x =>
        { x with ebb := x.ebb.map (fun j => if j.tier = 3 then { j with placed := move j.placed } else j)
                 move := x.move.map (fun j => if j.tier = 3 then { j with placed := move j.placed } else j) }) }
      modMedia s (fun m => { m with mirrors := m.mirrors.map (fun q => if q.2 = old then (q.1, loc) else q) })
    | (none, s) => s
  else s

/-- Close a shingle at its last row with parity, write again what that loses, and mark it (Table 12.10). -/
def cutShingle (s : State) (n : Nat) : State :=
  match amGet s.media.shingles n with
  | none => s
  | some sh =>
    let r := rowBlocks s sh.chans.length
    let cut := sh.copies.filter (fun e => decide (sh.rows * r < e.1 + e.2.blocks))
    let s := markRebuild (closeShingle s n) n
    let s := cut.foldl (replaceCopy sh.writer n) s
    modShingle s n (fun x => { x with
      ptr := x.rows * r, rowUnits := [], copies := x.copies.filter (fun e => decide (e.1 + e.2.blocks ≤ x.rows * r)) })

/-- A LUN goes offline: every shingle with a unit on it is degraded, and the channel goes with its last LUN. -/
def failLun (s : State) (pos : Nat) : State :=
  match amGet s.media.luns pos with
  | none => s
  | some l =>
    if l.online then
      let hit := (s.media.shingles.filter (fun e => e.2.st != .erasing && e.2.units.any (fun u => u / 65536 == pos))).map (·.1)
      let s := modMedia s (fun m => { m with
        luns := amSet m.luns pos { l with online := false }
        shingles := amMap m.shingles (fun k x => if hit.contains k then { x with degraded := true } else x)
        failures := if hit.isEmpty then m.failures else m.failures ++ [{ channel := pos / 32, left := hit }] })
      let s := postPf s 0x0603 (pos / 32) (l.ce + l.lun * 256 + hit.length % 2 ^ 32 * 2 ^ 32)
      let s := (hit.filter (fun k => match amGet s.media.shingles k with
        | some x => x.st == .opened
        | none => false)).foldl cutShingle s
      settleMedia (if (lunsOf s (pos / 32)).isEmpty then failChannel s (pos / 32) else s)
    else s

/-- An erase unit is retired; a LUN that has more than its limit fails. -/
def retireUnit (s : State) (u : Nat) : State :=
  let pos := u / 65536
  match amGet s.media.luns pos with
  | none => s
  | some l =>
    let l := if l.grown.contains (u % 65536) then l else { l with grown := u % 65536 :: l.grown }
    let s := modMedia s (fun m => { m with luns := amSet m.luns pos l })
    if (mProfile s).retiredLimit < l.grown.length then failLun s pos else settleMedia s

/-- An operation of a LUN ended: its time-outs in a row end. -/
def lunAnswered (s : State) (pos : Nat) : State :=
  modMedia s (fun m => { m with luns := amMod m.luns pos (fun l => { l with timeouts := 0 }) })

/-- FLASH_OPERATION_TIMEOUT: three in a row fail the LUN. -/
def execFlashOperationTimeout (ch place : Nat) (s : State) : Out :=
  let pos := ch * 32 + place
  match amGet s.media.luns pos with
  | some l =>
    if l.online ∧ place < 32 ∧ (s.media.state = 3 ∨ s.media.state = 4) then
      let s := modMedia s (fun m => { m with luns := amSet m.luns pos { l with timeouts := l.timeouts + 1 } })
      .next (if 3 ≤ l.timeouts + 1 then failLun s pos else s)
    else .next s
  | none => .next s

/-! ### Attach, reclaim and the wall clock (R536 to R539) -/

/-- What an enabled channel's configuration differs in from the format record: 1 IFACE, 2 CE_MASK, 3 the profile. -/
def attachDiffers (s : State) (r : FormatRecord) (p : MediaProfile) (n : Nat) : Nat :=
  let a := getCh s n
  let b := amGetD r.channels n {}
  if a.iface ≠ b.iface then 1 else if a.ceMask ≠ b.ceMask then 2 else if p.identity ≠ r.profile.identity then 3 else 0

/-- R538: the refusal of an attach whose configuration differs. -/
def attachRefuse (s : State) (p : ProfileRead) : Option Rcpt :=
  match s.media.format, p with
  | some r, .ok q =>
    match (enabledChs s).find? (fun n => attachDiffers s r q n != 0) with
    | some n => some (rInvalid 24 (n + attachDiffers s r q n * 256))
    | none => none
  | _, _ => none

/-- A shingle as an attach finds it (R539). -/
def attachShingle (s : State) (sh : Shingle) : Shingle :=
  let r := rowBlocks s sh.chans.length
  let sh : Shingle := if sh.st = .opened then
      { sh with ptr := sh.rows * r, copies := sh.copies.filter (fun e => decide (e.1 + e.2.blocks ≤ sh.rows * r)) } else sh
  if sh.st = .erasing then sh
  else
    { sh with
      st := if sh.copies.any (fun e => e.2.mirror) || sh.copies.isEmpty then .closed else .orphaned
      rowUnits := [], basePm := s.postmark, degraded := false, rebuild := none, refresh := none, reads := [] }

/-- The mirror copies of the shingles, as the index lists them. -/
def mirrorsOf (s : State) : List (MirrorKey × Nat) :=
  s.media.shingles.flatMap (fun e =>
    (e.2.copies.filter (fun c => c.2.mirror)).map (fun c =>
      (({ device := c.2.device, handle := c.2.handle, layer := c.2.copy.layer, page := c.2.copy.page, gen := c.2.copy.gen } : MirrorKey),
       mLoc e.1 c.1)))

/-- The positions of LUNs that the record lists and the attach does not find. -/
def missingLuns (p : MediaProfile) (found : List ChFound) (s : State) : List Nat :=
  (s.media.luns.filter (fun e => e.2.online &&
    !((enabledChs s).contains (e.1 / 32) && channelUp p (getCh s (e.1 / 32)) (foundOn found (e.1 / 32)) &&
      (match foundOn found (e.1 / 32) with
       | some f => f.luns.any (fun l => l.ce == e.2.ce && l.lun == e.2.lun && l.matched)
       | none => false)))).map (·.1)

/-- The work of MEDIA_ATTACH. -/
def attachMedia (s : State) (lifeDays : Nat) (p : MediaProfile) (found : List ChFound) : State :=
  let s := train p found (setMedia s 2)
  match s.media.format with
  | none => setMedia s 5
  | some r =>
    let s := modMedia s (fun m => { m with online := onlineOf m.luns })
    let s := (missingLuns p found s).foldl failLun s
    let s := modMedia s (fun m => { m with
      format := some { r with lifeDays := if lifeDays = 0 then r.lifeDays else lifeDays, wall := if m.wallOffset.isSome then wallWord s else r.wall }
      shingles := amMap m.shingles (fun _ sh => attachShingle s sh), writers := [], hourPm := s.postmark })
    let s := modMedia s (fun m => { m with mirrors := mirrorsOf s })
    setMedia s (endState s)

/-- MEDIA_ATTACH. -/
def mediaAttachSpec (h : Hdr) (lifeDays : Nat) (profile : ProfileRead) (found : List ChFound) : RingCmd :=
    { pfOnly := true, hasBuffer := true
      bad := fun _ => [(24, decide (3650 < lifeDays))]
      refuse := fun s => attachRefuse s profile :: profileRefuse profile (!(s.media.state == 0 || s.media.state == 5))
      run := fun s tag =>
        match profile with
        | .ok p =>
          let s := attachMedia s lifeDays p found
          done s h tag (rOk (s.media.shingles.countP (fun e => e.2.st == .orphaned)))
        | _ => done s h tag (rKey 2) }

/-- MEDIA_ATTACH. -/
def execMediaAttach (h : Hdr) (lifeDays : Nat) (profile : ProfileRead) (found : List ChFound) (s : State) : Out := adminCmd h (mediaAttachSpec h lifeDays profile found) s

/-- MEDIA_RECLAIM: every ORPHANED shingle is freed. -/
def mediaReclaimSpec (h : Hdr) : RingCmd :=
    { pfOnly := true
      refuse := fun s => [refuseIf (!(s.media.state == 3 || s.media.state == 4)) (rBusy 1)]
      run := fun s tag =>
        let ns := (s.media.shingles.filter (fun e => e.2.st == .orphaned)).map (·.1)
        done (ns.foldl beginErase s) h tag (rOk ns.length) }

/-- MEDIA_RECLAIM. -/
def execMediaReclaim (h : Hdr) (s : State) : Out := adminCmd h (mediaReclaimSpec h) s

/-- SET_WALL_CLOCK (R536). -/
def setWallClockSpec (h : Hdr) (wallNs : Nat) : RingCmd :=
    { pfOnly := true
      bad := fun _ => [(24, wallNs == 0)]
      run := fun s tag =>
        done (modMedia s (fun m => { m with wallOffset := some ((wallNs : Int) - (s.postmark : Int)) })) h tag (rOk s.postmark) }

/-- SET_WALL_CLOCK. -/
def execSetWallClock (h : Hdr) (wallNs : Nat) (s : State) : Out := adminCmd h (setWallClockSpec h wallNs) s

/-- FORMAT_RECORD_HOURLY (R536): once an hour while the wall offset is set. -/
def execFormatRecordHourly (pm : Nat) (s : State) : Out :=
  let s := advance pm s
  if s.media.wallOffset.isSome ∧ (s.media.state = 3 ∨ s.media.state = 4) ∧ s.media.hourPm + 3600000000000 ≤ s.postmark then
    .next (modMedia s (fun m => { m with hourPm := s.postmark, format := m.format.map (fun r => { r with wall := wallWord s }) }))
  else .next s

/-! ### Reads (R555 to R558, R565) -/

/-- The copies of a shingle with a byte in a row. -/
def rowCopies (s : State) (sh : Shingle) (row : Nat) : List (Nat × MediaCopy) :=
  let r := rowBlocks s sh.chans.length
  sh.copies.filter (fun e => decide (e.1 < (row + 1) * r) && decide (row * r < e.1 + e.2.blocks))

/-- A copy of a lost row: read from the buddy's mirror, or lost with its session (R558, R242). -/
def loseCopy (n : Nat) (t : State × Nat) (e : Nat × MediaCopy) : State × Nat :=
  let s := t.1
  let loc := mLoc n e.1
  if !mediaLive s loc then t
  else if e.2.copy.mirrored && bound s && amHas s.copies (copyKey 3 loc) then
    let k := amLowestFree s.pair.reads 1
    (isthmus (modPair s (fun p => { p with reads := amSet p.reads k (.mirror loc) }))
      (.read k (.mirror e.2.device e.2.handle e.2.copy.layer e.2.copy.page e.2.copy.gen)), t.2)
  else
    let ds := (s.sessions.filter (fun x => x.2.refs.any (fun r => r.2.tier == 3 && r.2.loc == loc))).map (·.1)
    let s := { s with copies := amErase s.copies (copyKey 3 loc) }
    let s := modMedia s (fun m => { m with mirrors := m.mirrors.filter (fun q => q.2 != loc) })
    (ds.foldl (fun s d => failSession s d 2) s, t.2 + 1)

/-- A row is lost: ROW_LOST (R558). -/
def loseRow (s : State) (n row : Nat) (sh : Shingle) : State :=
  let t := (rowCopies s sh row).foldl (loseCopy n) (s, 0)
  let s := modMedia t.1 (fun m => { m with rowsLost := m.rowsLost + 1 })
  postPf s 0x0605 ((sh.chans.drop (n % sh.chans.length)).headD 0) (n % 2 ^ 24 + row % 2 ^ 16 * 2 ^ 32 + t.2 % 2 ^ 32 * 2 ^ 64)

/-- Count a unit's read against the read-disturb limit (R565). -/
def noteRead (s : State) (n unit : Nat) : State :=
  let s := modShingle s n (fun x => { x with reads := amSet x.reads unit (amGetD x.reads unit 0 + 1) })
  match amGet s.media.shingles n with
  | some sh => if (mProfile s).disturbReads < amGetD sh.reads unit 0 then markRefresh s n else s
  | none => s

/-- Counters of decoding, of the media and of the LUN (Tables 12.12 and 12.13). -/
def noteDecode (s : State) (pos : Nat) (o : UnitRead) : State :=
  let again := o == .retried || o == .soft
  modMedia s (fun m => { m with
    retried := if again then m.retried + 1 else m.retried
    rebuilt := if o = .rebuilt then m.rebuilt + 1 else m.rebuilt
    luns := amMod m.luns pos (fun l => { l with
      retried := if again then l.retried + 1 else l.retried
      rebuilt := if o = .rebuilt then l.rebuilt + 1 else l.rebuilt }) })

/-- FLASH_READ_DONE. A unit of an offline LUN is rebuilt or lost, never decoded. -/
def execFlashReadDone (n row unit : Nat) (o : UnitRead) (s : State) : Out :=
  match amGet s.media.shingles n with
  | none => .next s
  | some sh =>
    let pos := (sh.units.drop unit).headD 0 / 65536
    let up := match amGet s.media.luns pos with
      | some l => l.online
      | none => false
    if (s.media.state = 3 ∨ s.media.state = 4) ∧ sh.st ≠ .erasing ∧ row < sh.rows ∧ unit < sh.units.length
        ∧ (up = true ∨ o = .rebuilt ∨ o = .lost) then
      let s := if up then lunAnswered (noteRead s n unit) pos else s
      let reads := match o with
        | .rebuilt => sh.units.length
        | .lost => sh.units.length
        | _ => 1
      let s := modMedia s (fun m => { m with bytesRead := (m.bytesRead + reads * (mProfile s).unit) % 2 ^ 64 })
      let s := noteDecode s pos o
      .next (match o with
        | .rebuilt => markRebuild s n
        | .lost => loseRow (markRebuild s n) n row sh
        | _ => s)
    else .next s

/-- RETENTION_SCAN (R564, R565): the corrected bits of one unit of each erase unit of a closed shingle, and whether it needed more than
its first decode. -/
def execRetentionScan (n : Nat) (results : List (Nat × Bool)) (pm : Nat) (s : State) : Out :=
  let s := advance pm s
  match amGet s.media.shingles n with
  | none => .next s
  | some sh =>
    if (s.media.state = 3 ∨ s.media.state = 4) ∧ sh.st = .closed ∧ results.length = sh.units.length then
      let p := mProfile s
      let s := (List.range results.length).foldl (fun s i => noteRead s n i) s
      let s := modShingle s n (fun x => { x with
        scanned := s.postmark, corrected := (List.range results.length).map (fun i => (i, ((results.drop i).headD (0, false)).1)) })
      let s := modMedia s (fun m => { m with
        bytesRead := (m.bytesRead + results.length * p.unit) % 2 ^ 64
        retried := m.retried + results.countP (fun r => r.2) })
      let hit := results.any (fun r => decide (p.refreshBits < r.1) || r.2) || decide (p.refreshDays * dayNs < shAge s sh)
      .next (if hit then markRefresh s n else s)
    else .next s

/-- REFRESH_BEHIND (R566). -/
def execRefreshBehind (pm : Nat) (s : State) : Out :=
  let s := rearmBehind (advance pm s)
  let w := refreshWaiting s
  if s.media.behindPosted = false ∧ (s.media.state = 3 ∨ s.media.state = 4)
      ∧ w.any (fun e => decide (e.2 + 86400000000000 < s.postmark)) = true then
    .next (postPf (modMedia s (fun m => { m with behindPosted := true })) 0x0607 0 (w.length % 2 ^ 32))
  else .next s

/-! ### Programs and erases (R547, R559) -/

/-- PROGRAM_DONE: a unit of the row being programmed ends, or fails and retires its erase unit. -/
def execProgramDone (n unit : Nat) (ok : Bool) (s : State) : Out :=
  match amGet s.media.shingles n with
  | none => .next s
  | some sh =>
    let u := (sh.units.drop unit).headD 0
    if (s.media.state = 3 ∨ s.media.state = 4) ∧ (sh.st = .opened ∨ sh.st = .closed) ∧ sh.rows < rowsDue s sh
        ∧ unit < sh.units.length ∧ !sh.rowUnits.contains unit then
      let s := lunAnswered s (u / 65536)
      if ok then
        let s := modShingle s n (fun x => { x with rowUnits := unit :: x.rowUnits })
        .next (if sh.rowUnits.length + 1 = sh.units.length then finishRow s n else s)
      else .next (retireUnit (cutShingle s n) u)
    else .next s

/-- ROW_FILL_TIMEOUT (R547): a row partly filled for 1 ms is filled with zeros. -/
def execRowFillTimeout (n pm : Nat) (s : State) : Out :=
  let s := advance pm s
  match amGet s.media.shingles n with
  | none => .next s
  | some sh =>
    if sh.st = .opened ∧ sh.ptr % rowBlocks s sh.chans.length ≠ 0 ∧ sh.partSince + 1000000 ≤ s.postmark then .next (fillRow s n)
    else .next s

/-- ERASE_DONE: an erase unit of a shingle being erased is erased, or retired; with the last, the shingle is free. -/
def execEraseDone (n unit : Nat) (ok : Bool) (s : State) : Out :=
  match amGet s.media.shingles n with
  | none => .next s
  | some sh =>
    let u := (sh.units.drop unit).headD 0
    let offline := fun (v : Nat) => match amGet s.media.luns (v / 65536) with
      | some l => !l.online
      | none => true
    if (s.media.state = 3 ∨ s.media.state = 4) ∧ sh.st = .erasing ∧ unit < sh.units.length ∧ !sh.erased.contains unit ∧ !offline u then
      let s := lunAnswered s (u / 65536)
      let s := if ok then modMedia s (fun m => { m with erases := amSet m.erases u (amGetD m.erases u 0 + 1) }) else s
      let did := unit :: sh.erased
      let whole := (List.range sh.units.length).all (fun i => did.contains i || offline ((sh.units.drop i).headD 0))
      let s := if whole then noteScrubbed (modMedia s (fun m => { m with shingles := amErase m.shingles n })) n
        else modShingle s n (fun x => { x with erased := did })
      .next (if ok then settleMedia s else retireUnit s u)
    else .next s

/-! ### Relocation (R551 to R553, R560) -/

/-- Why a shingle is relocated: 0 a mark for rebuild, 1 a refresh, 2 space or wear. -/
def shingleMark (sh : Shingle) : Option (Nat × Nat) :=
  if sh.degraded then some (0, 0)
  else match sh.rebuild, sh.refresh with
    | some a, some b => some (if b < a then (b + 1, 1) else (a + 1, 0))
    | some a, none => some (a + 1, 0)
    | none, some b => some (b + 1, 1)
    | none, none => none

/-- The closed shingles whose rows are all programmed. -/
def settledShingles (s : State) : List (Nat × Shingle) :=
  s.media.shingles.filter (fun e => e.2.st == .closed && decide (rowsDue s e.2 ≤ e.2.rows))

/-- Keep the entry of the least measure, the first among equals. -/
def leastBy {α : Type} (f : α → Nat) (l : List α) : Option α :=
  l.foldl (fun acc x =>
    match acc with
    | none => some x
    | some b => if f x < f b then some x else some b) none

/-- Mean erase count of a shingle's units, as a sum over its channels. -/
def shErases (s : State) (sh : Shingle) : Nat := sh.units.foldl (fun n u => n + amGetD s.media.erases u 0) 0 * 32 / max 1 sh.units.length

/-- The shingle that R551 relocates next, and why. -/
def relocateNext (s : State) : Option (Nat × Nat) :=
  let cs := settledShingles s
  let marked := cs.filterMap (fun e => (shingleMark e.2).map (fun m => (e.1, m.1, m.2)))
  match leastBy (fun (e : Nat × Nat × Nat) => e.2.1) marked with
  | some e => some (e.1, e.2.2)
  | none =>
    if s.media.state ≠ 3 then none
    else if freeShingles s < 2 * freeReserve s then
      (leastBy (fun (e : Nat × Shingle) => liveBytes s e.1 * 2 ^ 64 + e.2.writeSeq) cs).map (fun e => (e.1, 2))
    else
      let es := s.media.luns.flatMap (fun e => if e.2.online then
        (List.range (mProfile s).eusPerLun).map (fun i => amGetD s.media.erases (e.1 * 65536 + i + 1) 0) else [])
      let hi := es.foldl max 0
      let lo := es.foldl min hi
      if (mProfile s).ratedPe < 10 * (hi - lo) then (leastBy (fun (e : Nat × Shingle) => shErases s e.2) cs).map (fun e => (e.1, 2)) else none

/-- One live copy is moved, and what names it with it. -/
def relocateCopy (n : Nat) (s : State) (e : Nat × MediaCopy) : State :=
  let old := mLoc n e.1
  if !mediaLive s old then s
  else
    match mediaPlace s 7 e.2 with
    | (none, s) => s
    | (some loc, s) =>
      let s := match amGet s.copies (copyKey 3 old) with
        | some c => { s with copies := amSet (amErase s.copies (copyKey 3 old)) (copyKey 3 loc) c }
        | none => s
      let ds := (s.sessions.filter (fun x => x.2.refs.any (fun r => r.2.tier == 3 && r.2.loc == old))).map (·.1)
      let s := ds.foldl (fun s d => modSession s d (fun x =>
        { x with refs := amMap x.refs (fun _ r => if r.tier = 3 ∧ r.loc = old then { r with loc := loc } else r) })) s
      modMedia s (fun m => { m with
        mirrors := m.mirrors.map (fun q => if q.2 = old then (q.1, loc) else q)
        keptOld := if bound s then m.keptOld ++ ds.map (fun d => (d, old)) else m.keptOld })

/-- REBUILD_DONE for each failure whose last degraded shingle this was (R560). -/
def noteRebuilt (s : State) (n : Nat) : State :=
  let fs := s.media.failures.map (fun f => if f.left.contains n then { f with left := f.left.filter (· != n), moved := f.moved + 1 } else f)
  let over_ := fs.filter (fun f => f.left.isEmpty)
  let s := modMedia s (fun m => { m with failures := fs.filter (fun f => !f.left.isEmpty) })
  over_.foldl (fun s f => postPf s 0x0604 f.channel (f.moved % 2 ^ 32)) s

/-- Relocate shingle `n` for reason `why`: its live copies move in ascending offset order, and it is erased once nothing live is left. -/
def relocate (s : State) (n why : Nat) : State :=
  let before := s.media.writers
  let s := (shLive s n).foldl (relocateCopy n) s
  let used := (s.media.shingles.filter (fun e => e.2.writer == 7 && e.2.st != .erasing && decide (e.2.rows * rowBlocks s e.2.chans.length < e.2.ptr)
    && (amGet before 7 == some e.1 || amGet s.media.writers 7 == some e.1 || e.2.st == .closed))).map (·.1)
  let s := used.foldl programAll s
  if (shLive s n).any (fun e => !s.media.keptOld.any (fun q => q.2 == mLoc n e.1)) then s
  else
    let s := modMedia s (fun m => { m with
      movedRefresh := if why = 1 then m.movedRefresh + 1 else m.movedRefresh
      movedSpace := if why = 2 then m.movedSpace + 1 else m.movedSpace })
    let s := modShingle s n (fun x => { x with degraded := false, rebuild := none, refresh := none })
    rearmBehind (noteRebuilt (beginErase s n) n)

/-- RELOCATE_SHINGLE, unless a BE hold stands in M_0 (R666). In READ_ONLY only marked shingles move, while free shingles remain (R570). -/
def execRelocateShingle (pm : Nat) (s : State) : Out :=
  let s := advance pm s
  if amHas s.pow.holds 37 || amHas s.pow.holds 38 || amHas s.pow.holds 39 then .next s
  else if s.media.state = 3 ∨ (s.media.state = 4 ∧ 0 < freeShingles s) then
    match relocateNext s with
    | some (n, why) => .next (relocate s n why)
    | none => .next s
  else .next s

/-! ### Log 0x0050 (R567) -/

/-- The media device record (Table 12.12). -/
def mediaRecord (s : State) : List Byte :=
  let m := s.media
  let w8 := fun v => leBytes 8 v
  let w4 := fun v => leBytes 4 v
  let a := writeAmp s
  padTo 256 (w8 (mProfile s).identity ++ w4 (formable s) ++ w4 (freeShingles s)
    ++ w4 (m.shingles.countP (fun e => e.2.st == .orphaned)) ++ w4 (m.shingles.countP (fun e => e.2.degraded))
    ++ w4 (m.luns.countP (fun e => e.2.online)) ++ w4 (m.luns.countP (fun e => !e.2.online))
    ++ w4 (m.luns.foldl (fun n e => n + e.2.factory.length) 0) ++ w4 (m.luns.foldl (fun n e => n + e.2.grown.length) 0)
    ++ w8 m.stored ++ w8 m.mirrorBytes ++ w8 (m.programmed - m.stored - m.mirrorBytes - m.moved) ++ w8 m.moved ++ w8 m.bytesRead
    ++ w4 (eraseMean s) ++ w4 (m.erases.foldl (fun n e => max n e.2) 0) ++ w4 (mProfile s).ratedPe
    ++ w4 (a.1 * 1000 / a.2) ++ w8 (sustainable s)
    ++ leBytes 2 (match m.format with | some r => r.lifeDays | none => 0) ++ leBytes 2 (daysSince s)
    ++ w8 m.retried ++ w8 m.rebuilt ++ w8 m.fromBuddy ++ w8 m.rowsLost ++ w8 m.movedRefresh ++ w8 m.movedSpace)

/-- The record of one LUN position (Table 12.13). -/
def lunRecord (s : State) (pos : Nat) : List Byte :=
  match amGet s.media.luns pos with
  | none => leBytes 1 (pos / 32) ++ List.replicate 2 0#8 ++ [2#8] ++ List.replicate 28 0#8
  | some l =>
    let es := (List.range (mProfile s).eusPerLun).map (fun i => amGetD s.media.erases (pos * 65536 + i + 1) 0)
    leBytes 1 (pos / 32) ++ leBytes 1 l.ce ++ leBytes 1 l.lun ++ leBytes 1 (if l.online then 0 else 1)
      ++ leBytes 4 (l.factory.length + l.grown.length) ++ leBytes 4 (es.foldl (· + ·) 0 / max 1 es.length) ++ leBytes 4 (es.foldl max 0)
      ++ leBytes 8 l.retried ++ leBytes 8 l.rebuilt

end Sys2Proof.Machine
end

