-- ==== Sys2Proof/Machine/Checkpoint.lean ====
section
/-! DEFINITION. Checkpoint epochs at their source: entries, checkpoint references, tail chains and the page store as this device keeps account
of it (R582 to R596). -/

namespace Sys2Proof.Machine

/-! ### Sizes -/

/-- Blocks of 256 B in the checkpoint area (R577). -/
def ckptBlocks (s : State) : Nat := (s.pair.reserve - parkMax s) * 256

/-- Bytes of an entry (R585). -/
def entrySize (e : CkptEntry) : Nat := 1024 + 8 * e.refs.length

/-- Bytes of the entries of both slots. -/
def entriesSize (s : State) : Nat := 2 * s.pair.entries.foldl (fun n e => n + entrySize e.2) 0

/-- The page store's items as blocks: offset and length. -/
def storeRuns (m : AMap StoreRef) : List (Nat × Nat) := m.map (fun e => (e.1, (e.2.size + 255) / 256))

/-- Blocks free of the checkpoint area beside its page store and entries. -/
def storeFree (s : State) : Nat :=
  ckptBlocks s - (storeRuns s.pair.store).foldl (fun n e => n + e.2) 0 - (entriesSize s + 255) / 256

/-! ### What one session's pages need (R586 to R588) -/

/-- The key of a page's full copy: its chain identity where it is known, else its session's handle. -/
def fullKey (x : Session) (key gen : Nat) : Nat × Nat × Nat × Nat :=
  match amGet x.chain (pkPage key) with
  | some c => (c + 2 ^ 128, pkLayer key, pkPage key, 0)
  | none => (x.handle, pkLayer key, pkPage key, gen)

def fullOf (p : Pair) (k : Nat × Nat × Nat × Nat) : Option Nat := (p.fulls.find? (fun e => e.1 == k)).map (·.2)

/-- The NARROW form of a profile (R588). -/
def narrowForm (b : List Byte) : Nat := if pfNarrow b = 6 then 6 else 5

/-- A full page's copy is made in NARROW form. -/
def narrowCopy (s : State) (x : Session) (key refs : Nat) : Bool :=
  let b := sessProfile s x
  clNarrow (sessClass s x) && pfNarrow b != pfResident b && decide (pfResident b ≤ 4) && refs == 1
    && decide (pkPage key + 2 < streamLen x (pkLayer key))

/-- The page that a reference names, as a copy: from HBM, or from the copy below it. -/
def pageAsCopy (s : State) (x : Session) (r : PRef) : Option (Copy × Nat) :=
  if r.tier = 0 then
    match recOf s r with
    | some p =>
      some ({ account := p.account, layer := p.layer, page := p.posBase / 256, size := pageBytes (sessProfile s x) p.format, format := p.format
              gen := p.gen, filled := p.filled, narrowed := p.narrowed, chainId := if p.identValid then some p.chainId else none
              rows := cutRows p.filled p.rows }, p.refCount)
    | none => none
  else (amGet s.copies (copyKey r.tier r.loc)).map (fun c => (c, 1))

/-- A record of a row block from a slot (R293): each section's rows, elements before scales. -/
def recordOf (b : List Byte) (fmt : Nat) (row : SlotRow) : List Byte :=
  let sc := fun (l : List Nat) => l.map (BitVec.ofNat 8)
  row.flatMap (fun r => packEls fmt r.kEl ++ sc r.kSc ++ (if pfLatent b then [] else packEls fmt r.vEl ++ sc r.vSc))

/-- Records of slots `lo` to below `hi`. -/
def recordsOf (b : List Byte) (fmt : Nat) (rows : AMap SlotRow) (lo hi : Nat) : List Byte :=
  (List.range (hi - lo)).flatMap (fun i => recordOf b fmt ((amGet rows (lo + i)).getD []))

/-- What a session's pages make of an epoch so far: the pair's account, the items to send, and the references. -/
structure CkptWork where
  pair : Pair
  items : List CkptItem := []
  bytes : Nat := 0
  refs : List CkptRef := []
  deriving DecidableEq, Repr

/-- Take room in the page store, first fit. -/
def storeTake (w : CkptWork) (top size : Nat) (r : StoreRef) : Option (Nat × CkptWork) :=
  match parkFit (storeRuns w.pair.store) 0 ((size + 255) / 256) top with
  | some off => some (off, { w with pair := { w.pair with store := amSet w.pair.store off r } })
  | none => none

/-- A full copy of a page: assembled from its chain, or sent once; in NARROW form where R588 asks. None if the store has no room. -/
def makeFull (s : State) (top e d : Nat) (x : Session) (key : Nat) (c : Copy) (narrow : Bool) (w : CkptWork) : Option (Nat × CkptWork) :=
  let b := sessProfile s x
  let size := 256 + c.size
  let ref : StoreRef := { size := size, full := true, narrowed := c.narrowed, prev := none, lastEpoch := e }
  match storeTake w top size ref with
  | none => none
  | some (off, w) =>
    let ck := d * 256 + pkLayer key
    let w := match amGet w.pair.chains ck with
      | some ch =>
        if ch.page = pkPage key ∧ ch.gen = c.gen ∧ ch.sent = 256 then
          { w with items := w.items ++ [.assemble off ch.newest (pfHeadDim b) (sections b) (pfLatent b) (c.chainId.getD 0) c.account] }
        else { w with items := w.items ++ [.full off (travelCopy s x c)], bytes := w.bytes + size }
      | none => { w with items := w.items ++ [.full off (travelCopy s x c)], bytes := w.bytes + size }
    if narrow ∧ c.narrowed = false then
      let nf := narrowForm b
      let nsize := 256 + pageBytes b nf
      match storeTake w top nsize { size := nsize, full := true, narrowed := true, prev := none, lastEpoch := e } with
      | some (off2, w) =>
        some (off2, { w with items := w.items ++ [.narrow off2 off (pfHeadDim b) (sections b) (pfLatent b) nf] })
      | none => none
    else some (off, w)

/-- The delta of a tail page: the slots appended since the stream's previous one (R587). -/
def makeDelta (s : State) (top e d : Nat) (x : Session) (key : Nat) (c : Copy) (w : CkptWork) : Option (Nat × CkptWork) :=
  let b := sessProfile s x
  let ck := d * 256 + pkLayer key
  let old : Option Chain := match amGet w.pair.chains ck with
    | some ch => if ch.page = pkPage key ∧ ch.gen = c.gen ∧ ch.sent ≤ c.filled then some ch else none
    | none => none
  let first := match old with
    | some ch => ch.sent
    | none => 0
  match old with
  | some ch =>
    if ch.sent = c.filled then some (ch.newest, w)
    else
      let recs := recordsOf b c.format c.rows first c.filled
      let size := roundUp (64 + recs.length) 256
      match storeTake w top size { size := size, full := false, narrowed := false, prev := some ch.newest, lastEpoch := e } with
      | none => none
      | some (off, w) =>
        let dl : CkptDelta := { prev := some ch.newest, handle := x.handle, page := pkPage key, layer := pkLayer key, gen := c.gen, format := c.format
                                first := first, slots := c.filled - first, records := recs }
        some (off, { w with items := w.items ++ [.delta off dl], bytes := w.bytes + size
                            pair := { w.pair with chains := amSet w.pair.chains ck { page := pkPage key, gen := c.gen, newest := off, sent := c.filled } } })
  | none =>
    let recs := recordsOf b c.format c.rows 0 c.filled
    let size := roundUp (64 + recs.length) 256
    match storeTake w top size { size := size, full := false, narrowed := false, prev := none, lastEpoch := e } with
    | none => none
    | some (off, w) =>
      let dl : CkptDelta := { prev := none, handle := x.handle, page := pkPage key, layer := pkLayer key, gen := c.gen, format := c.format
                              first := 0, slots := c.filled, records := recs }
      some (off, { w with items := w.items ++ [.delta off dl], bytes := w.bytes + size
                          pair := { w.pair with chains := amSet w.pair.chains ck { page := pkPage key, gen := c.gen, newest := off, sent := c.filled } } })

/-- One page's checkpoint reference (Table 13.8); none if the page store has no room. -/
def ckptPage (s : State) (top e d : Nat) (x : Session) (t : Option CkptWork) (q : Nat × PRef) : Option CkptWork :=
  match t with
  | none => none
  | some w =>
    let key := q.1
    let r := q.2
    let put := fun (kind fmt loc : Nat) (w : CkptWork) =>
      some { w with refs := w.refs ++ [{ layer := pkLayer key, page := pkPage key, kind := kind, format := fmt, gen := r.gen, loc := loc }] }
    match pageAsCopy s x r with
    | none => some w
    | some (c, refs) =>
      let full := c.filled == 256
      let fk := fullKey x key r.gen
      let known := if full then fullOf w.pair fk else none
      if r.tier = 2 then put 2 r.format r.loc w
      else if r.tier = 3 ∧ c.mirrored then put 3 r.format 0 w
      else if r.tier = 3 ∧ known = none then put 4 r.format r.loc w
      else if full then
        let narrow := r.tier == 0 && narrowCopy s x key refs
        let isN := match known with
          | some o => (amGet w.pair.store o).any (fun i => i.narrowed)
          | none => false
        match known with
        | some o =>
          if narrow && !isN then
            let nf := narrowForm (sessProfile s x)
            let nsize := 256 + pageBytes (sessProfile s x) nf
            match storeTake w top nsize { size := nsize, full := true, narrowed := true, prev := none, lastEpoch := e } with
            | some (o2, w) =>
              let b := sessProfile s x
              put 0 nf o2 { w with
                items := w.items ++ [.narrow o2 o (pfHeadDim b) (sections b) (pfLatent b) nf]
                pair := { w.pair with fulls := (fk, o2) :: w.pair.fulls.filter (fun f => f.1 != fk) } }
            | none => none
          else put 0 (if isN && !c.narrowed then narrowForm (sessProfile s x) else c.format) o w
        | none =>
          match makeFull s top e d x key c narrow w with
          | some (o, w) =>
            put 0 (if narrow && !c.narrowed then narrowForm (sessProfile s x) else c.format) o
              { w with pair := { w.pair with fulls := (fk, o) :: w.pair.fulls } }
          | none => none
      else
        match makeDelta s top e d x key c w with
        | some (o, w) => put 1 c.format o w
        | none => none

/-- The last tokens recorded before TOKENS: the text record's history, and those of the tail page. -/
def entryHist (x : Session) : List Nat :=
  let n := max 63 (tailFilled x)
  let lo := x.tokens - n
  (List.range (x.tokens - lo)).map (fun i =>
    let p := lo + i
    (((amGet x.toks (p / 256)).getD []).drop (p % 256)).headD 0)

/-- A session's entry (R585). -/
def entryOf (x : Session) (e : Nat) (refs : List CkptRef) : CkptEntry :=
  { handle := x.handle, state := stateCode x.state, flags := flagsWord x, partition := x.partition, profile := refWord x.profileRef
    vocab := refWord x.vocabRef, constr := refWord x.constraintRef, cls := refWord x.classRef, tokens := x.tokens, layersM1 := x.layersM1
    tailGen := x.tailGen, commitSeq := x.commitSeq, ckptSteps := x.ckptSteps, automaton := x.automaton, escActive := x.escActive
    escPos := x.escPos, carry := x.carry, expectedMs := x.expectedMs, textCursor := x.textCursor, stateEpoch := x.stateEpoch, hist := entryHist x, rules := x.rules
    epoch := e, refs := refs }

/-- One session goes into the epoch, if all of it fits. -/
def ckptSession (s : State) (top e d : Nat) (x : Session) (w : CkptWork) : Option CkptWork :=
  match (sortBy (fun (q : Nat × PRef) => q.1) x.refs).foldl (ckptPage s top e d x) (some { w with refs := [] }) with
  | none => none
  | some w =>
    let en := entryOf x e w.refs
    some { w with items := w.items ++ [.entry en], bytes := w.bytes + entrySize en
                  pair := { w.pair with entries := amSet w.pair.entries en.handle en } }

/-- The sessions in the order R591 takes them, until one does not fit: those taken, and how many are left out. -/
def ckptSessions (s : State) (top e : Nat) : List (Nat × Session) → CkptWork → List Nat → List Nat × Nat × CkptWork
  | [], w, got => (got, 0, w)
  | (d, x) :: r, w, got =>
    let roomy := (w.pair.entries.foldl (fun n q => n + entrySize q.2) 0 + 1024 + 8 * x.refs.length) * 2 / 256
        + (storeRuns w.pair.store).foldl (fun n q => n + q.2) 0 ≤ top
    if roomy then
      match ckptSession s top e d x w with
      | some w => ckptSessions s top e r w (got ++ [d])
      | none => (got, r.length + 1, w)
    else (got, r.length + 1, w)

/-! ### Epochs (R582, R584, R591, R592, R596) -/

/-- The epoch after `e` in the cycle of 0xFFFF_FFFE values. -/
def epochAfter (e : Nat) : Nat := if 0xFFFFFFFE ≤ e then 1 else e + 1

/-- How far epoch `a` lies above `b` in the cycle. -/
def epochDist (a b : Nat) : Nat := if b ≤ a then a - b else a + 0xFFFFFFFE - b

/-- A session whose entry an epoch removes: it is closing, or it has handed over. -/
def ckptRemoves (x : Session) : Bool := x.state == .closing || x.stub

/-- An epoch may start now (R582). -/
def epochDue (s : State) : Bool :=
  bound s && s.pair.reserve != 0 && s.pair.run.isNone &&
    (match s.pair.lastStart with
     | none => true
     | some p => (decide (p + s.pair.timerMs * 1000000 ≤ s.postmark) && (s.pow.state != 2 || s.sessions.any (fun e => e.2.ckptDirty)))
         || s.pair.received
         || s.sessions.any (fun e => decide (s.pair.stepsTrigger ≤ e.2.ckptSteps)))

/-- The tables an image carries (R598). -/
def accountTable (s : State) : List AccountImg :=
  s.accounts.map (fun e =>
    { num := e.1, partition := e.2.partition, quotas := e.2.quota.map (fun q => (q.1, q.2))
      ceilings := ((s.ceilings.filter (fun c => c.1 / 8 == e.2.partition)).filterMap (fun c => c.2.bytes.map (fun b => (c.1 % 8, b)))) })

def configTable (s : State) (es : AMap CkptEntry) : List ConfigImg :=
  let refs := es.flatMap (fun e => [(0, refOf e.2.profile), (1, refOf e.2.vocab), (2, refOf e.2.constr), (3, refOf e.2.cls)])
  (refs.filterMap (fun q =>
    match cfgVer s q.1 q.2.num q.2.ver with
    | some v => some ({ kind := q.1, num := q.2.num, ver := q.2.ver, digest := sha256 v.body } : ConfigImg)
    | none => none)).foldl (fun l c => if l.contains c then l else l ++ [c]) []

/-- EPOCH_START: the cut, every entry, and the commit record last (R584, R593). The copier of each session finishes at the cut. -/
def startEpoch (s : State) : State :=
  let e := s.pair.nextEpoch
  let gap := match s.pair.lastStart with
    | some p => (s.postmark - p) / 1000000
    | none => 0
  let s := if s.pair.lastStart.isSome ∧ 10 * s.pair.timerMs < gap then postPf s 0x0703 0 (e + gap % 2 ^ 32 * 2 ^ 32) else s
  let gone := (s.pair.entries.filter (fun q => match findHandle s q.1 with
    | some d => match amGet s.sessions d with
      | some x => ckptRemoves x
      | none => true
    | none => true)).map (·.1)
  let dirty := sortBy (fun (q : Nat × Session) => q.2.ckptEpoch) (s.sessions.filter (fun q => q.2.ckptDirty && !ckptRemoves q.2 && !q.2.incoming))
  let w : CkptWork := { pair := { s.pair with entries := amFilter s.pair.entries (fun k _ => !gone.contains k) }
                        items := gone.map CkptItem.removal }
  let t := ckptSessions s (ckptBlocks s) e dirty w []
  let s := if t.2.1 = 0 then s else postPf s 0x0704 0 (e + t.2.1 % 2 ^ 32 * 2 ^ 32)
  let (k, s) := takeFresh s
  let rec_ : CommitRecord :=
    { epoch := e, slot := e % 2, stackCount := 12, pageLog2 := 8, fwMajor := (s.boot.version.getD Config.fwVersion) / 2 ^ 24 % 256
      prevEpoch := s.pair.lastEpoch, sourceId := s.boot.deviceId, cutPm := s.postmark, byteCount := t.2.2.bytes
      epochCrc := Config.epochCrc k, sessions := t.2.2.pair.entries.length, crcOk := true }
  let run : EpochRun := { num := e, sessions := t.1, entries := t.2.2.pair.entries, record := rec_
                          store := s.pair.store, fulls := s.pair.fulls, chains := s.pair.chains }
  let s := { s with
    pair := { t.2.2.pair with entries := s.pair.entries, run := some run, lastStart := some s.postmark, received := false }
    sessions := amMap s.sessions (fun d x =>
      if t.1.contains d then { x with ckptDirty := false, ckptSteps := 0 }
      else if ckptRemoves x then { x with ckptDirty := false } else x) }
  let items := t.2.2.items ++ [.accounts (accountTable s), .configs (configTable s run.entries)]
  isthmus (items.foldl (fun s i => isthmus s (.item e i)) s) (.record rec_)

/-- The page-store offsets that an image names, chains back to their first delta. -/
def namedOffsets (m : AMap StoreRef) (es : AMap CkptEntry) : List Nat :=
  let direct := es.flatMap (fun e => (e.2.refs.filter (fun r => r.kind == 0 || r.kind == 1)).map (·.loc))
  (List.range m.length).foldl (fun l _ =>
    l ++ (l.filterMap (fun o => match amGet m o with
      | some i => match i.prev with
        | some p => if l.contains p then none else some p
        | none => none
      | none => none))) direct

/-- An epoch has committed (R590, R592). -/
def commitEpoch (s : State) (run : EpochRun) : State :=
  let named := namedOffsets s.pair.store run.entries
  let store := amMap s.pair.store (fun o i => if named.contains o then { i with lastEpoch := run.num } else i)
  let store := amFilter store (fun _ i => epochDist run.num i.lastEpoch < 2)
  let alive := fun (o : Nat) => amHas store o
  let s := modPair s (fun p => { p with
    run := none, lastEpoch := run.num, nextEpoch := epochAfter run.num, entries := run.entries, store := store
    fulls := p.fulls.filter (fun f => alive f.2), chains := amFilter p.chains (fun _ c => alive c.newest) })
  let s := { s with sessions := amMap s.sessions (fun d x => if run.sessions.contains d then { x with ckptEpoch := run.num } else x) }
  let old := s.media.keptOld.filter (fun k => run.sessions.contains k.1 || !amHas s.sessions k.1)
  let s := modMedia s (fun m => { m with keptOld := m.keptOld.filter (fun k => !old.contains k) })
  (old.map (fun k => locShingle k.2)).foldl beginErase s

/-- The running epoch is torn: its bytes are freed, its sessions are dirty again, and its number is taken again (R596). -/
def tearEpoch (s : State) : State :=
  match s.pair.run with
  | none => s
  | some r =>
    { modPair s (fun p => { p with run := none, store := r.store, fulls := r.fulls, chains := r.chains }) with
      sessions := amMap s.sessions (fun d x => if r.sessions.contains d then { x with ckptDirty := true } else x) }

end Sys2Proof.Machine
end

