-- ==== Sys2Proof/Machine/HarbourHost.lean ====
section
/-! DEFINITION. The harbour that this device holds for another: the reserve, the park area, the page store and slots as they are written, and
what a restore reads of them (R576 to R578, R587 to R595). -/

namespace Sys2Proof.Machine

/-! ### The reserve (R576) -/

/-- Frames of a reserve of `pct` percent. -/
def reserveFrames (pct : Nat) : Nat := pct * 12502008 / 100

/-- The gaps of a stack's runs. -/
def gapsOf : List (Nat × Nat) → Nat → List (Nat × Nat)
  | [], cur => if cur < stackFrames then [(cur, stackFrames - cur)] else []
  | (b, c) :: r, cur => if cur < b then (cur, b - cur) :: gapsOf r (max cur (b + c)) else gapsOf r (max cur (b + c))

/-- Take frames of one stack, gap by gap, until none is wanted. -/
def takeGaps (st : Nat) : List (Nat × Nat) → Nat → List Nat → State → Nat × List Nat × State
  | [], n, ks, s => (n, ks, s)
  | (b, c) :: r, n, ks, s =>
    if n = 0 then (0, ks, s)
    else
      let k := min n c
      takeGaps st r (n - k) (runKey st b :: ks) (takeRun s st b k none)

/-- Take `n` frames in any runs; none if so many are not free. -/
def takeReserve (s : State) (n : Nat) : Option (List Nat × State) :=
  if regions.foldl (fun k r => k + freeFrames s r) 0 < n then none
  else
    let t := (List.range 12).foldl (fun (t : Nat × List Nat × State) st =>
      if t.2.2.regionsOut.contains (st / 2) then t
      else takeGaps st (gapsOf (stackRuns t.2.2 st) firstFrame) t.1 t.2.1 t.2.2) (n, [], s)
    if t.1 = 0 then some t.2 else none

/-- R233 for every region: scheduled ebbs of IDLE sessions are brought forward. -/
def pressEbbs (s : State) : State :=
  { s with sessions := amMap s.sessions (fun _ x =>
      if x.state = .idle ∧ x.ebbAtPm ≠ 0 ∧ clTierPref (sessClass s x) 0 ≠ 0 then
        { x with ebbAtPm := min x.ebbAtPm (max (x.waitStartPm + clDelayMin (sessClass s x) * 1000000) s.postmark) }
      else x) }

/-- Free a harbour's frames. -/
def freeHarbour (s : State) (h : Harbour) : State := h.runs.foldl freeRun s

/-! ### Valid records (R595) -/

def recordValid (r : CommitRecord) (slot source : Nat) : Bool :=
  r.crcOk && r.slot == slot && r.epoch % 2 == slot && r.sourceId == source

/-- A slot's valid record. -/
def slotRecord (h : Harbour) (slot : Nat) : Option CommitRecord :=
  match (if slot = 0 then h.slotA else h.slotB).record with
  | some r => if recordValid r slot h.source then some r else none
  | none => none

/-- The later of two epochs in the cycle. -/
def epochLater (a b : Nat) : Bool := a != b && decide (epochDist a b < 2 ^ 31)

/-- The restore epoch's slot and record. -/
def restoreSlot (h : Harbour) : Option (CkptSlot × CommitRecord) :=
  match slotRecord h 0, slotRecord h 1 with
  | some a, some b => if epochLater a.epoch b.epoch then some (h.slotA, a) else some (h.slotB, b)
  | some a, none => some (h.slotA, a)
  | none, some b => some (h.slotB, b)
  | none, none => none

/-- The restore epoch among the records a restore reads. -/
def restoreRecord (rs : List CommitRecord) (source : Nat) : Option CommitRecord :=
  rs.foldl (fun acc r =>
    if recordValid r r.slot source && decide (r.slot < 2) then
      match acc with
      | none => some r
      | some b => if epochLater r.epoch b.epoch then some r else some b
    else acc) none

/-! ### Writing an epoch (R588 to R590) -/

/-- The item at an offset of the page store. -/
def storeGet (h : Harbour) (off : Nat) : Option StoreItem := amGet h.store off

/-- The deltas of a chain, the first one first; `n` bounds its length. -/
def chainOf (h : Harbour) : Nat → Nat → List CkptDelta
  | 0, _ => []
  | n + 1, off =>
    match storeGet h off with
    | some (.delta d _) => (match d.prev with | some p => chainOf h n p | none => []) ++ [d]
    | _ => []

/-- A page body's bytes from slots, by its geometry. -/
def bodyBytesOf (dim heads : Nat) (latent : Bool) (fmt : Nat) (rows : AMap SlotRow) : List Byte :=
  let eb := elBytes fmt dim
  let sb := scBytes fmt dim
  let sc := fun (l : List Nat) => l.map (BitVec.ofNat 8)
  (List.range heads).flatMap (fun h =>
    areaBytes rows h eb (fun r => packEls fmt r.kEl)
      ++ (if latent then [] else areaBytes rows h eb (fun r => packEls fmt r.vEl))
      ++ areaBytes rows h sb (fun r => sc r.kSc)
      ++ (if latent then [] else areaBytes rows h sb (fun r => sc r.vSc)))

/-- A profile of that geometry, for the functions that read a body. -/
def geoProfile (dim heads : Nat) (latent : Bool) : List Byte :=
  leBytes 1 0 ++ leBytes 1 (heads - 1) ++ leBytes 2 dim ++ leBytes 2 dim ++ List.replicate 4 0#8 ++ leBytes 1 (b2n latent)

/-- The slots that deltas hold. -/
def deltaRows (b : List Byte) (ds : List CkptDelta) : AMap SlotRow :=
  ds.foldl (fun m d =>
    let n := recordBytes b d.format
    (List.range d.slots).foldl (fun m i => amSet m (d.first + i) (parseRecord b ((d.records.drop (i * n)).take n) d.format)) m) []

/-- Apply one item of epoch `e` to a slot's image and the page store. -/
def applyItem (e : Nat) (h : Harbour) (i : CkptItem) : Harbour :=
  let setE := fun (f : AMap CkptEntry → AMap CkptEntry) =>
    if e % 2 = 0 then { h with slotA := { h.slotA with entries := f h.slotA.entries } }
    else { h with slotB := { h.slotB with entries := f h.slotB.entries } }
  match i with
  | .entry en => setE (fun m => amSet m en.handle en)
  | .removal k => setE (fun m => amErase m k)
  | .delta off d => { h with store := amSet h.store off (.delta d e) }
  | .full off c => { h with store := amSet h.store off (.full c e) }
  | .assemble off newest dim heads latent chainId account =>
    match (chainOf h 256 newest) with
    | [] => h
    | d :: r =>
      let b := geoProfile dim heads latent
      let c : PageCopy :=
        { handle := d.handle, device := h.source, account := account, format := d.format, gen := d.gen, layer := d.layer, page := d.page
          chainId := chainId, filled := 256, body := bodyBytesOf dim heads latent d.format (deltaRows b (d :: r)) }
      { h with store := amSet h.store off (.full c e) }
  | .narrow off src dim heads latent fmt =>
    match storeGet h src with
    | some (.full c _) =>
      let b := geoProfile dim heads latent
      let rows := convRows c.format fmt (parseBody b c.body c.format c.filled)
      { h with store := amSet h.store off (.full { c with format := fmt, narrowed := true, body := bodyBytesOf dim heads latent fmt rows } e) }
    | _ => h
  | .accounts l => { h with accounts := l }
  | .configs l => { h with configs := l }

/-- Before anything is written for epoch `e`, slot e mod 2 loses its record and takes the image of the latest committed epoch (R589). -/
def openSlot (h : Harbour) (e : Nat) : Harbour :=
  let base := match restoreSlot { h with
      slotA := if e % 2 = 0 then { h.slotA with record := none } else h.slotA
      slotB := if e % 2 = 1 then { h.slotB with record := none } else h.slotB } with
    | some t => t.1.entries
    | none => []
  let sl : CkptSlot := { record := none, entries := base }
  if e % 2 = 0 then { h with slotA := sl, cur := some (e, 0, crc64Init) } else { h with slotB := sl, cur := some (e, 0, crc64Init) }

/-- Offsets that a slot's entries name, chains back to their first delta. -/
def slotNames (h : Harbour) (sl : CkptSlot) : List Nat :=
  sl.entries.flatMap (fun e => e.2.refs.flatMap (fun r =>
    if r.kind = 0 then [r.loc]
    else if r.kind = 1 then
      (List.range h.store.length).foldl (fun (t : List Nat × Option Nat) _ =>
        match t.2 with
        | none => t
        | some o =>
          match storeGet h o with
          | some (.delta d _) => (o :: t.1, d.prev)
          | _ => (o :: t.1, none)) ([], some r.loc) |>.1
    else []))

/-- Every page-store copy that the entries of an epoch name has been made (R593). -/
def namesMade (h : Harbour) (sl : CkptSlot) : Bool := (slotNames h sl).all (fun o => (storeGet h o).isSome)

/-- An item's last naming epoch, after a commit (R590). -/
def renewItem (e : Nat) (named : List Nat) (o : Nat) : StoreItem → StoreItem
  | .full c k => .full c (if named.contains o then e else k)
  | .delta d k => .delta d (if named.contains o then e else k)

def itemEpoch : StoreItem → Nat
  | .full _ k => k
  | .delta _ k => k

/-- The commit record is written, and what no slot names is freed (R590, R593). -/
def writeRecord (h : Harbour) (r : CommitRecord) : Harbour :=
  let h := if r.epoch % 2 = 0 then { h with slotA := { h.slotA with record := some r } } else { h with slotB := { h.slotB with record := some r } }
  let named := slotNames h (if r.epoch % 2 = 0 then h.slotA else h.slotB)
  let st := amMap h.store (fun o i => renewItem r.epoch named o i)
  { h with cur := none, store := amFilter st (fun _ i => decide (epochDist r.epoch (itemEpoch i) < 2)) }

/-- Some committed slot names a mirror copy (KIND 3, R581). -/
def slotNamesMirror (h : Harbour) (k : MirrorKey) : Bool :=
  [slotRecord h 0, slotRecord h 1].zip [h.slotA, h.slotB] |>.any (fun t =>
    t.1.isSome && t.2.entries.any (fun e => e.1 == k.handle && e.2.refs.any (fun r =>
      r.kind == 3 && r.layer == k.layer && r.page == k.page && r.gen == k.gen)))

/-! ### Reading it (R601) -/

/-- A page-store copy as a restore reads it. -/
def storedPage (h : Harbour) (r : CkptRef) : Option StoredPage :=
  if r.kind = 0 then
    match storeGet h r.loc with
    | some (.full c _) => some { off := r.loc, narrowed := c.narrowed, copy := c }
    | _ => none
  else
    match chainOf h 256 r.loc with
    | [] => none
    | d :: ds =>
      let all := d :: ds
      some { off := r.loc, narrowed := false
             copy := { handle := d.handle, device := h.source, account := handleAccount d.handle, tail := true, format := d.format, gen := d.gen
                       layer := d.layer, page := d.page, filled := all.foldl (fun n q => n + q.slots) 0, body := all.flatMap (·.records) } }

/-- The numbers under which the restore epoch's references of KIND 2 and 3 are served (Table 13.13). -/
def servedOf (h : Harbour) (sl : CkptSlot) : List ((Nat × Nat × Nat) × (Option Nat × Option MirrorKey)) :=
  sl.entries.flatMap (fun e => (e.2.refs.filter (fun r => r.kind == 2 || r.kind == 3)).map (fun r =>
    ((e.1, r.layer, r.page),
      if r.kind = 2 then (some r.loc, none)
      else (none, some { device := h.source, handle := e.1, layer := r.layer, page := r.page, gen := r.gen }))))

/-- A harbour's image, and the harbour with its served numbers fixed. -/
def imageOf (h : Harbour) : HarbourImage × Harbour :=
  match restoreSlot h with
  | none => ({ records := [], entries := [], pages := [], parked := [], served := [], accounts := [], configs := [] }, h)
  | some (sl, _) =>
    let sv := servedOf h sl
    let nums := (List.range sv.length).map (fun i => 2 ^ 31 + i)
    ({ records := [slotRecord h 0, slotRecord h 1].filterMap id
       entries := sl.entries.map (·.2)
       pages := sl.entries.flatMap (fun e => (e.2.refs.filter (fun r => r.kind == 0 || r.kind == 1)).filterMap (storedPage h))
       parked := h.park
       served := (sv.zip nums).map (fun t => (t.1.1.1, t.1.1.2.1, t.1.1.2.2, t.2))
       accounts := h.accounts, configs := h.configs },
     { h with served := (nums.zip sv).map (fun t => (t.1, t.2.2)), reading := true })

/-- The harbour held for a source: a frozen one, or the bound buddy's. -/
def harbourFor (s : State) (source : Nat) : Option (Harbour × Bool) :=
  match amGet s.pair.frozen source with
  | some h => some (h, true)
  | none =>
    match s.pair.hosted with
    | some h => if h.source = source then some (h, false) else none
    | none => none

/-- Put a harbour back. -/
def setHarbour (s : State) (h : Harbour) (frozen : Bool) : State :=
  modPair s (fun p => if frozen then { p with frozen := amSet p.frozen h.source h } else { p with hosted := some h })

/-- The mirror copy of a key, as it travels. -/
def mirrorAt (s : State) (k : MirrorKey) : Option PageCopy :=
  match s.media.mirrors.find? (fun e => e.1 == k) with
  | some e =>
    match mediaAt s e.2 with
    | some m =>
      if (s.media.state == 3 || s.media.state == 4) && m.mirror then
        some { handle := m.handle, device := m.device, account := m.copy.account, mirror := true, narrowed := m.copy.narrowed, tail := m.tail
               format := m.copy.format, gen := m.copy.gen, layer := m.copy.layer, page := m.copy.page, chainId := m.copy.chainId.getD 0
               filled := m.copy.filled, body := m.body }
      else none
    | none => none
  | none => none

/-- What a read gives. -/
def harbourServe (s : State) (source : Nat) (ask : HarbourAsk) : State × HarbourData :=
  match ask with
  | .park loc =>
    match harbourFor s source with
    | some (h, _) =>
      match amGet h.park loc with
      | some c => (s, .copy c)
      | none => (s, .nothing)
    | none => (s, .nothing)
  | .mirror device handle layer page gen =>
    match mirrorAt s { device := device, handle := handle, layer := layer, page := page, gen := gen } with
    | some c => (s, .copy c)
    | none => (s, .nothing)
  | .image src =>
    match harbourFor s src with
    | some (h, fz) =>
      let t := imageOf h
      (setHarbour s (if fz then t.2 else h) fz, .image t.1)
    | none => (s, .nothing)

/-- Release mirror copies that satisfy `p`: they die, and leave the index. -/
def dropMirrors (s : State) (p : MirrorKey → Bool) : State := modMedia s (fun m => { m with mirrors := m.mirrors.filter (fun e => !p e.1) })

end Sys2Proof.Machine
end

