-- ==== Sys2Proof/Machine/Restore.lean ====
section
/-! DEFINITION. Restoring sessions: checkpoint references recovered, RESTORE_DEVICE's LC phase, and in-place restores (R597 to R602). -/

namespace Sys2Proof.Machine

/-! ### An entry as a session (R599) -/

/-- The state whose code an entry holds. -/
def stateOf (c : Nat) : SState :=
  match c with
  | 1 => .active | 2 => .idle | 3 => .ebbing | 4 => .parked | 5 => .flooding | 6 => .migrating | 7 => .closing | 8 => .failed
  | _ => .new

/-- The token IDs an entry carries, by page. -/
def entryToks (e : CkptEntry) : AMap (List Nat) :=
  let lo := e.tokens - e.hist.length
  if e.tokens = 0 then []
  else
    let t := (e.tokens - 1) / 256
    if lo ≤ 256 * t then [(t, e.hist.drop (256 * t - lo))] else []

/-- The history that reaches before the tail page. -/
def entrySession (s : State) (e : CkptEntry) (pageList : Nat) : Session :=
  { handle := e.handle, partition := e.partition, state := .idle, prior := .new, chartEpoch := s.chartEpoch, pageList := pageList
    tailGen := e.tailGen, layersM1 := e.layersM1, tokens := e.tokens, classRef := refOf e.cls, constraintRef := refOf e.constr
    vocabRef := refOf e.vocab, profileRef := refOf e.profile, restored := true, mirrored := bit e.flags 3, waitHint := bit e.flags 1
    ckptDirty := true, commitSeq := e.commitSeq, ckptSteps := e.ckptSteps, createdPm := s.postmark, automaton := e.automaton
    escActive := e.escActive, escPos := e.escPos, carry := e.carry, toks := entryToks e, textCursor := e.textCursor
    stateEpoch := e.stateEpoch, rules := e.rules, round := { num := e.commitSeq % 65536 }, lastOpPm := s.postmark }

/-- A restored page placed in HBM under R203; none if no run of frames is free. -/
def landPage (s : State) (d : Nat) (x : Session) (r : CkptRef) (fmt filled : Nat) (narrowed : Bool) (chainId : Nat)
    (rows : AMap SlotRow) : Option State :=
  match openPage s x d r.layer r.page fmt (some r.gen) with
  | none => none
  | some (loc, s) =>
    let tail := decide (r.page = tailIndex x)
    let s := modPage s loc (fun p => { p with
      filled := filled, narrowed := narrowed, tail := tail, chainId := chainId, identValid := chainId != 0, rows := rows })
    some (modSession s d (fun x => { x with
      refs := amSet x.refs (pk r.layer r.page) { tier := 0, format := fmt, gen := r.gen, loc := loc }
      chain := if chainId = 0 then x.chain else amSet x.chain r.page chainId
      narrowed := x.narrowed || narrowed }))

/-- The rows of a stored page: of a chain's records, or of a body. -/
def storedRows (b : List Byte) (sp : StoredPage) : AMap SlotRow :=
  if sp.copy.tail then
    let n := recordBytes b sp.copy.format
    (List.range sp.copy.filled).map (fun i => (i, parseRecord b ((sp.copy.body.drop (i * n)).take n) sp.copy.format))
  else parseBody b sp.copy.body sp.copy.format sp.copy.filled

/-- The local copy of a page on media, by its header: an orphaned one, or one that is there (R539). -/
def localCopy (s : State) (handle : Nat) (r : CkptRef) : Option (Nat × MediaCopy) :=
  let hits := s.media.shingles.flatMap (fun e =>
    if e.2.st = .erasing then [] else
      (e.2.copies.filter (fun c => c.2.handle == handle && c.2.device == s.boot.deviceId && !c.2.mirror && c.2.copy.layer == r.layer
        && c.2.copy.page == r.page && c.2.copy.gen == r.gen && c.2.copy.format == r.format)).map (fun c => (mLoc e.1 c.1, c.2)))
  if s.media.state == 3 || s.media.state == 4 then
    match hits.find? (fun t => t.1 == r.loc) with
    | some t => some t
    | none => if r.kind = 3 then hits.head? else none
  else none

/-- Claim an orphaned copy: it becomes live and its shingle CLOSED (R539). -/
def claimCopy (s : State) (d : Nat) (r : CkptRef) (loc : Nat) (m : MediaCopy) (mirrored : Bool) : State :=
  let s := modShingle s (locShingle loc) (fun x => if x.st = .orphaned then { x with st := .closed } else x)
  let s := { s with copies := amSet s.copies (copyKey 3 loc) { m.copy with mirrored := mirrored } }
  modSession s d (fun x => { x with
    refs := amSet x.refs (pk r.layer r.page) { tier := 3, format := r.format, gen := r.gen, loc := loc }
    chain := match m.copy.chainId with
      | some c => amSet x.chain r.page c
      | none => x.chain
    narrowed := x.narrowed || m.copy.narrowed })

/-- A holder reference: tier 1, the holder's number, and the number under which it serves the page (R599). -/
def holderRef (s : State) (d holderNum : Nat) (img : HarbourImage) (handle : Nat) (r : CkptRef) : Option State :=
  match img.served.find? (fun t => t.1 == handle && t.2.1 == r.layer && t.2.2.1 == r.page) with
  | some t => some (modSession s d (fun x => { x with
      refs := amSet x.refs (pk r.layer r.page) { tier := 1, format := r.format, gen := r.gen, loc := holderNum * 2 ^ 32 + t.2.2.2 } }))
  | none => none

/-- One checkpoint reference recovered (Table 13.13); the answer says whether it was. -/
def recoverRef (b : List Byte) (source : Bool) (d holderNum : Nat) (img : HarbourImage) (handle : Nat) (t : State × Bool) (r : CkptRef) :
    State × Bool :=
  let s := t.1
  match amGet s.sessions d with
  | none => t
  | some x =>
    let take := fun (o : Option State) => match o with
      | some s => (s, t.2)
      | none => (s, false)
    match r.kind with
    | 2 =>
      if source then
        match img.parked.find? (fun e => e.1 == r.loc) with
        | some e => take (landPage s d x r e.2.format e.2.filled e.2.narrowed e.2.chainId (parseBody b e.2.body e.2.format e.2.filled))
        | none => (s, false)
      else take (holderRef s d holderNum img handle r)
    | 3 =>
      match (if source then localCopy s handle r else none) with
      | some (loc, m) => (claimCopy s d r loc m true, t.2)
      | none => take (holderRef s d holderNum img handle r)
    | 4 =>
      match (if source then localCopy s handle r else none) with
      | some (loc, m) => (claimCopy s d r loc m false, t.2)
      | none => (s, false)
    | _ =>
      match img.pages.find? (fun p => p.off == r.loc) with
      | some sp => take (landPage s d x r sp.copy.format sp.copy.filled sp.narrowed sp.copy.chainId (storedRows b sp))
      | none => (s, false)

/-- Recover every page of an entry into descriptor `d`, and settle the session's state (R599). -/
def recoverEntry (s : State) (source : Bool) (d holderNum : Nat) (img : HarbourImage) (e : CkptEntry) : State × Bool :=
  match amGet s.sessions d with
  | none => (s, false)
  | some x =>
    let t := e.refs.foldl (recoverRef (sessProfile s x) source d holderNum img e.handle) (s, true)
    let s := t.1
    match amGet s.sessions d with
    | none => (s, t.2)
    | some x =>
      let st : SState := if !t.2 then .failed else if allHbm x then .idle else .parked
      let s := { s with sessions := amMod s.sessions d (fun x => { x with
        state := st, failCause := if t.2 then 0 else 2, ckptDirty := true, restored := true }) }
      let s := touch (openRound s d (resolveRef s 1 x.vocabRef) (csetNow s x)) d true
      let s := if t.2 then { s with notices := s.notices ++ [{ d := d, tokens := x.tokens, round := x.round.num, ids := [] }] } else s
      (noteQuotas (fitPool s (handleAccount x.handle)) (handleAccount x.handle), t.2)

/-! ### RESTORE_DEVICE (R598, R601) -/

/-- The offset in the commit record of the first field whose shape differs from this device's (R598). -/
def shapeDiffers (s : State) (r : CommitRecord) : Option Nat :=
  if r.stackCount ≠ 12 then some 6
  else if r.pageLog2 ≠ 8 then some 7
  else if r.fwMajor ≠ (s.boot.version.getD Config.fwVersion) / 2 ^ 24 % 256 then some 8
  else none

/-- Accounts missing here are created as the image gives them. -/
def restoreAccount (s : State) (a : AccountImg) : State :=
  if amHas s.accounts a.num then s
  else
    let acc : Account := { partition := a.partition, quota := a.quotas.foldl (fun m q => amSet m q.1 q.2) [] }
    let s := { s with accounts := amSet s.accounts a.num acc }
    a.ceilings.foldl (fun s c =>
      if amHas s.ceilings (a.partition * 8 + c.1) then s
      else { s with ceilings := amSet s.ceilings (a.partition * 8 + c.1) { bytes := some c.2, ver := 1 } }) s

/-- An entry can be restored here: its account's partition agrees, and every version it fixes is present with its digest. -/
def entryFits (s : State) (img : HarbourImage) (e : CkptEntry) : Bool :=
  accPartition s (handleAccount e.handle) == e.partition && amHas s.accounts (handleAccount e.handle) &&
    [(0, e.profile), (1, e.vocab), (2, e.constr), (3, e.cls)].all (fun q =>
      let r := refOf q.2
      (q.1 == 2 && r.num == 0) || r.ver == 0xFFFF ||
      (match cfgVer s q.1 r.num r.ver with
       | some v => !v.retired && (match img.configs.find? (fun c => c.kind == q.1 && c.num == r.num && c.ver == r.ver) with
         | some c => c.digest == sha256 v.body
         | none => false)
       | none => false))

/-- Restore one entry: the counts are restored, failed, and not restored. -/
def restoreEntry (source : Bool) (holderNum : Nat) (img : HarbourImage) (t : State × Nat × Nat × Nat) (e : CkptEntry) :
    State × Nat × Nat × Nat :=
  let s := t.1
  let (ok, bad, left) := t.2
  match newIndex s with
  | none => (s, ok, bad, left + 1)
  | some d =>
    if !entryFits s img e || (findHandle s e.handle).isSome then (s, ok, bad, left + 1)
    else
      let (k, s) := takeFresh s
      let x := entrySession s e (Config.hbmAddr k)
      let s := { s with sessions := amSet s.sessions d x, redirects := s.redirects.filter (fun r => r.1 != e.handle) }
      let r := recoverEntry s source d holderNum img e
      if r.2 then (r.1, ok + 1, bad, left) else (r.1, ok + 1, bad + 1, left)

/-- The number that the installed chart gives a device. -/
def numOfDev (s : State) (dev : Nat) : Nat :=
  match amGet s.tw.devices dev with
  | some e => e.num
  | none => 0

/-- The session has holder references to a device number. -/
def holderKeys (x : Session) (num : Nat) : List Nat := (x.refs.filter (fun r => r.2.tier == 1 && r.2.loc / 2 ^ 32 == num)).map (·.1)

/-- Holder references of a session start towards its own tiers, as upkeep (R601). -/
def startBackground (num : Nat) (s : State) (d : Nat) : State :=
  match amGet s.sessions d with
  | none => s
  | some x =>
    let keys := holderKeys x num
    if keys.isEmpty ∨ x.move.isSome ∨ x.state = .failed then s
    else
      let sizes := keys.map (fun k => match amGet x.refs k with
        | some r => pageBytes (sessProfile s x) r.format
        | none => 0)
      match (clTiers (sessClass s x)).find? (fun t => t != 1 && tierRoom s t sizes && canCharge s (handleAccount x.handle) t (sizes.foldl (· + ·) 0)) with
      | some t =>
        let s := modSession s d (fun x => { x with
          move := some { todo := keys, tier := t, reserve := sizes.foldl (· + ·) 0, upkeep := true } })
        keys.foldl (fun s k => fetchPage s d x false k) s
      | none => s

/-- The LC phase ends with the image (R598, R599, R601). -/
def restoreImage (s : State) (q : RestoreRun) (img : HarbourImage) : State :=
  match restoreRecord img.records q.source with
  | none => resolveTag (modPair s (fun p => { p with restore := none })) q.tag (rNotOwner 0)
  | some r =>
    match shapeDiffers s r with
    | some o => resolveTag (modPair s (fun p => { p with restore := none })) q.tag { status := .version, detail := o }
    | none =>
      let s := img.accounts.foldl restoreAccount s
      let src := q.source == s.boot.deviceId
      let num := numOfDev s q.holder
      let t := img.entries.foldl (restoreEntry src num img) (s, 0, 0, 0)
      let s := t.1
      let old := s.role
      let s := modPair { s with role := 0 } (fun p => { p with
        restore := some { q with epoch := r.epoch, background := true }, received := true })
      let s := resolveTag s q.tag
        { status := .ok, detail := r.epoch, resA := t.2.1 + t.2.2.1 * 2 ^ 32, resB := t.2.2.2 }
      let s := postPf s 0x0706 0 (q.source + r.epoch * 2 ^ 64)
      let s := postPf s 0x0708 0 (old * 2 ^ 8)
      (s.sessions.map (·.1)).foldl (startBackground num) s

/-! ### In-place restore (R600) -/

/-- The pages and copies a session still holds are let go before its rebuild; media copies that the entry claims stay. -/
def clearPages (s : State) (d : Nat) (keep : List Nat) : State :=
  match amGet s.sessions d with
  | none => s
  | some x =>
    let s := freeScout s d
    let s := x.refs.foldl (fun s e =>
      if e.2.tier = 0 then dropRef s e.2.loc
      else if e.2.tier = 3 ∧ keep.contains e.2.loc then s
      else releaseCopy s (copyKey e.2.tier e.2.loc)) s
    modSession s d (fun x => { x with refs := [], chain := [], ebb := none, flood := none, move := none })

/-- Ask the buddy for the image an in-place restore of session `d` needs; `cause` is the failure if there is none. -/
def askRestore (s : State) (d cause : Nat) : State :=
  let n := amLowestFree s.pair.reads 1
  isthmus (modPair s (fun p => { p with reads := amSet p.reads n (.session d cause) })) (.read n (.image s.boot.deviceId))

/-- A restore of `d` is under way. -/
def restoring (s : State) (d : Nat) : Bool :=
  s.pair.reads.any (fun e => match e.2 with
    | .session k _ => k == d
    | _ => false)

/-- This device's harbour has an entry of a session in a committed epoch. -/
def hasEntry (s : State) (handle : Nat) : Bool := bound s && s.pair.lastEpoch != 0 && amHas s.pair.entries handle

/-- A session loses pages: it is restored in place if its harbour holds an entry, else it fails with `cause` (R600). -/
def loseSession (s : State) (d cause : Nat) : State :=
  match amGet s.sessions d with
  | none => s
  | some x =>
    if x.state = .closing ∨ x.state = .failed ∨ restoring s d then s
    else if hasEntry s x.handle then askRestore s d cause
    else failSession s d cause

/-- The references of a session that an in-place restore keeps: pages of the entry still at tier 0 with the same chain identity and GEN
(R625). -/
def keptRefs (s : State) (x : Session) (img : HarbourImage) (e : CkptEntry) : AMap PRef :=
  x.refs.filter (fun q => e.refs.any (fun r =>
    pk r.layer r.page == q.1 && q.2.tier == 0 && r.gen == q.2.gen && (recOf s q.2).isSome
      && img.pages.any (fun p => p.off == r.loc && r.kind != 2 && r.kind != 3 && r.kind != 4 && p.copy.chainId != 0
        && amGet x.chain r.page == some p.copy.chainId)))

/-- An in-place restore ends with the image. -/
def restoreInPlace (s : State) (d cause : Nat) (img : HarbourImage) : State :=
  match amGet s.sessions d with
  | none => s
  | some x =>
    match restoreRecord img.records s.boot.deviceId, img.entries.find? (fun e => e.handle == x.handle) with
    | some r, some e =>
      let keep := (e.refs.filter (fun q => q.kind == 3 || q.kind == 4)).filterMap (fun q => (localCopy s x.handle q).map (·.1))
      let stay := keptRefs s x img e
      let s := clearPages (modSession s d (fun x => { x with refs := x.refs.filter (fun q => !amHas stay q.1) })) d keep
      let y := entrySession s e x.pageList
      let y : Session :=
        { y with wbSeq := 0, refs := stay, chain := x.chain.filter (fun c => stay.any (fun q => pkPage q.1 == c.1)) }
      let s := { s with sessions := amSet s.sessions d y }
      let t := recoverEntry s true d (numOfDev s s.pair.buddy) img { e with refs := e.refs.filter (fun r => !amHas stay (pk r.layer r.page)) }
      let s := t.1
      if t.2 then
        let s := postAccount s (handleAccount x.handle) 0x0705 (x.handle + e.tokens % 2 ^ 32 * 2 ^ 64 + r.epoch * 2 ^ 96)
        modPair (resolveWait s (.restored d) (rOk e.tokens)) (fun p => { p with received := true })
      else
        resolveWait (postAccount s (handleAccount x.handle) 0x0101
          (x.handle + d * 2 ^ 64 + 2 * 2 ^ 88 + stateCode x.state * 2 ^ 96)) (.restored d) { status := .fault, detail := 2 }
    | _, _ => resolveWait (failSession s d cause) (.restored d) { status := .version }

end Sys2Proof.Machine
end

