-- ==== Sys2Proof/Machine/PairCmds.lean ====
section
/-! DEFINITION. The pair, checkpoint, restore and role commands and events (Pairs, Checkpoints, Spares and Roles). -/

namespace Sys2Proof.Machine

/-! ### The link (R571, R572, R574, R699) -/

/-- A half's lanes changed. -/
def setHalf (s : State) (half : Nat) (f : Half → Half) : State :=
  modPair s (fun p => if half = 0 then { p with half0 := f p.half0 } else { p with half1 := f p.half1 })

def getHalf (s : State) (half : Nat) : Half := if half = 0 then s.pair.half0 else s.pair.half1

/-- Some half runs. -/
def linked (s : State) : Bool := s.pair.half0.lanes != 0 || s.pair.half1.lanes != 0

/-- ISTHMUS_HALF_UP: a half has trained, which needs opposite PAIR_ID straps (R571). -/
def execIsthmusHalfUp (half lanes : Nat) (peerStrap : Bool) (pm : Nat) (s : State) : Out :=
  let s := advance pm s
  if half < 2 ∧ (lanes = 8 ∨ lanes = 16) ∧ (getHalf s half).lanes = 0 ∧ peerStrap ≠ s.pair.strap
      ∧ s.faults.regionsDown.contains (6 + half) = false ∧ s.faults.runs.any (fun q => q.region == 6 + half || q.region == 8) = false then
    let s := modPair (setHalf s half (fun h => { h with lanes := lanes, flits := 0, keySince := s.postmark })) (fun p =>
      { p with lastFlit := s.postmark })
    .next (if lanes = 8 then postPf s 0x0709 half 8 else s)
  else .next s

/-- LINK_DEGRADED: a half falls to 8 lanes, or goes down; with both halves down the running epoch is torn (R596). -/
def execLinkDegraded (half lanes : Nat) (s : State) : Out :=
  if half < 2 ∧ lanes < (getHalf s half).lanes ∧ (lanes = 0 ∨ lanes = 8) then
    let s := postPf (setHalf s half (fun h => { h with lanes := lanes })) 0x0709 half lanes
    .next (if linked s then s else tearEpoch s)
  else .next s

/-- ISTHMUS_HEARTBEAT: a flit on each trained half. -/
def execIsthmusHeartbeat (pm : Nat) (s : State) : Out :=
  let s := advance pm s
  let beat := fun (k : Nat) (s : State) =>
    if (getHalf s k).lanes = 0 then s
    else emit (.isthmus (.heartbeat k)) (setHalf s k (fun h => { h with flits := h.flits + 1 }))
  .next (beat 1 (beat 0 s))

/-- BUDDY_HEARTBEAT: a valid flit of the buddy's has come. -/
def execBuddyHeartbeat (pm : Nat) (s : State) : Out :=
  let s := advance pm s
  .next (if linked s then modPair s (fun p => { p with lastFlit := s.postmark, restartUntil := none }) else s)

/-- PAIR_KEY_UPDATE: 2^32 flits, or 24 hours, under one pair key. -/
def execPairKeyUpdate (half pm : Nat) (s : State) : Out :=
  let s := advance pm s
  let h := getHalf s half
  if half < 2 ∧ bound s = true ∧ h.lanes ≠ 0 ∧ (2 ^ 32 ≤ h.flits ∨ h.keySince + dayNs ≤ s.postmark) then
    .next (emit (.isthmus (.keyUpdate half)) (setHalf s half (fun h => { h with flits := 0, keySince := s.postmark, keyGen := h.keyGen + 1 })))
  else .next s

/-! ### Losing the buddy (R574, R579, R596, R627) -/

/-- The reads asked of the buddy find no answer. -/
def dropReads (s : State) : State :=
  let rs := s.pair.reads
  let s := modPair s (fun p => { p with reads := amFilter p.reads (fun _ r => r == .device) })
  rs.foldl (fun s e =>
    match e.2 with
    | .mirror loc =>
      match mediaAt s loc with
      | some m => (loseCopy (locShingle loc) ({ s with copies := amMod s.copies (copyKey 3 loc) (fun c => { c with mirrored := false }) }, 0)
          (locOff loc, m)).1
      | none => s
    | .session d cause => resolveWait (failSession s d cause) (.restored d) { status := .version }
    | _ => s) s

/-- The buddy is lost: its harbour freezes, the running epoch is torn, and the sessions with references to tier 2 fail. -/
def loseBuddy (s : State) : State :=
  if !bound s then s
  else
    let s := tearEpoch s
    let s := modPair s (fun p => { p with
      status := 3, hosted := none, restartUntil := none
      frozen := match p.hosted with
        | some h => amSet p.frozen h.source { h with cur := none, reading := false }
        | none => p.frozen })
    let ds := (s.sessions.filter (fun e => e.2.refs.any (fun r => r.2.tier == 2) || (match e.2.ebb with
      | some j => j.tier == 2 && !j.switched.isEmpty
      | none => false))).map (·.1)
    let s := dropReads s
    let s := ds.foldl (fun s d => failSession s d 2) s
    postPf s 0x0702 0 (s.pair.buddy + ds.length % 2 ^ 32 * 2 ^ 64)

/-- BUDDY_LOST: no valid flit for 1 ms, unless a chip restart was announced. -/
def execBuddyLost (pm : Nat) (s : State) : Out :=
  let s := advance pm s
  if bound s = true ∧ s.pair.restartUntil = none ∧ s.pair.lastFlit + 1000000 ≤ s.postmark then .next (loseBuddy s) else .next s

/-- BUDDY_ANNOUNCE: the buddy enters BEACHED or a device reset, or a chip restart, which has 3 s. -/
def execBuddyAnnounce (restart : Bool) (pm : Nat) (s : State) : Out :=
  let s := leaveFlit s
  let s := advance pm s
  if bound s then
    .next (if restart then modPair (tearEpoch s) (fun p => { p with restartUntil := some (s.postmark + 3000000000) }) else loseBuddy s)
  else .next s

/-- BUDDY_RESTART_TIMEOUT. -/
def execBuddyRestartTimeout (pm : Nat) (s : State) : Out :=
  let s := advance pm s
  match s.pair.restartUntil with
  | some u => .next (if u ≤ s.postmark then loseBuddy s else s)
  | none => .next s

/-! ### Binding (R575, R576, R694, R698) -/

/-- The identity is in the installed device set. -/
def inDeviceSet (s : State) (dev : Nat) : Bool := s.sec.deviceSet.any (fun e => e.1 == dev)

/-- Both binds are in, each naming the other: the pair binds, and the buddy's reserve is taken here (R575, R576). -/
def tryBind (s : State) : State :=
  if s.pair.status ≠ 1 ∨ !linked s then s
  else
    match s.pair.announced with
    | none => s
    | some (dev, names, pct, parkPct) =>
      if names ≠ s.boot.deviceId then s
      else if dev ≠ s.pair.buddy then
        resolveWait (modPair s (fun p => { p with status := 0 })) .buddyBind (rKey 3)
      else
        match takeReserve s (reserveFrames pct) with
        | none => pressEbbs s
        | some (runs, t) =>
          if s.pair.noFrames then s
          else
            let mine := reserveFrames t.pair.reservePct
            let h : Harbour := { source := dev, runs := runs, frames := reserveFrames pct, parkMax := reserveFrames pct * parkPct / 100 }
            let t := modPair t (fun p => { p with
              status := 2, reserve := mine, lastEpoch := 0, nextEpoch := 1, lastStart := none, run := none, entries := [], store := []
              fulls := [], chains := [], hosted := some h, announced := none, lastFlit := s.postmark
              half0 := { p.half0 with flits := 0, keySince := s.postmark }, half1 := { p.half1 with flits := 0, keySince := s.postmark } })
            let t := postPf t 0x0701 0 (dev + mine % 2 ^ 32 * 2 ^ 64)
            checkPressure (resolveWait t .buddyBind (rOk 1))

/-- PAIR_BIND. -/
def pairBindSpec (h : Hdr) (buddy reservePct : Nat) : RingCmd :=
    { pfOnly := true
      bad := fun _ => [(32, decide (50 < reservePct))]
      refuse := fun s => [refuseIf (!bound s && (!inDeviceSet s buddy || s.sec.debug)) (rKey 3)]
      run := fun s tag =>
        if bound s then done s h tag (rOk 3)
        else
          let s := modPair s (fun p => { p with
            status := 1, buddy := buddy, reservePct := reservePct, parkPctBound := p.parkPct, bindSince := s.postmark
            noFrames := p.announced.isSome && p.noFrames })
          let s := park s h tag .buddyBind
          tryBind (isthmus s (.bind reservePct s.pair.parkPct)) }

/-- PAIR_BIND. -/
def execPairBind (h : Hdr) (buddy reservePct : Nat) (s : State) : Out := adminCmd h (pairBindSpec h buddy reservePct) s

/-- BUDDY_PAIR_BIND: the buddy's bind arrives: its attested identity, whom it names, its RESERVE_PCT and PARK_PCT, and whether it has
this device's frames. -/
def execBuddyPairBind (dev names reservePct parkPct : Nat) (reserved : Bool) (s : State) : Out :=
  let s := leaveFlit s
  if linked s = true ∧ bound s = false ∧ reservePct ≤ 50 ∧ parkPct ≤ 100 then
    .next (tryBind (modPair s (fun p => { p with announced := some (dev, names, reservePct, parkPct), noFrames := !reserved })))
  else .next s

/-- PAIR_BIND_TIMEOUT: 10 s without a bind; outcome 2 where the buddy could not reserve the frames. -/
def execPairBindTimeout (pm : Nat) (s : State) : Out :=
  let s := advance pm s
  if s.pair.status = 1 ∧ s.pair.bindSince + 10000000000 ≤ s.postmark then
    .next (resolveWait (modPair s (fun p => { p with status := 0 })) .buddyBind (rOk (if s.pair.noFrames then 2 else 0)))
  else .next s

/-- PAIR_UNBIND. -/
def pairUnbindSpec (h : Hdr) : RingCmd :=
    { pfOnly := true
      refuse := fun s => [refuseIf (s.sessions.any (fun e => e.2.refs.any (fun r => r.2.tier == 2))) (rBusy 1)]
      run := fun s tag =>
        let s := isthmus (tearEpoch s) (.release .everything)
        let s := modPair s (fun p => { p with
          status := 0, reserve := 0, lastEpoch := 0, nextEpoch := 1, lastStart := none, entries := [], store := [], fulls := [], chains := [] })
        let s := { s with copies := amMap s.copies (fun _ c => { c with mirrored := false }) }
        done (resolveWait s .buddyBind (rOk 0)) h tag rOk }

/-- PAIR_UNBIND. -/
def execPairUnbind (h : Hdr) (s : State) : Out := adminCmd h (pairUnbindSpec h) s

/-- SET_CHECKPOINT. -/
def setCheckpointSpec (h : Hdr) (timerMs steps : Nat) : RingCmd :=
    { pfOnly := true
      bad := fun _ => [(24, timerMs == 0 || decide (10000 < timerMs)), (26, steps == 0 || decide (4096 < steps))]
      run := fun s tag => done (modPair s (fun p => { p with timerMs := timerMs, stepsTrigger := steps })) h tag rOk }

/-- SET_CHECKPOINT. -/
def execSetCheckpoint (h : Hdr) (timerMs steps : Nat) (s : State) : Out := adminCmd h (setCheckpointSpec h timerMs steps) s

/-! ### The park area, mirrors and notices (R578, R580, R581) -/

/-- PARK_COPY: the buddy's ebbed copy is stored in its park area, in whole frames (R578). -/
def execParkCopy (loc : Nat) (c : PageCopy) (s : State) : Out :=
  let s := leaveFlit s
  match s.pair.hosted with
  | some h =>
    let n := parkFramesOf c.body.length
    let clash := h.park.any (fun e => decide (e.1 < loc + n) && decide (loc < e.1 + parkFramesOf e.2.body.length))
    if loc + n ≤ h.parkMax ∧ clash = false then
      .next (modPair s (fun p => { p with hosted := some { h with park := amSet h.park loc c } }))
    else .next s
  | none => .next s

/-- MIRROR_COPY: programmed into the mirror shingle and entered in the mirror index, while the media and the index take it (R549). -/
def execMirrorCopy (c : PageCopy) (s : State) : Out :=
  let s := leaveFlit s
  let k : MirrorKey := { device := c.device, handle := c.handle, layer := c.layer, page := c.page, gen := c.gen }
  let size := c.body.length
  if bound s = true ∧ s.media.state = 3 ∧ s.media.mirrors.length < 4194304 then
    let cp : Copy := { account := c.account, layer := c.layer, page := c.page, size := size, format := c.format, gen := c.gen, filled := c.filled
                       narrowed := c.narrowed, mirrored := false, chainId := if c.chainId = 0 then none else some c.chainId }
    match mediaPlace s 6 { handle := c.handle, device := c.device, mirror := true, tail := c.tail, blocks := copyBlocks size, copy := cp, body := c.body } with
    | (some loc, s) => .next (modMedia s (fun m => { m with mirrors := (k, loc) :: m.mirrors.filter (fun e => e.1 != k) }))
    | (none, s) => .next s
  else .next s

/-- A mirror copy that its source has released goes once no committed slot names it. -/
def releaseMirrorKey (s : State) (k : MirrorKey) : State :=
  match s.pair.hosted with
  | some h => if slotNamesMirror h k then modPair s (fun p => { p with releasePending := k :: p.releasePending }) else dropMirrors s (· == k)
  | none => dropMirrors s (· == k)

/-- RELEASE_NOTICE (R581, R196, R706), from the bound buddy or, for a frozen harbour, from the device that restored it. -/
def execReleaseNotice (w : ReleaseWhat) (s : State) : Out :=
  let s := leaveFlit s
  let src := s.pair.buddy
  match w with
  | .mirror handle layer page gen =>
    .next (releaseMirrorKey s { device := src, handle := handle, layer := layer, page := page, gen := gen })
  | .park loc => .next (modPair s (fun p => { p with hosted := p.hosted.map (fun h => { h with park := amErase h.park loc }) }))
  | .account a =>
    let s := dropMirrors s (fun k => k.device == src && handleAccount k.handle == a)
    .next (modPair s (fun p => { p with hosted := p.hosted.map (fun h => { h with park := amFilter h.park (fun _ c => c.account != a) }) }))
  | .everything =>
    let s := match s.pair.hosted with
      | some h => freeHarbour s h
      | none => s
    .next (modPair (dropMirrors s (fun k => k.device == src)) (fun p => { p with hosted := none, releasePending := [] }))
  | .frozen source =>
    match amGet s.pair.frozen source with
    | some h => .next (modPair (dropMirrors (freeHarbour s h) (fun k => k.device == source)) (fun p => { p with frozen := amErase p.frozen source }))
    | none => .next s

/-! ### Checkpoint epochs (R582 to R596) -/

/-- EPOCH_START. -/
def execEpochStart (pm : Nat) (s : State) : Out :=
  let s := advance pm s
  .next (if epochDue s then startEpoch s else s)

/-- CHECKPOINT_DELTA: one item of the buddy's epoch and its bytes as sent. -/
def execCheckpointDelta (epoch : Nat) (item : CkptItem) (bytes : List Byte) (s : State) : Out :=
  let s := leaveFlit s
  match s.pair.hosted with
  | some h =>
    if bound s then
      let h := match h.cur with
        | some (e, _, _) => if e = epoch then h else openSlot h epoch
        | none => openSlot h epoch
      let h := applyItem epoch h item
      let h := { h with cur := h.cur.map (fun c => (c.1, c.2.1 + bytes.length, crc64Go c.2.2 bytes)) }
      .next (modPair s (fun p => { p with hosted := some h }))
    else .next s
  | none => .next s

/-- COMMIT_RECORD: written only once BYTE_COUNT and EPOCH_CRC check and every copy named is made (R593). -/
def execCommitRecord (r : CommitRecord) (s : State) : Out :=
  let s := leaveFlit s
  match s.pair.hosted with
  | some h =>
    let h := match h.cur with
      | some (e, _, _) => if e = r.epoch then h else openSlot h r.epoch
      | none => openSlot h r.epoch
    match h.cur with
    | some (_, n, crc) =>
      if bound s = true ∧ recordValid r (r.epoch % 2) h.source = true ∧ n = r.byteCount ∧ (crc ^^^ 0xFFFFFFFFFFFFFFFF) = r.epochCrc
          ∧ namesMade h (if r.epoch % 2 = 0 then h.slotA else h.slotB) = true then
        let h := writeRecord h r
        let s := modPair s (fun p => { p with hosted := some h })
        let go := s.pair.releasePending.filter (fun k => !slotNamesMirror h k)
        let s := modPair (dropMirrors s (fun k => go.contains k)) (fun p => { p with
          releasePending := p.releasePending.filter (fun k => !go.contains k) })
        .next (isthmus s (.committed r.epoch))
      else .next s
    | none => .next s
  | none => .next s

/-- EPOCH_COMMITTED: the buddy has written the record. -/
def execEpochCommitted (epoch : Nat) (s : State) : Out :=
  let s := leaveFlit s
  match s.pair.run with
  | some r => .next (if r.num = epoch ∧ bound s = true then commitEpoch s r else s)
  | none => .next s

/-! ### Restores (R597 to R602) -/

/-- RESTORE_DEVICE: the LC phase begins with the read of the holder's image, over the Isthmus from the bound buddy. -/
def restoreDeviceSpec (h : Hdr) (source holder : Nat) : RingCmd :=
    { pfOnly := true
      refuse := fun s => [refuseIf (s.role != 3 || s.pair.restore.isSome) (rBusy 1), refuseIf s.sec.debug (rKey 3)]
      run := fun s tag =>
        let n := amLowestFree s.pair.reads 1
        let s := park s h tag .restoreLc
        let s := modPair s (fun p => { p with
          restore := some { tag := tag, source := source, holder := holder }, reads := amSet p.reads n .device })
        emit (.holderRead holder n (.image source)) s }

/-- RESTORE_DEVICE. -/
def execRestoreDevice (h : Hdr) (source holder : Nat) (s : State) : Out := adminCmd h (restoreDeviceSpec h source holder) s

/-- The holder references of a restore. -/
def holderLeft (s : State) (holder : Nat) : Bool :=
  let num := numOfDev s holder
  s.sessions.any (fun e => e.2.state != .failed && !(holderKeys e.2 num).isEmpty)

/-- RESTORE_DONE: no holder reference remains, so the holder frees the frozen harbour and the mirror copies. -/
def execRestoreDone (s : State) : Out :=
  match s.pair.restore with
  | some q =>
    if q.background ∧ holderLeft s q.holder = false then
      let s := modPair s (fun p => { p with restore := none })
      .next (emit (.holderRelease q.holder q.source) (postPf s 0x0707 0 q.source))
    else .next s
  | none => .next s

/-- RESTORE_SESSION. -/
def restoreSessionSpec (h : Hdr) (handle : Nat) : RingCmd :=
  sessionSpec h handle false (fun _ => [])
    (fun s => [refuseIf (!hasEntry s handle) { status := .version }, stateRefuse s handle [.failed]])
    (fun s tag d =>
      let s := putOp s tag { ringOp s h .admin (.waiting (.restored d)) with account := some (handleAccount handle) }
      if restoring s d then s else askRestore s d ((amGet s.sessions d).elim 2 (fun x => x.failCause)))

/-- RESTORE_SESSION. -/
def execRestoreSession (h : Hdr) (handle : Nat) (s : State) : Out := adminCmd h (restoreSessionSpec h handle) s

/-- SUCCESSION. -/
def successionSpec (h : Hdr) (failed successor : Nat) : RingCmd :=
    { pfOnly := true
      bad := fun s => [(24, failed == s.boot.deviceId)]
      run := fun s tag =>
        done (modPair s (fun p => { p with
          successions := (failed, successor) :: p.successions.filter (fun e => e.1 != failed) })) h tag rOk }

/-- SUCCESSION. -/
def execSuccession (h : Hdr) (failed successor : Nat) (s : State) : Out := adminCmd h (successionSpec h failed successor) s

/-- RELEASE_FROZEN. -/
def releaseFrozenSpec (h : Hdr) (source : Nat) : RingCmd :=
    { pfOnly := true
      refuse := fun s => [refuseIf ((amGet s.pair.frozen source).any (fun q => q.reading)) (rBusy 1)]
      run := fun s tag =>
        let s := match amGet s.pair.frozen source with
          | some q => freeHarbour s q
          | none => s
        done (modPair (dropMirrors s (fun k => k.device == source)) (fun p => { p with frozen := amErase p.frozen source })) h tag rOk }

/-- RELEASE_FROZEN. -/
def execReleaseFrozen (h : Hdr) (source : Nat) (s : State) : Out := adminCmd h (releaseFrozenSpec h source) s

/-- HARBOUR_READ: a read of the buddy's, or of a restoring device, is served (R578, R581, R601). -/
def execHarbourRead (source req : Nat) (ask : HarbourAsk) (s : State) : Out :=
  let s := leaveFlit s
  let t := harbourServe s source ask
  .next (isthmus t.1 (.data req t.2))

/-- The bytes of a page of a flood have come: its copy holds them, and the page goes to HBM. -/
def arriveCopy (s : State) (d key : Nat) (c : PageCopy) : State :=
  match amGet s.sessions d with
  | none => s
  | some x =>
    match amGet x.refs key with
    | none => s
    | some r =>
      let ck := copyKey r.tier r.loc
      let new := landCopy (sessProfile s x) { c with account := handleAccount x.handle } false
      let put := match amGet s.copies ck with
        | some old => { new with narrowed := old.narrowed || c.narrowed, chainId := old.chainId, filled := old.filled, page := old.page, layer := old.layer, gen := old.gen }
        | none => { new with page := pkPage key, layer := pkLayer key, gen := r.gen
                             filled := if pkPage key = tailIndex x then tailFilled x else 256
                             rows := parseBody (sessProfile s x) c.body r.format (if pkPage key = tailIndex x then tailFilled x else 256) }
      let s := { s with copies := amSet s.copies ck put }
      match x.move with
      | some j => if j.todo.contains key then sendMove s d key else s
      | none =>
        match x.flood with
        | some j =>
          if j.todo.contains key then
            let s := modSession s d (fun x => { x with flood := x.flood.map (fun j => { j with arrived := key :: j.arrived }) })
            resumeWrites (resumeSteps (checkPressure (endFlood (placePage s d key) d)) d) d
          else s
        | none => s

/-- ISTHMUS_READ_DATA: what a read of the buddy or holder asked for. -/
def execIsthmusReadData (req : Nat) (data : HarbourData) (s : State) : Out :=
  let s := leaveFlit s
  match amGet s.pair.reads req with
  | none => .next s
  | some f =>
    let s := modPair s (fun p => { p with reads := amErase p.reads req })
    match f, data with
    | .flood d key, .copy c => .next (arriveCopy s d key c)
    | .flood d _, _ => .next (loseSession s d 2)
    | .mirror loc, .copy c =>
      match mediaAt s loc with
      | some m =>
        let b := (s.sessions.find? (fun e => e.2.handle == m.handle)).elim [] (fun e => sessProfile s e.2)
        let s := modMedia s (fun k => { k with fromBuddy := k.fromBuddy + 1 })
        .next { s with copies := amMod s.copies (copyKey 3 loc) (fun old => { old with rows := parseBody b c.body old.format old.filled }) }
      | none => .next s
    | .mirror loc, _ =>
      match mediaAt s loc with
      | some m => .next (loseCopy (locShingle loc) ({ s with copies := amMod s.copies (copyKey 3 loc) (fun c => { c with mirrored := false }) }, 0)
          (locOff loc, m)).1
      | none => .next s
    | .device, .image i =>
      match s.pair.restore with
      | some q => .next (restoreImage s q i)
      | none => .next s
    | .device, _ =>
      match s.pair.restore with
      | some q => .next (resolveTag (modPair s (fun p => { p with restore := none })) q.tag (rNotOwner 0))
      | none => .next s
    | .session d cause, .image i => .next (restoreInPlace s d cause i)
    | .session d cause, _ => .next (resolveWait (failSession s d cause) (.restored d) { status := .version })

/-! ### Roles (R610 to R612) -/

/-- Objects that a role refuses stand on this device: sessions and adapter bundles need HOLD, indexes HOLD or RECALL, pool pages POOL. -/
def roleHolds (s : State) (role : Nat) : Bool :=
  (role != 0 && (s.sessions.any (fun e => !e.2.stub) || !s.bundles.isEmpty))
    || (role != 0 && role != 1 && !s.indexes.isEmpty)
    || (role != 2 && !s.tw.poolStore.isEmpty)

/-- A role is entered. -/
def enterRole (s : State) (role : Nat) (profile : Ref) : State :=
  postPf { modPair s (fun p => { p with drain := none }) with role := role, roleNext := none, roleProfile := profile } 0x0708 0
    (role + s.role * 2 ^ 8)

/-- SET_ROLE: at once, or after a drain of at most DRAIN_MS. -/
def setRoleSpec (h : Hdr) (role profile : Nat) : RingCmd :=
    { pfOnly := true
      bad := fun _ => [(24, decide (3 < role))]
      refuse := fun s => [refRefuse s 4 (refOf profile), refuseIf s.pair.drain.isSome (rBusy 1)]
      run := fun s tag =>
        match resolveRef s 4 (refOf profile) with
        | none => done s h tag (rBusy 1)
        | some r =>
          if roleHolds s role then
            let u := s.postmark + field (cfgBody s 4 r) 0 4 * 1000000
            park { modPair s (fun p => { p with drain := some { tag := tag, role := role, profile := r, until_ := u } }) with
              roleNext := some role } h tag .roleDrain
          else done (enterRole s role r) h tag (rOk 1) }

/-- SET_ROLE. -/
def execSetRole (h : Hdr) (role profile : Nat) (s : State) : Out := adminCmd h (setRoleSpec h role profile) s

/-- ROLE_DRAIN_END. -/
def execRoleDrainEnd (s : State) : Out :=
  match s.pair.drain with
  | some q => .next (if roleHolds s q.role then s else resolveWait (enterRole s q.role q.profile) .roleDrain (rOk 1))
  | none => .next s

/-- ROLE_DRAIN_TIMEOUT: the old role stands. -/
def execRoleDrainTimeout (pm : Nat) (s : State) : Out :=
  let s := advance pm s
  match s.pair.drain with
  | some q =>
    if q.until_ ≤ s.postmark ∧ roleHolds s q.role = true then
      .next (resolveWait { modPair s (fun p => { p with drain := none }) with roleNext := none } .roleDrain (rOk 0))
    else .next s
  | none => .next s

end Sys2Proof.Machine
end

