-- ==== Sys2Proof/Machine/Doorbells.lean ====
section
/-! DEFINITION. Doorbells, function enables, live fields and per-function resets (R60 to R70, R92 to R96, R99 to R104). -/

namespace Sys2Proof.Machine

/-- A ring takes doorbells: it is live and its deletion has not begun (R68). -/
def ringTakes (r : Ring) : Bool := r.live && !r.deleting

/-- RING_INDEX: the index written, and whether the ring was not live (R81). -/
def postRingIndex (s : State) (fn source idx : Nat) (notLive : Bool) : State :=
  postEvent s fn 0x0001 source (idx + b2n notLive * 2 ^ 16)

/-- The function takes doorbells at all: present, enabled, and not being reset (R68, Table 2.27). -/
def fnTakes (s : State) (fn : Nat) : Bool :=
  fnPresent s fn && (getFn s fn).enable && !(getFn s fn).flrBusy && accepting s

/-- The slots a doorbell announces: as many as the index moves on, each as the device finds it (R69). -/
def announced (r : Ring) (idx : Nat) (entries : List SlotRead) : List SlotRead :=
  let n := (idx + r.depth - r.prod) % r.depth
  entries.take n ++ List.replicate (n - entries.length) .entry

/-- A submission ring's doorbell (R67 to R69, R77). -/
def sqDoorbell (s : State) (fn : Nat) (rid : RingId) (value : Nat) (entries : List SlotRead) : State :=
  let r := getRing (getFn s fn) rid
  let idx := value % 65536
  if !fnTakes s fn then s
  else if !ringTakes r then postRingIndex s fn (ringSource rid) idx true
  else if r.stopped then s
  else if r.depth ≤ idx then postRingIndex s fn (ringSource rid) idx false
  else settleRing (modRing s fn rid (fun r => { r with prod := idx, slots := r.slots ++ announced r idx entries })) fn rid

/-- A receipt ring's head doorbell: slots are free again, and held receipts are written (R67, R75). -/
def rqDoorbell (s : State) (fn : Nat) (rid : RingId) (value : Nat) : State :=
  let r := getRing (getFn s fn) rid
  let idx := value % 65536
  if !fnTakes s fn then s
  else if !ringTakes r then postRingIndex s fn (ringSource rid) idx true
  else if r.stopped then s
  else if r.depth ≤ idx then postRingIndex s fn (ringSource rid) idx false
  else
    let s := modRing s fn rid (fun r => { r with rqHead := idx })
    flushHeld (r.held.length) s fn rid

/-- ADMIN_SQ_TAIL. -/
def execAdminSqTail (fn value : Nat) (entries : List SlotRead) (s : State) : Out :=
  .next (sqDoorbell (leaveSlack s 2) fn .admin value entries)

/-- ADMIN_RQ_HEAD. -/
def execAdminRqHead (fn value : Nat) (s : State) : Out := .next (rqDoorbell (leaveSlack s 2) fn .admin value)

/-- EVENT_HEAD (R67, R68). -/
def execEventHead (fn value : Nat) (s : State) : Out :=
  let s := leaveSlack s 2
  let f := getFn s fn
  let idx := value % 65536
  if !fnTakes s fn then .next s
  else if !f.eventEn then .next (postRingIndex s fn 0x0200 idx true)
  else if f.eventStopped then .next s
  else if f.evDepth ≤ idx then .next (postRingIndex s fn 0x0200 idx false)
  else .next (modFn s fn (fun f => { f with evHead := idx }))

/-- STEP_SQ_TAIL. -/
def execStepSqTail (fn n value : Nat) (entries : List SlotRead) (s : State) : Out :=
  .next (sqDoorbell (leaveSlack s 2) fn (.step n) value entries)

/-- STEP_RQ_HEAD. -/
def execStepRqHead (fn n value : Nat) (s : State) : Out :=
  .next (settleDeletion (rqDoorbell (leaveSlack s 2) fn (.step n) value) fn n)

/-- TEXT_SQ_TAIL. -/
def execTextSqTail (fn value : Nat) (entries : List SlotRead) (s : State) : Out :=
  .next (sqDoorbell (leaveSlack s 2) fn .text value entries)

/-- TEXT_RQ_HEAD. -/
def execTextRqHead (fn value : Nat) (s : State) : Out := .next (rqDoorbell (leaveSlack s 2) fn .text value)

/-- SEARCH_SQ_TAIL. -/
def execSearchSqTail (fn value : Nat) (entries : List SlotRead) (s : State) : Out :=
  .next (sqDoorbell (leaveSlack s 2) fn .search value entries)

/-- SEARCH_RQ_HEAD. -/
def execSearchRqHead (fn value : Nat) (s : State) : Out := .next (rqDoorbell (leaveSlack s 2) fn .search value)

/-! ### Enables -/

/-- FUNC_CTRL.ENABLE (R95): on 0 to 1 a VF takes its command set. -/
def execEnable (fn : Nat) (on : Bool) (s : State) : Out :=
  if !regsOpen s fn then .next s
  else
    .next (modFn s fn (fun f =>
      { f with enable := on
               set3 := if on && !f.enable then fn != 0 && s.vfCompat.getLsbD (fn - 1) else f.set3 }))

/-- A ring pair emptied and at index 0 (R62). -/
def freshRing (live : Bool) (base rqBase depth vector port : Nat) : Ring :=
  { live := live, base := base, rqBase := rqBase, depth := depth, vector := vector, port := port }

/-- The held receipts of a ring that empties go to the dead-letter ring (R62). -/
def dropHeld (s : State) (fn : Nat) (rid : RingId) : State :=
  let r := getRing (getFn s fn) rid
  let s := modRing s fn rid (fun r => { r with held := [] })
  r.held.foldl (fun s h => deadLetter s fn rid h.receipt) s

/-- FUNC_CTRL.ADMIN_EN (R61, R62, R77). -/
def execAdminEn (fn : Nat) (on : Bool) (s : State) : Out :=
  let f := getFn s fn
  if !regsOpen s fn || f.adminEn == on then .next s
  else if on then
    .next (setFn s fn { f with adminEn := true
                               admin := freshRing true f.adminSqBase.toNat f.adminRqBase.toNat 256 0 f.adminPort })
  else
    .next (modFn (dropHeld s fn .admin) fn (fun f => { f with adminEn := false, admin := {} }))

/-- CHIP_RESTARTED goes to a function whose event ring is enabled within 10 s after a chip restart (R626). -/
def tellRestart (s : State) (fn : Nat) : State :=
  match s.faults.restartEnd with
  | some e =>
    if s.postmark ≤ e + 10000000000 ∧ s.faults.told.contains fn = false then
      let s := postEvent s fn 0x0806 0 (s.faults.chipRestarts % 65536 + s.faults.restored % 2 ^ 32 * 2 ^ 32)
      { s with faults := { s.faults with told := fn :: s.faults.told } }
    else s
  | none => s

/-- FW_FALLBACK goes to PF_0 once its event ring is enabled after the boot that fell back (R683). -/
def tellFallback (s : State) (fn : Nat) : State :=
  match (if fn = 0 then s.boot.fellBack else none) with
  | some v => postPf { s with boot := { s.boot with fellBack := none } } 0x0A04 s.boot.running (v % 2 ^ 32)
  | none => s

/-- FUNC_CTRL.EVENT_EN (R61, R63). -/
def execEventEn (fn : Nat) (on : Bool) (s : State) : Out :=
  let f := getFn s fn
  let depth := f.eventCfg.toNat % 2 ^ 13
  if !regsOpen s fn || f.eventEn == on then .next s
  else if on then
    if pow2In 64 4096 depth then
      let g : Fn := { f with eventEn := true, eventStopped := false, evBase := f.eventBase.toNat, evDepth := depth
                             evVector := bits f.eventCfg.toNat 21 16, evProd := 0, evHead := 0, evPhase := true }
      .next (tellFallback (tellRestart (setFn s fn g) fn) fn)
    else .next s
  else .next (setFn s fn { f with eventEn := false, eventStopped := false, evProd := 0, evHead := 0 })

/-- TEXT_CFG.TEXT_EN (R354). -/
def execTextEn (fn : Nat) (on : Bool) (s : State) : Out :=
  let f := getFn s fn
  let cfg := f.textCfg.toNat
  if !regsOpen s fn || f.textEn == on then .next s
  else if on then
    if pow2In 16 4096 (cfg % 2 ^ 13) then
      .next (setFn s fn { f with textEn := true
                                 text := freshRing true f.textSqBase.toNat f.textRqBase.toNat (cfg % 2 ^ 13) (bits cfg 21 16) f.textPort })
    else .next s
  else .next (modFn (dropHeld s fn .text) fn (fun f => { f with textEn := false, text := {} }))

/-- SEARCH_CFG.SEARCH_EN (R400). -/
def execSearchEn (fn : Nat) (on : Bool) (s : State) : Out :=
  let f := getFn s fn
  let cfg := f.searchCfg.toNat
  if !regsOpen s fn || f.searchEn == on then .next s
  else if on then
    if pow2In 16 4096 (cfg % 2 ^ 13) then
      .next (setFn s fn
        { f with searchEn := true
                 search := freshRing true f.searchSqBase.toNat f.searchRqBase.toNat (cfg % 2 ^ 13) (bits cfg 21 16) f.searchPort })
    else .next s
  else .next (modFn (dropHeld s fn .search) fn (fun f => { f with searchEn := false, search := {} }))

/-- POSTMARK_LO read (R60): the high half of the same postmark goes to the latch. -/
def execPostmarkLo (fn pm : Nat) (s : State) : Out :=
  let s := advance pm s
  if fnPresent s fn then
    .next (emit (.readData fn (s.postmark % 2 ^ 32)) (modFn s fn (fun f => { f with latch := some (s.postmark / 2 ^ 32 % 2 ^ 32) })))
  else .next s

/-- POSTMARK_HI as it reads (R60): the latch, or the current high half while nothing has loaded it. -/
def readPostmarkHi (s : State) (fn : Nat) : Nat := (getFn s fn).latch.getD (s.postmark / 2 ^ 32 % 2 ^ 32)

/-- VF_COMPAT write, bit by bit (R96, R687): the bit of an enabled or a locked VF keeps its value. -/
def execVfCompat (value : Word64) (s : State) : Out :=
  let keep := fun i => (getFn s (i + 1)).enable || vfLocked s (i + 1)
  let mask : Word64 := BitVec.ofNat 64 ((List.range 64).foldl (fun m i => if keep i then m + 2 ^ i else m) 0)
  .next { s with vfCompat := (s.vfCompat &&& mask) ||| (value &&& ~~~mask) }

/-! ### Live fields of this chapter (R92 to R94) -/

/-- RECEIPT_HOLD: HOLD_US, 0 to 10,000. -/
def execReceiptHold (fn : Nat) (value : Word32) (s : State) : Out :=
  let v := value.toNat % 2 ^ 14
  if regsOpen s fn then .next (writeLive s (.receiptHold fn) v (decide (v ≤ 10000))) else .next s

/-- COALESCE: COUNT 1 to 4,095 and TIME_US. -/
def execCoalesce (fn : Nat) (value : Word32) (s : State) : Out :=
  let v := value.toNat % 2 ^ 12 + bits value.toNat 31 16 * 2 ^ 16
  if regsOpen s fn then .next (writeLive s (.coalesce fn) v (v % 2 ^ 12 != 0)) else .next s

/-- FWD_GRACE: 0 to 1,000 ms, in PF_0's registers. -/
def execFwdGrace (value : Word32) (s : State) : Out :=
  let v := value.toNat % 2 ^ 10
  if regsOpen s 0 then .next (writeLive s .fwdGrace v (decide (v ≤ 1000))) else .next s

/-- SNOOP_TIMEOUT: 1 to 100 ms, in PF_0's registers. -/
def execSnoopTimeout (value : Word32) (s : State) : Out :=
  let v := value.toNat % 2 ^ 7
  if regsOpen s 0 then .next (writeLive s .snoopTimeout v (v != 0 && decide (v ≤ 100))) else .next s

/-- The function whose event ring gets LIVE_APPLIED for a field, and the field's BAR0 offset (R81, R92). -/
def liveWhere : LiveField → Nat × Nat
  | .receiptHold f => (f, 0x200)
  | .coalesce f => (f, 0x204)
  | .fwdGrace => (0, 0x808)
  | .snoopTimeout => (0, 0x80C)
  | .lcLimit => (0, 0x814)
  | .lcShare p => (0, 0x900 + 4 * (p - 1))
  | f => (0, Config.liveOffsetOf (liveKey f))

end Sys2Proof.Machine
end

