-- ==== Sys2Proof/Machine/Migrate.lean ====
section
/-! DEFINITION. Migration of a session to another device over Tideway (R140 to R144, R521, R522, R604 to R609). -/

namespace Sys2Proof.Machine

def modMigration (s : State) (d : Nat) (f : Migration → Migration) : State :=
  modPair s (fun p => { p with migrations := amMod p.migrations d f })

def getMigration (s : State) (d : Nat) : Option Migration := amGet s.pair.migrations d

def dropMigration (s : State) (d : Nat) : State := modPair s (fun p => { p with migrations := amErase p.migrations d })

/-! ### The old owner -/

/-- The order in which pages are read: every stream's tail page, then stream by stream, the highest page index first (R235, R606). -/
def sendOrder (x : Session) : List Nat :=
  let tail := fun (k : Nat) => pkPage k == tailIndex x
  (x.refs.filter (fun e => tail e.1)).map (·.1)
    ++ (List.range (x.layersM1 + 1)).flatMap (fun l =>
        ((x.refs.filter (fun e => pkLayer e.1 == l && !tail e.1)).reverse).map (·.1))

/-- The copies of pages, read from the tiers where they lie (R606). -/
def pagesToSend (s : State) (x : Session) (keys : List Nat) : List PageCopy :=
  keys.filterMap (fun k => (amGet x.refs k).bind (fun r => (pageAsCopy s x r).map (fun c => travelCopy s x c.1)))

/-- The entry of a migrating session: its state is the one it migrates from (R604, R143). -/
def migEntry (x : Session) : CkptEntry := { entryOf x 0 [] with state := stateCode x.prior }

/-- Digests of the versions that an entry fixes. -/
def migConfigs (s : State) (e : CkptEntry) : List ConfigImg := configTable s [(0, e)]

/-- Send a MIGRATE message of a session. -/
def sendMigrate (s : State) (d : Nat) (x : Session) (conn aux phase : Nat) (m : MigMsg) : State :=
  let t := takeFresh s
  let body := if aux = 1 ∨ aux = 3 then Config.entryBytes t.1 else if aux = 2 then m.pages.flatMap (·.body) else []
  sendRequest t.2 conn { op := opMigrate, epoch := s.chartEpoch, handle := x.handle, aux := aux, payload := body, mig := some m }
    { for_ := .migrate d phase }

/-- MIGRATE_SESSION (R138, R604): the session becomes MIGRATING and is offered to the target; without a connection the migration is
aborted at once. -/
def migrateSessionSpec (h : Hdr) (handle target : Nat) : RingCmd :=
    { pfOnly := true, set3 := true
      bad := fun s => [accBad s h.fn (handleAccount handle) 24]
      refuse := fun s => sessRefuse s h.fn handle ++ [stateRefuse s handle [.active, .idle, .parked]]
      waits := flrWaits h.fn (handleAccount handle)
      run := fun s tag =>
        match findHandle s handle with
        | none => done s h tag (rNotOwner (handleAccount handle))
        | some d =>
          match connTo s target with
          | none => done s h tag (rOk 0 (statusCode .fault))
          | some c =>
            let s := putOp s tag { ringOp s h .admin (.waiting (.handover d)) with account := some (handleAccount handle) }
            let s := resolveWait s (.replaced d) { status := .fault }
            let s := upd s d (fun x => { x with state := .migrating, prior := x.state, migrateTarget := target, move := none, ebbDeferred := false })
            let g : Migration := { conn := c, peer := target, tag := some tag, phase := 0 }
            let s := modPair s (fun p => { p with migrations := amSet p.migrations d g })
            match amGet s.sessions d with
            | some x =>
              let e := migEntry x
              sendMigrate s d x c 1 0 { entry := some e, stackCount := 12, pageLog2 := 8, fwMajor := (s.boot.version.getD Config.fwVersion) / 2 ^ 24 % 256
                                        configs := migConfigs s e }
            | none => s }

/-- MIGRATE_SESSION. -/
def execMigrateSession (h : Hdr) (handle target : Nat) (s : State) : Out := adminCmd h (migrateSessionSpec h handle target) s

/-- The migration is aborted before PREPARE's OK (R608). -/
def abortMigration (s : State) (d code : Nat) : State :=
  match getMigration s d, amGet s.sessions d with
  | some g, some x =>
    let s := dropMigration s d
    let s := match getConn s g.conn with
      | some c => if c.failed then s else sendMigrate s d x g.conn 5 4 {}
      | none => s
    let s := upd s d (fun x => { x with state := x.prior, prior := .migrating, migrateTarget := 0 })
    let s := liftFence s d
    resolveWait s (.handover d) (rOk 0 code)
  | _, _ => s

/-- The fence of the handover is taken and every admitted operation has completed: PREPARE goes out (R607). -/
def prepareMigration (s : State) (d : Nat) : State :=
  match getMigration s d, amGet s.sessions d with
  | some g, some x =>
    if g.tag.isSome && g.phase == 2 && x.fence && inflight s d == 0 then
      let late := (sendOrder x).filter (fun k => pkPage k == tailIndex x || !g.sent.contains k)
      let s := modMigration s d (fun g => { g with phase := 3 })
      sendMigrate s d x g.conn 3 2 { entry := some (migEntry x), pages := pagesToSend s x late }
    else s
  | _, _ => s

/-- A MIGRATE message of the old owner is answered (R607, R608). -/
def migrateAnswered (s : State) (d phase : Nat) (r : Rcpt) : State :=
  match getMigration s d, amGet s.sessions d with
  | some g, some x =>
    if g.tag.isNone then s
    else
      match phase with
      | 0 =>
        if r.status = .ok then
          let keys := sendOrder x
          let s := modMigration s d (fun g => { g with phase := 1, sent := keys })
          sendMigrate s d x g.conn 2 1 { pages := pagesToSend s x keys }
        else abortMigration s d (statusCode r.status)
      | 1 =>
        if r.status = .ok then
          prepareMigration (upd (modMigration s d (fun g => { g with phase := 2 })) d (fun x => { x with fence := true })) d
        else abortMigration s d (statusCode r.status)
      | 2 => if r.status = .ok then modMigration s d (fun g => { g with phase := 4 }) else abortMigration s d (statusCode r.status)
      | 3 =>
        if r.status = .fault then
          match connTo s g.peer with
          | some c => sendMigrate (modMigration s d (fun g => { g with conn := c, phase := 5 })) d x c 4 3 {}
          | none => modMigration s d (fun g => { g with phase := 6 })
        else
          let s := postAccount s (handleAccount x.handle) 0x0102 (x.handle + x.migrateEpoch % 2 ^ 32 * 2 ^ 64)
          resolveWait (dropMigration s d) (.handover d) (rOk 1)
      | _ => s
  | _, _ => s

/-- A connection of PF_0 to a target has been opened, so a COMMIT that could not be delivered goes out again (R607). -/
def resendCommits (s : State) (c dev : Nat) : State :=
  s.pair.migrations.foldl (fun s e =>
    if e.2.phase = 6 ∧ e.2.peer = dev ∧ e.2.tag.isSome then
      match amGet s.sessions e.1 with
      | some x => sendMigrate (modMigration s e.1 (fun g => { g with conn := c, phase := 5 })) e.1 x c 4 3 {}
      | none => s
    else s) s

/-- The old owner hands over (R140, R522): PREPARE has been answered OK, so STUB is set and COMMIT sent. -/
def handOver (s : State) (d : Nat) : State :=
  match getMigration s d, amGet s.sessions d with
  | some g, some x =>
    if g.tag.isSome && g.phase == 4 then
      let s := endText s d
      let s := upd s d (fun x => { x with
        stub := true, forwarding := true, handoverPm := s.postmark, migrateEpoch := (s.chartEpoch + 1) % 2 ^ 32, migrateTarget := g.peer })
      sendMigrate (modMigration s d (fun g => { g with phase := 5 })) d x g.conn 4 3 {}
    else s
  | _, _ => s

/-- Requests that a stub forwarded and that have no completion yet (R144). -/
def openForwards (s : State) (d : Nat) : Bool :=
  s.tw.conns.any (fun e => e.2.reqs.any (fun q => match q.2.for_ with
    | .relay _ k => k == d
    | _ => false))

/-- FWD_GRACE has passed since the handover. -/
def gracePassed (s : State) (x : Session) : Bool := decide (x.handoverPm + liveVal s .fwdGrace * 1000000 ≤ s.postmark)

/-- STUB_RELEASE (R144): the grace has passed, nothing forwarded is open, the epoch is current, and COMMIT is acknowledged (R607). -/
def execStubRelease (d pm : Nat) (s : State) : Out :=
  let s := advance pm s
  match amGet s.sessions d with
  | some x =>
    if x.stub && gracePassed s x && !openForwards s d && decide (x.migrateEpoch ≤ s.chartEpoch) && (getMigration s d).isNone then
      .next (retryGrants (freeSession s d))
    else .next s
  | none => .next s

/-! ### The target -/

/-- HBM frames of the pages of an offered session (R605, R606). -/
def offerFrames (s : State) (e : CkptEntry) : Nat :=
  let b := cfgBody s 0 (refOf e.profile)
  (e.layersM1 + 1) * ((e.tokens + 255) / 256) * pageFrames b (pfResident b)

/-- The first ebb tier that takes an offered PARKED session (R606, R229). -/
def offerTier (s : State) (e : CkptEntry) : Option Nat :=
  let b := cfgBody s 0 (refOf e.profile)
  let cls := cfgBody s 3 (refOf e.cls)
  let n := (e.layersM1 + 1) * ((e.tokens + 255) / 256)
  let size := pageBytes b (pfResident b)
  (clTiers cls).find? (fun t => canCharge s (handleAccount e.handle) t (n * size) && tierRoom s t (List.replicate n size)
    && (t != 3 || canCharge s (handleAccount e.handle) 5 (n * size)))

/-- The refusal of an OFFER, in the order of R605. -/
def offerRefuse (s : State) (m : MigMsg) : Option Rcpt :=
  match m.entry with
  | none => some (rInvalid 0)
  | some e =>
    let a := handleAccount e.handle
    let img : HarbourImage :=
      { records := [], entries := [], pages := [], parked := [], served := [], accounts := [], configs := m.configs }
    firstRefusal
      [ roleRefuse s [0], refuseIf (findHandle s e.handle).isSome (rBusy 1),
        refuseIf (m.stackCount != 12) (rVersion 6), refuseIf (m.pageLog2 != 8) (rVersion 7),
        refuseIf (m.fwMajor != (s.boot.version.getD Config.fwVersion) / 2 ^ 24 % 256) (rVersion 8), refuseIf (!entryFits s img e) (rVersion 0),
        refuseIf (decide (16777216 ≤ descInUse s) || (newIndex s).isNone) (rBusy 2),
        if e.state = stateCode .parked then refuseIf (offerTier s e).isNone (rQuota (clTierPref (cfgBody s 3 (refOf e.cls)) 0))
        else refuseIf (!canCharge s a 0 (65536 * offerFrames s e)) (rQuota 0),
        refuseIf (!poolFits s a ((e.layersM1 + 1) * 528 + 448)) (rQuota 0) ]

/-- OFFER (R605): the descriptor is created with INCOMING set, and the handle's redirect record goes (R521). -/
def takeOffer (s : State) (conn peer : Nat) (m : MigMsg) : State × Rcpt :=
  match offerRefuse s m, m.entry, newIndex s with
  | none, some e, some d =>
    let t := takeFresh s
    let s := t.2
    let x : Session :=
      { entrySession s e (Config.hbmAddr t.1) with
        state := .migrating, prior := if e.state = stateCode .parked then .parked else .idle, incoming := true, restored := bit e.flags 10
        narrowed := bit e.flags 9, expectedMs := e.expectedMs }
    let s := { s with sessions := amSet s.sessions d x, redirects := s.redirects.filter (fun r => r.1 != e.handle) }
    let g : Migration := { conn := conn, peer := peer, tag := none, phase := 0 }
    let s := modPair s (fun p => { p with migrations := amSet p.migrations d g })
    (noteTable (touch (noteQuotas (fitPool s (handleAccount e.handle)) (handleAccount e.handle)) d true), rOk)
  | some r, _, _ => (s, r)
  | _, _, _ => (s, rBusy 2)

/-- A page that came before is let go. -/
def replaceIncoming (s : State) (d key : Nat) : State :=
  match amGet s.sessions d with
  | some x =>
    match amGet x.refs key with
    | some r =>
      let s := modSession s d (fun x => { x with refs := amErase x.refs key })
      if r.tier = 0 then dropRef s r.loc else releaseCopy s (copyKey r.tier r.loc)
    | none => s
  | none => s

/-- A migrated page in HBM, entered into the identity index (R184, R203). -/
def landIncoming (s : State) (d : Nat) (x : Session) (c : PageCopy) : Option State :=
  let r : CkptRef := { layer := c.layer, page := c.page, kind := 0, format := c.format, gen := c.gen, loc := 0 }
  (landPage s d x r c.format c.filled c.narrowed c.chainId (parseBody (sessProfile s x) c.body c.format c.filled)).map (fun s =>
    let s := match (amGet s.sessions d).bind (fun y => amGet y.refs (pk c.layer c.page)) with
      | some q => modPage s q.loc (fun p => { p with identValid := false })
      | none => s
    indexPage d (pk c.layer c.page) true s)

/-- A migrated page of a PARKED session on the tier that takes it (R229); a pool device's answer gives its place. -/
def lowerIncoming (s : State) (d : Nat) (x : Session) (c : PageCopy) : Option State :=
  let key := pk c.layer c.page
  let cls := sessClass s x
  let cp := landCopy (sessProfile s x) c false
  match (clTiers cls).find? (fun t => canCharge s c.account t cp.size && tierRoom s t [cp.size] && (t != 3 || canCharge s c.account 5 cp.size)) with
  | none => none
  | some t =>
    let cp := { cp with mirrored := t == 3 && mirrorNow s x }
    let q := sendCopy s d x t key cp
    if t = 1 then some (modMigration q.2 d (fun g => { g with coming := amSet g.coming key c }))
    else
      match q.1 with
      | none => none
      | some l =>
        let loc := if t = 2 then l % 2 ^ 24 else l
        let s := { q.2 with copies := amSet q.2.copies (copyKey t loc) cp }
        let s := if t = 3 then countWritten s c.account (copyCharge 3 cp) else s
        some (modSession s d (fun x => { x with
          refs := amSet x.refs key { tier := t, format := c.format, gen := c.gen, loc := loc }
          chain := if c.chainId = 0 then x.chain else amSet x.chain c.page c.chainId }))

/-- Pages arrive; the answer is QUOTA where one cannot be placed. -/
def takePages (s : State) (d : Nat) (cs : List PageCopy) : State × Rcpt :=
  let t := cs.foldl (fun (t : State × Bool) c =>
    if !t.2 then t
    else
      let s := replaceIncoming t.1 d (pk c.layer c.page)
      match amGet s.sessions d with
      | none => (s, false)
      | some x =>
        let c := { c with account := handleAccount x.handle }
        match (if x.prior = .parked then lowerIncoming s d x c else landIncoming s d x c) with
        | some s => (s, true)
        | none => (s, false)) (s, true)
  let s := match amGet t.1.sessions d with
    | some x => checkPressure (noteQuotas (fitPool t.1 (handleAccount x.handle)) (handleAccount x.handle))
    | none => t.1
  (s, if t.2 then rOk else rQuota 0)

/-- The fields that the final entry carries over (R143, R607). -/
def finalFields (x : Session) (e : CkptEntry) : Session :=
  { x with tokens := e.tokens, tailGen := e.tailGen, commitSeq := e.commitSeq, automaton := e.automaton, escActive := e.escActive
           escPos := e.escPos, carry := e.carry, expectedMs := e.expectedMs, waitHint := bit e.flags 1, toks := entryToks e
           textCursor := e.textCursor, stateEpoch := e.stateEpoch, rules := e.rules, round := { num := e.commitSeq % 65536 } }

/-- COMMIT reaches the target: it owns the session (R140, R143, R609). -/
def takeOwnership (s : State) (d epoch : Nat) : State :=
  match amGet s.sessions d with
  | none => s
  | some x =>
    let s := dropMigration s d
    let parked := x.prior == .parked
    let s := upd s d (fun x => { x with
      incoming := false, state := if x.prior = .parked then .parked else .idle, prior := .migrating
      chartEpoch := (epoch + 1) % 2 ^ 32, createdPm := s.postmark, ckptDirty := true, ckptSteps := 0 })
    let s := openRound s d (resolveRef s 1 x.vocabRef) (csetNow s x)
    let s := { s with notices := s.notices ++ [{ d := d, tokens := x.tokens, round := x.round.num, ids := [] }] }
    let s := if parked then s else enterIdle s d
    modPair s (fun p => { p with received := true })

/-- The target frees what it received (R608). -/
def dropIncoming (s : State) (d : Nat) : State := retryGrants (freeSession (dropMigration s d) d)

end Sys2Proof.Machine
end

