-- ==== Sys2Proof/Machine/TwAnswer.lean ====
section
/-! DEFINITION. Answers to the requests that this device sent over Tideway, the relay of forwarded requests, and the end of a
connection (R197, R427, R494, R504, R505, R513, R520, R525, R528, R604 to R608). -/

namespace Sys2Proof.Machine

/-! ### Receipts as a COMPLETION carries them (R510) -/

/-- The status that a code stands for; a code of no status reads as FAULT. -/
def statusOf (k : Nat) : Status :=
  ([Status.ok, .degraded, .escaped, .shortResult, .postfilter, .partialShards, .pagesAbsent, .maskEmpty, .moved, .notOwner, .quota, .busy,
    .version, .keyInvalid, .fenced, .poisoned, .abortedFlr, .invalid, .fault].find? (fun x => statusCode x == k)).getD .fault

def rcptOf (bs : List Byte) : Rcpt :=
  { status := statusOf (field bs 1 1), notes := field bs 2 2, detail := field bs 8 4, resB := field bs 12 4, resA := field bs 16 8 }

/-! ### Pool pages (R229, R513) -/

/-- A page of session `d` that an ebb or a class change still sends out to a pool device. -/
def awaitsPut (j : Option (Nat × List Nat × AMap Nat)) (key : Nat) : Bool :=
  match j with
  | some (t, todo, placed) => t == 1 && todo.contains key && !amHas placed key
  | none => false

def ebbView (x : Session) : Option (Nat × List Nat × AMap Nat) := x.ebb.map (fun j => (j.tier, j.todo, j.placed))

def moveView (x : Session) : Option (Nat × List Nat × AMap Nat) := x.move.map (fun j => (j.tier, j.todo, j.placed))

/-- The PREPARE that waited for the last pages of an incoming session is answered. -/
def answerPrepare (s : State) (d : Nat) (r : Rcpt) : State :=
  match getMigration s d with
  | some g =>
    match g.prepare with
    | some tag =>
      resolveTag (modMigration s d (fun g => { g with prepare := none, phase := if r.status = .ok then 1 else g.phase })) tag r
    | none => s
  | none => s

/-- Every page of an incoming session has come. -/
def pagesHere (x : Session) : Bool := decide ((x.layersM1 + 1) * ((x.tokens + 255) / 256) ≤ x.refs.length)

/-- An incoming page has its place on a pool device. -/
def landComing (s : State) (d key : Nat) (c : PageCopy) (loc : Nat) : State :=
  match amGet s.sessions d with
  | none => s
  | some x =>
    let cp := landCopy (sessProfile s x) c false
    let s := modMigration { s with copies := amSet s.copies (copyKey 1 loc) cp } d (fun g => { g with coming := amErase g.coming key })
    let s := modSession s d (fun x => { x with
      refs := amSet x.refs key { tier := 1, format := c.format, gen := c.gen, loc := loc }
      chain := if c.chainId = 0 then x.chain else amSet x.chain c.page c.chainId })
    match getMigration s d with
    | some g => if g.coming.isEmpty then answerPrepare s d (rOk) else s
    | none => s

/-- An ebb whose tier has no more room is undone and tried again (R229, R211). -/
def ebbElsewhere (s : State) (d : Nat) : State :=
  startEbb (upd (undoEbb s d) d (fun x => { x with state := .idle, prior := .ebbing })) d

/-- A class change that finds no room ends (R747). -/
def endMove (s : State) (d : Nat) (x : Session) : State :=
  let s := match x.move with
    | some j => (j.placed.filter (fun e => j.todo.contains e.1 && j.tier == 1)).foldl (fun s e => poolFree s e.2) s
    | none => s
  resolveWait (upd s d (fun x => { x with move := none })) (.replaced d) (rQuota 1)

/-- A POOL_PUT is answered: its page has a place, another device is asked, or the tier has no room (R229, R513). -/
def poolPutDone (s : State) (live : Bool) (dev d key : Nat) (r : Rcpt) : State :=
  let loc := numOfDev s dev * 2 ^ 32 + r.resA % 2 ^ 32
  let s := if live ∧ r.status ≠ .ok then modTw s (fun t => { t with poolFull := if t.poolFull.contains dev then t.poolFull else dev :: t.poolFull })
    else s
  let other := !(poolDevs s).isEmpty
  match amGet s.sessions d with
  | none => if r.status = .ok then poolFree s loc else s
  | some x =>
    let coming := (getMigration s d).bind (fun g => amGet g.coming key)
    if awaitsPut (ebbView x) key then
      if r.status = .ok then modSession s d (fun x => { x with ebb := x.ebb.map (fun j => { j with placed := amSet j.placed key loc }) })
      else if other then sendEbb s d key
      else ebbElsewhere s d
    else if awaitsPut (moveView x) key then
      if r.status = .ok then modSession s d (fun x => { x with move := x.move.map (fun j => { j with placed := amSet j.placed key loc }) })
      else if other then sendMove s d key
      else endMove s d x
    else
      match coming with
      | some c =>
        if r.status = .ok then landComing s d key c loc
        else if other then (sendCopy s d x 1 key (landCopy (sessProfile s x) c false)).2
        else answerPrepare (modMigration s d (fun g => { g with coming := amErase g.coming key })) d (rQuota 1)
      | none => if r.status = .ok then poolFree s loc else s

/-- A session still waits for the bytes of a page at a pool device. -/
def awaitsGet (x : Session) (key : Nat) : Bool :=
  (match x.flood with
   | some j => j.todo.contains key && !j.arrived.contains key
   | none => false)
  || (match x.move with
      | some j => j.todo.contains key
      | none => false)

/-- A POOL_GET is answered: its bytes go on their way, another connection is asked, or the page is lost (R197). -/
def poolGetDone (s : State) (live : Bool) (dev d key : Nat) (data : List Byte) (r : Rcpt) : State :=
  match amGet s.sessions d with
  | none => s
  | some x =>
    match amGet x.refs key with
    | none => s
    | some q =>
      if !awaitsGet x key then s
      else if r.status = .ok then
        let old := amGet s.copies (copyKey q.tier q.loc)
        let filled := match old with
          | some c => c.filled
          | none => if pkPage key = tailIndex x then tailFilled x else 256
        arriveCopy s d key
          { handle := x.handle, device := dev, account := handleAccount x.handle, format := q.format, gen := q.gen, layer := pkLayer key
            page := pkPage key, filled := filled, body := data }
      else if live = false ∧ (connTo s dev).isSome = true then fetchPage s d x x.floodLc key
      else loseSession s d 2

/-! ### Relays (R525) -/

/-- The request that a stub forwarded under the reply key of a WRITE that comes back: its requester. -/
def relayOf (x : Conn) (key : Nat) : Option (Nat × Nat) :=
  (x.reqs.find? (fun e => e.2.replyKey == key && (match e.2.for_ with
    | .relay _ _ => true
    | _ => false))).bind (fun e => match e.2.for_ with
      | .relay (.tideway _ c req) _ => some (c, req)
      | _ => none)

/-- Response bytes for a request of this device; those of a forwarded request go on to its requester. -/
def responseBytes (s : State) (c msg : Nat) (bs : List Byte) : State :=
  match (getConn s c).bind (fun x => amGet x.reqs msg) with
  | none => s
  | some q =>
    match q.for_ with
    | .relay (.tideway _ k req) _ => sendResp s k req bs
    | _ => modConn s c (fun x => { x with reqs := amMod x.reqs msg (fun q => { q with data := bs }) })

/-! ### The end of a request -/

/-- A request of this device has its COMPLETION, or ends with its connection (`live` false). -/
def requestDone (s : State) (live : Bool) (c msg : Nat) (r : Rcpt) : State :=
  match getConn s c with
  | none => s
  | some x =>
    match amGet x.reqs msg with
    | none => s
    | some q =>
      let s := modConn s c (fun x => { x with reqs := amErase x.reqs msg })
      match q.for_ with
      | .search tag _ => searchAnswered s tag x.peerDevice (if statusCompleted r.status then some (answerOf q.data) else none)
      | .poolPut d key => poolPutDone s live x.peerDevice d key r
      | .poolGet d key => poolGetDone s live x.peerDevice d key q.data r
      | .poolFree => modTw s (fun t => { t with poolFull := t.poolFull.filter (· != x.peerDevice) })
      | .migrate d phase => migrateAnswered s d phase r
      | .relay _ _ => resolveWait s (.peer c msg) r

/-! ### The chart's devices (R197, R520, R528) -/

/-- Tier-1 references that name a device number. -/
def poolRefs (s : State) (num : Nat) : Nat := s.sessions.foldl (fun n e => n + (holderKeys e.2 num).length) 0

/-- A pool device is reported lost (R197, R520). -/
def poolLost (s : State) (num : Nat) : State :=
  let n := poolRefs s num
  if n = 0 then s
  else
    let s := postPf s 0x0206 0 (num + n % 2 ^ 32 * 2 ^ 64)
    s.sessions.foldl (fun s e => if (holderKeys e.2 num).isEmpty then s else loseSession s e.1 2) s

/-- The last OPEN connection of PF_0 to a device of the chart has failed: DEVICE_LOST (R528), and R197 holds for it. -/
def noteDevice (s : State) (dev : Nat) : State :=
  match amGet s.tw.devices dev with
  | some e => if (connTo s dev).isNone then poolLost (postPf s 0x0407 0 dev) e.num else s
  | none => s

/-! ### Failure and closing (R504, R505) -/

/-- A connection sends and receives no more: what it held partly is gone, COMPLETIONs that waited go to the dead-letter ring of its
function, and its own requests complete with FAULT. -/
def cutConn (s : State) (c : Nat) : State :=
  match getConn s c with
  | none => s
  | some x =>
    let s := modConn s c (fun x => { x with failed := true, sendq := [], flight := [], parts := [], waiting := [], placing := [], due := [] })
    let s := x.due.foldl (fun s d => twDeadLetter s x.fn d.req d.rcpt) s
    x.reqs.foldl (fun s e => requestDone s false c e.1 { status := .fault, detail := c }) s

/-- A connection becomes FAILED (R504): cause 1 the retry limit, 2 its port region, 3 its cache cell. -/
def failConn (s : State) (c cause : Nat) : State :=
  match getConn s c with
  | none => s
  | some x =>
    if x.failed then s
    else
      let s := cutConn s c
      let data := c + cause * 2 ^ 32
      let s := postEvent s x.fn 0x0404 x.port data
      let s := if x.fn = 0 then s else postPf s 0x0404 x.port data
      if x.fn = 0 then noteDevice s x.peerDevice else s

/-- SACK_SCORE: the lowest eight ranges of PSNs above SND_UNA that are acknowledged. -/
def sackScore (x : Conn) : List (Nat × Nat) :=
  ((x.flight.filter (fun p => p.acked)).foldl (fun (acc : List (Nat × Nat)) p =>
    let i := serDiff p.psn x.sndUna
    match acc with
    | (st, len) :: r => if st + len = i then (st, len + 1) :: r else (i, 1) :: (st, len) :: r
    | [] => [(i, 1)]) []).reverse.take 8

/-- A connection context (Table 11.13), bit 0 first. -/
def contextBytes (x : Conn) (state : Nat) : List Byte :=
  leBytes 4 (x.dscp % 64 * 2 ^ 30)
    ++ leBytes 4 (x.fn % 256 * 2 ^ 16 + x.retries % 256 * 2 ^ 24 + x.port % 16 * 2 ^ 12 + b2n x.mtu8k * 2 ^ 11 + b2n x.resident * 2 ^ 10
        + x.spray % 8 * 2 ^ 7 + state % 8 * 2 ^ 4 + x.dscp % 64 / 4)
    ++ leBytes 4 x.rto ++ leBytes 4 x.rttvar ++ leBytes 4 x.srtt ++ leBytes 2 0 ++ leBytes 2 x.peerRcv ++ leBytes 2 x.peerCe
    ++ leBytes 2 x.rcvCount ++ leBytes 2 x.ceCount ++ leBytes 2 x.alpha ++ leBytes 4 x.rate ++ leBytes 4 x.writeDoneOut
    ++ leBytes 4 x.writeDoneIn ++ leBytes 4 x.nextMsg ++ leBytes 4 x.cumPsn ++ leBytes 4 x.sndUna ++ leBytes 4 x.sndNxt
    ++ leBytes 4 x.peerConn ++ leBytes 2 x.peerUdp ++ leBytes 6 x.peerMac ++ leBytes 8 x.peerDevice ++ leBytes 16 x.peerIp
    ++ ((List.range 8).flatMap (fun i =>
        let r := ((sackScore x).drop i).headD (0, 0)
        leBytes 4 (r.2 % 65536 + r.1 % 65536 * 65536)))
    ++ leBytes 128 x.rcvMap

/-- Where a connection's context lies (R494). -/
def contextAddr (s : State) (c : Nat) : Nat :=
  (if c < 524288 then s.tw.connBase0.toNat else s.tw.connBase1.toNat) + 256 * (c % 524288)

/-- Write a context back to the table. -/
def storeContext (s : State) (c : Nat) (x : Conn) (state : Nat) : State := (hostWrite s 0 (contextAddr s c) (contextBytes x state)).1

/-- The number that stands for a connection that is closed: no connection has it. -/
def closedConn : Nat := 2 ^ 20

def leftOrigin (c : Nat) : Origin → Origin
  | .tideway fn k req => .tideway fn (if k = c then closedConn else k) req
  | o => o

def leftVia (c : Nat) : ResultVia → ResultVia
  | .tideway k m key => .tideway (if k = c then closedConn else k) m key
  | .resp k m => .resp (if k = c then closedConn else k) m
  | v => v

def leftReq (c : Nat) (q : SentReq) : SentReq :=
  match q.for_ with
  | .relay o d => { q with for_ := .relay (leftOrigin c o) d }
  | _ => q

/-- What was admitted from a closed connection runs on without it, so that a connection that takes its number gets none of it (R505). -/
def leaveConn (s : State) (c : Nat) : State :=
  { s with
    ops := amMap s.ops (fun _ o => { o with origin := leftOrigin c o.origin })
    steps := amMap s.steps (fun _ q => { q with via := leftVia c q.via })
    searches := amMap s.searches (fun _ q => { q with via := leftVia c q.via })
    maskReads := amMap s.maskReads (fun _ q => { q with via := leftVia c q.via })
    textReads := amMap s.textReads (fun _ q => { q with via := leftVia c q.via })
    win := { s.win with xfers := amMap s.win.xfers (fun _ x => { x with conn := if x.conn = c then closedConn else x.conn }) }
    tw := { s.tw with conns := amMap s.tw.conns (fun _ x => { x with reqs := amMap x.reqs (fun _ q => leftReq c q) }) } }

/-- CLOSE_CONNECTION's effect (R505): the context is written back with STATE 0 and the number is free. -/
def closeConn (s : State) (c : Nat) : State :=
  match getConn s c with
  | none => s
  | some x =>
    let s := if x.failed then s else cutConn s c
    let s := match getConn s c with
      | some y => storeContext s c y 0
      | none => s
    modTw (leaveConn s c) (fun t => { t with conns := amErase t.conns c, cache := amErase t.cache c, missed := t.missed.filter (fun m => m.pkt.dstConn != c) })

end Sys2Proof.Machine
end

