-- ==== Sys2Proof/Machine/TwAdmit.lean ====
section
/-! DEFINITION. Messages that arrive over Tideway and are admitted: what a connection may reach, forwarding, and the operation of each
opcode (R487, R507, R508, R510 to R513, R519, R523 to R525, R605 to R609). -/

namespace Sys2Proof.Machine

/-- DETAIL of a refusal that concerns a field of a Tideway header (R510). -/
def rHeader (off : Nat) : Rcpt := rInvalid (0x10000 + off)

/-- The first byte at or above `lo` and below `hi` that is not zero and must be. -/
def zeroBad (bs : List Byte) (lo hi : Nat) : List (Nat × Bool) := (List.range (hi - lo)).map (fun i => (lo + i, field bs (lo + i) 1 != 0))

/-! ### Payloads -/

/-- A page write's payload (Table 4.9). -/
def pageWriteOf (bs : List Byte) : PageWriteMsg :=
  { handle := field bs 0 8, descIndex := field bs 8 3, layer := field bs 18 1, pageIndex := field bs 20 2, slots := field bs 22 2
    format := field bs 24 1, rootSalt := field bs 48 16
    rsvBad := firstBad ([(8, field bs 11 2 != 0)] ++ zeroBad bs 13 18 ++ zeroBad bs 19 20 ++ zeroBad bs 25 48)
    tokens := (List.range 256).map (fun i => field bs (64 + 4 * i) 4), body := bs.drop 1088 }

/-- A STEP entry with its operand area (Table 7.1); over Tideway the area follows the entry. -/
def stepEntryOf (bs : List Byte) : StepEntry :=
  { handle := field bs 8 8, descIndex := field bs 16 3, newRows := bit (field bs 19 1) 0, noDegrade := bit (field bs 19 1) 1
    mode := bits (field bs 19 1) 3 2, candsM1 := bits (field bs 19 1) 7 4, layer := field bs 20 1, rowFormat := field bs 21 1
    parents := (List.range 16).map (fun i => bits (field bs 22 10) (5 * i + 4) (5 * i)), operandAddr := 0, resultAddr := field bs 40 8
    missingAddr := field bs 48 8, round := field bs 56 2, firstPage := field bs 58 2, lastPage := field bs 60 2, treePages := field bs 62 2
    operand := .ok (bs.drop 64) }

/-- The common bits of an entry that are out of range (R79, R80): reserved bits, the set in force, an opcode that is not one of `ops`. -/
def entryBad (s : State) (fn : Nat) (fwd : Bool) (ops : List Nat) (bs : List Byte) : List (Nat × Bool) :=
  let set := field bs 1 1
  [ (0, field bs 0 1 != 0), (1, if fwd then set != 3 && set != 4 else set != (if (getFn s fn).set3 then 3 else 4)),
    (2, !ops.contains (field bs 2 2)), (4, decide (4 ≤ field bs 4 1)), (5, field bs 5 1 != 0) ]

/-! ### What a connection may reach (Table 11.11) -/

/-- The peer is a device of the installed chart. -/
def peerKnown (s : State) (x : Conn) : Bool := x.peerDevice != 0 && s.tw.devices.any (fun e => e.1 == x.peerDevice || succeeded s e.1 == x.peerDevice)

/-- The authority check of a message that is admitted. -/
def authority (s : State) (x : Conn) (m : TwMsg) : Option Rcpt :=
  if opSession m.op && m.op != opMigrate then
    if x.fn = 0 then refuseIf (!m.fwd) (rNotOwner (handleAccount m.handle)) else accRefuse s x.fn (handleAccount m.handle)
  else if m.op = opBundle then
    match amGet s.bundles m.key with
    | some b => refuseIf (x.fn == 0 || accPartition s b.account != x.fn) (rNotOwner b.account)
    | none => some (rNotOwner 0)
  else refuseIf (x.fn != 0 || !peerKnown s x) rPfOnly

/-! ### Pool pages (R513, R611) -/

/-- Frames that this device offers to POOL_PUT, and those it has given. -/
def poolShare (s : State) : Nat := field (cfgBody s 4 s.roleProfile) 4 2 * 12502008 / 100

def poolTaken (s : State) : Nat := s.tw.poolStore.foldl (fun n e => n + ((amGet s.runs e.2.run).elim 0 (fun r => r.count))) 0

/-- POOL_PUT: the page takes frames charged to no account; RESULT_A is its page number. -/
def takePoolPut (s : State) (x : Conn) (m : TwMsg) : State × Rcpt :=
  let n := framesOf m.payload.length
  match firstRefusal [refuseIf (m.aux != m.payload.length) (rHeader 0x3C), roleRefuse s [2],
      refuseIf (decide (poolShare s < poolTaken s + n)) (rQuota 1)] with
  | some r => (s, r)
  | none =>
    match takeAnywhere s n none with
    | none => (s, rQuota 1)
    | some (run, s) =>
      let k := amLowestFree s.tw.poolStore 0
      let p : PoolPage := { owner := x.peerDevice, body := m.payload, run := run }
      (checkPressure (modTw s (fun t => { t with poolStore := amSet t.poolStore k p })), rOk k)

/-- The frozen harbour in which a holder serves page number `n` to a device that restores (R601). -/
def servedIn (s : State) (dev n : Nat) : Option Harbour :=
  ((s.pair.frozen.filter (fun e => e.2.reading && amHas e.2.served n)).find? (fun e => e.1 == dev || succeeded s e.1 == dev)
    <|> s.pair.frozen.find? (fun e => e.2.reading && amHas e.2.served n)).map (·.2)

/-- The page that a POOL_GET names: one that the peer put, or one of a harbour that it restores from. -/
def poolPage (s : State) (dev n : Nat) : Option (List Byte) :=
  if n < 2 ^ 31 then (amGet s.tw.poolStore n).bind (fun p => if p.owner = dev then some p.body else none)
  else (servedIn s dev n).bind (fun h => (amGet h.served n).bind (fun q =>
    match q with
    | (some loc, _) => (amGet h.park loc).map (·.body)
    | (none, some k) => (mirrorAt s k).map (·.body)
    | (none, none) => none))

/-- POOL_FREE. -/
def takePoolFree (s : State) (dev n : Nat) : State × Rcpt :=
  if n < 2 ^ 31 then
    match amGet s.tw.poolStore n with
    | some p =>
      if p.owner = dev then (checkPressure (freeRun (modTw s (fun t => { t with poolStore := amErase t.poolStore n })) p.run), rOk)
      else (s, rNotOwner 0)
    | none => (s, rNotOwner 0)
  else
    match servedIn s dev n with
    | some h => (modPair s (fun p => { p with frozen := amSet p.frozen h.source { h with served := amErase h.served n } }), rOk)
    | none => (s, rNotOwner 0)

/-! ### MIGRATE at the target (R605 to R609) -/

/-- The incoming session of a handle and its migration, if it comes from device `dev`. -/
def incomingOf (s : State) (handle dev : Nat) : Option (Nat × Migration) :=
  (findHandle s handle).bind (fun d => (getMigration s d).bind (fun g => if g.tag.isNone && g.peer == dev then some (d, g) else none))

/-- PREPARE: the final fields and the last pages; the answer waits for pages still on their way to a pool device. -/
def takePrepare (s : State) (tag d : Nat) (m : MigMsg) (o : Op) : State :=
  let s := match m.entry with
    | some e => modSession s d (fun x => finalFields x e)
    | none => s
  let t := takePages s d m.pages
  if t.2.status ≠ .ok then putOp t.1 tag { o with state := .ready t.2 }
  else
    match getMigration t.1 d, amGet t.1.sessions d with
    | some g, some x =>
      let s := modMigration (putOp t.1 tag { o with state := .waiting (.handover d) }) d (fun g => { g with prepare := some tag })
      if !g.coming.isEmpty then s else answerPrepare s d (if pagesHere x then rOk else rQuota 0)
    | _, _ => putOp t.1 tag { o with state := .ready (rBusy 1) }

/-- A MIGRATE message under its tag. -/
def takeMigrate (s : State) (tag c : Nat) (x : Conn) (m : TwMsg) (o : Op) : State :=
  let mig := m.mig.getD {}
  let end_ := fun (t : State × Rcpt) => putOp t.1 tag { o with state := .ready t.2 }
  let none_ := end_ (s, rNotOwner (handleAccount m.handle))
  match m.aux with
  | 1 => end_ (takeOffer s c x.peerDevice mig)
  | 2 =>
    match incomingOf s m.handle x.peerDevice with
    | some (d, _) => end_ (takePages s d mig.pages)
    | none => none_
  | 3 =>
    match incomingOf s m.handle x.peerDevice with
    | some (d, _) => takePrepare s tag d mig o
    | none => none_
  | 4 =>
    match incomingOf s m.handle x.peerDevice with
    | some (d, g) => if g.phase = 1 then end_ (takeOwnership s d m.epoch, rOk) else end_ (s, rBusy 1)
    | none => if (findHandle s m.handle).isSome then end_ (s, rOk) else none_
  | 5 =>
    match incomingOf s m.handle x.peerDevice with
    | some (d, g) => if g.phase = 1 then end_ (s, rOk) else end_ (dropIncoming (answerPrepare s d (rBusy 1)) d, rOk)
    | none => end_ (s, rOk)
  | _ => end_ (s, rHeader 0x3C)

/-! ### Operations on sessions -/

/-- A STEP_ENTRY for a session held here. -/
def takeStepEntry (s : State) (tag c : Nat) (x : Conn) (m : TwMsg) (d : Nat) (o : Op) : State :=
  let bs := m.payload
  let be := bit (field bs 4 1) 1
  let o := { o with be := be, cmdId := field bs 6 2 }
  let end_ := fun (r : Rcpt) => putOp s tag { o with state := .ready r }
  let common := entryBad s x.fn m.fwd [0x0100, 0x0101] bs ++ [(8, field bs 8 8 != m.handle)]
  if field bs 2 2 = 0x0101 then
    let round := field bs 19 2
    let mask := field bs 21 2
    match firstRefusal ((firstBad (common ++ zeroBad bs 23 64 ++ commitBad s x.fn m.handle mask)).map (fun k => rInvalid k)
        :: commitRefuse s x.fn m.handle round mask) with
    | some r => end_ r
    | none => takeCommit s tag d round mask o
  else
    let e := stepEntryOf bs
    match firstRefusal ((firstBad (common ++ stepBad s x.fn e)).map (fun k => rInvalid k) :: stepRefuse s x.fn e be) with
    | some r => end_ r
    | none => takeStep s tag d x.fn e be (.tideway c m.msgId m.replyKey) o

/-- The most bytes that a TEXT_READ sends: its PARAMS hold no LEN, so nothing below the largest message bounds it. -/
def textReadLen : Nat := 2 ^ 30

/-- A TEXT_READ for a session held here. -/
def takeTextRead (s : State) (tag c : Nat) (x : Conn) (m : TwMsg) (d : Nat) (o : Op) : State :=
  let p := m.payload
  let h := field p 0 8
  let end_ := fun (r : Rcpt) => putOp s tag { o with state := .ready r }
  let state := [sessTest s h (fun _ => true) |> fun ok => refuseIf (!ok) (rNotOwner (handleAccount h)), textStateRefuse s h]
  let common := [accBad s x.fn (handleAccount h) 24, (24, h != m.handle)]
  if m.aux = 0x0204 then
    let cursor := field p 8 4
    let waitMs := field p 12 2
    let flags := field p 14 1
    let bad := common ++ [(32, textStartBad s h cursor), (36, decide (10000 < waitMs)), (38, decide (3 < flags))]
      ++ (zeroBad p 15 40).map (fun e => (24 + e.1, e.2))
    let vocab := match amGet s.sessions d with
      | some y => refRefuse s 1 y.vocabRef
      | none => none
    match firstRefusal ((firstBad bad).map (fun k => rInvalid k) :: (state ++ [vocab])) with
    | some r => end_ r
    | none => takeReadText (noteOp s d) tag d cursor waitMs flags textReadLen 0 (.resp c m.msgId) o
  else if m.aux = 0x0205 then
    let bad := common ++ (zeroBad p 14 40).map (fun e => (24 + e.1, e.2))
    match firstRefusal ((firstBad bad).map (fun k => rInvalid k) :: state) with
    | some r => end_ r
    | none => takeReadMask (noteOp s d) tag d (field p 8 2) (field p 10 4) textReadLen 0 (.resp c m.msgId) o
  else end_ (rHeader 0x3C)

/-- What an arrival finds for its handle (Table 11.19, Table 3.12): its session, a stub that forwards over a connection, or the answer. -/
inductive Found where
  | here (d : Nat)
  | forward (d conn : Nat)
  | answer (r : Rcpt)
  deriving DecidableEq, Repr

def findSession (s : State) (m : TwMsg) : Found :=
  match findHandle s m.handle with
  | none =>
    match chartOwner s m.handle with
    | some o => .answer (rMoved o)
    | none => .answer (rNotOwner (handleAccount m.handle))
  | some d =>
    match amGet s.sessions d with
    | none => .answer (rNotOwner (handleAccount m.handle))
    | some x =>
      if !x.stub then .here d
      else if m.fwd || decide (x.migrateEpoch ≤ m.epoch) || gracePassed s x then .answer (rMoved x.migrateTarget)
      else
        match connTo s x.migrateTarget with
        | some c => .forward d c
        | none => .answer (rMoved x.migrateTarget)

/-- The whole message goes on with FWD set (R525); its operation waits for the answer. -/
def forwardMsg (s : State) (tag d k : Nat) (m : TwMsg) (o : Op) : State :=
  match getConn s k with
  | some y =>
    sendRequest (putOp s tag { o with state := .waiting (.peer k y.nextMsg) }) k { m with fwd := true }
      { for_ := .relay o.origin d, replyKey := m.replyKey }
  | none => s

/-! ### Admission (R507, R508, R512, R524) -/

/-- CHART_AHEAD, once for each epoch value. -/
def noteAhead (s : State) (epoch : Nat) : State :=
  if s.chartEpoch < epoch ∧ !s.tw.ahead.contains epoch then
    postPf (modTw s (fun t => { t with ahead := epoch :: t.ahead })) 0x0406 0 (epoch + s.chartEpoch * 2 ^ 32)
  else s

/-- A message runs under its tag. -/
def runMsg (s : State) (tag c : Nat) (x : Conn) (m : TwMsg) (o : Op) : State :=
  let end_ := fun (t : State × Rcpt) => putOp t.1 tag { o with state := .ready t.2 }
  if m.op = opMigrate then takeMigrate s tag c x m o
  else if opSession m.op then
    match findSession s m with
    | .answer r => end_ (s, r)
    | .forward d k => forwardMsg s tag d k m o
    | .here d =>
      if m.op = opPageWrite then
        if field m.payload 0 8 = m.handle then takeWrite s tag d m.be (pageWriteOf m.payload) o else end_ (s, rInvalid 0)
      else if m.op = opStep then takeStepEntry s tag c x m d o
      else takeTextRead s tag c x m d o
  else if m.op = opBundle then
    let n := (amGet s.bundles m.key).elim 0 (fun b => b.body.length)
    if m.addr + m.aux ≤ n then takeBundleRead s tag c m.msgId m.key m.addr m.aux m.be o
    else end_ (s, rHeader (if n < m.addr then 0x20 else 0x3C))
  else if m.op = opSearch then takeShardSearch s tag m.addr m.payload m.be (.resp c m.msgId) o
  else if m.op = opPoolPut then end_ (takePoolPut s x m)
  else if m.op = opPoolGet then
    match poolPage s x.peerDevice m.addr with
    | some bs => end_ (sendResp s c m.msgId bs, rOk)
    | none => end_ (s, rNotOwner 0)
  else end_ (takePoolFree s x.peerDevice m.addr)

/-- A message is admitted: it takes a tag, and is refused or runs. -/
def admitMsg (s : State) (c : Nat) (x : Conn) (m : TwMsg) : State :=
  let s := if opSession m.op then noteAhead s m.epoch else s
  let tag := freeTag s
  let o : Op := { origin := .tideway x.fn c m.msgId, cmdId := 0, be := m.be, admPm := s.postmark, state := .waiting (.peer c m.msgId) }
  match firstRefusal
    [ refuseIf ((getFn s x.fn).flrBusy) (rBusy 1), refuseIf (opSession m.op && m.epoch == 0) (rHeader 0x1C), authority s x m ] with
  | some r => putOp s tag { o with state := .ready r }
  | none => runMsg s tag c x m o

/-- A whole message that waits can be admitted now (R507, R508): a tag is free, the device is ACTIVE (R660); a session-state message comes after what its connection
sent before it, and is held while its session moves or a restore's LC phase runs. -/
def canAdmit (s : State) (x : Conn) (p : Part) : Bool :=
  let m := p.msg
  tagAvailable s x.fn && accepting s && powered s && !s.faults.runs.any (fun q => q.region == 6 + x.port / 8) &&
    (!opSession m.op
      || (!serLt x.cumPsn p.firstPsn
          && !x.waiting.any (fun q => opSession q.msg.op && serLt q.msg.msgId m.msgId)
          && !x.parts.any (fun q => opSession q.2.msg.op && serLt q.2.msg.msgId m.msgId)
          && (m.op == opMigrate || (!migHeld s m.handle && !restoreHeld s m.handle))
          && !(m.op == opStep && (getLive s .lcLimit).stalled)))

/-- Admit what a connection holds, in order of arrival, as far as it goes. -/
def admitGo : Nat → State → Nat → State
  | 0, s, _ => s
  | n + 1, s, c =>
    match getConn s c with
    | none => s
    | some x =>
      if x.failed then s
      else
        match x.waiting.find? (canAdmit s x) with
        | none => s
        | some p =>
          let s := modConn s c (fun x => { x with waiting := x.waiting.filter (fun q => q.msg.msgId != p.msg.msgId) })
          admitGo n (admitMsg s c x p.msg) c

def admitConn (s : State) (c : Nat) : State :=
  match getConn s c with
  | some x => admitGo x.waiting.length s c
  | none => s

/-- Every connection admits what it can: a tag, a session or an epoch has changed. -/
def admitAll (s : State) : State := (s.tw.conns.filter (fun e => !e.2.waiting.isEmpty)).foldl (fun s e => admitConn s e.1) s

end Sys2Proof.Machine
end

