-- ==== Sys2Proof/Machine/TwPorts.lean ====
section
/-! DEFINITION. The Ethernet ports and their registers, the live Tideway constants, and address-space keys (R474 to R479, R487 to R490,
R500, R503, R514, R527 to R529). -/

namespace Sys2Proof.Machine

/-! ### PORT_CFG (R474, R475) -/

/-- The RW bits of PORT_CFG_n (Table 11.3). -/
def portCfgBits (v : Nat) : Nat :=
  bits v 0 0 + bits v 7 4 * 16 + bits v 8 8 * 256 + bits v 59 48 * 2 ^ 48 + bits v 63 60 * 2 ^ 60

/-- The port of the same region at position `j` is enabled, at MODE `m` if one is given. -/
def neighbourEnabled (s : State) (p j : Nat) (m : Option Nat) : Bool :=
  let q := getPort s (8 * p + j)
  pcEnable q && (match m with
    | some k => pcMode q == k
    | none => true)

/-- PORT_CFG: while ENABLE is 1 only a write that clears it takes effect; one that sets it must pass R475. -/
def execPortCfg (n : Nat) (value : Word64) (s : State) : Out :=
  let v := portCfgBits value.toNat
  let m := bits v 7 4
  let j := n % 8
  let p := n / 8
  if 16 ≤ n ∨ !regsOpen s 0 then .next s
  else
    let put := modPort s n (fun x => { x with cfg := BitVec.ofNat 64 v })
    if pcEnable (getPort s n) then .next (if bit v 0 then s else put)
    else if bit v 0 then
      if 7 < m ∨ (m = 2 ∧ (j % 2 = 1 ∨ neighbourEnabled s p (j + 1) none = true))
        ∨ (j ≠ 0 ∧ neighbourEnabled s p (j - 1) (some 2) = true) then .next s
      else .next (requestWake put (84 + 6 * p + j / 4) false 0)
    else .next put

/-! ### Port events (R476 to R479, R527, R528) -/

/-- PF_0 and every function with an OPEN connection on a port. -/
def portFns (s : State) (n : Nat) : List Nat :=
  (s.tw.conns.filter (fun e => e.2.port == n && !e.2.failed)).foldl
    (fun l e => if l.contains e.2.fn then l else l ++ [e.2.fn]) [0]

/-- PORT_UP: the PCS is aligned on `lanes` lanes. -/
def execPortUp (n lanes : Nat) (s : State) : Out :=
  let p := getPort s n
  if 16 ≤ n ∨ !pcEnable p ∨ p.up ∨ s.faults.regionsDown.contains (6 + n / 8)
      ∨ s.faults.runs.any (fun q => q.region == 6 + n / 8 || q.region == 8) then .next s
  else
    let s := modPort s n (fun p => { p with up := true, lanesUp := min 8 lanes, changes := (p.changes + 1) % 65536 })
    .next ((portFns s n).foldl (fun s f => postEvent s f 0x0401 n (pcMode p + min 8 lanes * 256)) s)

/-- PORT_DOWN. -/
def execPortDown (n : Nat) (s : State) : Out :=
  let p := getPort s n
  if 16 ≤ n ∨ !p.up then .next s
  else
    let s := modPort s n (fun p => { p with up := false, lanesUp := 0, changes := (p.changes + 1) % 65536 })
    .next ((portFns s n).foldl (fun s f => postEvent s f 0x0402 n ((p.changes + 1) % 65536)) s)

/-- FEC_DEGRADED: a whole second ends, with the uncorrectable codewords it held; the event is posted when the bit goes from 0 to 1. -/
def execFecDegraded (n codewords : Nat) (s : State) : Out :=
  if 16 ≤ n then .next s
  else
    let was := (getPort s n).fecDegraded
    let s := count (modPort s n (fun p => { p with fecDegraded := codewords != 0 })) n 5 codewords
    .next (if codewords ≠ 0 ∧ was = false then postPf s 0x0403 n (codewords % 2 ^ 32) else s)

/-- A frame has been received. -/
def frameIn (s : State) (n bytes : Nat) : State := count (count s n 0 1) n 2 bytes

/-- A port answers a request for its own PORT_IP_n with its MAC address, the base address plus n (R479). -/
def neighbourAnswer (s : State) (n ip bytes : Nat) : State :=
  let p := getPort s n
  if n < 16 ∧ pcEnable p = true ∧ p.ip.toNat = ip then emit (.neighborAnswer n (Config.baseMac + n)) (count (count (frameIn s n bytes) n 1 1) n 3 bytes) else s

/-- ARP_REQUEST, for an IPv4 address as ::ffff:a.b.c.d. -/
def execArpRequest (n ip bytes : Nat) (s : State) : Out := .next (if ipv4 ip then neighbourAnswer s n ip bytes else s)

/-- NEIGHBOR_SOLICITATION, for an IPv6 address. -/
def execNeighborSolicitation (n ip bytes : Nat) (s : State) : Out :=
  .next (if ipv4 ip then s else neighbourAnswer s n ip bytes)

/-- MAC_CONTROL_FRAME: counted and ignored (R477). -/
def execMacControlFrame (n bytes : Nat) (s : State) : Out := .next (if n < 16 then count (frameIn s n bytes) n 7 1 else s)

/-- FRAME_DROPPED: a frame that breaks R478, or a packet that breaks R483. -/
def execFrameDropped (n bytes : Nat) (packet : Bool) (s : State) : Out :=
  .next (if n < 16 then count (frameIn s n bytes) n (if packet then 8 else 6) 1 else s)

/-! ### Live constants (Tables 11.15 to 11.17) -/

def inRange (lo hi v : Nat) : Bool := decide (lo ≤ v) && decide (v ≤ hi)

/-- TW_RTO. -/
def execTwRto (value : Word64) (s : State) : Out :=
  let v := value.toNat
  let w := bits v 9 0 + bits v 19 16 * 2 ^ 16 + bits v 47 32 * 2 ^ 32 + bits v 63 48 * 2 ^ 48
  let ok := inRange 1000 65535 (bits v 63 48) && inRange 20 10000 (bits v 47 32) && inRange 1 15 (bits v 19 16)
    && inRange 20 1000 (bits v 9 0)
  .next (if regsOpen s 0 then writeLive s .twRto w ok else s)

/-- TW_CC. -/
def execTwCc (value : Word64) (s : State) : Out :=
  let v := value.toNat
  let w := bits v 3 0 + bits v 23 16 * 2 ^ 16 + bits v 31 24 * 2 ^ 24 + bits v 47 32 * 2 ^ 32 + bits v 63 48 * 2 ^ 48
  let ok := inRange 1 65535 (bits v 63 48) && inRange 10 10000 (bits v 47 32) && inRange 1 255 (bits v 31 24)
    && inRange 1 255 (bits v 23 16) && inRange 1 8 (bits v 3 0)
  .next (if regsOpen s 0 then writeLive s .twCc w ok else s)

/-- TW_ACK. -/
def execTwAck (value : Word32) (s : State) : Out :=
  let v := value.toNat
  let w := bits v 6 0 + bits v 31 16 * 2 ^ 16
  .next (if regsOpen s 0 then writeLive s .twAck w (inRange 100 20000 (bits v 31 16) && inRange 1 64 (bits v 6 0)) else s)

/-! ### Address-space keys (R488, R490) -/

/-- REGISTER_AS; PASID 0xFFFF_FFFF from PF_0 gives a window key, and from a VF is INVALID. -/
def registerAsSpec (h : Hdr) (pasid account perms : Nat) : RingCmd :=
  let window := pasid == 0xFFFFFFFF
  { bad := fun s =>
      [ (24, window && h.fn != 0), (28, h.fn == 0 && !(window && account == 0xFFFF) && !amHas s.accounts account),
        (30, decide (3 < perms)) ]
    refuse := fun s => [accRefuse s h.fn account, refuseIf (decide (2 ^ 32 - 1 ≤ s.asKeys.length)) (rBusy 2)]
    waits := flrWaits h.fn account
    run := fun s tag =>
      let (n, s) := takeFresh s
      let k := amNewKey s.asKeys 1 (2 ^ 32) (Config.newName n)
      done { s with asKeys := amSet s.asKeys k { fn := h.fn, pasid := pasid, account := account, perms := perms } } h tag (rOk k) }

/-- REGISTER_AS. -/
def execRegisterAs (h : Hdr) (pasid account perms : Nat) (s : State) : Out := adminCmd h (registerAsSpec h pasid account perms) s

/-- DEREGISTER_AS: later use of the key gives KEY_INVALID. -/
def deregisterAsSpec (h : Hdr) : RingCmd :=
    { refuse := fun s =>
        [refuseIf (match amGet s.asKeys h.target with
          | some k => k.fn != h.fn
          | none => true) (rKey 1)]
      run := fun s tag => done { s with asKeys := amErase s.asKeys h.target } h tag rOk }

/-- DEREGISTER_AS. -/
def execDeregisterAs (h : Hdr) (s : State) : Out := adminCmd h (deregisterAsSpec h) s

end Sys2Proof.Machine
end

