-- ==== Sys2Proof/Machine/TwRecv.lean ====
section
/-! DEFINITION. Packets as they arrive: the connection cache and its miss buffer, the order of a connection's packets, WRITEs and READs
under keys, and acknowledgements (R483 to R497, R499 to R503, R507 to R517). -/

namespace Sys2Proof.Machine

/-! ### The connection cache (R495 to R497) -/

def connRegion (c : Nat) : Nat := c / 524288

/-- The set of a connection: region, cell and set. -/
def cacheSet (c : Nat) : Nat × Nat × Nat := (c / 524288, c % 16, c / 16 % 256)

/-- A cache entry is pinned (R496). -/
def connPinned (s : State) (c : Nat) : Bool :=
  match getConn s c, amGet s.tw.cache c with
  | some x, some e =>
    x.resident || !x.flight.isEmpty || !x.parts.isEmpty || !x.writeLeft.isEmpty || !x.waiting.isEmpty || !x.due.isEmpty || e.fetching
      || s.ops.any (fun o => match o.2.origin with
          | .tideway _ k _ => k == c
          | .ring _ _ => false)
  | _, _ => false

/-- Put a connection in its set, over the unpinned way used least recently if the set is full; none while all eight are pinned. -/
def cacheTake (s : State) (c : Nat) (fetching : Bool) : Option State :=
  let ways := s.tw.cache.filter (fun e => cacheSet e.1 == cacheSet c)
  let put := fun (s : State) =>
    let e : CacheEntry := { used := s.postmark, fetching := fetching, image := (getConn s c).elim [] (fun x => contextBytes x 1) }
    modTw s (fun t => { t with cache := amSet t.cache c e })
  if ways.length < 8 then some (put s)
  else
    match (ways.filter (fun e => !connPinned s e.1)).foldl (fun (acc : Option (Nat × CacheEntry)) e =>
        match acc with
        | none => some e
        | some b => if e.2.used < b.2.used then some e else some b) none with
    | none => none
    | some (v, e) =>
      let s := match getConn s v with
        | some y => if contextBytes y 1 = e.image then s else storeContext s v y 1
        | none => s
      some (put (modTw s (fun t => { t with cache := amErase t.cache v })))

/-- Bytes that a region's miss buffer holds. -/
def missBytes (s : State) (r : Nat) : Nat :=
  (s.tw.missed.filter (fun m => connRegion m.pkt.dstConn == r)).foldl (fun n m => n + 64 + m.pkt.payload.length) 0

/-- The miss buffer of a region, 4 MiB, is more than half full. -/
def missHalf (s : State) (r : Nat) : Bool := decide (2097152 < missBytes s r)

/-- A packet waits in the miss buffer, or is dropped where it is full (R497, R528). -/
def holdMissed (s : State) (m : Missed) : State :=
  let r := connRegion m.pkt.dstConn
  if missBytes s r + 64 + m.pkt.payload.length ≤ 4194304 then modTw s (fun t => { t with missed := t.missed ++ [m] })
  else
    let s := modTw (count s m.pkt.port 10 1) (fun t => { t with missDrops := amSet t.missDrops r (amGetD t.missDrops r 0 + 1) })
    if s.tw.missFull.contains r then s
    else postPf (modTw s (fun t => { t with missFull := r :: t.missFull })) 0x0408 r (amGetD s.tw.missDrops r 0 % 2 ^ 32)

/-- A region's miss buffer that has emptied may post MISS_BUFFER_FULL again (R528). -/
def noteMissEmpty (s : State) : State :=
  modTw s (fun t => { t with missFull := t.missFull.filter (fun r => t.missed.any (fun m => connRegion m.pkt.dstConn == r)) })

/-- Fetches start for the packets that wait and whose set has a way free. -/
def startFetches (s : State) : State :=
  s.tw.missed.foldl (fun s m =>
    let c := m.pkt.dstConn
    if amHas s.tw.cache c ∨ (getConn s c).isNone = true then s else (cacheTake s c true).getD s) s

/-! ### Translations (R489) -/

def pageOf (addr : Nat) : Nat := addr / 4096

/-- The 4 KiB pages of a range. -/
def pagesOf (addr n : Nat) : List Nat := (List.range ((addr + n + 4095) / 4096 - addr / 4096)).map (fun i => addr / 4096 + i)

/-- The first page of a range that is not translated in a region's cache. -/
def xlatMissing (s : State) (r : Nat) (k : AsKey) (addr n : Nat) : Option Nat :=
  (pagesOf addr n).find? (fun p => !s.tw.xlat.contains (r, k.fn, k.pasid, p))

/-- A translation enters a region's cache of 65,536. -/
def xlatTake (s : State) (r fn pasid page : Nat) : State :=
  let e := (r, fn, pasid, page)
  modTw s (fun t =>
    let mine := e :: (t.xlat.filter (fun q => q.1 == r && q != e))
    { t with xlat := mine.take 65536 ++ t.xlat.filter (fun q => q.1 != r) })

/-! ### WRITEs and READs under a key (R487 to R491, R507) -/

/-- The refusal of a key: its function, its life and its permission (R487, R488, R490). -/
def keyRefuse (s : State) (x : Conn) (key : Nat) (perm : Nat) : Option Rcpt :=
  match amGet s.asKeys key with
  | none => some (rKey 1)
  | some k => if k.fn ≠ x.fn then some (rNotOwner k.account) else refuseIf (!bit k.perms perm) (rKey 1)

/-- A placing goes on: every page of it is translated, so its bytes go to or come from host memory; or the next translation is asked. -/
def placeHost (s : State) (c : Nat) (k : AsKey) (p : Placing) : State :=
  let addr := p.msg.addr + p.off
  let drop := fun (s : State) => modConn s c (fun x => { x with placing := x.placing.filter (fun q => !(q.msg.msgId == p.msg.msgId && q.off == p.off)) })
  match xlatMissing s (connRegion c) k addr p.len with
  | some page =>
    let s := drop s
    emit (.atsRequest k.fn k.pasid page) (modConn s c (fun x => { x with placing := x.placing ++ [p] }))
  | none =>
    let s := drop s
    if p.msg.op = opWrite then
      packetTaken (writePlaced (emit (.asWrite k.fn k.pasid addr p.bytes) s) c p.msg.msgId p.len) c p.psn p.last
    else
      match p.data with
      | some (.fail a) => refuseRead s c p.msg.msgId p.msg.key p.msg.be { rKey 1 with resA := a }
      | some (.ok bs) => sendResp s c p.msg.msgId (padTo p.len bs)
      | none => sendResp s c p.msg.msgId (padTo p.len [])

/-- A placing cannot be translated (R489): its message is refused. -/
def placeFail (s : State) (c : Nat) (p : Placing) (addr : Nat) : State :=
  let s := modConn s c (fun x => { x with placing := x.placing.filter (fun q => !(q.msg.msgId == p.msg.msgId && q.off == p.off)) })
  let r : Rcpt := { rKey 1 with resA := addr }
  if p.msg.op = opWrite then packetTaken (refuseWrite s c p.msg.msgId p.msg.key p.msg.be r) c p.psn p.last
  else refuseRead s c p.msg.msgId p.msg.key p.msg.be r

/-- A transfer to or from the window sets out, line by line, as host 16 (R490). -/
def placeWindow (s : State) (c : Nat) (p : Placing) : State :=
  let dpa := p.msg.addr + p.off
  let id := amLowestFree s.win.xfers 0
  let lines := linesOf dpa p.len
  let write := p.msg.op == opWrite
  if p.len = 0 then
    if write then packetTaken (writePlaced s c p.msg.msgId 0) c p.psn p.last else sendResp s c p.msg.msgId []
  else
    let xf : Xfer := { conn := c, msg := p.msg.msgId, write := write, psn := p.psn, dpa := dpa, len := p.len, left := lines.length }
    let s := modConn s c (fun x => { x with placing := x.placing ++ [{ p with xfer := some id }] })
    let s := modWin s (fun w => { w with xfers := amSet w.xfers id xf })
    lines.foldl (fun s l =>
      let lo := max dpa (64 * l)
      let hi := min (dpa + p.len) (64 * l + 64)
      let ask : LineAsk :=
        if write then
          .write (List.replicate (lo - 64 * l) 0#8 ++ (p.bytes.drop (lo - dpa)).take (hi - lo) ++ List.replicate (64 * l + 64 - hi) 0#8)
            (2 ^ (hi - 64 * l) - 2 ^ (lo - 64 * l))
        else .read 0
      let q : LineReq := { line := l, host := 16, ask := ask, for_ := .xfer id }
      arriveLine s q) s

/-- A packet of a WRITE, or a READ, whose key stands. -/
def place (s : State) (c : Nat) (p : Placing) : State :=
  match amGet s.asKeys p.msg.key with
  | some k => if k.pasid = 0xFFFFFFFF then placeWindow s c p else placeHost s c k p
  | none => placeFail s c p (p.msg.addr + p.off)

/-! ### Packets (R482 to R484, R499, R507, R509) -/

/-- The message fields of a packet. -/
def msgOf (op : Nat) (p : TwPkt) (mig : Option MigMsg) : TwMsg :=
  { op := op, msgId := p.msgId, be := p.be, fwd := p.fwd, epoch := p.epoch, addr := p.addr, key := p.key, replyKey := p.replyKey
    handle := p.handle, descIndex := p.descIndex, aux := p.aux, mig := mig }

/-- A packet's place in its message is as R484 asks. -/
def pktShape (x : Conn) (p : TwPkt) : Bool :=
  let u := mtuOf x
  p.off % u == 0 && p.payload.length == min u (p.len - p.off) && (decide (p.off < p.len) || (p.off == 0 && p.len == 0))
    && p.first == (p.off == 0) && p.last == decide (p.len ≤ p.off + p.payload.length)

/-- A WRITE packet (R491, R507, R525): relayed, refused, or placed. -/
def takeWritePkt (s : State) (c : Nat) (x : Conn) (m : TwMsg) (p : TwPkt) : State :=
  let s := if amHas x.writeLeft m.msgId ∨ amHas x.refused m.msgId then s
    else modConn s c (fun x => { seeRequest x m.msgId true with writeLeft := amSet x.writeLeft m.msgId p.len })
  let taken := fun (s : State) => packetTaken s c p.psn p.last
  if amHas x.refused m.msgId then taken s
  else
    match relayOf x m.key with
    | some (k, req) => taken (writePlaced (sendResult s k req m.key (m.addr + p.off) p.payload) c m.msgId p.payload.length)
    | none =>
      match keyRefuse s x m.key 1 with
      | some r => taken (refuseWrite s c m.msgId m.key m.be r)
      | none => place s c { msg := m, psn := p.psn, off := p.off, len := p.payload.length, last := p.last, bytes := p.payload }

/-- A READ (R489, R511, R512). -/
def takeRead (s : State) (c : Nat) (x : Conn) (m : TwMsg) (p : TwPkt) (data : Option HostRead) : State :=
  let s := packetTaken (modConn s c (fun x => seeRequest x m.msgId false)) c p.psn p.last
  match firstRefusal [refuseIf (decide (2 ^ 30 < m.aux)) (rHeader 0x3C), keyRefuse s x m.key 0] with
  | some r => refuseRead s c m.msgId m.key m.be r
  | none => place s c { msg := m, psn := p.psn, off := 0, len := m.aux, last := true, bytes := [], data := data }

/-- Where the packets of a message are kept: a request, its RESP_DATA and its COMPLETION have one MSG_ID. -/
def partKey (op msgId : Nat) : Nat := 4 * msgId + (if op = opResp then 1 else if op = opCompletion then 2 else 0)

/-- The COMPLETION of a result WRITE that the peer refused (R741): the step's own COMPLETION carries the refusal. -/
def resultRefused (s : State) (c req : Nat) (r : Rcpt) : State :=
  let put := fun (q : Rcpt) => { q with status := r.status, notes := 0, detail := r.detail }
  let s := modConn s c (fun x => { x with due := x.due.map (fun d => if d.req = req then { d with rcpt := put d.rcpt } else d) })
  { s with ops := amMap s.ops (fun _ o =>
      match o.origin, o.state with
      | .tideway _ k q, .ready e => if k = c ∧ q = req then { o with state := .ready (put e) } else o
      | _, _ => o) }

/-- A COMPLETION: of a request of this device, or of a result WRITE. -/
def takeCompletion (s : State) (c : Nat) (x : Conn) (msg : Nat) (r : Rcpt) : State :=
  match amGet x.results msg with
  | some req => if statusCompleted r.status then s else resultRefused s c req r
  | none => requestDone s true c msg r

/-- A message is whole: response data and COMPLETIONs act at once, any other waits for admission (R507). -/
def wholeMsg (s : State) (c : Nat) (x : Conn) (q : Part) : State :=
  let bs := q.got.flatMap (·.2)
  let m := { q.msg with payload := bs }
  if m.op = opResp then responseBytes s c m.msgId bs
  else if m.op = opCompletion then takeCompletion s c x m.msgId (rcptOf bs)
  else modConn s c (fun x => { x with waiting := x.waiting ++ [{ q with msg := m }] })

/-- A packet of a message that is kept until it is whole. -/
def takePart (s : State) (c : Nat) (x : Conn) (m : TwMsg) (p : TwPkt) : State :=
  let key := partKey m.op m.msgId
  let old : Part := (amGet x.parts key).getD { msg := m, len := p.len, firstPsn := p.psn, mig := m.mig }
  let q := { old with got := amSet old.got p.off p.payload, firstPsn := if serLt p.psn old.firstPsn then p.psn else old.firstPsn }
  let whole := decide (q.len ≤ q.got.foldl (fun n e => n + e.2.length) 0)
  let s := modConn s c (fun x =>
    let x := if opRequest m.op then seeRequest x m.msgId false else x
    { x with parts := if whole then amErase x.parts key else amSet x.parts key q })
  let s := packetTaken s c p.psn p.last
  if whole then wholeMsg s c x q else s

/-- The contents of a packet whose PSN is new. -/
def takeContents (s : State) (c : Nat) (op : Nat) (p : TwPkt) (data : Option HostRead) (mig : Option MigMsg) : State :=
  match getConn s c with
  | none => s
  | some x =>
    let m := msgOf op p mig
    if 2 ^ 30 < p.len then
      let s := if opRequest op then modConn s c (fun x => seeRequest x p.msgId (op == opWrite)) else s
      packetTaken (if opRequest op then refuseWrite s c p.msgId p.key p.be (rHeader 0x14) else s) c p.psn p.last
    else if op ≠ opWrite ∧ amHas x.refused p.msgId = true then packetTaken s c p.psn p.last
    else if op = opWrite then takeWritePkt s c x m p
    else if op = opRead then takeRead s c x m p data
    else takePart s c x m p

/-- A packet of a cached connection (Table 11.14). -/
def takePacket (s : State) (op : Nat) (p : TwPkt) (data : Option HostRead) (mig : Option MigMsg) : State :=
  let c := p.dstConn
  match getConn s c with
  | none => s
  | some x =>
    if !pktShape x p then count s p.port 8 1
    else
      let s := modTw s (fun t => { t with cache := amMod t.cache c (fun e => { e with used := s.postmark }) })
      let s := if x.peerConn = 0xFFFFFFFF then pump (modConn s c (fun x => { x with peerConn := p.srcConn })) c else s
      let held := missHalf s (connRegion c) || (!x.waiting.isEmpty && !tagAvailable s x.fn)
      let s := if p.ce then count s p.port 11 1 else s
      let s := if held then count s p.port 12 1 else s
      let s := modConn s c (fun x => { x with
        rcvCount := (x.rcvCount + 1) % 65536, ceCount := (x.ceCount + (if p.ce || held then 1 else 0)) % 65536 })
      match getConn s c with
      | none => s
      | some x =>
        let i := serDiff p.psn x.cumPsn
        if psnHeld x p.psn || x.placing.any (fun q => q.msg.op == opWrite && q.psn == p.psn) then ackNow s c
        else if 1024 ≤ i then count s p.port 9 1
        else admitConn (takeContents s c op p data mig) c

/-! ### ACKs (R501, R502, R509, R514, R515) -/

/-- A round-trip sample (R502). -/
def sampleRtt (s : State) (x : Conn) (t : Nat) : Conn :=
  let (srtt, var) := if x.sampled then
      ((7 * x.srtt + t) / 8, (3 * x.rttvar + (if x.srtt ≤ t then t - x.srtt else x.srtt - t)) / 4)
    else (t, t / 2)
  { x with srtt := srtt, rttvar := var, sampled := true, rto := min (rtoMax s) (max (rtoMin s) (srtt + 4 * var)) }

/-- A PSN is acknowledged by an ACK. -/
def ackCovers (a : TwAck) (psn : Nat) : Bool :=
  serLt psn a.cumPsn || a.sack.any (fun b => decide (b.1 ≤ serDiff psn a.cumPsn) && decide (serDiff psn a.cumPsn < b.1 + b.2)
    && !serLt psn a.cumPsn)

/-- ALPHA and the rate after an ACK (R514, R515). -/
def ackRate (s : State) (x : Conn) (a : TwAck) : Conn :=
  let m := (a.ceCount + 65536 - x.peerCe % 65536) % 65536
  let n := (a.rcvCount + 65536 - x.peerRcv % 65536) % 65536
  let alpha := if n = 0 then x.alpha
    else
      let d : Int := (min 65535 (65536 * m / n) : Nat) - (x.alpha : Nat)
      ((x.alpha : Int) + d / (2 ^ gainShift s : Nat)).toNat
  let x := { x with peerCe := a.ceCount % 65536, peerRcv := a.rcvCount % 65536, alpha := alpha }
  if m = 0 then x
  else if x.lastDec + decInterval s ≤ s.postmark then
    { x with rate := max (minRate s) (x.rate - x.rate * alpha / 131072), lastDec := s.postmark, aiSince := s.postmark, aiMarked := false }
  else { x with aiMarked := true }

/-- A packet goes out again with RETX set. -/
def resend (s : State) (c : Nat) (p : OutPkt) : State :=
  let q := { p with retx := true }
  match getConn s c with
  | some x => transmit (count s x.port 13 1) c q
  | none => s

/-- Missing packets with three acknowledged PSNs above them go out again, once in each RTO (R501). -/
def fastResend (s : State) (c : Nat) : State :=
  match getConn s c with
  | none => s
  | some x =>
    let due := x.flight.filter (fun p => !p.acked
      && decide (3 ≤ x.flight.countP (fun q => q.acked && serLt p.psn q.psn))
      && (match p.fastPm with
          | some t => decide (t + x.rto ≤ s.postmark)
          | none => true))
    let s := modConn s c (fun x => { x with flight := x.flight.map (fun p =>
      if due.any (fun q => q.psn == p.psn) then { p with retx := true, fastPm := some s.postmark } else p) })
    due.foldl (fun s p => resend s c p) s

/-- Refused WRITEs whose COMPLETION is acknowledged no longer hold WRITE_DONE (R509). -/
def settleRefused (x : Conn) : Conn :=
  let gone := x.refused.filter (fun e => serLt e.2 x.sndUna || x.flight.any (fun q => q.psn == e.2 && q.acked))
  gone.foldl (fun x e => seeRequest { x with refused := amErase x.refused e.1 } e.1 false) x

/-- An ACK packet of a cached connection. -/
def takeAck (s : State) (a : TwAck) : State :=
  let c := a.dstConn
  match getConn s c with
  | none => s
  | some x =>
    let s := modTw s (fun t => { t with cache := amMod t.cache c (fun e => { e with used := s.postmark }) })
    let fresh := x.flight.filter (fun p => !p.acked && ackCovers a p.psn)
    let y := fresh.foldl (fun y p => if p.retx then y else sampleRtt s y (s.postmark - p.sentPm)) x
    let flight := (x.flight.map (fun p => if ackCovers a p.psn then { p with acked := true } else p)).filter (fun p => !serLt p.psn a.cumPsn)
    let up := serLt x.sndUna a.cumPsn && !serLt x.sndNxt a.cumPsn
    let y := { y with
      flight := if up then flight else x.flight.map (fun p => if ackCovers a p.psn then { p with acked := true } else p)
      sndUna := if up then a.cumPsn else x.sndUna, lastUna := if up then s.postmark else x.lastUna
      retries := if up then 0 else x.retries, peerConn := if x.peerConn = 0xFFFFFFFF then a.srcConn else x.peerConn
      writeDoneOut := if serLt x.writeDoneOut a.writeDone then a.writeDone else x.writeDoneOut }
    let y := settleRefused (ackRate s y a)
    pump (flushDue (fastResend (modConn s c (fun _ => y)) c) c) c

/-! ### Arrival at a port (R483, R497, R504) -/

/-- The packet names an OPEN connection of this port, from its peer (R483). -/
def pktKnown (s : State) (port srcIp srcConn dstConn : Nat) : Bool :=
  s.tw.enable && pcEnable (getPort s port) && (match getConn s dstConn with
    | some x => !x.failed && x.port == port && x.peerIp == srcIp && (x.peerConn == 0xFFFFFFFF || x.peerConn == srcConn)
    | none => false)

/-- A packet or an ACK comes to the connection's cell: it is taken, or waits for the context (R496, R497). -/
def toCell (s : State) (m : Missed) : State :=
  let c := m.pkt.dstConn
  let go := fun (s : State) => match m.ack with
    | some a => takeAck s a
    | none => takePacket s m.op m.pkt m.data m.mig
  match amGet s.tw.cache c with
  | some e => if e.fetching then holdMissed s m else go s
  | none => holdMissed ((cacheTake s c true).getD s) m

/-- A sequenced packet arrives at a port. -/
def receive (op : Nat) (p : TwPkt) (data : Option HostRead) (mig : Option MigMsg) (s : State) : State :=
  if 16 ≤ p.port ∨ accepting s = false then s
  else
    let s := leaveSlack s 3
    let bytes := (getConn s p.dstConn).elim (110 + p.payload.length) (fun x => frameBytes (getPort s p.port) x (opExt op) p.payload.length)
    let s := frameIn s p.port bytes
    if !pktKnown s p.port p.srcIp p.srcConn p.dstConn then count s p.port 8 1
    else toCell s { op := op, pkt := p, data := data, mig := mig }

/-- An ACK arrives. -/
def execAck (a : TwAck) (s : State) : Out :=
  if 16 ≤ a.port ∨ accepting s = false then .next s
  else
    let bytes := (getConn s a.dstConn).elim 110 (fun x => frameBytes (getPort s a.port) x true 0)
    let s := frameIn s a.port bytes
    let p : TwPkt :=
      { port := a.port, srcIp := a.srcIp, srcConn := a.srcConn, dstConn := a.dstConn, psn := 0, msgId := 0, off := 0, len := 0, epoch := 0
        first := true, last := true, fwd := false, be := false, retx := false, ce := false, addr := 0, key := 0, replyKey := 0, handle := 0
        descIndex := 0, aux := 0, payload := [] }
    if !pktKnown s a.port a.srcIp a.srcConn a.dstConn then .next (count s a.port 8 1)
    else .next (startFetches (toCell s { op := 4, pkt := p, data := none, ack := some a }))

/-- CONTEXT_FETCHED (R496, R497): the context is here, so the packets that waited for it are taken. -/
def execContextFetched (c : Nat) (s : State) : Out :=
  match amGet s.tw.cache c, getConn s c with
  | some e, some x =>
    if !e.fetching then .next s
    else
      let mine := s.tw.missed.filter (fun m => m.pkt.dstConn == c)
      let e1 : CacheEntry := { used := s.postmark, fetching := false, image := contextBytes x 1 }
      let s := modTw s (fun t => { t with missed := t.missed.filter (fun m => m.pkt.dstConn != c), cache := amSet t.cache c e1 })
      .next (startFetches (noteMissEmpty (mine.foldl toCell s)))
  | _, _ => .next s

/-! ### The packet of each opcode (Table 11.9) -/

/-- PAGE_WRITE. -/
def execPageWrite (p : TwPkt) (s : State) : Out := .next (receive opPageWrite p none none s)

/-- STEP_ENTRY. -/
def execStepEntry (p : TwPkt) (s : State) : Out := .next (receive opStep p none none s)

/-- TEXT_READ. -/
def execTextRead (p : TwPkt) (s : State) : Out := .next (receive opText p none none s)

/-- BUNDLE_READ. -/
def execBundleRead (p : TwPkt) (s : State) : Out := .next (receive opBundle p none none s)

/-- WRITE. -/
def execWrite (p : TwPkt) (s : State) : Out := .next (receive opWrite p none none s)

/-- READ, with what the addresses under its key hold. -/
def execRead (p : TwPkt) (data : HostRead) (s : State) : Out := .next (receive opRead p (some data) none s)

/-- RESP_DATA. -/
def execRespData (p : TwPkt) (s : State) : Out := .next (receive opResp p none none s)

/-- COMPLETION. -/
def execCompletion (p : TwPkt) (s : State) : Out := .next (receive opCompletion p none none s)

/-- SHARD_SEARCH. -/
def execShardSearch (p : TwPkt) (s : State) : Out := .next (receive opSearch p none none s)

/-- POOL_PUT. -/
def execPoolPut (p : TwPkt) (s : State) : Out := .next (receive opPoolPut p none none s)

/-- POOL_GET. -/
def execPoolGet (p : TwPkt) (s : State) : Out := .next (receive opPoolGet p none none s)

/-- POOL_FREE. -/
def execPoolFree (p : TwPkt) (s : State) : Out := .next (receive opPoolFree p none none s)

/-- MIGRATE OFFER: AUX 1. -/
def execMigrateOffer (p : TwPkt) (m : MigMsg) (s : State) : Out := .next (receive opMigrate { p with aux := 1 } none (some m) s)

/-- MIGRATE PAGES: AUX 2. -/
def execMigratePages (p : TwPkt) (m : MigMsg) (s : State) : Out := .next (receive opMigrate { p with aux := 2 } none (some m) s)

/-- MIGRATE PREPARE: AUX 3. -/
def execMigratePrepare (p : TwPkt) (m : MigMsg) (s : State) : Out := .next (receive opMigrate { p with aux := 3 } none (some m) s)

/-- MIGRATE COMMIT: AUX 4. -/
def execMigrateCommit (p : TwPkt) (s : State) : Out := .next (admitAll (receive opMigrate { p with aux := 4 } none none s))

/-- MIGRATE ABORT: AUX 5. -/
def execMigrateAbort (p : TwPkt) (s : State) : Out := .next (admitAll (receive opMigrate { p with aux := 5 } none none s))

/-! ### Translations and timers -/

/-- Regions in which a placing waits for a page. -/
def askingRegions (s : State) (fn pasid page : Nat) : List Nat :=
  [0, 1].filter (fun r => s.tw.conns.any (fun e => connRegion e.1 == r && e.2.placing.any (fun p =>
    p.xfer.isNone && (match amGet s.asKeys p.msg.key with
      | some k => k.fn == fn && k.pasid == pasid && (pagesOf (p.msg.addr + p.off) p.len).contains page
      | none => false))))

/-- Placings of a page that go on. -/
def retryPlacings (fn pasid page : Nat) (s : State) : State :=
  s.tw.conns.foldl (fun s e =>
    (e.2.placing.filter (fun p => p.xfer.isNone)).foldl (fun s p =>
      match amGet s.asKeys p.msg.key with
      | some k =>
        if k.fn = fn ∧ k.pasid = pasid ∧ (pagesOf (p.msg.addr + p.off) p.len).contains page = true then place s e.1 { p with pri := none } else s
      | none => s) s) s

/-- The first address of a placing on a page. -/
def firstOn (p : Placing) (page : Nat) : Nat := max (p.msg.addr + p.off) (4096 * page)

/-- A page of a PASID cannot be reached: what waits for it is refused. -/
def failPlacings (fn pasid page : Nat) (s : State) : State :=
  s.tw.conns.foldl (fun s e =>
    (e.2.placing.filter (fun p => p.xfer.isNone)).foldl (fun s p =>
      match amGet s.asKeys p.msg.key with
      | some k =>
        if k.fn = fn ∧ k.pasid = pasid ∧ (pagesOf (p.msg.addr + p.off) p.len).contains page = true then placeFail s e.1 p (firstOn p page) else s
      | none => s) s) s

/-- A page request goes out for placings that wait for a page, once (R489). -/
def askPage (fn pasid page : Nat) (s : State) : State :=
  let waits := fun (p : Placing) => p.xfer.isNone && p.pri.isNone && (match amGet s.asKeys p.msg.key with
    | some k => k.fn == fn && k.pasid == pasid && (pagesOf (p.msg.addr + p.off) p.len).contains page
    | none => false)
  if s.tw.conns.any (fun e => e.2.placing.any waits) then
    emit (.priRequest fn pasid page) (modTw s (fun t => { t with
      conns := amMap t.conns (fun _ x => { x with placing := x.placing.map (fun p => if waits p then { p with pri := some (s.postmark, page) } else p) }) }))
  else s

/-- TRANSLATION_RESPONSE: of a range of a function's own host buffers (R77, R740; `pasid` none), or of a page of a PASID (R489). -/
def execTranslationResponse (fn : Nat) (pasid : Option Nat) (addr len : Nat) (answer : XlatAnswer) (s : State) : Out :=
  match pasid with
  | none =>
    match answer with
    | .mapped => .next (modFn s fn (fun f => { f with unmapped := f.unmapped.filter (fun r => r.2 < addr || addr + len ≤ r.1) }))
    | _ => .next (if len = 0 then s else modFn s fn (fun f => { f with unmapped := (addr, addr + len - 1) :: f.unmapped }))
  | some q =>
    match answer with
    | .mapped => .next (retryPlacings fn q (pageOf addr) ((askingRegions s fn q (pageOf addr)).foldl (fun s r => xlatTake s r fn q (pageOf addr)) s))
    | .absent => .next (askPage fn q (pageOf addr) s)
    | .failed => .next (failPlacings fn q (pageOf addr) s)

/-- PRI_TIMEOUT: a page request has waited 10 ms (R489). -/
def execPriTimeout (c pm : Nat) (s : State) : Out :=
  let s := advance pm s
  match getConn s c with
  | none => .next s
  | some x =>
    .next ((x.placing.filter (fun p => match p.pri with
      | some (t, _) => decide (t + 10000000 ≤ s.postmark)
      | none => false)).foldl (fun s p => placeFail s c p (firstOn p (p.pri.elim 0 (fun q => q.2)))) s)

/-- RTO_EXPIRY (R503, R517). -/
def execRtoExpiry (c pm : Nat) (s : State) : Out :=
  let s := advance pm s
  match getConn s c with
  | none => .next s
  | some x =>
    match x.flight.find? (fun p => !p.acked) with
    | none => .next s
    | some p =>
      if x.failed ∨ s.postmark < x.lastUna + x.rto then .next s
      else
        let s := count s x.port 14 1
        let s := modConn s c (fun x => { x with
          rto := min (rtoMax s) (2 * x.rto), retries := x.retries + 1, rate := max (minRate s) (x.rate / 2), lastDec := s.postmark
          aiSince := s.postmark, aiMarked := false, lastUna := s.postmark
          flight := x.flight.map (fun q => if q.psn = p.psn then { q with retx := true } else q) })
        if retryLimit s < x.retries + 1 then .next (failConn s c 1) else .next (resend s c p)

/-- ACK_DELAY_EXPIRY (R500). -/
def execAckDelayExpiry (c pm : Nat) (s : State) : Out :=
  let s := advance pm s
  match getConn s c with
  | some x => if !x.failed && x.unAcked != 0 && decide (x.unAckedPm + ackDelay s ≤ s.postmark) then .next (ackNow s c) else .next s
  | none => .next s

/-- AI_INTERVAL (R516). -/
def execAiInterval (c pm : Nat) (s : State) : Out :=
  let s := advance pm s
  match getConn s c with
  | some x =>
    if !x.failed && decide (x.aiSince + aiInterval s ≤ s.postmark) then
      .next (modConn s c (fun x => { x with
        rate := if x.aiMarked then x.rate else min (portRate s x.port) (x.rate + aiStep s), aiSince := s.postmark, aiMarked := false }))
    else .next s
  | none => .next s

/-- HANDOVER (R140, R522): STUB is set and COMMIT goes out; what was held here is forwarded (R141). -/
def execHandover (d pm : Nat) (s : State) : Out := .next (admitAll (handOver (advance pm s) d))

end Sys2Proof.Machine
end

