-- ==== Sys2Proof/Machine/Complete.lean ====
section
/-! DEFINITION. The completion of operations (R72), and live fields as they come into force (R92, R94). -/

namespace Sys2Proof.Machine

/-- OPERATION_COMPLETE (R72): a finished operation frees its tag and its receipt is written; what waited for its end goes on. -/
def execOperationComplete (tag pm : Nat) (s : State) : Out :=
  let s := advance pm s
  match amGet s.ops tag with
  | some o =>
    match o.state with
    | .ready r =>
      let s := { s with ops := amErase s.ops tag, steps := amErase s.steps tag, commits := amErase s.commits tag
                        searches := amErase s.searches tag }
      let s := settleIndexes (afterOp (deliver s o r) o)
      let s := match o.session with
        | some d => prepareMigration s d
        | none => s
      .next (startFetches (admitAll s))
    | .waiting _ => .next s
  | none => .next s

/-- LIVE_APPLIED (R92): the block reaches an idle point and the shadow value comes into force; a raised warm reserve requests the blocks it
lacks as BE wakes (R670). -/
def execLiveApplied (field : LiveField) (pm : Nat) (s : State) : Out :=
  let s := advance pm s
  let l := getLive s field
  match l.shadow with
  | some v =>
    let w := liveWhere field
    let s := setLive s field { value := v }
    let s := match field with
      | .warmReserve r => (reserveOf s r).foldl (fun s b => requestWake s (14 * r + b) false 0) s
      | _ => s
    .next (admitAll (settleAll (postEvent s w.1 0x0004 w.2 0)))
  | none => .next s

/-- LIVE_APPLY_DEADLINE (R94): 100 µs without an idle point, so the block admits no new work until the field is applied. -/
def execLiveApplyDeadline (field : LiveField) (pm : Nat) (s : State) : Out :=
  let s := advance pm s
  let l := getLive s field
  if l.shadow.isSome ∧ l.since + 100000 ≤ s.postmark then .next (setLive s field { l with stalled := true }) else .next s

end Sys2Proof.Machine
end

