-- ==== Sys2Proof/Machine/Abort.lean ====
section
/-! DEFINITION. Operations that end before their work does: at a per-function reset (R99, R100, R104, R138), and where a region or the chip
is being handled (R623, R626). -/

namespace Sys2Proof.Machine

/-- The page tasks of a step leave every block, at the boundary of the running one. -/
def dropTasks (s : State) (tag : Nat) : State :=
  s.blocks.foldl (fun s e =>
    let x := e.2
    let mine := fun (t : Task) => t.tag == tag
    if (x.queued ++ x.waiting ++ x.running.toList).any mine then
      runBlock s (e.1 / 8) (e.1 % 8)
        { x with queued := x.queued.filter (fun t => !mine t), waiting := x.waiting.filter (fun t => !mine t)
                 running := x.running.filter (fun t => !mine t) }
    else s) s

/-- The provisional slots of a stream are discarded as if every candidate had been rejected (R138). -/
def discardRows (s : State) (d layer : Nat) : State :=
  match amGet s.sessions d with
  | none => s
  | some x =>
    upd (settleStream d x.tokens false s layer) d (fun x =>
      { x with round := { x.round with rowsHeld := x.round.rowsHeld.filter (· != layer) } })

/-- The number no tag has: background work whose command has been aborted runs on under it (R101). -/
def noTag : Nat := 65536

/-- Background work that would answer `tag` no longer has anyone to answer. -/
def orphanTag (s : State) (tag : Nat) : State :=
  let un := fun (t : Nat) => if t = tag then noTag else t
  let s := modPair s (fun p => { p with
    bindTag := p.bindTag.map un
    restore := p.restore.map (fun r => { r with tag := un r.tag })
    drain := p.drain.map (fun r => { r with tag := un r.tag })
    migrations := amMap p.migrations (fun _ g => { g with tag := g.tag.map un, prepare := g.prepare.map un }) })
  let s := modWin s (fun w => { w with releases := w.releases.map (fun r => { r with tags := r.tags.map un }) })
  let for_ := fun (q : SentReq) => match q.for_ with
    | .search t l => { q with for_ := ReqFor.search (un t) l }
    | _ => q
  let s := modTw s (fun t => { t with conns := amMap t.conns (fun _ x => { x with reqs := amMap x.reqs (fun _ q => for_ q) }) })
  { s with
    bundles := amMap s.bundles (fun _ b => { b with reads := amErase b.reads tag })
    changes := s.changes.filter (fun c => c.tag != tag)
    heldWrites := s.heldWrites.filter (fun w => w.1 != tag)
    maskReads := amErase s.maskReads tag
    textReads := amErase s.textReads tag
    textDefers := amErase s.textDefers tag }

/-- A commit that ends before it is applied leaves its round open. -/
def dropCommit (s : State) (tag : Nat) : State :=
  match amGet s.commits tag with
  | some c =>
    let s := modSession s c.d (fun x => { x with round := { x.round with closing := s.commits.any (fun e => e.1 != tag && e.2.d == c.d) } })
    { s with commits := amErase s.commits tag }
  | none => s

/-- The operation under `tag` ends now with receipt `r`, whatever it was doing; `discard` also takes back its provisional slots (R138). -/
def endOp (discard : Bool) (r : Rcpt) (s : State) (tag : Nat) : State :=
  match amGet s.ops tag with
  | none => s
  | some o =>
    let s := dropTasks s tag
    let s := match amGet s.steps tag with
      | some q => if discard && q.entry.newRows && q.rowsKept then discardRows s q.d q.entry.layer else s
      | none => s
    let s := orphanTag (dropCommit s tag) tag
    let s := { s with ops := amErase s.ops tag, steps := amErase s.steps tag, searches := amErase s.searches tag }
    deliver s o r

/-- Several operations end, and what waited for their ends goes on. -/
def endOps (discard : Bool) (r : Rcpt) (tags : List Nat) (s : State) : State :=
  let os := tags.filterMap (fun t => amGet s.ops t)
  let s := tags.foldl (endOp discard r) s
  settleIndexes (os.foldl (fun s o => match o.session with
    | some d => retryDeferred s d
    | none => s) (freeConfigs (reapPages s)))

end Sys2Proof.Machine
end

