-- ==== Sys2Proof/Machine/Resets.lean ====
section
/-! DEFINITION. Per-function resets, and VF Enable (R55, R99 to R104, R359, R739). -/

namespace Sys2Proof.Machine

/-! ### Consent (R686, R689) -/

/-- Seconds left on the consent in force of a partition; 0 if none. -/
def consentLeft (s : State) (p : Nat) : Nat :=
  match amGet s.sec.consents p with
  | some c => (c.until_ - s.postmark) / 1000000000
  | none => 0

/-- The scope in force of a partition: bit 0 PROFILE, bit 1 DEBUG. -/
def consentScope (s : State) (p : Nat) : Nat :=
  match amGet s.sec.consents p with
  | some c => c.scope
  | none => 0

/-- CONSENT_CHANGED to the partition's VF and to PF_0, with the count of R686 (R689, R710). -/
def noteConsent (s : State) (p : Nat) : State :=
  let s := { s with sec := { s.sec with consentChanges := (s.sec.consentChanges + 1) % 2 ^ 32 } }
  let data := consentScope s p + consentLeft s p % 2 ^ 32 * 2 ^ 32
  postPf (postEvent s p 0x0A01 p data) 0x0A01 p data

/-- The consent of a partition ends, if one is in force (R689). -/
def endConsent (s : State) (p : Nat) : State :=
  if amHas s.sec.consents p then
    clearTrace (noteConsent { s with sec := { s.sec with consents := amErase s.sec.consents p } } p) p
  else s

/-! ### The parts of a per-function reset -/

/-- The tags of a function. -/
def fnTags (s : State) (fn : Nat) : List Nat := (s.ops.filter (fun e => originFn e.2.origin == fn)).map (·.1)

/-- Held receipts of every ring of a function go to its dead-letter ring, and its streams close (R99, R359). -/
def emptyRings (s : State) (fn : Nat) : State :=
  let s := (ringsOf (getFn s fn)).foldl (fun s rid => dropHeld s fn rid) s
  ((streamsOf s fn).map (·.1)).foldl dropStream s

/-- What R99 takes from a VF beside its rings and operations: its keys and its consent; its descriptors are written back, and its TDISP
interface unlocks (R687). -/
def stripVf (s : State) (fn : Nat) : State :=
  let s := ((s.sessions.filter (fun e => e.2.partition == fn)).map (·.1)).foldl writeBack s
  let s := { s with asKeys := s.asKeys.filter (fun e => e.2.fn != fn) }
  endConsent { s with sec := { s.sec with tdisp := amErase s.sec.tdisp fn } } fn

/-- A function's registers at reset, but for the dead-letter ring, EVENTS_LOST, and what the host maps (R76, R78, R99). -/
def freshFn (f : Fn) : Fn :=
  { deadLetters := f.deadLetters, lost := f.lost, eventsLost := f.eventsLost, unmapped := f.unmapped }

/-- BAR0 and BAR2 of a function return to their reset values (R99, R104). -/
def clearFn (s : State) (fn : Nat) : State :=
  { setFn s fn (freshFn (getFn s fn)) with live := amErase (amErase s.live (256 + fn)) (512 + fn) }

/-- A per-function reset begins: no work is admitted, and the function's operations end with ABORTED_FLR (R99, R100, R104). -/
def beginFlr (s : State) (fn : Nat) : State :=
  let s := modFn s fn (fun f => { f with flrBusy := true })
  let s := emptyRings (endOps true { status := .abortedFlr } (fnTags s fn) s) fn
  if fn = 0 then s else stripVf s fn

/-- A function returns to the state that follows a per-function reset (R626, R733). -/
def resetFn (s : State) (fn : Nat) : State := clearFn (beginFlr s fn) fn

/-- The functions present. -/
def presentFns (s : State) : List Nat := (List.range 65).filter (fnPresent s)

/-- What waited for tags or for a reset's end goes on. -/
def goOn (s : State) : State := startFetches (admitAll (settleAll s))

/-! ### The commands -/

/-- PER_FUNCTION_RESET of VF_n. -/
def execPerFunctionReset (fn : Nat) (s : State) : Out :=
  if fn = 0 ∨ fnPresent s fn = false ∨ s.ready = false ∨ (getFn s fn).flrBusy = true then .next s
  else .next (goOn (beginFlr s fn))

/-- PF0_RESET. -/
def execPf0Reset (s : State) : Out :=
  if s.ready = false ∨ (getFn s 0).flrBusy = true then .next s else .next (goOn (beginFlr s 0))

/-- FLR_DONE (R103): the registers are reset, FLR_BUSY clears and READY is set. -/
def execFlrDone (fn : Nat) (s : State) : Out :=
  if fnPresent s fn = true ∧ (getFn s fn).flrBusy = true then .next (goOn (clearFn s fn)) else .next s

/-- VF_ENABLE_CLEAR (R55). -/
def execVfEnableClear (s : State) : Out :=
  if s.vfEnable then
    .next (goOn { ((presentFns s).filter (· != 0)).foldl resetFn s with vfEnable := false })
  else .next s

/-- VF_ENABLE_SET (R739): the VFs up to NumVFs are present. -/
def execVfEnableSet (n : Nat) (s : State) : Out :=
  if s.vfEnable then .next s else .next { s with vfEnable := true, numVfs := min n 64 }

end Sys2Proof.Machine
end

