-- ==== Sys2Proof/Machine/TwConn.lean ====
section
/-! DEFINITION. The chart and the connection commands (R480, R492 to R495, R505, R518 to R521). -/

namespace Sys2Proof.Machine

/-! ### SET_CHART (R518 to R521) -/

/-- The fields of a chart body that are out of range, by byte offset. -/
def chartBad (b : List Byte) (n : Nat) : List (Nat × Bool) :=
  zeroBad b 8 16 ++ (List.range n).flatMap (fun i =>
    let o := 16 + 16 * i
    [(o + 10, decide (3 < field b (o + 10) 1)), (o + 11, decide (2 < field b (o + 11) 1))] ++ zeroBad b (o + 12) (o + 16))

/-- The length that a chart body must have. -/
def chartLen (b : List Byte) : Nat := 16 + 16 * (field b 0 4 + field b 4 4)

/-- One device entry: identity, then its number, role and state. -/
def chartDevice (b : List Byte) (m : AMap ChartDev) (i : Nat) : AMap ChartDev :=
  let o := 16 + 16 * i
  let id := field b o 8
  if field b (o + 11) 1 = 0 then amErase m id
  else amSet m id { num := field b (o + 8) 2, role := field b (o + 10) 1, lost := field b (o + 11) 1 == 2 }

/-- One redirect record: an owner of 0 removes the handle's. -/
def chartRedirect (b : List Byte) (n : Nat) (l : List (Nat × Nat)) (i : Nat) : List (Nat × Nat) :=
  let o := 16 + 16 * n + 16 * i
  let rest := l.filter (fun r => r.1 != field b o 8)
  if field b (o + 8) 8 = 0 then rest else rest ++ [(field b o 8, field b (o + 8) 8)]

/-- The device table and redirect records after a body. -/
def chartAfter (s : State) (b : List Byte) : AMap ChartDev × List (Nat × Nat) :=
  let n := field b 0 4
  ((List.range n).foldl (chartDevice b) s.tw.devices, (List.range (field b 4 4)).foldl (chartRedirect b n) s.redirects)

/-- The numbers that a body's entries of STATE 0 and 2 name, with the identities of those marked lost. -/
def chartLost (s : State) (b : List Byte) : List (Nat × Option Nat) :=
  (List.range (field b 0 4)).filterMap (fun i =>
    let o := 16 + 16 * i
    let id := field b o 8
    let num := (amGet s.tw.devices id).elim (field b (o + 8) 2) (fun d => d.num)
    match field b (o + 11) 1 with
    | 0 => some (num, none)
    | 2 => some (field b (o + 8) 2, some id)
    | _ => none)

/-- SET_CHART. -/
def setChartSpec (h : Hdr) (epoch : Nat) (body : HostRead) : RingCmd :=
  let b := bodyBytes body
  { pfOnly := true, hasBuffer := true
    refuse := fun s =>
      [ bodyRefusal body, refuseIf (decide (h.len < 16) || h.len != chartLen b) (rInvalid 12),
        (firstBad (chartBad b (field b 0 4))).map (fun o => rInvalid o),
        refuseIf (decide (epoch ≤ s.chartEpoch) || epoch == 0xFFFFFFFF) (rVersion s.chartEpoch),
        refuseIf (decide (4096 < (chartAfter s b).1.length) || decide (4194304 < (chartAfter s b).2.length)) (rBusy 2) ]
    run := fun s tag =>
      let t := chartAfter s b
      let lost := chartLost s b
      let s := modTw { s with chartEpoch := epoch, redirects := t.2 } (fun w => { w with devices := t.1 })
      let s := lost.foldl (fun s e => match e.2 with
        | some id => postPf s 0x0407 0 id
        | none => s) s
      done (lost.foldl (fun s e => poolLost s e.1) s) h tag (rOk) }

/-- SET_CHART. -/
def execSetChart (h : Hdr) (epoch : Nat) (body : HostRead) (s : State) : Out := adminCmd h (setChartSpec h epoch body) s

/-! ### OPEN_CONNECTION, CLOSE_CONNECTION, QUERY_CONNECTION (R492 to R495, R505) -/

/-- Resident connections of a connection's cache set. -/
def residents (s : State) (c : Nat) : Nat := s.tw.conns.countP (fun e => e.2.resident && cacheSet e.1 == cacheSet c)

/-- The lowest number at or above `c` that a new connection may take, of the first `n`. -/
def freeConn (s : State) (resident : Bool) : Nat → Nat → Option Nat
  | 0, _ => none
  | n + 1, c =>
    if amHas s.tw.conns c || (resident && decide (4 ≤ residents s c)) then freeConn s resident n (c + 1) else some c

/-- The number of a new connection of a port (R492): one of its half's 524,288. -/
def newConn (s : State) (port : Nat) (resident : Bool) : Option Nat :=
  freeConn s resident (min (33 * s.tw.conns.length + 1) 524288) (port / 8 * 524288)

/-- OPEN_CONNECTION. -/
def openConnectionSpec (h : Hdr) (peerIp peerMac peerUdp peerConn peerDevice port mtu flags dscp : Nat) : RingCmd :=
  let resident := bit flags 3
  { bad := fun s =>
      [ (48, peerConn != 0xFFFFFFFF && decide (1048576 ≤ peerConn)), (60, decide (15 < port) || !pcEnable (getPort s port)),
        (61, decide (1 < mtu)), (62, decide (15 < flags) || decide (4 < flags % 8)), (63, decide (63 < dscp)) ]
    refuse := fun s => [refuseIf (newConn s port resident).isNone (rBusy 2)]
    run := fun s tag =>
      match newConn s port resident with
      | none => done s h tag (rBusy 2)
      | some c =>
        let x : Conn :=
          { peerIp := peerIp, peerDevice := peerDevice, peerMac := peerMac, peerUdp := peerUdp, peerConn := peerConn, rate := portRate s port
            rto := rtoInit s, fn := h.fn, port := port, mtu8k := mtu == 1, resident := resident, spray := flags % 8, dscp := dscp
            aiSince := s.postmark }
        let s := modTw s (fun t => { t with conns := amSet t.conns c x })
        let s := if resident then (cacheTake s c false).getD s else s
        let s := if h.fn = 0 then resendCommits s c peerDevice else s
        done s h tag (rOk c) }

/-- OPEN_CONNECTION. -/
def execOpenConnection (h : Hdr) (peerIp peerMac peerUdp peerConn peerDevice port mtu flags dscp : Nat) (s : State) : Out := adminCmd h (openConnectionSpec h peerIp peerMac peerUdp peerConn peerDevice port mtu flags dscp) s

/-- The refusals of a command that names a connection. -/
def connRefuse (s : State) (fn c : Nat) : List (Option Rcpt) :=
  match getConn s c with
  | some x => [refuseIf (fn != 0 && x.fn != fn) rPfOnly]
  | none => []

/-- CLOSE_CONNECTION. -/
def closeConnectionSpec (h : Hdr) : RingCmd :=
    { bad := fun s => [(8, (getConn s h.target).isNone)]
      refuse := fun s => connRefuse s h.fn h.target
      run := fun s tag => done (closeConn s h.target) h tag (rOk) }

/-- CLOSE_CONNECTION. -/
def execCloseConnection (h : Hdr) (s : State) : Out := adminCmd h (closeConnectionSpec h) s

/-- QUERY_CONNECTION. -/
def queryConnectionSpec (h : Hdr) : RingCmd :=
    { hasBuffer := true
      bad := fun s => [(8, (getConn s h.target).isNone)]
      refuse := fun s => connRefuse s h.fn h.target
      run := fun s tag =>
        match getConn s h.target with
        | some x => doneWrite s h tag (contextBytes x (if x.failed then 2 else 1)) (rOk)
        | none => done s h tag (rInvalid 8) }

/-- QUERY_CONNECTION. -/
def execQueryConnection (h : Hdr) (s : State) : Out := adminCmd h (queryConnectionSpec h) s

/-! ### TW_CTRL (R480) -/

/-- TW_CTRL_ENABLE: a write of TW_CTRL. -/
def execTwCtrlEnable (value : Word32) (s : State) : Out :=
  let v := value.toNat
  if !regsOpen s 0 then .next s
  else if s.tw.enable then
    if bit v 0 then .next s
    else .next (modTw ((s.tw.conns.map (·.1)).foldl closeConn s) (fun t => { t with enable := false, missed := [], missFull := [] }))
  else .next (modTw s (fun t => { t with enable := bit v 0 && bits v 31 16 != 0, udpPort := bits v 31 16, hopLimit := bits v 15 8 }))

end Sys2Proof.Machine
end

