-- ==== Sys2Proof/Machine/Faults.lean ====
section
/-! DEFINITION. Faults: the error log, the handling slots and their rules, and what each error's containment does (R614 to R634). -/

namespace Sys2Proof.Machine

def modFaults (s : State) (f : Faults → Faults) : State := { s with faults := f s.faults }

/-- The state a command leads to. -/
def nextOr (s : State) (o : Out) : State :=
  match o with
  | .next t => t
  | _ => s

/-! ### FAULT_STATUS, CELL_MAP_b and the error log (R619, R633, R634) -/

/-- A handling that still occupies its slot (R615). -/
def busyNow (s : State) (h : ErrRec) : Bool :=
  match h.until_ with
  | some u => decide (s.postmark < u)
  | none => true

/-- FAULT_STATUS (Table 14.5). -/
def faultStatus (s : State) : Nat :=
  let f := s.faults
  let level := fun (l : Nat) => b2n (f.handling.any (fun h => h.level == l && busyNow s h)) * 2 ^ (12 + l)
  min f.deferred.length 1024 + level 0 + level 1 + level 2 + level 3 + min f.cellsRetired.length 255 * 2 ^ 16
    + min f.blocksOut.length 255 * 2 ^ 24 + (f.regionsDown.map (fun r => if r = 9 then 2 ^ 40 else 2 ^ (32 + r))).foldl (· + ·) 0
    + min f.chipRestarts 65535 * 2 ^ 48

/-- CELL_MAP_b of attention block b (Table 14.2a). -/
def cellMapWord (s : State) (b : Nat) : Nat :=
  let x := getBlock s (b / 8) (b % 8)
  x.retired.headD 31 + b2n x.out * 2 ^ 31

/-- What R726 compares: FAULT_STATUS and BEACHED. -/
def alertWord (s : State) : Nat := faultStatus s + b2n s.beached * 2 ^ 64

/-- SMB_ALERT_N falls when the compared value comes to differ from the one last returned (R726). -/
def noteAlert (before s : State) : State :=
  let w := alertWord s
  if w = alertWord before ∨ w = s.faults.alertSeen then s else modFaults s (fun f => { f with alert := true })

/-- Write an entry of the error log (R634). -/
def logError (s : State) (e : ErrRec) (outcome : Nat) : State :=
  modFaults s (fun f =>
    let n : LogEntry := { seq := f.logSeq, boot := f.boots % 65536, err := e, outcome := outcome }
    let f := { f with logSeq := (f.logSeq + 1) % 2 ^ 32 }
    if f.log.length < 4096 then { f with log := f.log ++ [n] }
    else { f with log := f.log.tail ++ [n], logLost := f.logLost + 1 })

/-- The kind and index of a block, and a cell, as the retirement events give them (Table 14.9). -/
def unitData (u : ErrUnit) : Nat := u.kind % 32 + u.index % 16 * 2 ^ 8 + (u.cell.getD 0) % 32 * 2 ^ 16

/-- The block of a unit. -/
def blockOf (u : ErrUnit) : ErrUnit := { u with cell := none }

/-! ### Frames (R616, R621) -/

/-- A frame is retired until device reset: a free one is taken out at once, one in use when its run is given up. -/
def retireFrame (s : State) (stack frame : Nat) : State :=
  let k := runKey stack frame
  if s.faults.framesOut.contains k then s
  else
    let s := modFaults s (fun f => { f with framesOut := f.framesOut ++ [k] })
    if s.runs.any (fun e => e.1 ≤ k && decide (k < e.1 + e.2.count)) then s else takeRun s stack frame 1 none

/-- A page takes a new record, and every reference follows (R616). -/
def renamePage (s : State) (loc new : Nat) : State :=
  match amGet s.pages loc with
  | none => s
  | some p =>
    let ref := fun (r : PRef) => if r.tier = 0 ∧ r.loc = loc then { r with loc := new } else r
    { s with
      pages := amSet (amErase s.pages loc) new p
      recGen := amSet s.recGen loc p.gen
      idents := s.idents.map (fun e => if e.2 = loc then (e.1, new) else e)
      sessions := amMap s.sessions (fun _ x => { x with
        refs := amMap x.refs (fun _ r => ref r)
        ebb := x.ebb.map (fun j => { j with switched := amMap j.switched (fun _ r => ref r) }) })
      steps := amMap s.steps (fun _ q => { q with srcs := q.srcs.map (fun v => if v = .hbm loc then .hbm new else v) }) }

/-- Every name of run `old` becomes `new`. -/
def renameRun (s : State) (old new : Nat) : State :=
  let k := fun (r : Nat) => if r = old then new else r
  let ks := fun (l : List Nat) => l.map k
  let harb := fun (h : Harbour) => { h with runs := ks h.runs }
  let s := modPair s (fun p => { p with hosted := p.hosted.map harb, frozen := amMap p.frozen (fun _ h => harb h) })
  let s := modWin s (fun w => { w with dirRuns := ks w.dirRuns, extents := amMap w.extents (fun _ x => { x with runs := ks x.runs }) })
  let s := modTw s (fun t => { t with poolStore := amMap t.poolStore (fun _ p => { p with run := k p.run }) })
  { s with
    pages := amMap s.pages (fun _ p => if runKey p.stack p.frameBase = old then { p with frameBase := new % 2 ^ 20 } else p)
    sessions := amMap s.sessions (fun _ x => { x with scout := x.scout.map (fun c => { c with run := k c.run }) })
    accounts := amMap s.accounts (fun _ a => { a with poolRuns := ks a.poolRuns })
    configs := amMap s.configs (fun _ c => { c with vers := amMap c.vers (fun _ v => { v with run := v.run.map k }) })
    bundles := amMap s.bundles (fun _ b => { b with run := b.run.map k })
    indexes := amMap s.indexes (fun _ ix => { ix with
      vecRuns := ks ix.vecRuns
      shards := amMap ix.shards (fun _ h => { h with areas := ks h.areas, postRuns := ks h.postRuns }) })
    hm := { s.hm with memRuns := ks s.hm.memRuns } }

/-- The contents of a frame move to another frame of its stack, and it is retired (R616). A run moves whole; where the stack has no room for
it, it stays until its frames are given up. -/
def moveFrame (s : State) (stack frame : Nat) : State :=
  let k := runKey stack frame
  match s.runs.find? (fun e => e.1 ≤ k && decide (k < e.1 + e.2.count)) with
  | none => retireFrame s stack frame
  | some (old, r) =>
    match findRun s stack r.count with
    | none => retireFrame s stack frame
    | some base =>
      let s := renameRun (takeRun s stack base r.count r.account) old (runKey stack base)
      let s := match s.pages.find? (fun e => runKey e.2.stack e.2.frameBase == runKey stack base) with
        | some (loc, _) => renamePage s loc (amLowestFree s.pages (stack / 2 * 2 ^ 21))
        | none => s
      freeRun (retireFrame s stack frame) old

/-! ### Objects in HBM (R621, Table 14.2) -/

/-- OBJECT_LOST to the account's function (Table 14.9). -/
def noteObjectLost (s : State) (o : HbmObject) (account num slot : Nat) : State :=
  let row := match o with
    | .indexNode .. => 8
    | .posting .. => 9
    | _ => 10
  postAccount s account 0x0809 (Config.objectKind row % 256 + num % 2 ^ 32 * 2 ^ 32 + slot % 2 ^ 32 * 2 ^ 64)

/-- A page in HBM is lost: its references switch to tier 4, steps find it absent, and its record and its entry of the identity index go. -/
def losePage (s : State) (loc : Nat) : State :=
  match amGet s.pages loc with
  | none => s
  | some p =>
    let hit := fun (r : PRef) => r.tier == 0 && r.loc == loc && r.gen == p.gen
    let ds := (s.sessions.filter (fun e => e.2.refs.any (fun r => hit r.2))).map (·.1)
    let unref := fun (x : Session) => ({ x with
      refs := amMap x.refs (fun _ (r : PRef) => if hit r then { r with tier := 4, loc := 0 } else r)
      ebb := x.ebb.map (fun (j : EbbJob) => { j with switched := j.switched.filter (fun r => !hit r.2) }) } : Session)
    let gone := fun (q : StepRec) => ({ q with srcs := q.srcs.map (fun v => if v = .hbm loc then .missing else v) } : StepRec)
    let s : State := { s with
      sessions := amMap s.sessions (fun _ x => unref x)
      steps := amMap s.steps (fun _ q => if q.phase == .running then q else gone q)
      idents := s.idents.filter (fun e => e.2 != loc) }
    -- A step that reads the page now ends as one that finds it absent (Table 5.9).
    let tags := (s.steps.filter (fun e => e.2.phase == .running && e.2.srcs.contains (.hbm loc))).map (·.1)
    let s := tags.foldl (fun s t =>
      match amGet s.steps t with
      | some q =>
        match amGet s.sessions q.d with
        | some x =>
          let q := gone q
          let s := dropTasks s t
          if q.entry.mode = 1 then dispatchStep s t q.d q
          else finishWith s t q (stepRcpt q .pagesAbsent 0 (missingList s x).length) (missingWrite s x q)
        | none => s
      | none => s) s
    let s := freePage s loc
    postAccount s p.account 0x0808 (p.layer % 256 + p.posBase / 256 % 65536 * 2 ^ 16 + ds.length % 2 ^ 32 * 2 ^ 32)

/-- A scout page is dropped. -/
def loseScoutPage (s : State) (d key : Nat) : State :=
  modSession s d (fun x => { x with scout := x.scout.map (fun c => { c with pages := amErase c.pages key }) })

/-- The operations on index or bundle `o` end with FAULT. -/
def faultObject (s : State) (o : Nat) : State :=
  let mine := fun (e : Nat × Op) => e.2.object == some o || (match e.2.state with
    | .waiting (.objReplaced k) => k == o
    | .waiting (.bundleHbm k) => k == o
    | .waiting (.compacted k) => k == o
    | .waiting (.indexIdle k) => k == o
    | _ => false) || s.changes.any (fun c => c.tag == e.1 && c.index == o)
    || (match amGet s.searches e.1 with | some q => q.index == o && !q.finished | none => false)
  endOps false { status := .fault } ((s.ops.filter mine).map (·.1)) s

/-- An index or a bundle is lost: operations naming it complete with FAULT. -/
def loseObject (s : State) (o : HbmObject) (n : Nat) : State :=
  let s := modFaults (faultObject s n) (fun f => { f with objectsLost := n :: f.objectsLost.filter (· != n) })
  match amGet s.bundles n, amGet s.indexes n with
  | some b, _ => noteObjectLost (noteQuotas (dropBundleRun { s with bundles := amErase s.bundles n } b) b.account) o b.account n 0
  | none, some ix => noteObjectLost (freeIndexObject s n) o ix.account n 0
  | none, none => s

/-- The outcome of an uncorrectable HBM line, by its object (Table 14.2). -/
def loseInHbm (s : State) (o : HbmObject) : State :=
  match o with
  | .page loc => losePage s loc
  | .scoutPage d key => loseScoutPage s d key
  | .descriptor d => failSession s d 1
  | .sessionList d => failSession s d 4
  | .handleSlot h => modFaults s (fun f => { f with rebuilding := amSet f.rebuilding h (s.postmark + 1000000000) })
  | .windowLine l => poisonLine s l 4 0x1F
  | .directory l =>
    let hosts := (getExt s (lineExt l)).hosts
    let s := sendSnoops s l (hosts.map (fun h => (h, 0)))
    modWin s (fun w => { w with dir := amErase w.dir l })
  | .indexNode k sh slot =>
    match amGet s.indexes k with
    | none => s
    | some ix =>
      match (amGet ix.shards sh).bind (fun h => amGet h.nodes slot) with
      | none => s
      | some n =>
        let s := match applyChange s { tag := noTag, index := k, shard := sh, change := .delete slot n.gen } with
          | some (s, _) => s
          | none => s
        noteObjectLost s o ix.account k slot
  | .posting k sh =>
    match amGet s.indexes k with
    | none => s
    | some ix => noteObjectLost (modIndex s k (fun ix => { ix with shards := amMod ix.shards sh (fun h => { h with verified := false }) })) o ix.account k 0
  | .bundle n => loseObject s o n
  | .codebook n => loseObject s o n
  | .config kind num ver =>
    match cfgVer s kind num ver with
    | none => s
    | some c =>
      noteObjectLost (modFaults s (fun f => { f with configsLost := (cfgKey kind num * 65536 + ver) :: f.configsLost })) o c.account num 0
  | .harbourSlot slot =>
    let empty : CkptSlot := {}
    isthmus (modPair s (fun p => { p with hosted := p.hosted.map (fun h =>
      if slot = 0 then { h with slotA := { h.slotA with record := empty.record } } else { h with slotB := { h.slotB with record := empty.record } }) })) .slotLost
  | .harbourStore off =>
    let keep := fun (h : Harbour) (c : CkptSlot) => if slotNames h c |>.contains off then { c with record := none } else c
    isthmus (modPair s (fun p => { p with hosted := p.hosted.map (fun h => { h with slotA := keep h h.slotA, slotB := keep h h.slotB }) })) .slotLost
  | .parkCopy loc =>
    isthmus (modPair s (fun p => { p with hosted := p.hosted.map (fun h => { h with park := amErase h.park loc }) })) (.parkLost loc)

/-! ### Descriptor-cache contents that are lost (R123, R617, R623) -/

/-- The descriptor in HBM stands where the cached one is lost: what the descriptor holds returns to its last write-back; what lies elsewhere
in HBM stays. -/
def revertDesc (s : State) (d : Nat) : State :=
  match amGet s.dcache d with
  | none => s
  | some e =>
    let s := { s with dcache := amErase s.dcache d }
    match (if e.dirty then e.image else none) with
    | none => s
    | some y => modSession s d (fun x => { y with
        refs := x.refs, toks := x.toks, chain := x.chain, rootSalt := x.rootSalt, scout := x.scout, round := x.round, rules := x.rules
        textCursor := x.textCursor, stateEpoch := x.stateEpoch, masks := x.masks, tailCopied := x.tailCopied, pageList := x.pageList
        ebb := x.ebb, flood := x.flood, move := x.move, partition := x.partition, handle := x.handle })

/-- The descriptors of a set of sessions whose cached entries are dirty. -/
def dirtyOf (s : State) (p : Nat → Bool) : List Nat := (s.dcache.filter (fun e => p e.1 && e.2.dirty)).map (·.1)

/-! ### Blocks (R617, R619) -/

/-- The tasks of an attention block out of service go to the blocks left (R333). -/
def redispatch (s : State) (region b : Nat) : State :=
  let x := getBlock s region b
  let ts := x.running.toList ++ x.queued ++ x.waiting
  let s := setBlock s region b { x with queued := [], waiting := [], running := none, out := true }
  ts.foldl (fun s t =>
    match amGet s.steps t.tag with
    | some q =>
      match amGet s.sessions q.d with
      | some ses => queueTask (srcStack s ses q.d t.page q.entry.layer ((q.srcs.drop t.page).headD .missing)) s t
      | none => s
    | none => s) s

/-- A block leaves service until device reset. -/
def retireBlock (s : State) (e : ErrRec) : State :=
  let u := blockOf e.unit
  if s.faults.blocksOut.contains u then s
  else
    let s := modFaults s (fun f => { f with blocksOut := f.blocksOut ++ [u] })
    let s := postPf (logError s { e with unit := u } 0) 0x0802 u.region (unitData u)
    if u.kind = 1 then redispatch s u.region u.index else s

/-- How many of its cells each kind of block has; a block with none left is short (Table 14.1). -/
def blockCells (kind : Nat) : Nat :=
  if kind = 2 then 4 else if kind = 3 then 8 else if kind = 12 then 32 else if kind = 17 then 8 else 4

/-- The harbourmaster core that a core of a core block is, if it is one: 4 × (block − 2) + core (R220). -/
def hmCore (u : ErrUnit) : Option Nat :=
  match u.cell with
  | some c => if u.kind = 11 ∧ 2 ≤ u.index ∧ c < 4 then some (4 * (u.index - 2) + c) else none
  | none => none

/-- What the errors of a region's work take with them: tags of operations with work in state region k. -/
def waitDesc : Wait → Option Nat
  | .freed _ => none
  | .parked d | .flooded d | .replaced d | .handover d | .tailPage d _ | .restored d | .newText d | .masks d => some d
  | _ => none

/-- A step reads or runs in state region k. -/
def stepIn (s : State) (k : Nat) (q : StepRec) : Bool :=
  q.d % 6 == k || q.srcs.any (fun v => match v with
    | .hbm loc => locRegion loc == k
    | .scout => q.d % 6 == k
    | .missing => false)
  || (s.blocks.any (fun e => e.1 / 8 == k && (e.2.queued ++ e.2.waiting ++ e.2.running.toList).any (fun t => (amGet s.steps t.tag) == some q)))

/-- The operations with work in region r (R623): of a state region, those of its sessions, those of steps that read or run there, and changes
of its shards; of a port region, those its connections brought; of M_0, those that wait for media. -/
def tagsIn (s : State) (r : Nat) : List Nat :=
  (s.ops.filter (fun e =>
    let d := match e.2.session with
      | some d => some d
      | none => match e.2.state with
        | .waiting w => waitDesc w
        | .ready _ => none
    if r < 6 then
      (match d with | some d => d % 6 == r | none => false)
        || (match amGet s.steps e.1 with | some q => stepIn s r q | none => false)
        || s.changes.any (fun c => c.tag == e.1 && (match (amGet s.indexes c.index).bind (fun ix => amGet ix.shards c.shard) with
            | some h => h.region == r
            | none => false))
    else if r < 8 then (match e.2.origin with
      | .tideway _ c _ => connRegion c == r - 6
      | .ring .. => false)
    else if r = 9 then
      (match e.2.state with
      | .waiting .media => true
      | .waiting (.flooded d) => (match amGet s.sessions d with
        | some x => x.refs.any (fun q => q.2.tier == 3)
        | none => false)
      | .waiting (.parked d) => (match amGet s.sessions d with
        | some x => (match x.ebb with | some j => j.tier == 3 | none => false)
        | none => false)
      | _ => false)
    else false)).map (·.1)

/-- The shards of region k become MISSING in the searches that run (R427). -/
def missShards (s : State) (k : Nat) : State :=
  { s with searches := amMap s.searches (fun _ q =>
      match amGet s.indexes q.index with
      | none => q
      | some ix =>
        if q.finished then q
        else
          let gone := q.searched.filter (fun i => match amGet ix.shards i with | some h => h.region == k | none => false)
          { q with searched := q.searched.filter (fun i => !gone.contains i)
                   missing := q.missing ++ gone
                   answer := { q.answer with
                     hits := q.answer.hits.filter (fun h => !gone.contains h.shard)
                     seqs := q.answer.seqs.filter (fun e => !gone.contains e.1) } }) }

/-- The page tasks of a region's blocks are lost with its SRAM. -/
def clearBlocks (s : State) (k : Nat) : State :=
  { s with blocks := amMap s.blocks (fun b x => if b / 8 = k then { x with queued := [], waiting := [], running := none, granted := false } else x) }

/-- The regions whose domains a wake names (Table 15.1). -/
def domRegion (d : Nat) : Nat :=
  if d < 84 then d / 14 else if d < 96 then 6 + (d - 84) / 6 else if d < 106 then 8 else 9

/-- Port region p's ports and its Isthmus half go down. -/
def dropPorts (s : State) (p : Nat) : State :=
  let s := (List.range 8).foldl (fun s n => nextOr s (execPortDown (8 * p + n) s)) s
  nextOr s (execLinkDegraded p 0 s)

/-- Region handling begins (R623). -/
def startRegion (s : State) (e : ErrRec) : State :=
  let r := e.unit.region
  let tags := tagsIn s r
  let s := if r < 6 then missShards s r else s
  let s := endOps false { status := .fault } tags s
  let dirty := if r < 6 then dirtyOf s (fun d => d % 6 == r) else []
  let s := modFaults s (fun f => { f with runs := f.runs ++ [{ region := r, kind := e.kind, dirty := dirty }] })
  let s := modPow s (fun p => { p with wakes := p.wakes.filter (fun w => domRegion w.dom != r) })
  let s :=
    if r < 6 then
      let s := clearBlocks { s with regionsOut := r :: s.regionsOut.filter (· != r) } r
      let s := { s with indexes := amMap s.indexes (fun _ ix => { ix with
        shards := amMap ix.shards (fun _ h => if h.region = r then { h with verified := false } else h) }) }
      ((s.dcache.filter (fun c => c.1 % 6 == r)).map (·.1)).foldl revertDesc s
    else if r < 8 then dropPorts s (r - 6)
    else s
  emit (.platformEvent 0x0803 r) (postPf s 0x0803 r (e.kind + tags.length % 2 ^ 32 * 2 ^ 32))

/-! ### Chip restart and BEACHED (R626, R631) -/

/-- The CXL hosts that have a link. -/
def linkedHosts (s : State) : List Nat := (List.range 32).filter (fun h => decide (0 < hostVersion s h) || s.win.extents.any (fun e => e.2.hosts.contains h))

/-- What a restart of the whole chip takes: operations end with FAULT, hosts have crashed, ports and halves go down, cores stop, and the
descriptor caches empty. -/
def stopChip (s : State) : State :=
  let s := endOps false { status := .fault } (s.ops.map (·.1)) s
  let s := (linkedHosts s).foldl (fun s h => crashHost s h 3) s
  let s := dropPorts (dropPorts s 0) 1
  let s := hmHold s 0xFFFF
  let s := { s with blocks := amMap s.blocks (fun _ x => { x with queued := [], waiting := [], running := none, granted := false }) }
  modPow (((s.dcache.map (·.1))).foldl revertDesc s) (fun p => { p with wakes := [], ramps := [] })

/-- BEACHED (R631). Only the error log, FAULT_STATUS, flash, and what lies in the always-on domain are left. -/
def enterBeached (s : State) (e : ErrRec) : State :=
  let seq := s.faults.logSeq
  let s := logError s e 5
  let s := postPf { s with beached := true } 0x0807 0 (e.kind + seq % 2 ^ 32 * 2 ^ 32)
  let s := isthmus (emit (.platformEvent 0x0807 0) s) (.announce false)
  let s := { s with ops := [], steps := [], commits := [], searches := [], maskReads := [], textReads := [], textDefers := [], changes := []
                    heldWrites := [], notices := [] }
  let s := hmHold s 0xFFFF
  let down := fun (p : EPort) => { p with up := false, lanesUp := 0 }
  let s := modTw s (fun t => { t with ports := amMap t.ports (fun _ p => down p) })
  let s := modWin s (fun w => { w with ports := amMap w.ports (fun _ p => { p with version := 0 }) })
  let s := modPair s (fun p => { p with half0 := { p.half0 with lanes := 0 }, half1 := { p.half1 with lanes := 0 } })
  modFaults s (fun f => { f with faultN := true })

/-- Chip-level handling begins (R626, R627). -/
def startChip (s : State) : State :=
  let s := tearEpoch (isthmus s (.announce true))
  let dirty := dirtyOf s (fun _ => true)
  let s := modFaults s (fun f => { f with runs := [{ region := 8, kind := 0x30, dirty := dirty }] })
  let s := if bound s then modPair s (fun p => { p with restartUntil := some (s.postmark + 3000000000) }) else s
  let s := stopChip s
  modFaults { s with ready := false } (fun f => { f with restarted := true })

/-! ### Table 14.4 -/

/-- The new error's unit lies in the block of a handling. -/
def sameUnit (a b : ErrUnit) : Bool := a.region == b.region && a.kind == b.kind && a.index == b.index

/-- A handling ends before its containment is complete: pre-empted (4) or absorbed (3). -/
def stopHandlings (s : State) (hs : List ErrRec) (outcome : Nat) : State :=
  hs.foldl (fun s h => modFaults (logError s h outcome) (fun f => { f with
    handling := f.handling.erase h
    runs := if h.level = 2 then f.runs.filter (fun q => q.region != h.unit.region) else f.runs })) s

/-- The error that takes a handling's place one level up. -/
def escalate (e : ErrRec) : ErrRec :=
  if e.level = 0 then { e with level := 1, kind := 0x10, unit := blockOf e.unit, what := .block, until_ := none }
  else if e.level = 1 ∧ e.unit.region ≠ 8 then { e with level := 2, kind := 0x20, unit := { region := e.unit.region }, what := .region, until_ := none }
  else { e with level := 3, kind := 0x30, unit := { region := 8, kind := 16 }, what := .chip, until_ := none }

/-- Defer an error (R630). -/
def deferError (s : State) (e : ErrRec) : State :=
  if s.faults.deferred.length < 1024 then logError (modFaults s (fun f => { f with deferred := f.deferred ++ [e] })) e 2
  else logError s e 3

/-- What becomes of a new error: it is handled, deferred, or raised one level with the handlings it absorbs; and the handlings it pre-empts. -/
inductive ErrRule where
  | handle (preempts : List ErrRec)
  | defer
  | raiseWith (absorbs : List ErrRec)
  | beach
  deriving DecidableEq, Repr

/-- R628: the chip has restarted within 10 minutes. -/
def restartedLately (s : State) : Bool :=
  match s.faults.restartEnd with
  | some t => decide (s.postmark < t + 600000000000)
  | none => false

/-- Table 14.4. -/
def errRule (s : State) (e : ErrRec) : ErrRule :=
  let hs := s.faults.handling
  let chip := hs.any (fun h => h.level == 3)
  if e.level = 3 then (if chip || restartedLately s then .beach else .handle (hs.filter (fun h => h.level == 1 || h.level == 2)))
  else if chip then .defer
  else if e.level = 2 then
    let rs := hs.filter (fun h => h.level == 2)
    if rs.isEmpty then .handle (hs.filter (fun h => h.level == 1 && h.unit.region == e.unit.region)) else .raiseWith rs
  else if hs.any (fun h => h.level == 2 && h.unit.region == e.unit.region) then .defer
  else if e.level = 1 then
    let bs := hs.filter (fun h => h.level == 1 && h.unit.region == e.unit.region)
    if bs.isEmpty then .handle (hs.filter (fun h => h.level == 0 && sameUnit h.unit e.unit)) else .raiseWith bs
  else if hs.any (fun h => h.level == 1 && sameUnit h.unit e.unit) then .defer
  else
    let cs := hs.filter (fun h => h.level == 0 && sameUnit h.unit e.unit)
    if cs.isEmpty then .handle [] else .raiseWith cs

/-- An attention cell's page task stops and reruns from its first slot: it stays the block's running task. A connection-cache cell's
connections become FAILED; a Xailrak core's tasks move; a harbourmaster core stops (Table 14.1). -/
def startCell (s : State) (e : ErrRec) : State :=
  match e.what with
  | .connCell =>
    let cs := (s.tw.conns.filter (fun c => amHas s.tw.cache c.1 && connRegion c.1 == e.unit.region - 6 && some (c.1 % 16) == e.unit.cell)).map (·.1)
    cs.foldl (fun s c => failConn s c 3) s
  | .core =>
    match hmCore e.unit with
    | some i => if bit s.hm.assigned i then hmHold { s with hm := { s.hm with failed := bitsOr s.hm.failed (2 ^ i) } } (2 ^ i) else s
    | none => s
  | _ => s

/-- The containment of an error that is handled (Table 14.1). -/
def startHandling (s : State) (e : ErrRec) : State :=
  let s := modFaults s (fun f => { f with
    handling := f.handling ++ [e]
    handled := f.handled.zipIdx.map (fun (n, i) => if i = e.level then n + 1 else n) })
  match e.what with
  | .attnCell | .cell | .connCell | .core => startCell s e
  | .block => retireBlock s e
  | .descEntry d =>
    match amGet s.dcache d with
    | some c => if c.dirty then failSession (revertDesc s d) d 1 else { s with dcache := amErase s.dcache d }
    | none => s
  | .hbm stack frame o => retireFrame (loseInHbm s o) stack frame
  | .region => startRegion s e
  | .chip => startChip s

/-- A new error is handled, deferred or raised under Table 14.4. -/
def raiseError : Nat → State → ErrRec → State
  | 0, s, _ => s
  | n + 1, s, e =>
    match errRule s e with
    | .handle ps => startHandling (stopHandlings s ps 4) e
    | .defer => deferError s e
    | .raiseWith hs => raiseError n (stopHandlings (logError s e 1) hs 3) (escalate e)
    | .beach => enterBeached s e

/-- An error is detected. An error of a block or of the region C_0 is chip-level (Table 14.1, 0x30). -/
def detect (s : State) (e : ErrRec) : State :=
  raiseError 6 s (if e.unit.region = 8 ∧ (e.level = 1 ∨ e.level = 2)
    then { e with level := 3, kind := 0x30, what := .chip, until_ := none } else e)

/-- The deferred errors that waited on a handling. -/
def waitedOn (h e : ErrRec) : Bool :=
  h.level == 3 || (h.level == 2 && e.unit.region == h.unit.region) || (h.level == 1 && sameUnit h.unit e.unit)

/-- A handling has ended; deferred errors inside it that persist, `again` by their place in the list, are handled (R630). -/
def endHandling (s : State) (h : ErrRec) (again : List Nat) : State :=
  let ds := s.faults.deferred.zipIdx
  let back := (ds.filter (fun e => waitedOn h e.1 && again.contains e.2)).map (·.1)
  let s := modFaults (logError s h 0) (fun f => { f with handling := f.handling.erase h, deferred := f.deferred.filter (fun e => !waitedOn h e) })
  back.foldl (fun s e => detect s { e with pm := s.postmark }) s

/-- Handlings whose containment has had its time end. -/
def settleContained (s : State) : State :=
  (s.faults.handling.filter (fun h => !busyNow s h)).foldl (fun s h => endHandling s h []) s

/-- A row of this chapter: time moves on, what is contained ends, and, where the device is past boot and not BEACHED, `f` acts (R631). -/
def faultRow (pm : Nat) (f : State → State) (s : State) : Out :=
  let s0 := advance pm s
  if s0.boot.stage = 3 ∧ s0.beached = false then .next (noteAlert s (f (settleContained s0))) else .next s0

/-! ### Cells and blocks -/

/-- ATTENTION_CELL_ERROR (0x01). -/
def execAttentionCellError (region block cell info pm : Nat) (s : State) : Out :=
  faultRow pm (fun s => detect s
    { level := 0, kind := 0x01, unit := { region := region, kind := 1, index := block, cell := some cell }, what := .attnCell
      info := info, pm := s.postmark }) s

/-- CELL_ERROR (0x02): a page-engine, search, text or flash channel cell. -/
def execCellError (region kind index cell info pm : Nat) (s : State) : Out :=
  faultRow pm (fun s => detect s
    { level := 0, kind := 0x02, unit := { region := region, kind := kind, index := index, cell := some cell }, what := .cell
      info := info, pm := s.postmark }) s

/-- CONNECTION_CACHE_ERROR (0x03); the cell is reinitialised after `dur`. -/
def execConnectionCacheError (region cell info dur pm : Nat) (s : State) : Out :=
  faultRow pm (fun s => detect s
    { level := 0, kind := 0x03, unit := { region := region, kind := 8, cell := some cell }, what := .connCell, info := info, pm := s.postmark
      until_ := some (s.postmark + dur) }) s

/-- CORE_ERROR (0x04). -/
def execCoreError (block core info pm : Nat) (s : State) : Out :=
  faultRow pm (fun s => detect s
    { level := 0, kind := 0x04, unit := { region := 8, kind := 11, index := block, cell := some core }, what := .core, info := info
      pm := s.postmark }) s

/-- A cell is retired: its log entry, its event, and, for an attention cell, the map of R619; a block left short raises an error. -/
def retireCell (s : State) (h : ErrRec) : State :=
  let u := h.unit
  let s := modFaults s (fun f => { f with cellsRetired := f.cellsRetired ++ [u] })
  let s := postPf (logError s { h with info := u.cell.getD 31 } 0) 0x0801 u.region (unitData u)
  let short : ErrRec := { level := 1, kind := 0x10, unit := blockOf u, what := .block, info := u.cell.getD 31, pm := s.postmark
                          until_ := some s.postmark }
  if u.kind = 1 then
    let x := getBlock s u.region u.index
    let c := u.cell.getD 31
    if x.retired.isEmpty then
      setBlock s u.region u.index { x with retired := [c], cellMap := if c < 16 then amSet x.cellMap c 16 else x.cellMap }
    else detect (setBlock s u.region u.index { x with retired := x.retired ++ [c] }) short
  else if blockCells u.kind ≤ s.faults.cellsRetired.countP (fun v => sameUnit v u) then detect s short
  else s

/-- The errors of a cell within 24 hours, this one with them (R618). -/
def cellCount (s : State) (u : ErrUnit) : Nat × State :=
  let old := match s.faults.cells.find? (fun c => c.unit = u) with
    | some c => c.pms
    | none => []
  let pms := s.postmark :: old.filter (fun p => decide (s.postmark < p + dayNs))
  (pms.length, modFaults s (fun f => { f with cells := { unit := u, pms := pms } :: f.cells.filter (fun c => c.unit != u) }))

/-- CELL_SELF_TEST_DONE (R618). -/
def execCellSelfTestDone (region kind index cell : Nat) (pass : Bool) (again : List Nat) (pm : Nat) (s : State) : Out :=
  faultRow pm (fun s =>
    let u : ErrUnit := { region := region, kind := kind, index := index, cell := some cell }
    match s.faults.handling.find? (fun h => h.unit = u && h.until_.isNone && h.level == 0) with
    | none => s
    | some h =>
      let t := cellCount s u
      let s := endHandling t.2 h again
      let hm := match hmCore u with
        | some i => bit s.hm.failed i
        | none => false
      if !pass || hm || decide (3 ≤ t.1) then retireCell s h else s) s

/-- BLOCK_ERROR (0x10); containment takes `dur`. -/
def execBlockError (region kind index info dur pm : Nat) (s : State) : Out :=
  faultRow pm (fun s => detect s
    { level := 1, kind := 0x10, unit := { region := region, kind := kind, index := index }, what := .block, info := info, pm := s.postmark
      until_ := some (s.postmark + dur) }) s

/-- The account and partition of a session's handle. -/
def descOwner (s : State) (d : Nat) : Nat × Nat × Nat :=
  match amGet s.sessions d with
  | some x => (x.handle, handleAccount x.handle, x.partition)
  | none => (0, 0, 0)

/-- DESCRIPTOR_CACHE_ERROR (0x11). -/
def execDescriptorCacheError (d info dur pm : Nat) (s : State) : Out :=
  faultRow pm (fun s =>
    let o := descOwner s d
    detect s { level := 1, kind := 0x11, unit := { region := d % 6, kind := 5 }, what := .descEntry d, object := o.1, info := info, account := o.2.1
               partition := o.2.2, pm := s.postmark, until_ := some (s.postmark + dur) }) s

/-- What the log names of an HBM object: the object, its account, its partition. -/
def hbmOwner (s : State) : HbmObject → Nat × Nat × Nat
  | .page loc =>
    match amGet s.pages loc with
    | some p => (loc, p.account, accPartition s p.account)
    | none => (loc, 0, 0)
  | .scoutPage d _ | .descriptor d | .sessionList d => descOwner s d
  | .handleSlot h => (h, handleAccount h, accPartition s (handleAccount h))
  | .windowLine l | .directory l => (l * 64, 0, 0)
  | .indexNode k _ _ | .posting k _ | .codebook k =>
    match amGet s.indexes k with
    | some ix => (k, ix.account, accPartition s ix.account)
    | none => (k, 0, 0)
  | .bundle o =>
    match amGet s.bundles o with
    | some b => (o, b.account, accPartition s b.account)
    | none => (o, 0, 0)
  | .config kind num ver =>
    match cfgVer s kind num ver with
    | some c => (num, c.account, accPartition s c.account)
    | none => (num, 0, 0)
  | .harbourSlot n | .harbourStore n | .parkCopy n => (n, 0, 0)

/-- HBM_UNCORRECTABLE (0x12, R621). -/
def execHbmUncorrectable (stack frame : Nat) (object : HbmObject) (info dur pm : Nat) (s : State) : Out :=
  faultRow pm (fun s =>
    let o := hbmOwner s object
    detect s { level := 1, kind := 0x12, unit := { region := stack / 2, kind := 4, index := stack % 2 }, what := .hbm stack frame object, object := o.1
               info := info, account := o.2.1, partition := o.2.2, pm := s.postmark, until_ := some (s.postmark + dur) }) s

/-- CORRECTED_ERROR (R616): counted by class (0 cells, 1 blocks, 2 HBM, 3 links); a frame's sixteenth in 24 hours retires it. -/
def execCorrectedError (cls : Nat) (frame : Option Nat) (pm : Nat) (s : State) : Out :=
  faultRow pm (fun s =>
    let s := modFaults s (fun f => { f with corrected := f.corrected.zipIdx.map (fun (n, i) => if i = cls then n + 1 else n) })
    match frame with
    | none => s
    | some k =>
      let pms := s.postmark :: (amGetD s.faults.frameHits k []).filter (fun p => decide (s.postmark < p + dayNs))
      if 16 ≤ pms.length then
        moveFrame (modFaults s (fun f => { f with frameHits := amErase f.frameHits k })) (k / 2 ^ 20) (k % 2 ^ 20)
      else modFaults s (fun f => { f with frameHits := amSet f.frameHits k pms })) s

/-! ### Regions and the chip -/

/-- REGION_ERROR (0x20). -/
def execRegionError (region info pm : Nat) (s : State) : Out :=
  faultRow pm (fun s => detect s { level := 2, kind := 0x20, unit := { region := region }, what := .region, info := info, pm := s.postmark }) s

/-- Sessions restored in place, those with an entry in the restore epoch, and the others (R623). -/
def restoreAll (s : State) (ds : List Nat) (cause : Nat) : Nat × Nat × State :=
  let live := ds.filter (fun d => match amGet s.sessions d with
    | some x => x.state != .closing && x.state != .failed
    | none => false)
  let ok := live.filter (fun d => match amGet s.sessions d with
    | some x => hasEntry s x.handle
    | none => false)
  (ok.length, live.length - ok.length, live.foldl (fun s d => loseSession s d cause) s)

/-- The hosts bound to port p, through which their requests come. -/
def hostsOf (s : State) (p : Nat) : List Nat :=
  (linkedHosts s).filter (fun h => if (amGetD s.win.ports p {}).switched then s.win.lds.contains (p * 16 + h) else p == h)

/-- Host port p's link is lost: its hosts have crashed with cause 3 (R463). -/
def crashPort (s : State) (p : Nat) : State := (hostsOf s p).foldl (fun s h => crashHost s h 3) s

/-- The connections numbered in half p become FAILED with cause 2. -/
def failHalf (s : State) (p : Nat) : State :=
  ((s.tw.conns.filter (fun e => connRegion e.1 == p)).map (·.1)).foldl (fun s c => failConn s c 2) s

/-- Snoops of the slice that were outstanding are issued again. -/
def snoopAgain (s : State) (k : Nat) : State :=
  let qs := s.win.snoops.filter (fun q => q.issued.isSome && lineSlice s q.line == k)
  let s := modWin s (fun w => { w with snoops := w.snoops.map (fun q => if qs.contains q then { q with issued := some s.postmark } else q) })
  emits (qs.map (fun q => .snoop q.host (q.line * 64) q.kind)) s

/-- A state region takes new work again: what held for it goes on. -/
def reopenRegion (s : State) (k : Nat) : State :=
  { s with regionsOut := s.regionsOut.filter (· != k) }

/-- A region returns (R623). -/
def regionBack (s : State) (q : RegionRun) : State :=
  let r := q.region
  let t :=
    if r < 6 then
      let t := restoreAll (snoopAgain (reopenRegion s r) r) q.dirty 3
      (t.1, t.2.1, (reserveOf s r).foldl (fun s b => requestWake s (14 * r + b) true 0) t.2.2)
    else if r < 8 then (0, 0, failHalf (crashPort s (r - 6)) (r - 6))
    else if r = 9 then
      (0, 0, ((s.media.shingles.filter (fun e => e.2.st == .opened)).map (·.1)).foldl cutShingle s)
    else (0, 0, s)
  postPf t.2.2 0x0804 r (t.1 % 2 ^ 32 + t.2.1 % 2 ^ 32 * 2 ^ 32)

/-- A session takes a descriptor of another region (R111, R624). -/
def rehome (s : State) (d new : Nat) : State :=
  match amGet s.sessions d with
  | none => s
  | some x =>
    let s := modPair s (fun p => { p with
      chains := p.chains.filter (fun e => e.1 / 256 != d)
      migrations := amErase p.migrations d })
    { s with
      sessions := amSet (amErase s.sessions d) new x
      dcache := amErase s.dcache d
      ops := amMap s.ops (fun _ o => { o with session := if o.session = some d then some new else o.session })
      maskReads := amMap s.maskReads (fun _ m => if m.d = d then { m with d := new } else m)
      textReads := amMap s.textReads (fun _ m => if m.d = d then { m with d := new } else m) }

/-- A session whose pages or descriptor lie in S_k is restored in place, on a descriptor of another region if its own is lost, or loses its
handle (R624). -/
def leaveRegion (k : Nat) (t : Nat × Nat × State) (d : Nat) : Nat × Nat × State :=
  let s := t.2.2
  match amGet s.sessions d with
  | none => t
  | some x =>
    let home := if d % 6 = k then newIndex s else some d
    match home with
    | some n =>
      if hasEntry s x.handle ∧ x.state ≠ .closing ∧ x.state ≠ .failed then
        (t.1 + 1, t.2.1, loseSession (if n = d then s else rehome s d n) n 3)
      else (t.1, t.2.1 + 1, freeSession (failSession s d 3) d)
    | none => (t.1, t.2.1 + 1, freeSession (failSession s d 3) d)

/-- S_k stays out of service (R624). -/
def stateOut (s : State) (k : Nat) : Nat × Nat × State :=
  let s := tearEpoch s
  let inK := fun (r : PRef) => r.tier == 0 && locRegion r.loc == k
  let ds := (s.sessions.filter (fun e => e.1 % 6 == k || e.2.refs.any (fun r => inK r.2))).map (·.1)
  let unref := fun (x : Session) => ({ x with
    refs := amMap x.refs (fun _ (r : PRef) => if inK r then { r with tier := 4, loc := 0 } else r)
    ebb := x.ebb.map (fun (j : EbbJob) => { j with switched := j.switched.filter (fun r => !inK r.2) }) } : Session)
  let s : State := { s with
    sessions := amMap s.sessions (fun _ x => unref x)
    idents := s.idents.filter (fun e => locRegion e.2 != k) }
  let s := ((s.pages.filter (fun e => locRegion e.1 == k)).map (·.1)).foldl freePage s
  let t := ds.foldl (leaveRegion k) (0, 0, s)
  let lines := (t.2.2.win.extents.map (·.1)).flatMap (fun x => (List.range 4194304).map (fun j => x * 4194304 + j))
  (t.1, t.2.1, (lines.filter (fun l => lineSlice t.2.2 l == k)).foldl (fun s l => poisonLine s l 4 0x1F) t.2.2)

/-- A region stays out of service until device reset (R624). -/
def regionOut (s : State) (r : Nat) : State :=
  let s := modFaults s (fun f => { f with regionsDown := f.regionsDown ++ [r] })
  let t :=
    if r < 6 then stateOut s r
    else if r < 8 then (0, 0, failHalf (crashPort s (r - 6)) (r - 6))
    else if r = 9 then
      (0, 0, s.media.shingles.foldl (fun s e => (e.2.copies.foldl (loseCopy e.1) (s, 0)).1) (setMedia s 5))
    else (0, 0, s)
  emit (.platformEvent 0x0805 r) (postPf t.2.2 0x0805 r (t.1 % 2 ^ 32 + t.2.1 % 2 ^ 32 * 2 ^ 32))

/-- REGION_RETURN: the region passes its self-test and returns (R623), or stays out (R624). -/
def execRegionReturn (region : Nat) (pass : Bool) (again : List Nat) (pm : Nat) (s : State) : Out :=
  faultRow pm (fun s =>
    match s.faults.handling.find? (fun h => h.level == 2 && h.unit.region == region), s.faults.runs.find? (fun q => q.region == region) with
    | some h, some q =>
      let s := modFaults s (fun f => { f with runs := f.runs.filter (fun q => q.region != region) })
      let s := if pass then regionBack s q else regionOut s region
      goOn (endHandling s h again)
    | _, _ => s) s

/-- CHIP_ERROR (0x30). -/
def execChipError (info pm : Nat) (s : State) : Out :=
  faultRow pm (fun s => detect s
    { level := 3, kind := 0x30, unit := { region := 8, kind := 16 }, what := .chip, info := info, pm := s.postmark }) s

/-- TW_CTRL.ENABLE clears: every connection is closed (R480). -/
def closeTideway (s : State) : State :=
  modTw ((s.tw.conns.map (·.1)).foldl closeConn s) (fun t => { t with enable := false, missed := [], missFull := [] })

/-- The state once a chip restart has closed the Tideway, reset every function and ended every consent, and the device takes work again with
the state regions that stay down out (R626). -/
def reopened (s : State) : State :=
  let t := closeTideway ((presentFns s).foldl resetFn s)
  let u := (t.sec.consents.map (·.1)).foldl endConsent t
  { u with ready := true, regionsOut := u.regionsOut.filter (fun k => u.faults.regionsDown.contains k) }

/-- The state once a chip restart has besides asked for the restores of what was dirty, been counted, and taken back the clocks of a trip. -/
def rebooted (s : State) : State :=
  let t := restoreAll ([0, 1, 2, 3, 4, 5].foldl snoopAgain (reopened s)) (s.faults.runs.flatMap (fun q => q.dirty)) 3
  let u := modFaults t.2.2 (fun f => { f with
    runs := [], chipRestarts := f.chipRestarts + 1, restartEnd := some t.2.2.postmark, told := [], restored := t.1 })
  if u.pow.trip then
    modPow u (fun p => { p with clocks := (List.range 10).foldl (fun m r => amSet m (r * 8 + 1) (4, u.postmark)) p.clocks })
  else u

/-- CHIP_RESTART_DONE (R626). -/
def execChipRestartDone (again : List Nat) (pm : Nat) (s : State) : Out :=
  faultRow pm (fun s =>
    match s.faults.handling.find? (fun h => h.level == 3) with
    | none => s
    | some h => goOn (endHandling (emit (.platformEvent 0x0806 0) (rebooted s)) h again)) s

end Sys2Proof.Machine
end

