-- ==== Sys2Proof/Machine/Power.lean ====
section
/-! DEFINITION. Power domains and the tide table, the power states, neighbour limits, temperatures and the power cap (R642 to R671). -/

namespace Sys2Proof.Machine

/-! ### Registers (Tables 15.4 to 15.8) -/

/-- PWR_CTRL. -/
def execPwrCtrl (value : Word32) (s : State) : Out :=
  let v := value.toNat
  let ms := bits v 30 16
  .next (if regsOpen s 0 then writeLive s .pwrCtrl (v % 2 + ms * 2 ^ 16) (decide (1 ≤ ms) && decide (ms ≤ 30000)) else s)

/-- WARM_RESERVE: six live fields. -/
def execWarmReserve (value : Word32) (s : State) : Out :=
  let v := value.toNat
  .next (if regsOpen s 0 then
      [0, 1, 2, 3, 4, 5].foldl (fun s k => writeLive s (.warmReserve k) (bits v (4 * k + 3) (4 * k)) (decide (bits v (4 * k + 3) (4 * k) ≤ 8))) s
    else s)

/-- THERMAL_CFG. -/
def execThermalCfg (value : Word32) (s : State) : Out :=
  let t := value.toNat % 128
  .next (if regsOpen s 0 then writeLive s .thermalCfg t (decide (70 ≤ t) && decide (t ≤ 100)) else s)

/-- POWER_CAP. -/
def execPowerCap (value : Word32) (s : State) : Out :=
  let c := value.toNat % 2048
  .next (if regsOpen s 0 then writeLive s .powerCap c (c == 0 || (decide (400 ≤ c) && decide (c ≤ 1150))) else s)

/-- ON attention blocks in service of S_k. -/
def onBlocks (s : State) (k : Nat) : Nat := (List.range 8).countP (blockOn s k)

/-- The warm reserve of S_k is held (R650). -/
def reserveHeld (s : State) (k : Nat) : Bool :=
  decide (min (liveVal s (.warmReserve k)) ((List.range 8).countP (fun b => !blockOut s k b)) ≤ onBlocks s k)

/-- PWR_STATUS (Table 15.8). -/
def pwrStatus (s : State) : Nat :=
  let sum := fun (l : List Nat) => l.foldl (· + ·) 0
  s.pow.state + b2n s.pow.capped * 4 + sum ((List.range 6).map (fun k => clockOf s k * 2 ^ (8 + 4 * k)))
    + sum ((List.range 6).map (fun k => b2n (reserveHeld s k) * 2 ^ (32 + k)))
    + sum ((List.range 10).map (fun i => b2n (s.pow.corrections.any (fun c => c.acted == i)) * 2 ^ (38 + i)))
    + sum ((List.range 10).map (fun i => b2n (beHeld s i) * 2 ^ (48 + i)))

/-! ### The tide table (R646, R647) -/

/-- The slew charge, ramp, and time to ready of a domain's wake, in A/µs and ns (Table 15.3). -/
def wakeCost (d : Nat) : Nat × Nat × Nat :=
  if d < 84 then (if d % 14 ≤ 10 then (20, 4000, 4000) else if d % 14 ≤ 12 then (10, 2000, 6000) else (10, 2000, 2000))
  else if d = 97 ∨ d = 103 then (10, 2000, 2000)
  else if d = 102 then (20, 4000, 8000)
  else (20, 4000, 4000)

/-- The order in which a rail admits its wakes (R647, R659). -/
def wakeBefore (a b : Wake) : Bool :=
  if a.lc != b.lc then a.lc
  else if a.pm ≠ b.pm then decide (a.pm < b.pm)
  else if a.ord ≠ b.ord then decide (a.ord < b.ord)
  else decide (a.dom < b.dom)

/-- The charges of the ramps in progress on a region's rail (R646). -/
def rampCharge (s : State) (r : Nat) : Nat :=
  (s.pow.ramps.filter (fun q => domRegion q.dom == r && decide (s.postmark < q.rampEnd))).foldl (fun n q => n + q.charge) 0

/-- WAKE_ADMIT: the first wake of its rail is admitted when its charge fits. -/
def execWakeAdmit (dom pm : Nat) (s : State) : Out :=
  let s := advance pm s
  let r := domRegion dom
  match s.pow.wakes.find? (fun w => w.dom == dom) with
  | none => .next s
  | some w =>
    let c := wakeCost dom
    if s.pow.wakes.any (fun v => domRegion v.dom == r && wakeBefore v w) = true ∨ 20 < rampCharge s r + c.1 then .next s
    else
      .next (modPow s (fun p => { p with
        wakes := p.wakes.filter (fun v => v.dom != dom)
        ramps := p.ramps ++ [{ dom := dom, charge := c.1, rampEnd := s.postmark + c.2.1, ready := s.postmark + c.2.2 }] }))

/-- Back in ACTIVE, the Isthmus half that was idle runs again (R659). -/
def restoreHalves (s : State) : State :=
  match s.pow.halves with
  | some (a, b) =>
    if s.pow.state = 0 then
      modPow (setHalf (setHalf s 0 (fun h => { h with lanes := a })) 1 (fun h => { h with lanes := b })) (fun p => { p with halves := none })
    else s
  | none => s

/-- The condition of RESERVE_SHORT has cleared (R671). -/
def clearShort (s : State) : State :=
  modPow s (fun p => { p with shortPosted := p.shortPosted.filter (fun k => !reserveHeld s k) })

/-- Tasks not yet started go to a block that has become ready, from the tail of the queue with the largest estimate of their class, until the
two differ by at most one task; row groups of one page and KV head together (R651). -/
def moveTasks (region b : Nat) (be : Bool) : Nat → State → State
  | 0, s => s
  | n + 1, s =>
    let cand := (List.range 8).filter (fun c => c != b && !((getBlock s region c).queued ++ (getBlock s region c).waiting).isEmpty)
    match cand.foldl (fun (acc : Option Nat) c =>
        match acc with
        | some a => if queuedEst (getBlock s region a) be < queuedEst (getBlock s region c) be then some c else acc
        | none => some c) none with
    | none => s
    | some c =>
      let x := getBlock s region c
      let y := getBlock s region b
      match ((x.queued ++ x.waiting).filter (fun t => t.be == be)).getLast? with
      | none => s
      | some t =>
        let grp := fun (u : Task) => u.tag == t.tag && u.page == t.page && u.head == t.head
        let mv := (x.queued ++ x.waiting).filter grp
        let w := mv.foldl (fun n t => n + t.est) 0
        if x.running.any grp ∨ queuedEst x be < queuedEst y be + w then s
        else
          let s := setBlock s region c { x with queued := x.queued.filter (fun t => !grp t), waiting := x.waiting.filter (fun t => !grp t) }
          moveTasks region b be n (setBlock s region b { y with waiting := y.waiting ++ mv })

/-- WAKE_READY: the domain is ON. An attention block takes work (R651); one retired meanwhile stays out of service, and the next of the
reserve is requested (R670). -/
def execWakeReady (dom pm : Nat) (s : State) : Out :=
  let s := advance pm s
  match s.pow.ramps.find? (fun q => q.dom == dom && decide (q.ready ≤ s.postmark)) with
  | none => .next s
  | some q =>
    let s := setDom (modPow s (fun p => { p with ramps := p.ramps.filter (· != q) })) dom 0
    let r := domRegion dom
    let j := dom % 14
    let s :=
      if dom < 84 ∧ j < 8 then
        if blockOut s r j then (reserveOf s r).foldl (fun s b => requestWake s (14 * r + b) true 0) s
        else
          let s := moveTasks r j true 64 (moveTasks r j false 64 s)
          wantWakes (runBlock s r j (getBlock s r j)) r
      else s
    .next (goOn (clearShort (restoreHalves (settleLeaving s))))

/-! ### Gating (R649) -/

/-- A domain other than an attention block has no work. -/
def domIdle (s : State) (d : Nat) : Bool :=
  if d < 84 then
    if d % 14 = 10 then !s.searches.any (fun e => !e.2.finished && (match amGet s.indexes e.2.index with
      | some ix => ix.shards.any (fun h => h.2.region == d / 14)
      | none => false))
    else if d % 14 = 8 ∨ d % 14 = 9 then !s.sessions.any (fun e => e.1 % 6 == d / 14 && e.2.flood.isSome)
    else false
  else if d = 84 ∨ d = 85 ∨ d = 90 ∨ d = 91 then
    (List.range 4).all (fun i => !pcEnable (getPort s (8 * ((d - 84) / 6) + 4 * (d % 2) + i)))
  else if 98 ≤ d ∧ d ≤ 101 then bits s.hm.assigned (4 * (d - 98) + 3) (4 * (d - 98)) == 0
  else if 106 ≤ d ∧ d ≤ 109 then (List.range 8).all (fun i => !(getCh s (8 * (d - 106) + i)).enable)
  else false

/-- BLOCK_IDLE_GATE: an attention block beyond the reserve without a page task for 500 µs, in reverse reserve order, or another domain of R649
without work. -/
def execBlockIdleGate (dom pm : Nat) (s : State) : Out :=
  let s := advance pm s
  if s.pow.state ≠ 0 ∨ getDom s dom ≠ 0 then .next s
  else
    let r := dom / 14
    let j := dom % 14
    if dom < 84 ∧ j < 8 then
      let idle := fun (b : Nat) =>
        let x := getBlock s r b
        blockOn s r b && x.running.isNone && x.queued.isEmpty && x.waiting.isEmpty && decide (x.sincePm + 500000 ≤ s.postmark)
      let later := (reserveOrder.reverse.takeWhile (· != j)).any idle
      if idle j && !later && !(reserveOf s r).contains j && decide (liveVal s (.warmReserve r) < onBlocks s r) then .next (setDom s dom 2)
      else .next s
    else if domIdle s dom then .next (setDom s dom 2) else .next s

/-! ### Slack water (R653 to R660) -/

/-- The postmarks that sessions have scheduled: flood starts, ebbs and stub releases (R654, R658). -/
def scheduled (s : State) : List Nat :=
  s.sessions.flatMap (fun e =>
    let x := e.2
    (if x.state = .parked ∧ x.resumePm ≠ 0 ∧ x.floodBlocked = false then [x.resumePm - clLead (sessClass s x) * 1000000] else [])
      ++ (if x.state = .idle ∧ x.ebbAtPm ≠ 0 then [x.ebbAtPm] else [])
      ++ (if x.stub then [x.handoverPm + liveVal s .fwdGrace * 1000000] else []))

/-- What R654 asks, at this moment; `hmWaiting`: every assigned core waits for an interrupt. -/
def quiet (s : State) (hmWaiting : Bool) : Bool :=
  s.ops.isEmpty && !s.fns.any (fun f => (ringsOf f.2).any (fun rid => !(getRing f.2 rid).held.isEmpty))
    && !s.tw.conns.any (fun c => !c.2.parts.isEmpty)
    && !s.sessions.any (fun e => [SState.new, .active, .ebbing, .flooding, .migrating, .closing].contains e.2.state)
    && !s.dcache.any (fun e => e.2.dirty) && s.pair.run.isNone && !s.sessions.any (fun e => e.2.ckptDirty)
    && s.win.releases.isEmpty && !s.win.extents.any (fun e => e.2.scrubbing) && s.pair.restore.isNone && s.pair.drain.isNone
    && !s.media.shingles.any (fun e => e.2.rebuild.isSome || e.2.refresh.isSome)
    && hmWaiting && (scheduled s).all (fun t => decide (s.postmark + 1000000 ≤ t))

/-- SLACK_ENTER: the conditions of R654 have held for SLACK_ENTER_MS. -/
def execSlackEnter (hmWaiting : Bool) (pm : Nat) (s : State) : Out :=
  let s := advance pm s
  if accepting s = true ∧ s.pow.state = 0 ∧ liveVal s .pwrCtrl % 2 = 1 ∧ quiet s hmWaiting = true then
    .next (modPow s (fun p => { p with state := 1 }))
  else .next s

/-- The domains at the lowest states of Table 15.1 that hold sessions. -/
def slackDoms : List (Nat × Nat) :=
  [0, 1, 2, 3, 4, 5].flatMap (fun k =>
    ((List.range 11).map (fun j => (14 * k + j, 2))) ++ [(14 * k + 11, 1), (14 * k + 12, 1), (14 * k + 13, 1)])
    ++ [(97, 1), (102, 2), (103, 1)]

/-- SLACK_ENTERED: the domains have been lowered; one Isthmus half is down and the other runs 8 lanes (Table 15.13). -/
def execSlackEntered (pm : Nat) (s : State) : Out :=
  let s := advance pm s
  if s.pow.state = 1 then
    let a := s.pair.half0.lanes
    let b := s.pair.half1.lanes
    let s := slackDoms.foldl (fun s e => setDom s e.1 e.2) s
    let s := modPow s (fun p => { p with state := 2, wakes := [], halves := some (a, b) })
    let s := if a ≠ 0 ∧ b ≠ 0 then setHalf (setHalf s 0 (fun h => { h with lanes := 8 })) 1 (fun h => { h with lanes := 0 }) else s
    .next (postPf s 0x0901 0 (s.sessions.length % 2 ^ 32))
  else .next s

/-- LEAVING_SCHEDULED: 50 µs before the earliest schedule (R658). -/
def execLeavingScheduled (pm : Nat) (s : State) : Out :=
  let s := advance pm s
  if (scheduled s).any (fun t => decide (t ≤ s.postmark + 50000)) then .next (leaveSlack s 1) else .next s

/-! ### Clock steps (R644, R665) -/

/-- n of one cause in a region. -/
def clockN (s : State) (r cause : Nat) : Nat :=
  match amGet s.pow.clocks (8 * r + cause) with
  | some v => v.1
  | none => 8

/-- One step down, not below `least`, at most one each `every` ns; CLOCK_REDUCED at the first (R671). -/
def lowerClock (s : State) (r cause least every : Nat) : State :=
  match amGet s.pow.clocks (8 * r + cause) with
  | none =>
    postPf (modPow s (fun p => { p with clocks := amSet p.clocks (8 * r + cause) (7, s.postmark) })) 0x0905 r (7 + cause * 256)
  | some (n, t) =>
    if least < n ∧ t + every ≤ s.postmark then modPow s (fun p => { p with clocks := amSet p.clocks (8 * r + cause) (n - 1, s.postmark) })
    else s

/-- One step up, at most one each `every` ns, until the cause calls for none. -/
def raiseClock (s : State) (r cause every : Nat) : State :=
  match amGet s.pow.clocks (8 * r + cause) with
  | none => s
  | some (n, t) =>
    if t + every ≤ s.postmark then
      modPow s (fun p => { p with clocks := if 7 ≤ n then amErase p.clocks (8 * r + cause) else amSet p.clocks (8 * r + cause) (n + 1, s.postmark) })
    else s

/-! ### Neighbour limits (R661 to R664) -/

/-- Two regions have a link in Table 1.5: S ring, P_p to S_k, C_0 to S and P, M_0 to S, P and C_0. -/
def joined (a b : Nat) : Bool :=
  if a < 6 ∧ b < 6 then (a + 1) % 6 == b || (b + 1) % 6 == a
  else a < 10 && b < 10 && a != b && !((a == 6 && b == 7) || (a == 7 && b == 6))

/-- A quantity is beyond its limit: the clock ratio, the voltage difference in mV, the junction difference in 0.0625 °C (Table 15.11). -/
def beyond (quantity va vb : Nat) : Bool :=
  if quantity = 1 then decide (8 * va < vb) || decide (8 * vb < va)
  else if quantity = 2 then decide (va + 200 < vb) || decide (vb + 200 < va)
  else decide (va + 640 < vb) || decide (vb + 640 < va)

/-- The commanded voltage of a region's core rail, in mV (R719). -/
def railMv (s : State) (r : Nat) : Nat := amGetD s.pow.vout r 800

/-- One correction step: the region acted on, and the state after it. Voltages move in 5 mV steps of VOUT_COMMAND, up to 900 mV; past that
the higher region is lowered. -/
def correct (s : State) (a b quantity va vb : Nat) : Nat × State :=
  let hi := if va < vb then b else a
  let lo := if va < vb then a else b
  if quantity = 2 then
    if railMv s lo < 900 then (lo, modPow s (fun p => { p with vout := amSet p.vout lo (min 900 (railMv s lo + 5)) }))
    else (hi, lowerClock (modPow s (fun p => { p with vout := amSet p.vout hi (max 600 (railMv s hi - 5)) })) hi 4 1 0)
  else (hi, lowerClock s hi 4 1 (if quantity = 3 then 1000000 else 0))

/-- NEIGHBOUR_CHECK of one quantity of a link whose ends are ON. -/
def execNeighbourCheck (a b quantity va vb pm : Nat) (s : State) : Out :=
  let s := advance pm s
  let out := fun (r : Nat) => s.faults.regionsDown.contains r || s.faults.runs.any (fun q => q.region == r)
  let same := fun (c : Correction) => c.a == a && c.b == b && c.quantity == quantity
  if !joined a b || out a || out b || s.beached then .next s
  else if beyond quantity va vb then
    let t := correct s a b quantity va vb
    if s.pow.corrections.any same then .next t.2
    else
      let s := modPow t.2 (fun p => { p with
        corrections := p.corrections ++ [{ a := a, b := b, quantity := quantity, acted := t.1, since := s.postmark }] })
      .next (postPf s 0x0906 t.1 ((if t.1 = a then b else a) + quantity * 256))
  else
    let rs := (s.pow.corrections.filter same).map (fun c => c.acted)
    let s := modPow s (fun p => { p with corrections := p.corrections.filter (fun c => !same c) })
    .next (([a, b].filter (fun r => rs.contains r || !s.pow.corrections.any (fun c => c.acted == r))).foldl (fun s r => raiseClock s r 4 0) s)

/-- NEIGHBOUR_LIMIT_TIMEOUT: still exceeded 10 ms later (R663). -/
def execNeighbourLimitTimeout (a b quantity : Nat) (exceeded : Bool) (pm : Nat) (s : State) : Out :=
  match (advance pm s).pow.corrections.find? (fun c => c.a == a && c.b == b && c.quantity == quantity) with
  | none => .next (advance pm s)
  | some c =>
    if exceeded && decide (c.since + 10000000 ≤ max s.postmark pm) then
      faultRow pm (fun s => detect (modPow s (fun p => { p with corrections := p.corrections.filter (· != c) }))
        { level := 2, kind := 0x20, unit := { region := c.acted }, what := .region, info := quantity, pm := s.postmark }) s
    else .next (advance pm s)

/-! ### Temperatures (R665, R725) -/

/-- A BE hold of one cause: begun at `on`, and lifted once `off` has held for 10 ms (Table 15.12). -/
def holdBy (s : State) (r cause temp : Nat) (stack on off : Bool) : State :=
  let k := 4 * r + cause
  match amGet s.pow.holds k with
  | none =>
    if on then postPf (modPow s (fun p => { p with holds := amSet p.holds k none })) 0x0903 r (temp % 65536 + b2n stack * 65536) else s
  | some since =>
    if !off then modPow s (fun p => { p with holds := amSet p.holds k none })
    else
      match since with
      | none => modPow s (fun p => { p with holds := amSet p.holds k (some s.postmark) })
      | some t =>
        if t + 10000000 ≤ s.postmark then postPf (modPow s (fun p => { p with holds := amErase p.holds k })) 0x0904 r (temp % 65536) else s

/-- THROTTLE_C and HOT in 0.0625 °C. -/
def throttle (s : State) : Nat := 16 * liveVal s .thermalCfg

def hot (s : State) : Nat := 16 * min (liveVal s .thermalCfg + 5) 103

/-- A region's junction (Table 15.12). -/
def thermalRegion (s : State) (r t : Nat) : State :=
  let s := holdBy s r 1 t false (decide (throttle s ≤ t)) (decide (t + 48 < throttle s))
  if hot s ≤ t then lowerClock s r 1 4 1000000
  else if t < throttle s then raiseClock s r 1 10000000 else s

/-- A stack's refresh rate (Table 15.12). -/
def thermalStack (s : State) (i t : Nat) : State :=
  if 1360 ≤ t ∧ s.pow.refresh2x.contains i = false then modPow s (fun p => { p with refresh2x := insertBy id i p.refresh2x })
  else if t < 1312 then modPow s (fun p => { p with refresh2x := p.refresh2x.filter (· != i) })
  else s

/-- The stacks of a state region: the hotter decides (Table 15.12). -/
def thermalPair (s : State) (k t : Nat) : State :=
  let s := holdBy s k 2 t true (decide (1520 ≤ t)) (decide (t < 1472))
  if 1600 ≤ t then lowerClock s k 2 4 1000000
  else if t < 1520 then raiseClock s k 2 10000000 else s

/-- THERM_N (R725). -/
def thermSignal (s : State) (js ts : List Nat) : State :=
  let trip := s.pow.trip && js.any (fun t => decide (throttle s ≤ t))
  let low := js.any (fun t => decide (hot s ≤ t)) || ts.any (fun t => decide (1600 ≤ t))
  modPow s (fun p => { p with trip := trip, thermN := low || trip })

/-- What the junctions and stacks call for: clocks, holds and refresh rates (R665, Table 15.12). -/
def thermalActs (junctions stackTemps : List Nat) (s : State) : State :=
  let s := ((List.range 10).zip junctions).foldl (fun s e => thermalRegion s e.1 e.2) s
  let s := ((List.range 12).zip stackTemps).foldl (fun s e => thermalStack s e.1 e.2) s
  [0, 1, 2, 3, 4, 5].foldl (fun s k => thermalPair s k (max ((stackTemps.drop (2 * k)).headD 0) ((stackTemps.drop (2 * k + 1)).headD 0))) s

/-- A junction has reached its trip point, and none had before (Table 15.12, R725). -/
def trips (junctions : List Nat) (s : State) : Bool := junctions.any (fun t => decide (1680 ≤ t)) && !s.pow.trip

/-- THERMAL_CHECK: the ten junctions and twelve stacks, in 0.0625 °C. While BEACHED, only THERM_N is kept (R631). -/
def execThermalCheck (junctions stackTemps : List Nat) (pm : Nat) (s : State) : Out :=
  let s := advance pm s
  if s.boot.stage < 2 then .next s
  else if s.beached ∨ s.boot.stage ≠ 3 then .next (thermSignal s junctions stackTemps)
  else
    let s := thermalActs junctions stackTemps s
    if trips junctions s then
      faultRow pm (fun s => detect s
        { level := 3, kind := 0x30, unit := { region := 8, kind := 16 }, what := .chip, info := junctions.foldl max 0, pm := s.postmark })
        (thermSignal (modPow s (fun p => { p with trip := true })) junctions stackTemps)
    else .next (goOn (thermSignal s junctions stackTemps))

/-! ### The power cap (R668) -/

/-- The mean of the last ten input-power soundings, in mW. -/
def inputMean (s : State) : Nat :=
  let l := s.pow.inputs.take 10
  if l.isEmpty then 0 else l.foldl (· + ·) 0 / l.length

/-- POWER_CAP_CHECK. -/
def execPowerCapCheck (pm : Nat) (s : State) : Out :=
  let s := advance pm s
  let cap := 1000 * liveVal s .powerCap
  let w := inputMean s
  if !accepting s then .next s
  else if cap ≠ 0 ∧ cap < w then
    if s.pow.capped then
      let since := s.pow.overSince.getD s.postmark
      let s := modPow s (fun p => { p with overSince := some since, underSince := none })
      .next (if since + 10000000 ≤ s.postmark then [0, 1, 2, 3, 4, 5].foldl (fun s k => lowerClock s k 3 4 1000000) s else s)
    else
      let s := modPow s (fun p => { p with
        capped := true, overSince := some s.postmark, underSince := none
        holds := (List.range 10).foldl (fun m r => amSet m (4 * r + 3) none) p.holds })
      .next (postPf s 0x0907 0 (w / 100 % 2 ^ 32))
  else if s.pow.capped then
    if cap = 0 ∨ 100 * w < 95 * cap then
      let since := s.pow.underSince.getD s.postmark
      let s := modPow s (fun p => { p with overSince := none, underSince := some since })
      if cap ≠ 0 ∧ s.postmark < since + 100000000 then .next s
      else
        let s := [0, 1, 2, 3, 4, 5].foldl (fun s k => raiseClock s k 3 10000000) s
        if [0, 1, 2, 3, 4, 5].any (fun k => decide (clockN s k 3 < 8)) then .next s
        else
          .next (goOn (modPow s (fun p => { p with
            capped := false, underSince := none, holds := (List.range 10).foldl (fun m r => amErase m (4 * r + 3)) p.holds })))
    else .next (modPow s (fun p => { p with overSince := none, underSince := none }))
  else .next s

/-- RESERVE_SHORT: the reserve of a region in ACTIVE has not been held for 1 ms (R671). -/
def execReserveShort (region pm : Nat) (s : State) : Out :=
  let s := clearShort (advance pm s)
  if region < 6 ∧ s.pow.state = 0 ∧ reserveHeld s region = false ∧ s.pow.shortPosted.contains region = false
      ∧ s.regionsOut.contains region = false then
    .next (postPf (modPow s (fun p => { p with shortPosted := insertBy id region p.shortPosted })) 0x0908 region (onBlocks s region))
  else .next s

end Sys2Proof.Machine
end

