-- ==== Sys2Proof/Machine/Telemetry.lean ====
section
/-! DEFINITION. READ_LOG, the Lighthouse block, and the sideband's questions (R216, R470, R529, R567, R635 to R639, R691, R726). -/

namespace Sys2Proof.Machine

/-! ### The logs -/

/-- The header of a log of entries: COUNT and LOST (R470, R635). -/
def logHeader (count lost : Nat) : List Byte := leBytes 32 (count % 2 ^ 32 + lost % 2 ^ 32 * 2 ^ 32)

/-- As many whole entries as `len` allows after a 32 B header. -/
def logImage (count lost size : Nat) (es : List (List Byte)) (len : Nat) : List Byte :=
  (logHeader count lost).take len ++ (es.take ((len - 32) / size)).flatten

/-- The 64 bytes of an error-log entry (Table 14.6). -/
def errorEntry (e : LogEntry) : List Byte :=
  let r := e.err
  leBytes 64 (e.outcome % 8 * 2 ^ 254 + r.level % 4 * 2 ^ 257 + r.kind % 256 * 2 ^ 259 + r.unit.region % 16 * 2 ^ 267
    + r.unit.index % 16 * 2 ^ 271 + r.unit.kind % 32 * 2 ^ 275 + (r.unit.cell.getD 31) % 32 * 2 ^ 280 + r.partition % 128 * 2 ^ 285
    + r.account % 4096 * 2 ^ 292 + r.info % 2 ^ 32 * 2 ^ 304 + r.object % 2 ^ 64 * 2 ^ 336 + e.boot % 65536 * 2 ^ 400
    + e.seq % 2 ^ 32 * 2 ^ 416 + r.pm % 2 ^ 64 * 2 ^ 448)

/-- The error log as function fn reads it (R635). -/
def errorLog (s : State) (fn len : Nat) : List Byte :=
  let es := if fn = 0 then s.faults.log else s.faults.log.filter (fun e => e.err.partition == fn)
  logImage es.length s.faults.logLost 64 (es.map errorEntry) len

/-- A soundings record (Table 5.7). -/
def soundingsRecord (s : State) (a : Nat) : List Byte :=
  match amGet s.accounts a with
  | none => []
  | some c =>
    padTo 1024 ((List.range 80).flatMap (fun i => leBytes 4 (amGetD c.waitHist i 0)) ++ (List.range 128).flatMap (fun i => leBytes 4 (amGetD c.ratioHist i 0))
      ++ leBytes 4 c.floodsStarted ++ leBytes 4 c.floodsOvertaken ++ leBytes 4 c.floodsUnused ++ leBytes 4 c.stepsDegraded ++ leBytes 4 c.stepsAbsent
      ++ leBytes 4 c.ebbsRetained ++ leBytes 4 c.policyClamped)

/-- A loss record (Table 10.7). -/
def lossBytes (r : LossRec) : List Byte :=
  let k := lineExt r.line
  leBytes 32 (k % 1024 * 2 ^ 8 + k / 1024 % 8 * 2 ^ 18 + r.host % 32 * 2 ^ 21 + r.cause % 16 * 2 ^ 26
    + r.line % 4194304 * 64 * 2 ^ 128 + r.seq % 2 ^ 32 * 2 ^ 160 + r.pm % 2 ^ 64 * 2 ^ 192)

/-- A port counter record (Table 11.23). -/
def portRecord (s : State) (n : Nat) : List Byte := (List.range 16).flatMap (fun i => leBytes 8 (amGetD (getPort s n).counters i 0))

/-- The Lighthouse record (Table 14.8); zeros before the first. -/
def lighthouseBytes (s : State) (fn : Nat) : List Byte :=
  match s.faults.record with
  | none => List.replicate 512 0#8
  | some r =>
    let w2 := fun (l : List Nat) (n : Nat) => (List.range n).flatMap (fun i => leBytes 2 ((l.drop i).headD 0))
    let w8 := fun (l : List Nat) => (List.range 4).flatMap (fun i => leBytes 8 ((l.drop i).headD 0))
    let m := r.meters
    if fn = 0 then
      padTo 512 (padTo 256 (leBytes 8 r.pm ++ leBytes 4 m.inputMw ++ w2 m.junctions 10 ++ w2 m.stackTemps 12 ++ w2 m.busy 6 ++ w2 m.lcShares 6
        ++ w2 m.bandwidth 6 ++ w8 r.corrected ++ w8 r.handled ++ leBytes 4 r.deferred)
        ++ (List.range 9).flatMap (fun i => leBytes 4 ((r.sessions.drop i).headD 0)))
    else
      padTo 512 (padTo 256 (leBytes 8 r.pm) ++ (List.range 9).flatMap (fun i => leBytes 4 (amGetD r.byPart (fn * 16 + i) 0)))

/-- A trace entry (R691). -/
def traceBytes (e : TraceEntry) : List Byte :=
  padTo 32 (leBytes 8 e.start ++ leBytes 8 e.handle ++ leBytes 4 e.dur ++ leBytes 1 e.layer ++ leBytes 1 e.region ++ leBytes 1 e.block
    ++ [0#8] ++ leBytes 2 e.page)

/-- A log as function fn reads it, in at most `len` bytes. -/
def logBytes (s : State) (fn log target len : Nat) : List Byte :=
  if log = 0x10 then errorLog s fn len
  else if log = 0x20 then
    ((s.accounts.filter (fun e => fn == 0 || e.2.partition == fn)).flatMap (fun e => soundingsRecord s e.1)).take len
  else if log = 0x30 then
    (if fn = 0 then logImage s.win.loss.length s.win.lost 32 (s.win.loss.map lossBytes) len else (logHeader 0 0).take len)
  else if log = 0x40 then
    ((List.range 16).flatMap (fun n => if fn = 0 then portRecord s n else List.replicate 128 0#8)).take len
  else if log = 0x50 then
    (if fn = 0 then mediaRecord s ++ (List.range 1024).flatMap (lunRecord s) else List.replicate (256 + 1024 * 32) 0#8).take len
  else if log = 0x60 then (lighthouseBytes s fn).take len
  else
    let es := amGetD s.sec.traces target []
    logImage es.length 0 32 (es.map traceBytes) len

/-- READ_LOG. Reading the task trace empties it (R691). -/
def readLogSpec (h : Hdr) (log : Nat) : RingCmd :=
    { set3 := true, hasBuffer := true
      bad := fun _ => [(8, !([0x10, 0x20, 0x30, 0x40, 0x50, 0x60, 0x70].contains log))]
      refuse := fun _ => [refuseIf (log == 0x70 && h.fn != 0 && h.fn != h.target) rPfOnly]
      run := fun s tag =>
        let bs := logBytes s h.fn log h.target h.len
        doneWrite (if log = 0x70 then clearTrace s h.target else s) h tag bs (rOk) }

/-- READ_LOG. -/
def execReadLog (h : Hdr) (log : Nat) (s : State) : Out := adminCmd h (readLogSpec h log) s

/-! ### The Lighthouse block -/

/-- LIGHTHOUSE_SOUNDING: one sounding of every meter. -/
def execLighthouseSounding (meters : Meters) (pm : Nat) (s : State) : Out :=
  let s := advance pm s
  if s.aon then
    let s := modPow s (fun p => { p with inputs := (meters.inputMw :: p.inputs).take 10 })
    .next (modFaults s (fun f => { f with soundings := (meters :: f.soundings).take 1000 }))
  else .next s

/-- The mean of a meter over soundings. -/
def meanOf (ms : List Meters) (f : Meters → Nat) : Nat := (ms.map f).foldl (· + ·) 0 / max 1 ms.length

/-- The means of a meter that has several values. -/
def meansOf (ms : List Meters) (n : Nat) (f : Meters → List Nat) : List Nat :=
  (List.range n).map (fun i => meanOf ms (fun m => ((f m).drop i).headD 0))

/-- Sessions in each of the nine states. -/
def stateCounts (s : State) (p : Session → Bool) : List Nat :=
  (List.range 9).map (fun i => s.sessions.countP (fun e => p e.2 && stateCode e.2.state == i))

/-- The Lighthouse record of the soundings held and of what the block counts now (R639). -/
def recordNow (s : State) : LhRecord :=
  let ms := s.faults.soundings
  let parts := (s.sessions.map (fun e => e.2.partition)).eraseDups
  let by_ := parts.foldl (fun (a : AMap Nat) p =>
    (List.range 9).foldl (fun (a : AMap Nat) i => amSet a (p * 16 + i) (((stateCounts s (fun x => x.partition == p)).drop i).headD 0)) a) []
  { pm := s.postmark
    meters := { inputMw := meanOf ms (·.inputMw), hbmMw := meanOf ms (·.hbmMw), junctions := meansOf ms 10 (·.junctions)
                stackTemps := meansOf ms 12 (·.stackTemps), busy := meansOf ms 6 (·.busy), lcShares := meansOf ms 6 (·.lcShares)
                bandwidth := meansOf ms 6 (·.bandwidth) }
    sessions := stateCounts s (fun _ => true), byPart := by_, corrected := s.faults.corrected
    handled := s.faults.handled, deferred := s.faults.deferred.length, held := s.sessions.length, pctUsed := pctUsed s }

/-- LIGHTHOUSE_RECORD (R639): the averages of the second, and the interrupt of R223. -/
def execLighthouseRecord (pm : Nat) (s : State) : Out :=
  let s := advance pm s
  if s.aon && !s.faults.soundings.isEmpty then .next (hmInterrupt (modFaults s (fun f => { f with soundings := [], record := some (recordNow s) })))
  else .next s

/-- The value of a PLDM sensor from a record (Table 14.7). -/
def sensorValue (r : LhRecord) (id : Nat) : Option Nat :=
  let at_ := fun (l : List Nat) (i : Nat) => some ((l.drop i).headD 0)
  if 1 ≤ id ∧ id ≤ 10 then at_ r.meters.junctions (id - 1)
  else if 11 ≤ id ∧ id ≤ 22 then at_ r.meters.stackTemps (id - 11)
  else if id = 23 then some (r.meters.inputMw / 100)
  else if id = 24 then some (r.meters.hbmMw / 100)
  else if 25 ≤ id ∧ id ≤ 28 then at_ r.handled (id - 25)
  else if id = 29 then some (r.corrected.foldl (· + ·) 0)
  else if id = 30 then some r.held
  else if id = 31 then some r.pctUsed
  else none

/-- PLDM_SENSOR_READ (R638). -/
def execPldmSensorRead (id : Nat) (s : State) : Out :=
  if s.boot.stage < 2 then .next s else .next (emit (.sensor id (s.faults.record.bind (fun r => sensorValue r id))) s)

/-! ### Vendor commands and the alert (R637, R726) -/

/-- Vendor command 0x01: FAULT_STATUS and BEACHED; SMB_ALERT_N is released. -/
def execVendorStatus (s : State) : Out :=
  if s.boot.stage < 2 then .next s
  else
    let w := alertWord s
    .next (emit (.vendorStatus (faultStatus s) s.beached) (modFaults s (fun f => { f with alertSeen := w, alert := false })))

/-- Vendor command 0x02: up to 256 B of a log's image from an offset. -/
def execVendorLog (log off : Nat) (s : State) : Out :=
  if s.boot.stage < 2 then .next s
  else
    let img := if log = 0x10 then errorLog s 0 (32 + 4096 * 64) else if log = 0x60 then lighthouseBytes s 0 else []
    .next (emit (.vendorLog log off ((img.drop off).take 256)) s)

/-- The SMBus Alert Response Address: the device that holds the line answers with its address (R727) and releases it. -/
def execAlertResponse (s : State) : Out :=
  if 2 ≤ s.boot.stage ∧ s.faults.alert = true then
    .next (emit (.alertAddress (0x64 + s.boot.mgmt)) (modFaults s (fun f => { f with alert := false })))
  else .next s

end Sys2Proof.Machine
end

