-- ==== Sys2Proof/Machine/Security.lean ====
section
/-! DEFINITION. Release of a partition, debug consent, device sets, firmware, SPDM and the debug port (R672 to R710). -/

namespace Sys2Proof.Machine

def modSec (s : State) (f : Security → Security) : State := { s with sec := f s.sec }

def modBoot (s : State) (f : Boot → Boot) : State := { s with boot := f s.boot }

/-! ### RELEASE_PARTITION (R689, R690, R706) -/

/-- RELEASE_PARTITION: every session closes, consent, key and CONSENT_SEQ go, and the accounts go once the last session is freed. -/
def releasePartitionSpec (h : Hdr) : RingCmd :=
    { pfOnly := true, set3 := true
      bad := fun _ => [(8, h.target == 0 || decide (64 < h.target))]
      refuse := fun s => [refuseIf (getFn s h.target).enable (rBusy 1)]
      run := fun s tag =>
        let ds := (s.sessions.filter (fun e => e.2.partition == h.target && e.2.state != .closing)).map (·.1)
        let s := ds.foldl beginClose (park s h tag (.partitionFreed h.target))
        let s := endConsent s h.target
        let s := modSec s (fun c => { c with consentKeys := amErase c.consentKeys h.target, consentSeq := amErase c.consentSeq h.target })
        settlePartition s h.target }

/-- RELEASE_PARTITION. -/
def execReleasePartition (h : Hdr) (s : State) : Out := adminCmd h (releasePartitionSpec h) s

/-! ### Debug consent (R688 to R690) -/

/-- R52 for a command of the owning VF: PF_0 and other VFs do not own the partition. -/
def vfRefuse (fn p : Nat) : Option Rcpt := refuseIf (fn != p) rPfOnly

/-- TARGET is no partition. -/
def partBad (p : Nat) : Nat × Bool := (8, p == 0 || decide (64 < p))

/-- A token's fields pass R688 for partition p; `signed`: its signature checks against the partition's consent key. -/
def tokenGood (s : State) (p : Nat) (t : List Byte) (signed : Bool) : Bool :=
  signed && amHas s.sec.consentKeys p && field t 0 8 == s.boot.deviceId && field t 8 1 == p && decide (amGetD s.sec.consentSeq p 0 < field t 16 8)
    && decide (1 ≤ field t 9 1) && decide (field t 9 1 ≤ 3) && decide (1 ≤ field t 12 4) && decide (field t 12 4 ≤ 86400)

/-- SET_CONSENT (R688). -/
def setConsentSpec (h : Hdr) (token : HostRead) (signed : Bool) : RingCmd :=
    { hasBuffer := true
      bad := fun _ => [partBad h.target, (12, h.len != 192)]
      refuse := fun s => [vfRefuse h.fn h.target, bodyRefusal token, refuseIf (!tokenGood s h.target (bodyBytes token) signed) (rKey 4)]
      run := fun s tag =>
        let t := bodyBytes token
        let c : Consent := { scope := field t 9 1, until_ := s.postmark + field t 12 4 * 1000000000 }
        let s := modSec s (fun x => { x with consents := amSet x.consents h.target c, consentSeq := amSet x.consentSeq h.target (field t 16 8) })
        let s := if c.scope % 2 = 0 then clearTrace s h.target else s
        done (noteConsent s h.target) h tag (rOk) }

/-- SET_CONSENT. -/
def execSetConsent (h : Hdr) (token : HostRead) (signed : Bool) (s : State) : Out := adminCmd h (setConsentSpec h token signed) s

/-- WITHDRAW_CONSENT (R689). -/
def withdrawConsentSpec (h : Hdr) : RingCmd :=
    { bad := fun _ => [partBad h.target]
      refuse := fun _ => [vfRefuse h.fn h.target]
      run := fun s tag => done (endConsent s h.target) h tag (rOk) }

/-- WITHDRAW_CONSENT. -/
def execWithdrawConsent (h : Hdr) (s : State) : Out := adminCmd h (withdrawConsentSpec h) s

/-- CONSENT_EXPIRY: DURATION_S has passed. -/
def execConsentExpiry (partition pm : Nat) (s : State) : Out :=
  let s := advance pm s
  match amGet s.sec.consents partition with
  | some c => .next (if c.until_ ≤ s.postmark then endConsent s partition else s)
  | none => .next s

/-- SET_CONSENT_KEY (R690); `proved`: the proof checks against the installed key. -/
def setConsentKeySpec (h : Hdr) (key : HostRead) (proved : Bool) : RingCmd :=
    { hasBuffer := true
      bad := fun _ => [partBad h.target, (12, h.len != 96 && h.len != 192)]
      refuse := fun s =>
        [ vfRefuse h.fn h.target, bodyRefusal key, refuseIf (amHas s.sec.consentKeys h.target && h.len == 96) (rBusy 1),
          refuseIf (amHas s.sec.consentKeys h.target && !proved) (rKey 4) ]
      run := fun s tag =>
        let s := endConsent s h.target
        done (modSec s (fun c => { c with consentKeys := amSet c.consentKeys h.target ((bodyBytes key).take 96) })) h tag (rOk) }

/-- SET_CONSENT_KEY. -/
def execSetConsentKey (h : Hdr) (key : HostRead) (proved : Bool) (s : State) : Out := adminCmd h (setConsentKeySpec h key proved) s

/-! ### The device set (R693, R694) -/

/-- The entries of a body: identity and key. -/
def setEntries (b : List Byte) : List (Nat × List Byte) :=
  (List.range (b.length / 104)).map (fun i => (field b (104 * i) 8, slice b (104 * i + 8) 96))

/-- The digest of a set: SHA-384 of its entries in ascending DEVICE_ID order. -/
def setDigest (es : List (Nat × List Byte)) : List Byte :=
  sha384 ((sortBy (fun (e : Nat × List Byte) => e.1) es).flatMap (fun e => leBytes 8 e.1 ++ padTo 96 e.2))

/-- A device that the replacement would drop while it must stay: the bound buddy, or one named in a running RESTORE_DEVICE. -/
def setDrops (s : State) (es : List (Nat × List Byte)) : Bool :=
  let gone := fun (dev : Nat) => inDeviceSet s dev && !es.any (fun e => e.1 == dev)
  (bound s && gone s.pair.buddy) || (match s.pair.restore with
    | some r => gone r.source || gone r.holder
    | none => false)

/-- SET_DEVICE_SET. -/
def setDeviceSetSpec (h : Hdr) (body : HostRead) : RingCmd :=
  let es := setEntries (bodyBytes body)
  let dup := (List.range es.length).map (fun i => (104 * i, (es.take i).any (fun e => e.1 == ((es.drop i).headD (0, [])).1)))
  { pfOnly := true, hasBuffer := true
    bad := fun _ => [(12, h.len % 104 != 0 || h.len == 0 || decide (16 * 104 < h.len))]
    refuse := fun s =>
      [ bodyRefusal body, refuseIf (!es.any (fun e => e.1 == s.boot.deviceId)) (rInvalid 0), (firstBad dup).map (fun o => rInvalid o),
        refuseIf (setDrops s es) (rBusy 1) ]
    run := fun s tag => done (modSec s (fun c => { c with deviceSet := es })) h tag (rOk (field (setDigest es) 0 8)) }

/-- SET_DEVICE_SET. -/
def execSetDeviceSet (h : Hdr) (body : HostRead) (s : State) : Out := adminCmd h (setDeviceSetSpec h body) s

/-! ### Firmware (R677, R682, R683) -/

/-- The boot record in force (R677). -/
def recInForce (b : Boot) : BootRec :=
  match b.recA, b.recB with
  | some x, some y => if x.seq < y.seq then y else x
  | some x, none => x
  | none, some y => y
  | none, none => { seq := 0, active := 0, trial := 255, tries := 0 }

/-- SE_0 writes a changed record into the other copy with SEQ raised by 1. -/
def writeBootRec (b : Boot) (f : BootRec → BootRec) : Boot :=
  let r := recInForce b
  let n : BootRec := { f r with seq := r.seq + 1 }
  if b.recA = some r then { b with recB := some n } else { b with recA := some n }

/-- A part of an image is written into a slot, and TRIAL_SLOT clears if it names that slot (R709). -/
def storeImage (s : State) (slot off : Nat) (bs : List Byte) : State :=
  modBoot s (fun b =>
    let b := if slot = 0 then { b with slotA := cellsWrite b.slotA off bs } else { b with slotB := cellsWrite b.slotB off bs }
    if (recInForce b).trial = slot then writeBootRec b (fun r => { r with trial := 255, tries := 0 }) else b)

/-- The slot that is not ACTIVE_SLOT. -/
def spareSlot (s : State) : Nat := 1 - (recInForce s.boot).active

/-- FW_DOWNLOAD. -/
def fwDownloadSpec (h : Hdr) (offset : Nat) (body : HostRead) : RingCmd :=
    { pfOnly := true, hasBuffer := true
      bad := fun _ => [(24, decide (32505344 < offset + h.len))]
      refuse := fun _ => [bodyRefusal body]
      run := fun s tag => done (storeImage s (spareSlot s) offset (bodyBytes body)) h tag (rOk) }

/-- FW_DOWNLOAD. -/
def execFwDownload (h : Hdr) (offset : Nat) (body : HostRead) (s : State) : Out := adminCmd h (fwDownloadSpec h offset body) s

/-- The refusals of R682. -/
def activateRefuse (s : State) (slot : Nat) (f : SlotFound) : List (Option Rcpt) :=
  [ refuseIf (f.signed && decide (f.svn < s.boot.svnFuse)) { status := .version, detail := s.boot.svnFuse },
    refuseIf (s.boot.trialRun || (recInForce s.boot).active == slot) (rBusy 1),
    refuseIf (!f.signed) (rKey 2) ]

/-- TRIAL_SLOT becomes the slot, untried. -/
def activateSlot (s : State) (slot : Nat) : State := modBoot s (fun b => writeBootRec b (fun r => { r with trial := slot, tries := 0 }))

/-- FW_ACTIVATE. -/
def fwActivateSpec (h : Hdr) (slot : Nat) (found : SlotFound) : RingCmd :=
    { pfOnly := true
      bad := fun _ => [(24, decide (1 < slot))]
      refuse := fun s => activateRefuse s slot found
      run := fun s tag => done (activateSlot s slot) h tag (rOk) }

/-- FW_ACTIVATE. -/
def execFwActivate (h : Hdr) (slot : Nat) (found : SlotFound) (s : State) : Out := adminCmd h (fwActivateSpec h slot found) s

/-- The trial image is committed (R683). -/
def commitTrial (s : State) : State :=
  let slot := s.boot.running
  let s := modBoot s (fun b =>
    { writeBootRec b (fun r => { r with active := slot, trial := 255, tries := 0 }) with trialRun := false, svnFuse := max b.svnFuse b.svn })
  postPf s 0x0A03 slot ((s.boot.version.getD Config.fwVersion) % 2 ^ 32 + s.boot.svnFuse % 256 * 2 ^ 32)

/-- FW_COMMIT. -/
def fwCommitSpec (h : Hdr) : RingCmd :=
    { pfOnly := true
      refuse := fun s => [refuseIf (!s.boot.trialRun) (rBusy 1)]
      run := fun s tag => done (commitTrial s) h tag (rOk) }

/-- FW_COMMIT. -/
def execFwCommit (h : Hdr) (s : State) : Out := adminCmd h (fwCommitSpec h) s

/-- TRIAL_COMMIT_TIMER: the trial image has run 600 s after READY without a chip restart. -/
def execTrialCommitTimer (pm : Nat) (s : State) : Out :=
  let s := advance pm s
  if s.boot.stage = 3 ∧ s.boot.trialRun = true ∧ s.faults.restarted = false ∧ s.beached = false ∧ s.boot.readyPm + 600000000000 ≤ s.postmark then
    .next (commitTrial s)
  else .next s

/-- PLDM for Firmware Update over MCTP: as FW_DOWNLOAD and FW_ACTIVATE; in recovery it writes either slot (R681). -/
def execPldmFirmwareUpdate (op : PldmFw) (s : State) : Out :=
  if s.boot.stage < 3 ∨ s.beached = true then .next s
  else
    match op with
    | .write slot off bs =>
      if slot < 2 ∧ off + bs.length ≤ 32505344 ∧ (s.boot.stage = 4 ∨ slot = spareSlot s) then
        .next (emit (.pldmDone true) (storeImage s slot off bs))
      else .next (emit (.pldmDone false) s)
    | .activate slot found =>
      if slot < 2 ∧ (activateRefuse s slot found).all (fun r => r.isNone) = true then .next (emit (.pldmDone true) (activateSlot s slot))
      else .next (emit (.pldmDone false) s)

/-! ### SPDM (R684 to R687, R697) -/

/-- The number of a transport. -/
def viaKey : SpdmVia → Nat
  | .i3c => 0
  | .smbus => 1
  | .vdm => 2
  | .doe fn => 16 + fn

/-- SE_0 answers SPDM: over the sideband once it runs, over a host port once the host blocks do. -/
def spdmOpen (s : State) (via : SpdmVia) : Bool :=
  decide (3 ≤ s.boot.stage) && !s.beached && (match via with
    | .i3c | .smbus => true
    | .vdm => s.boot.stage == 3
    | .doe fn => s.boot.stage == 3 && fnPresent s fn)

/-- What a transport has negotiated. -/
def peerOf (s : State) (via : SpdmVia) : SpdmPeer := amGetD s.sec.spdm (viaKey via) {}

def setPeer (s : State) (via : SpdmVia) (p : SpdmPeer) : State := modSec s (fun c => { c with spdm := amSet c.spdm (viaKey via) p })

/-- An SPDM request: it ends slack water, and is answered from the transport's negotiation (R656, R684). -/
def spdmCmd (via : SpdmVia) (f : State → SpdmPeer → State × SpdmReply) (s : State) : Out :=
  if spdmOpen s via then
    let s := leaveSlack s 6
    let t := f s (peerOf s via)
    .next (emit (.spdm via t.2) t.1)
  else .next s

/-- A request answered only from phase n on. -/
def fromPhase (n : Nat) (r : SpdmReply) (s : State) (p : SpdmPeer) : State × SpdmReply := if n ≤ p.phase then (s, r) else (s, .error)

/-- GET_VERSION: negotiation begins again. -/
def execGetVersion (via : SpdmVia) (s : State) : Out :=
  spdmCmd via (fun s p => (setPeer s via { p with phase := 1 }, .version [0x12, 0x13])) s

/-- GET_CAPABILITIES; the CT exponent is that of Table 17.10. -/
def execGetCapabilities (via : SpdmVia) (s : State) : Out :=
  spdmCmd via (fun s p => if 1 ≤ p.phase then (setPeer s via { p with phase := max p.phase 2 }, .capabilities 17) else (s, .error)) s

/-- NEGOTIATE_ALGORITHMS; `supported`: the requester offers those of Table 16.5. -/
def execNegotiateAlgorithms (via : SpdmVia) (supported : Bool) (s : State) : Out :=
  spdmCmd via (fun s p => if 2 ≤ p.phase ∧ supported = true then (setPeer s via { p with phase := 3 }, .algorithms) else (s, .error)) s

/-- GET_DIGESTS. -/
def execGetDigests (via : SpdmVia) (s : State) : Out := spdmCmd via (fromPhase 3 (.digests [0, 1])) s

/-- GET_CERTIFICATE. -/
def execGetCertificate (via : SpdmVia) (slot : Nat) (s : State) : Out :=
  spdmCmd via (fun s p => if slot < 2 then fromPhase 3 (.certificate slot) s p else (s, .error)) s

/-- CHALLENGE. -/
def execChallenge (via : SpdmVia) (slot : Nat) (s : State) : Out :=
  spdmCmd via (fun s p => if slot < 2 then fromPhase 3 (.challengeAuth slot) s p else (s, .error)) s

/-- The 24 B consent element (R686). -/
def consentElement (s : State) : List Byte :=
  let map_ := fun (b : Nat) => ((List.range 64).filter (fun i => bit (consentScope s (i + 1)) b)).foldl (fun n i => n + 2 ^ i) 0
  leBytes 2 1 ++ leBytes 2 0 ++ leBytes 8 (map_ 1) ++ leBytes 8 (map_ 0) ++ leBytes 4 s.sec.consentChanges

/-- The measurement of partition n (Table 16.7). -/
def partitionBlock (s : State) (n : Nat) : List Byte :=
  let key := amGet s.sec.consentKeys n
  leBytes 1 n ++ leBytes 1 (consentScope s n) ++ leBytes 1 (amGetD s.sec.tdisp n 0) ++ leBytes 1 (b2n key.isSome) ++ leBytes 4 (consentLeft s n)
    ++ leBytes 8 (amGetD s.sec.consentSeq n 0) ++ (match key with
      | some k => sha384 k
      | none => List.replicate 48 0#8)

/-- The measurement of an index (Table 16.6); none where there is none. -/
def measureBlock (s : State) (i : Nat) : Option (List Byte) :=
  if 1 ≤ i ∧ i ≤ 3 then some ((List.range 48).map (Config.measured i s.boot.running))
  else if i = 4 then
    some (leBytes 4 (s.boot.version.getD Config.fwVersion) ++ leBytes 4 s.boot.svn ++ leBytes 4 s.boot.svnFuse ++ leBytes 1 s.boot.running
      ++ leBytes 1 (b2n s.boot.trialRun) ++ leBytes 2 0)
  else if i = 5 then some (leBytes 1 (if s.sec.debug then 2 else 1) ++ leBytes 1 (b2n s.sec.debug))
  else if i = 6 then some (setDigest (if s.sec.deviceSet.isEmpty then [(s.boot.deviceId, [])] else s.sec.deviceSet))
  else if i = 7 then some (leBytes 8 s.pair.buddy ++ leBytes 1 s.pair.status)
  else if i = 8 then some (leBytes 8 (mProfile s).identity)
  else if i = 9 then
    some ((match s.hm.digest with
      | some d => if s.hm.running = 0 then List.replicate 48 0#8 else padTo 48 d
      | none => List.replicate 48 0#8) ++ leBytes 2 s.hm.running)
  else if 0x10 ≤ i ∧ i ≤ 0x4F then some (partitionBlock s (i - 0x0F))
  else none

/-- GET_MEASUREMENTS: one block, or every block for 0xFF (R685, R686). -/
def execGetMeasurements (via : SpdmVia) (index : Nat) (s : State) : Out :=
  spdmCmd via (fun s p =>
    let is_ := if index = 0xFF then List.range 0x50 else [index]
    let bs := is_.filterMap (fun i => (measureBlock s i).map (fun b => (i, b)))
    if bs.isEmpty then (s, .error) else fromPhase 3 (.measurements bs (consentElement s)) s p) s

/-- KEY_EXCHANGE: a session begins. -/
def execKeyExchange (via : SpdmVia) (slot : Nat) (s : State) : Out :=
  spdmCmd via (fun s p =>
    if 3 ≤ p.phase ∧ slot < 2 then
      let n := amLowestFree p.sessions 1
      (setPeer s via { p with sessions := amSet p.sessions n false }, .keyExchange n)
    else (s, .error)) s

/-- FINISH; `verified`: its verification data checks. -/
def execFinish (via : SpdmVia) (session : Nat) (verified : Bool) (s : State) : Out :=
  spdmCmd via (fun s p =>
    if amGet p.sessions session = some false then
      if verified then (setPeer s via { p with sessions := amSet p.sessions session true }, .finished session)
      else (setPeer s via { p with sessions := amErase p.sessions session }, .error)
    else (s, .error)) s

/-- A request inside an established session. -/
def inSession (via : SpdmVia) (session : Nat) (f : State → SpdmPeer → State × SpdmReply) (s : State) : Out :=
  spdmCmd via (fun s p => if amGet p.sessions session = some true then f s p else (s, .error)) s

/-- HEARTBEAT. -/
def execSpdmHeartbeat (via : SpdmVia) (session : Nat) (s : State) : Out := inSession via session (fun s _ => (s, .heartbeat)) s

/-- KEY_UPDATE. -/
def execSpdmKeyUpdate (via : SpdmVia) (session : Nat) (s : State) : Out := inSession via session (fun s _ => (s, .keyUpdated)) s

/-- END_SESSION. -/
def execEndSession (via : SpdmVia) (session : Nat) (s : State) : Out :=
  inSession via session (fun s p => (setPeer s via { p with sessions := amErase p.sessions session }, .ended)) s

/-- TDISP state of VF_n. -/
def tdispOf (s : State) (n : Nat) : Nat := amGetD s.sec.tdisp n 0

def setTdisp (s : State) (n v : Nat) : State :=
  modSec s (fun c => { c with tdisp := if v = 0 then amErase c.tdisp n else amSet c.tdisp n v })

/-- One IDE_KM or TDISP request (R687, R697): keys of a port's streams, and the interface's states. -/
def vendorStep (s : State) (req : VendorReq) : State × SpdmReply :=
  let vf := fun (n : Nat) (k : State × SpdmReply) => if 1 ≤ n ∧ n ≤ 64 ∧ fnPresent s n = true then k else (s, SpdmReply.error)
  let move := fun (n old new : Nat) => vf n (if tdispOf s n = old then (setTdisp s n new, .tdisp new) else (s, .error))
  match req with
  | .ideKeyProg port stream =>
    if port < 2 ∧ stream < 9 then (modSec s (fun c => { c with ide := if c.ide.contains (port * 256 + stream) then c.ide else insertBy id (port * 256 + stream) c.ide }), .ideDone)
    else (s, .error)
  | .ideStop port stream => (modSec s (fun c => { c with ide := c.ide.filter (· != port * 256 + stream) }), .ideDone)
  | .tdispVersion => (s, .tdisp 0)
  | .tdispCapabilities => (s, .tdisp 0)
  | .tdispState n => vf n (s, .tdisp (tdispOf s n))
  | .tdispReport n => vf n (if tdispOf s n = 1 ∨ tdispOf s n = 2 then (s, .tdisp (tdispOf s n)) else (s, .error))
  | .tdispLock n => move n 0 1
  | .tdispStart n => move n 1 2
  | .tdispStop n => vf n (setTdisp s n 0, .tdisp 0)

/-- VENDOR_DEFINED_REQUEST: IDE_KM and TDISP, inside an established session. -/
def execVendorDefinedRequest (via : SpdmVia) (session : Option Nat) (req : VendorReq) (s : State) : Out :=
  match session with
  | some n => inSession via n (fun s _ => vendorStep s req) s
  | none => spdmCmd via (fun s _ => (s, .error)) s

/-! ### The device debug port (R674, R675, R692, R738) -/

/-- DEBUG_UNLOCK: LIFECYCLE becomes DEBUG. -/
def execDebugUnlock (tokenOk : Bool) (pm : Nat) (s : State) : Out :=
  let s := advance pm s
  if tokenOk = true ∧ s.sec.debug = false ∧ 2 ≤ s.boot.stage ∧ s.beached = false then
    .next (postPf (modSec s (fun c => { c with debug := true })) 0x0A05 0 (s.postmark % 2 ^ 64))
  else .next s

/-- DEBUG_PORT_ACCESS: device-wide state while unlocked, a partition's while its DEBUG consent is in force; the VF's interface then moves to
ERROR (R687). Boundary scan acts in recovery alone. -/
def execDebugPortAccess (reach : DebugReach) (s : State) : Out :=
  if s.beached then .next s
  else
    match reach with
    | .device => .next (if s.sec.debug then emit (.debugData reach) s else s)
    | .partition n =>
      .next (if s.sec.debug && bit (consentScope s n) 1 then emit (.debugData reach) (setTdisp s n 3) else s)
    | .boundaryScan => .next (if s.boot.stage = 4 then emit (.debugData reach) s else s)

end Sys2Proof.Machine
end

