-- ==== Sys2Proof/Machine/Boot.lean ====
section
/-! DEFINITION. Power-up, POR_N, boot, PERST_N, rails and regulators (R629 to R632, R636, R676 to R681, R718 to R735). -/

namespace Sys2Proof.Machine

/-! ### What lasts -/

/-- What the flash parts and LH_0 keep of the media: the format, its units and shingles, and the counters since MEDIA_FORMAT. -/
def keepFlash (m : Media) : Media :=
  { m with state := 0, channels := [], online := [], writers := [], mirrors := [], keptOld := [], failures := [], wearPosted := 0
           behindPosted := false, amp := [] }

/-- The pins of the host ports; no link is up. -/
def keepPins (w : Window) : Window :=
  { ports := amMap w.ports (fun _ p => ({ inReset := p.inReset } : HostPort)) }

/-- The error log and the counts since power-up last through POR_N (R636). -/
def keepLog (f : Faults) : Faults :=
  { log := f.log, logSeq := f.logSeq, logLost := f.logLost, boots := f.boots, corrected := f.corrected, handled := f.handled
    alertSeen := f.alertSeen }

/-- What the NOR device and the fuses keep; a trial that ran and was not committed is to be reported (R683). -/
def keepNor (b : Boot) (stage : Nat) : Boot :=
  { stage := stage, deviceId := b.deviceId, recA := b.recA, recB := b.recB, slotA := b.slotA, slotB := b.slotB, svnFuse := b.svnFuse
    fellBack := if b.trialRun then some (b.version.getD Config.fwVersion) else b.fellBack }

/-- The machine with POR_N low: everything but the always-on domain, the NOR, the fuses and the flash is reset (R730). -/
def porState (s : State) : State :=
  { State.reset with
    pending := s.pending, out := s.out, fresh := s.fresh, postmark := s.postmark, ready := false
    media := keepFlash s.media, win := keepPins s.win, faults := keepLog s.faults, boot := keepNor s.boot 1
    sec := { consentChanges := (s.sec.consentChanges + s.sec.consents.length) % 2 ^ 32 }, pair := { strap := s.pair.strap } }

/-! ### Power and POR_N -/

/-- POWER_UP: the rails are in range with POR_N low; the postmark starts at 0 (R731). -/
def execPowerUp (s : State) : Out :=
  if s.boot.stage = 0 then .next { s with boot := { s.boot with stage := 1 }, aon := true, postmark := 0 } else .next s

/-- POWER_REMOVED: the NOR, the fuses and the flash are left. -/
def execPowerRemoved (s : State) : Out :=
  let t := porState s
  .next { t with faults := { boots := 0 }, sec := {}, boot := { t.boot with stage := 0 }, aon := false
                 media := { t.media with wallOffset := none } }

/-- POR_N_FALL (R730). -/
def execPorNFall (pm : Nat) (s : State) : Out :=
  let s := advance pm s
  if 2 ≤ s.boot.stage then .next (porState s) else .next s

/-- The slots to try (R680). -/
def slotsToTry (sel : Nat) (r : BootRec) : List Nat :=
  if sel = 1 then [0]
  else if sel = 2 then [1]
  else if sel = 3 then []
  else if r.trial ≠ 255 ∧ r.tries = 0 then [r.trial, r.active]
  else [r.active, 1 - r.active]

/-- A slot verifies (R679). -/
def slotVerifies (b : Boot) (f : SlotFound) : Bool := f.signed && decide (b.svnFuse ≤ f.svn)

/-- The boot of R680: the slots in turn; none that verifies leads to recovery. -/
def bootFrom (a c : SlotFound) : List Nat → Boot → Boot
  | [], b => { b with stage := 4 }
  | n :: rest, b =>
    let f := if n = 0 then a else c
    let trial := (recInForce b).trial == n
    let b := if trial then writeBootRec b (fun r => { r with tries := 1 }) else b
    if slotVerifies b f then
      { b with stage := 2, running := n, trialRun := trial, version := some f.version, svn := f.svn
               svnFuse := if trial then b.svnFuse else max b.svnFuse f.svn }
    else bootFrom a c rest (if trial then { b with fellBack := some f.version } else b)

/-- POR_N_RISE: the straps are latched, and SE_0 boots; a NOR that does not answer leads to recovery (R680, R681, R724, R727). -/
def execPorNRise (sel : Nat) (pairId : Bool) (mgmt : Nat) (slotA slotB : SlotFound) (norAnswers : Bool) (pm : Nat) (s : State) : Out :=
  let s := advance pm s
  if s.boot.stage ≠ 1 then .next s
  else
    let b := if norAnswers then bootFrom slotA slotB (slotsToTry sel (recInForce s.boot)) s.boot else { s.boot with stage := 4 }
    .next { s with boot := { b with sel := sel, mgmt := mgmt }, pair := { s.pair with strap := pairId }
                   faults := { s.faults with boots := s.faults.boots + 1 } }

/-- REGULATOR_TIMEOUT (R720). -/
def execRegulatorTimeout (region : Nat) (s : State) : Out :=
  if s.boot.stage ≠ 2 then .next s
  else if region = 8 then .next (modBoot s (fun b => { b with stage := 4 }))
  else .next (modBoot s (fun b => { b with regFailed := region :: b.regFailed.filter (· != region) }))

/-- SELF_TEST_DONE: cells that failed are retired, regions that failed stay out of service, and READY is set in every function (R619, R624,
R728). -/
def execSelfTestDone (failedRegions : List Nat) (failedCells : List (Nat × Nat × Nat × Nat)) (pm : Nat) (s : State) : Out :=
  let s := advance pm s
  if s.boot.stage ≠ 2 then .next s
  else
    let s := modBoot { s with ready := true } (fun b => { b with stage := 3, readyPm := s.postmark })
    let s := modFaults s (fun f => { f with restarted := false })
    let s := failedCells.foldl (fun s c =>
      retireCell s { level := 0, kind := if c.2.1 = 1 then 0x01 else if c.2.1 = 11 then 0x04 else 0x02
                     unit := { region := c.1, kind := c.2.1, index := c.2.2.1, cell := some c.2.2.2 }, what := .cell, pm := s.postmark }) s
    let down := (failedRegions.filter (fun r => r < 10 ∧ r ≠ 8)) ++ s.boot.regFailed.filter (fun r => !failedRegions.contains r)
    .next (down.foldl (fun s r => regionOut (if r < 6 then { s with regionsOut := r :: s.regionsOut } else s) r) s)

/-! ### PERST_N and host links (R463, R729, R732, R733) -/

/-- Host port p's pin and link. -/
def setHost (s : State) (p : Nat) (x : HostPort) : State := modWin s (fun w => { w with ports := amSet w.ports p x })

/-- Both PERST_N low: every function is as after a per-function reset, and Tideway closes (R733). -/
def bothReset (s : State) : State :=
  if portInReset s 0 && portInReset s 1 then goOn (closeTideway ((presentFns s).foldl resetFn s)) else s

/-- PERST_N_FALL. -/
def execPerstNFall (p pm : Nat) (s : State) : Out :=
  let s := advance pm s
  if 2 ≤ p ∨ s.beached = true ∨ portInReset s p = true then .next s
  else
    let s := if s.boot.stage = 3 then crashPort s p else s
    let s := setHost s p { version := 0, switched := false, inReset := true }
    .next (if s.boot.stage = 3 then bothReset s else s)

/-- PERST_N_RISE: the port leaves reset and trains, unless its region is out of service. -/
def execPerstNRise (p version : Nat) (switched : Bool) (s : State) : Out :=
  if 2 ≤ p ∨ s.beached = true then .next s
  else if s.boot.stage < 2 ∨ s.faults.regionsDown.contains (6 + p) = true then .next (setHost s p {})
  else .next (setHost s p { version := version, switched := switched })

/-- HOST_LINK_DOWN: the link of port p is lost without a reset (R463). -/
def execHostLinkDown (p : Nat) (s : State) : Out :=
  if 2 ≤ p ∨ s.beached = true then .next s
  else .next (setHost (crashPort s p) p { amGetD s.win.ports p {} with version := 0 })

/-! ### Rails and regulators (R718 to R720, R735) -/

/-- The regions that a rail feeds; region 8 stands for a chip-level error. -/
def railFeeds : Rail → List Nat
  | .vddAon | .vddio | .vhbmPp | .vhbmC | .vhbmQ => [8]
  | .vddaSd | .vddhSd => [6, 7]
  | .vddqF => [9]
  | .core r => [r]

/-- A region's rail fault (0x20), or the chip's (0x30). -/
def railFault (s : State) (r : Nat) : State :=
  detect s { level := 2, kind := 0x20, unit := { region := r }, what := .region, pm := s.postmark }

/-- RAIL_OUT_OF_RANGE while POR_N stays high. -/
def execRailOutOfRange (rail : Rail) (pm : Nat) (s : State) : Out := faultRow pm (fun s => (railFeeds rail).foldl railFault s) s

/-- PMB_ALERT_N: the regulator of a region's rail reports a fault. -/
def execPmbAlertN (region pm : Nat) (s : State) : Out := faultRow pm (fun s => railFault s region) s

/-- PMBUS_POLL: PCM_0 reads the regulators. -/
def execPmbusPoll (reads : List RailRead) (pm : Nat) (s : State) : Out :=
  let s := advance pm s
  if 2 ≤ s.boot.stage ∧ s.beached = false then
    .next (modPow s (fun p => { p with rails := reads.foldl (fun m r => if r.rail < 10 then amSet m r.rail r else m) p.rails }))
  else .next s

end Sys2Proof.Machine
end

