-- ==== Sys2Proof/Machine/RegisterWrite.lean ====
section
/-! DEFINITION. Writes of the registers that hold what is written until something reads them (Tables 2.1, 2.2, 8.5, 9.7, 11.1, 13.4; R61,
R354, R400, R440, R475, R480). -/

namespace Sys2Proof.Machine

/-- A 64-bit and a 32-bit register's new value. -/
def reg64 (v : Nat) : Word64 := BitVec.ofNat 64 v

def reg32 (v : Nat) : Word32 := BitVec.ofNat 32 v

/-- One MSI-X entry changed; a pending vector that is unmasked is sent, as PCIe defines. -/
def writeMsix (s : State) (fn vec : Nat) (g : Msix → Msix) : State :=
  let f := getFn s fn
  let m := g (amGetD f.msix vec {})
  if m.pending && !m.masked then
    emit (.interrupt fn vec) (setFn s fn { f with msix := amSet f.msix vec { m with pending := false } })
  else setFn s fn { f with msix := amSet f.msix vec m }

/-- The write of one register of function fn, whose registers are open, through host port `port`. -/
def writeReg (s : State) (fn port : Nat) (reg : PlainReg) (v : Nat) : State :=
  let f := getFn s fn
  match reg with
  | .adminSqBase => if f.adminEn then s else setFn s fn { f with adminSqBase := reg64 v, adminPort := port }
  | .adminRqBase => if f.adminEn then s else setFn s fn { f with adminRqBase := reg64 v, adminPort := port }
  | .eventBase => if f.eventEn then s else setFn s fn { f with eventBase := reg64 v, eventPort := port }
  | .eventCfg => if f.eventEn then s else setFn s fn { f with eventCfg := reg32 v }
  | .textCfg => if f.textEn then s else setFn s fn { f with textCfg := reg32 (v % 2 ^ 22) }
  | .textSqBase => if f.textEn then s else setFn s fn { f with textSqBase := reg64 v, textPort := port }
  | .textRqBase => if f.textEn then s else setFn s fn { f with textRqBase := reg64 v, textPort := port }
  | .searchCfg => if f.searchEn then s else setFn s fn { f with searchCfg := reg32 (v % 2 ^ 22) }
  | .searchSqBase => if f.searchEn then s else setFn s fn { f with searchSqBase := reg64 v, searchPort := port }
  | .searchRqBase => if f.searchEn then s else setFn s fn { f with searchRqBase := reg64 v, searchPort := port }
  | .portIp n => if fn ≠ 0 ∨ 16 ≤ n ∨ pcEnable (getPort s n) = true then s else modPort s n (fun x => { x with ip := BitVec.ofNat 128 v })
  | .connBase half =>
    if fn ≠ 0 ∨ s.tw.enable = true then s
    else modTw s (fun t => if half = 0 then { t with connBase0 := reg64 v } else { t with connBase1 := reg64 v })
  | .harbourCfg => if fn ≠ 0 ∨ 100 < v % 128 then s else modPair s (fun p => { p with parkPct := v % 128 })
  | .hdmDecoder host =>
    let es := (grantedTo s host).map (fun e => e.1 * 1024 + e.2)
    modWin s (fun w => { w with decoders := (if v = 0 then amErase w.decoders host else amSet w.decoders host es) })
  | .msixAddr k => if 64 ≤ k then s else writeMsix s fn k (fun m => { m with addr := v % 2 ^ 64 })
  | .msixData k => if 64 ≤ k then s else writeMsix s fn k (fun m => { m with data := v % 2 ^ 32 })
  | .msixControl k => if 64 ≤ k then s else writeMsix s fn k (fun m => { m with masked := bit v 0 })

/-- REGISTER_WRITE: ignored until READY and while the function is being reset (R99, R729). -/
def execRegisterWrite (fn port : Nat) (reg : PlainReg) (value : Nat) (s : State) : Out :=
  if regsOpen s fn = true ∧ s.beached = false then .next (writeReg s fn port reg value) else .next s

end Sys2Proof.Machine
end

