-- ==== Sys2Proof/Machine/Dispatch.lean ====
section
/-! DEFINITION. The dispatch: one arm per command, each one call of its meaning. -/

namespace Sys2Proof.Machine

def exec (i : Instr) (s : State) : Host.Outcome State Fault Refusal :=
  match i with
  | .powerUp => Sys2Proof.Machine.execPowerUp s
  | .porNRise sel pairId mgmt slotA slotB norAnswers pm => Sys2Proof.Machine.execPorNRise sel pairId mgmt slotA slotB norAnswers pm s
  | .selfTestDone failedRegions failedCells pm => Sys2Proof.Machine.execSelfTestDone failedRegions failedCells pm s
  | .porNFall pm => Sys2Proof.Machine.execPorNFall pm s
  | .perstNFall p pm => Sys2Proof.Machine.execPerstNFall p pm s
  | .perstNRise p version switched => Sys2Proof.Machine.execPerstNRise p version switched s
  | .railOutOfRange rail pm => Sys2Proof.Machine.execRailOutOfRange rail pm s
  | .pmbAlertN region pm => Sys2Proof.Machine.execPmbAlertN region pm s
  | .regulatorTimeout region => Sys2Proof.Machine.execRegulatorTimeout region s
  | .pmbusPoll reads pm => Sys2Proof.Machine.execPmbusPoll reads pm s
  | .identify h => Sys2Proof.Machine.execIdentify h s
  | .createStepRing h sqBase rqBase depth vector => Sys2Proof.Machine.execCreateStepRing h sqBase rqBase depth vector s
  | .deleteStepRing h => Sys2Proof.Machine.execDeleteStepRing h s
  | .readLog h log => Sys2Proof.Machine.execReadLog h log s
  | .readDeadLetters h => Sys2Proof.Machine.execReadDeadLetters h s
  | .createAccount h partition => Sys2Proof.Machine.execCreateAccount h partition s
  | .deleteAccount h => Sys2Proof.Machine.execDeleteAccount h s
  | .setQuota h tier bytes => Sys2Proof.Machine.execSetQuota h tier bytes s
  | .setCeiling h tier bytes => Sys2Proof.Machine.execSetCeiling h tier bytes s
  | .queryUsage h => Sys2Proof.Machine.execQueryUsage h s
  | .releasePartition h => Sys2Proof.Machine.execReleasePartition h s
  | .publishConfig h kind base account body sv => Sys2Proof.Machine.execPublishConfig h kind base account body sv s
  | .retireConfig h kind version => Sys2Proof.Machine.execRetireConfig h kind version s
  | .queryConfig h kind => Sys2Proof.Machine.execQueryConfig h kind s
  | .loadBundle h bundleKind cls body sv shards => Sys2Proof.Machine.execLoadBundle h bundleKind cls body sv shards s
  | .dropBundle h => Sys2Proof.Machine.execDropBundle h s
  | .placeObject h cls => Sys2Proof.Machine.execPlaceObject h cls s
  | .registerAs h pasid account perms => Sys2Proof.Machine.execRegisterAs h pasid account perms s
  | .deregisterAs h => Sys2Proof.Machine.execDeregisterAs h s
  | .createIndex h cls params => Sys2Proof.Machine.execCreateIndex h cls params s
  | .compactIndex h => Sys2Proof.Machine.execCompactIndex h s
  | .deleteIndex h => Sys2Proof.Machine.execDeleteIndex h s
  | .createSession h handle profile vocab constr cls => Sys2Proof.Machine.execCreateSession h handle profile vocab constr cls s
  | .closeSession h handle => Sys2Proof.Machine.execCloseSession h handle s
  | .sessionFreed d => Sys2Proof.Machine.execSessionFreed d s
  | .setWaiting h handle expectedMs => Sys2Proof.Machine.execSetWaiting h handle expectedMs s
  | .parkNow h handle => Sys2Proof.Machine.execParkNow h handle s
  | .floodNow h handle => Sys2Proof.Machine.execFloodNow h handle s
  | .querySession h handle => Sys2Proof.Machine.execQuerySession h handle s
  | .setSessionClass h handle cls => Sys2Proof.Machine.execSetSessionClass h handle cls s
  | .migrateSession h handle target => Sys2Proof.Machine.execMigrateSession h handle target s
  | .addExtent h extent host => Sys2Proof.Machine.execAddExtent h extent host s
  | .releaseExtent h extent host => Sys2Proof.Machine.execReleaseExtent h extent host s
  | .hostLost h host => Sys2Proof.Machine.execHostLost h host s
  | .acceptLoss h extent offset => Sys2Proof.Machine.execAcceptLoss h extent offset s
  | .setChart h epoch body => Sys2Proof.Machine.execSetChart h epoch body s
  | .setRole h role profile => Sys2Proof.Machine.execSetRole h role profile s
  | .roleDrainEnd => Sys2Proof.Machine.execRoleDrainEnd s
  | .roleDrainTimeout pm => Sys2Proof.Machine.execRoleDrainTimeout pm s
  | .pairBind h buddy reservePct => Sys2Proof.Machine.execPairBind h buddy reservePct s
  | .pairBindTimeout pm => Sys2Proof.Machine.execPairBindTimeout pm s
  | .setCheckpoint h timerMs steps => Sys2Proof.Machine.execSetCheckpoint h timerMs steps s
  | .setConsent h token signed => Sys2Proof.Machine.execSetConsent h token signed s
  | .withdrawConsent h => Sys2Proof.Machine.execWithdrawConsent h s
  | .setConsentKey h key proved => Sys2Proof.Machine.execSetConsentKey h key proved s
  | .setDeviceSet h body => Sys2Proof.Machine.execSetDeviceSet h body s
  | .fwDownload h offset body => Sys2Proof.Machine.execFwDownload h offset body s
  | .fwActivate h slot found => Sys2Proof.Machine.execFwActivate h slot found s
  | .fwCommit h => Sys2Proof.Machine.execFwCommit h s
  | .trialCommitTimer pm => Sys2Proof.Machine.execTrialCommitTimer pm s
  | .hmAssign h mask memFrames => Sys2Proof.Machine.execHmAssign h mask memFrames s
  | .hmLoad h offset body => Sys2Proof.Machine.execHmLoad h offset body s
  | .hmStart h mask entry => Sys2Proof.Machine.execHmStart h mask entry s
  | .hmStop h mask => Sys2Proof.Machine.execHmStop h mask s
  | .openConnection h peerIp peerMac peerUdp peerConn peerDevice port mtu flags dscp => Sys2Proof.Machine.execOpenConnection h peerIp peerMac peerUdp peerConn peerDevice port mtu flags dscp s
  | .closeConnection h => Sys2Proof.Machine.execCloseConnection h s
  | .queryConnection h => Sys2Proof.Machine.execQueryConnection h s
  | .mediaFormat h lifeDays profile found => Sys2Proof.Machine.execMediaFormat h lifeDays profile found s
  | .mediaAttach h lifeDays profile found => Sys2Proof.Machine.execMediaAttach h lifeDays profile found s
  | .mediaReclaim h => Sys2Proof.Machine.execMediaReclaim h s
  | .setWallClock h wallNs => Sys2Proof.Machine.execSetWallClock h wallNs s
  | .pairUnbind h => Sys2Proof.Machine.execPairUnbind h s
  | .restoreDevice h source holder => Sys2Proof.Machine.execRestoreDevice h source holder s
  | .restoreDone => Sys2Proof.Machine.execRestoreDone s
  | .restoreSession h handle => Sys2Proof.Machine.execRestoreSession h handle s
  | .succession h failed successor => Sys2Proof.Machine.execSuccession h failed successor s
  | .releaseFrozen h source => Sys2Proof.Machine.execReleaseFrozen h source s
  | .adminSqTail fn value entries => Sys2Proof.Machine.execAdminSqTail fn value entries s
  | .adminRqHead fn value => Sys2Proof.Machine.execAdminRqHead fn value s
  | .eventHead fn value => Sys2Proof.Machine.execEventHead fn value s
  | .stepSqTail fn n value entries => Sys2Proof.Machine.execStepSqTail fn n value entries s
  | .stepRqHead fn n value => Sys2Proof.Machine.execStepRqHead fn n value s
  | .textSqTail fn value entries => Sys2Proof.Machine.execTextSqTail fn value entries s
  | .textRqHead fn value => Sys2Proof.Machine.execTextRqHead fn value s
  | .searchSqTail fn value entries => Sys2Proof.Machine.execSearchSqTail fn value entries s
  | .searchRqHead fn value => Sys2Proof.Machine.execSearchRqHead fn value s
  | .enable fn on => Sys2Proof.Machine.execEnable fn on s
  | .adminEn fn on => Sys2Proof.Machine.execAdminEn fn on s
  | .eventEn fn on => Sys2Proof.Machine.execEventEn fn on s
  | .textEn fn on => Sys2Proof.Machine.execTextEn fn on s
  | .searchEn fn on => Sys2Proof.Machine.execSearchEn fn on s
  | .postmarkLo fn pm => Sys2Proof.Machine.execPostmarkLo fn pm s
  | .vfCompat value => Sys2Proof.Machine.execVfCompat value s
  | .receiptHold fn value => Sys2Proof.Machine.execReceiptHold fn value s
  | .coalesce fn value => Sys2Proof.Machine.execCoalesce fn value s
  | .fwdGrace value => Sys2Proof.Machine.execFwdGrace value s
  | .snoopTimeout value => Sys2Proof.Machine.execSnoopTimeout value s
  | .lcLimit value => Sys2Proof.Machine.execLcLimit value s
  | .lcShare partition value => Sys2Proof.Machine.execLcShare partition value s
  | .twRto value => Sys2Proof.Machine.execTwRto value s
  | .twCc value => Sys2Proof.Machine.execTwCc value s
  | .twAck value => Sys2Proof.Machine.execTwAck value s
  | .pwrCtrl value => Sys2Proof.Machine.execPwrCtrl value s
  | .warmReserve value => Sys2Proof.Machine.execWarmReserve value s
  | .thermalCfg value => Sys2Proof.Machine.execThermalCfg value s
  | .powerCap value => Sys2Proof.Machine.execPowerCap value s
  | .liveApplied field pm => Sys2Proof.Machine.execLiveApplied field pm s
  | .liveApplyDeadline field pm => Sys2Proof.Machine.execLiveApplyDeadline field pm s
  | .swRegion n value => Sys2Proof.Machine.execSwRegion n value s
  | .portCfg n value => Sys2Proof.Machine.execPortCfg n value s
  | .twCtrlEnable value => Sys2Proof.Machine.execTwCtrlEnable value s
  | .flashCh n value => Sys2Proof.Machine.execFlashCh n value s
  | .registerWrite fn port reg value => Sys2Proof.Machine.execRegisterWrite fn port reg value s
  | .vfEnableClear => Sys2Proof.Machine.execVfEnableClear s
  | .perFunctionReset fn => Sys2Proof.Machine.execPerFunctionReset fn s
  | .pf0Reset => Sys2Proof.Machine.execPf0Reset s
  | .flrDone fn => Sys2Proof.Machine.execFlrDone fn s
  | .operationComplete tag pm => Sys2Proof.Machine.execOperationComplete tag pm s
  | .receiptHoldExpiry fn ring pm => Sys2Proof.Machine.execReceiptHoldExpiry fn ring pm s
  | .coalesceTimeout fn ring pm => Sys2Proof.Machine.execCoalesceTimeout fn ring pm s
  | .step h n e => Sys2Proof.Machine.execStep h n e s
  | .pageTaskDone region block pm => Sys2Proof.Machine.execPageTaskDone region block pm s
  | .stepMerge tag pm => Sys2Proof.Machine.execStepMerge tag pm s
  | .commit h n handle descIndex round mask => Sys2Proof.Machine.execCommit h n handle descIndex round mask s
  | .commitApply d pm => Sys2Proof.Machine.execCommitApply d pm s
  | .commitNotice pm => Sys2Proof.Machine.execCommitNotice pm s
  | .maskReady d mask pm => Sys2Proof.Machine.execMaskReady d mask pm s
  | .openStream h direction flags vocab => Sys2Proof.Machine.execOpenStream h direction flags vocab s
  | .tokenize h outAddr outCap final input => Sys2Proof.Machine.execTokenize h outAddr outCap final input s
  | .detokenize h outAddr outCap final input => Sys2Proof.Machine.execDetokenize h outAddr outCap final input s
  | .closeStream h => Sys2Proof.Machine.execCloseStream h s
  | .readText h handle cursor waitMs flags => Sys2Proof.Machine.execReadText h handle cursor waitMs flags s
  | .readTextWaitExpiry tag pm => Sys2Proof.Machine.execReadTextWaitExpiry tag pm s
  | .readMask h handle round which => Sys2Proof.Machine.execReadMask h handle round which s
  | .setRules h handle body => Sys2Proof.Machine.execSetRules h handle body s
  | .resetConstraint h handle state => Sys2Proof.Machine.execResetConstraint h handle state s
  | .search h e operand => Sys2Proof.Machine.execSearch h e operand s
  | .searchDeadline tag pm => Sys2Proof.Machine.execSearchDeadline tag pm s
  | .insert h shard gid body => Sys2Proof.Machine.execInsert h shard gid body s
  | .deleteNode h shard slot gen => Sys2Proof.Machine.execDeleteNode h shard slot gen s
  | .mapShards h body => Sys2Proof.Machine.execMapShards h body s
  | .queryIndex h => Sys2Proof.Machine.execQueryIndex h s
  | .mendingBatch index shard => Sys2Proof.Machine.execMendingBatch index shard s
  | .slotRelease index shard slot => Sys2Proof.Machine.execSlotRelease index shard slot s
  | .shardVerified index shard => Sys2Proof.Machine.execShardVerified index shard s
  | .idleTimer d pm => Sys2Proof.Machine.execIdleTimer d pm s
  | .ebbStart d pm => Sys2Proof.Machine.execEbbStart d pm s
  | .copyStored d layer page => Sys2Proof.Machine.execCopyStored d layer page s
  | .ebbComplete d => Sys2Proof.Machine.execEbbComplete d s
  | .floodStart d pm => Sys2Proof.Machine.execFloodStart d pm s
  | .floodPageArrived d layer page pm => Sys2Proof.Machine.execFloodPageArrived d layer page pm s
  | .resumePmPassed d pm => Sys2Proof.Machine.execResumePmPassed d pm s
  | .bundleEbb object pm => Sys2Proof.Machine.execBundleEbb object pm s
  | .blockedRetry d pm => Sys2Proof.Machine.execBlockedRetry d pm s
  | .budgetDay pm => Sys2Proof.Machine.execBudgetDay pm s
  | .soundingsAging pm => Sys2Proof.Machine.execSoundingsAging pm s
  | .policyProducerIndex value entries => Sys2Proof.Machine.execPolicyProducerIndex value entries s
  | .policyEntry => Sys2Proof.Machine.execPolicyEntry s
  | .descDirtyTimeout d pm => Sys2Proof.Machine.execDescDirtyTimeout d pm s
  | .pageWrite p => Sys2Proof.Machine.execPageWrite p s
  | .stepEntry p => Sys2Proof.Machine.execStepEntry p s
  | .textRead p => Sys2Proof.Machine.execTextRead p s
  | .bundleRead p => Sys2Proof.Machine.execBundleRead p s
  | .write p => Sys2Proof.Machine.execWrite p s
  | .read p data => Sys2Proof.Machine.execRead p data s
  | .respData p => Sys2Proof.Machine.execRespData p s
  | .ack a => Sys2Proof.Machine.execAck a s
  | .completion p => Sys2Proof.Machine.execCompletion p s
  | .shardSearch p => Sys2Proof.Machine.execShardSearch p s
  | .poolPut p => Sys2Proof.Machine.execPoolPut p s
  | .poolGet p => Sys2Proof.Machine.execPoolGet p s
  | .poolFree p => Sys2Proof.Machine.execPoolFree p s
  | .migrateOffer p m => Sys2Proof.Machine.execMigrateOffer p m s
  | .migratePages p m => Sys2Proof.Machine.execMigratePages p m s
  | .migratePrepare p m => Sys2Proof.Machine.execMigratePrepare p m s
  | .handover d pm => Sys2Proof.Machine.execHandover d pm s
  | .migrateCommit p => Sys2Proof.Machine.execMigrateCommit p s
  | .migrateAbort p => Sys2Proof.Machine.execMigrateAbort p s
  | .stubRelease d pm => Sys2Proof.Machine.execStubRelease d pm s
  | .rtoExpiry c pm => Sys2Proof.Machine.execRtoExpiry c pm s
  | .ackDelayExpiry c pm => Sys2Proof.Machine.execAckDelayExpiry c pm s
  | .aiInterval c pm => Sys2Proof.Machine.execAiInterval c pm s
  | .priTimeout c pm => Sys2Proof.Machine.execPriTimeout c pm s
  | .contextFetched c => Sys2Proof.Machine.execContextFetched c s
  | .arpRequest n ip bytes => Sys2Proof.Machine.execArpRequest n ip bytes s
  | .neighborSolicitation n ip bytes => Sys2Proof.Machine.execNeighborSolicitation n ip bytes s
  | .macControlFrame n bytes => Sys2Proof.Machine.execMacControlFrame n bytes s
  | .frameDropped n bytes packet => Sys2Proof.Machine.execFrameDropped n bytes packet s
  | .portUp n lanes => Sys2Proof.Machine.execPortUp n lanes s
  | .portDown n => Sys2Proof.Machine.execPortDown n s
  | .fecDegraded n codewords => Sys2Proof.Machine.execFecDegraded n codewords s
  | .memRead host dpa hold => Sys2Proof.Machine.execMemRead host dpa hold s
  | .memWrite host dpa hold bytes mask => Sys2Proof.Machine.execMemWrite host dpa hold bytes mask s
  | .writeBack host dpa hold bytes => Sys2Proof.Machine.execWriteBack host dpa hold bytes s
  | .birspi host dpa => Sys2Proof.Machine.execBirspi host dpa s
  | .snoopTimeoutExpired host dpa pm => Sys2Proof.Machine.execSnoopTimeoutExpired host dpa pm s
  | .hmWindowAccess dpa acc => Sys2Proof.Machine.execHmWindowAccess dpa acc s
  | .addDynamicCapacityResponse host region extent accept => Sys2Proof.Machine.execAddDynamicCapacityResponse host region extent accept s
  | .addExtentTimeout region extent host pm => Sys2Proof.Machine.execAddExtentTimeout region extent host pm s
  | .releaseDynamicCapacity host region extent => Sys2Proof.Machine.execReleaseDynamicCapacity host region extent s
  | .scrubComplete region extent => Sys2Proof.Machine.execScrubComplete region extent s
  | .clearPoison host dpa bytes => Sys2Proof.Machine.execClearPoison host dpa bytes s
  | .getPoisonList host => Sys2Proof.Machine.execGetPoisonList host s
  | .identifyMemoryDevice host => Sys2Proof.Machine.execIdentifyMemoryDevice host s
  | .getDynamicCapacityConfiguration host => Sys2Proof.Machine.execGetDynamicCapacityConfiguration host s
  | .getDynamicCapacityExtentList host => Sys2Proof.Machine.execGetDynamicCapacityExtentList host s
  | .getEventRecords host dynamic => Sys2Proof.Machine.execGetEventRecords host dynamic s
  | .clearEventRecords host dynamic n => Sys2Proof.Machine.execClearEventRecords host dynamic n s
  | .bindLd port ld => Sys2Proof.Machine.execBindLd port ld s
  | .unbindLd port ld => Sys2Proof.Machine.execUnbindLd port ld s
  | .getLdInfo port => Sys2Proof.Machine.execGetLdInfo port s
  | .flashReadDone shingle row unit outcome => Sys2Proof.Machine.execFlashReadDone shingle row unit outcome s
  | .programDone shingle unit ok => Sys2Proof.Machine.execProgramDone shingle unit ok s
  | .eraseDone shingle unit ok => Sys2Proof.Machine.execEraseDone shingle unit ok s
  | .rowFillTimeout shingle pm => Sys2Proof.Machine.execRowFillTimeout shingle pm s
  | .relocateShingle pm => Sys2Proof.Machine.execRelocateShingle pm s
  | .retentionScan shingle results pm => Sys2Proof.Machine.execRetentionScan shingle results pm s
  | .refreshBehind pm => Sys2Proof.Machine.execRefreshBehind pm s
  | .formatRecordHourly pm => Sys2Proof.Machine.execFormatRecordHourly pm s
  | .isthmusHeartbeat pm => Sys2Proof.Machine.execIsthmusHeartbeat pm s
  | .buddyLost pm => Sys2Proof.Machine.execBuddyLost pm s
  | .buddyAnnounce restart pm => Sys2Proof.Machine.execBuddyAnnounce restart pm s
  | .buddyRestartTimeout pm => Sys2Proof.Machine.execBuddyRestartTimeout pm s
  | .linkDegraded half lanes => Sys2Proof.Machine.execLinkDegraded half lanes s
  | .parkCopy loc c => Sys2Proof.Machine.execParkCopy loc c s
  | .mirrorCopy c => Sys2Proof.Machine.execMirrorCopy c s
  | .releaseNotice w => Sys2Proof.Machine.execReleaseNotice w s
  | .epochStart pm => Sys2Proof.Machine.execEpochStart pm s
  | .checkpointDelta epoch item bytes => Sys2Proof.Machine.execCheckpointDelta epoch item bytes s
  | .commitRecord r => Sys2Proof.Machine.execCommitRecord r s
  | .epochCommitted epoch => Sys2Proof.Machine.execEpochCommitted epoch s
  | .pairKeyUpdate half pm => Sys2Proof.Machine.execPairKeyUpdate half pm s
  | .attentionCellError region block cell info pm => Sys2Proof.Machine.execAttentionCellError region block cell info pm s
  | .cellError region kind index cell info pm => Sys2Proof.Machine.execCellError region kind index cell info pm s
  | .connectionCacheError region cell info dur pm => Sys2Proof.Machine.execConnectionCacheError region cell info dur pm s
  | .coreError block core info pm => Sys2Proof.Machine.execCoreError block core info pm s
  | .cellSelfTestDone region kind index cell pass again pm => Sys2Proof.Machine.execCellSelfTestDone region kind index cell pass again pm s
  | .blockError region kind index info dur pm => Sys2Proof.Machine.execBlockError region kind index info dur pm s
  | .descriptorCacheError d info dur pm => Sys2Proof.Machine.execDescriptorCacheError d info dur pm s
  | .hbmUncorrectable stack frame object info dur pm => Sys2Proof.Machine.execHbmUncorrectable stack frame object info dur pm s
  | .correctedError cls frame pm => Sys2Proof.Machine.execCorrectedError cls frame pm s
  | .regionError region info pm => Sys2Proof.Machine.execRegionError region info pm s
  | .regionReturn region pass again pm => Sys2Proof.Machine.execRegionReturn region pass again pm s
  | .chipError info pm => Sys2Proof.Machine.execChipError info pm s
  | .chipRestartDone again pm => Sys2Proof.Machine.execChipRestartDone again pm s
  | .lighthouseSounding meters pm => Sys2Proof.Machine.execLighthouseSounding meters pm s
  | .lighthouseRecord pm => Sys2Proof.Machine.execLighthouseRecord pm s
  | .pldmSensorRead id => Sys2Proof.Machine.execPldmSensorRead id s
  | .pldmFirmwareUpdate op => Sys2Proof.Machine.execPldmFirmwareUpdate op s
  | .vendorStatus => Sys2Proof.Machine.execVendorStatus s
  | .vendorLog log off => Sys2Proof.Machine.execVendorLog log off s
  | .alertResponse => Sys2Proof.Machine.execAlertResponse s
  | .getVersion via => Sys2Proof.Machine.execGetVersion via s
  | .getCapabilities via => Sys2Proof.Machine.execGetCapabilities via s
  | .negotiateAlgorithms via supported => Sys2Proof.Machine.execNegotiateAlgorithms via supported s
  | .getDigests via => Sys2Proof.Machine.execGetDigests via s
  | .getCertificate via slot => Sys2Proof.Machine.execGetCertificate via slot s
  | .challenge via slot => Sys2Proof.Machine.execChallenge via slot s
  | .getMeasurements via index => Sys2Proof.Machine.execGetMeasurements via index s
  | .keyExchange via slot => Sys2Proof.Machine.execKeyExchange via slot s
  | .finish via session verified => Sys2Proof.Machine.execFinish via session verified s
  | .spdmHeartbeat via session => Sys2Proof.Machine.execSpdmHeartbeat via session s
  | .spdmKeyUpdate via session => Sys2Proof.Machine.execSpdmKeyUpdate via session s
  | .endSession via session => Sys2Proof.Machine.execEndSession via session s
  | .vendorDefinedRequest via session req => Sys2Proof.Machine.execVendorDefinedRequest via session req s
  | .debugUnlock tokenOk pm => Sys2Proof.Machine.execDebugUnlock tokenOk pm s
  | .consentExpiry partition pm => Sys2Proof.Machine.execConsentExpiry partition pm s
  | .wakeAdmit dom pm => Sys2Proof.Machine.execWakeAdmit dom pm s
  | .wakeReady dom pm => Sys2Proof.Machine.execWakeReady dom pm s
  | .blockIdleGate dom pm => Sys2Proof.Machine.execBlockIdleGate dom pm s
  | .slackEnter hmWaiting pm => Sys2Proof.Machine.execSlackEnter hmWaiting pm s
  | .slackEntered pm => Sys2Proof.Machine.execSlackEntered pm s
  | .leavingScheduled pm => Sys2Proof.Machine.execLeavingScheduled pm s
  | .neighbourCheck a b quantity va vb pm => Sys2Proof.Machine.execNeighbourCheck a b quantity va vb pm s
  | .neighbourLimitTimeout a b quantity exceeded pm => Sys2Proof.Machine.execNeighbourLimitTimeout a b quantity exceeded pm s
  | .thermalCheck junctions stackTemps pm => Sys2Proof.Machine.execThermalCheck junctions stackTemps pm s
  | .powerCapCheck pm => Sys2Proof.Machine.execPowerCapCheck pm s
  | .reserveShort region pm => Sys2Proof.Machine.execReserveShort region pm s
  | .hostLinkDown p => Sys2Proof.Machine.execHostLinkDown p s
  | .isthmusHalfUp half lanes peerStrap pm => Sys2Proof.Machine.execIsthmusHalfUp half lanes peerStrap pm s
  | .buddyHeartbeat pm => Sys2Proof.Machine.execBuddyHeartbeat pm s
  | .buddyPairBind dev names reservePct parkPct reserved => Sys2Proof.Machine.execBuddyPairBind dev names reservePct parkPct reserved s
  | .harbourRead source req ask => Sys2Proof.Machine.execHarbourRead source req ask s
  | .isthmusReadData req data => Sys2Proof.Machine.execIsthmusReadData req data s
  | .translationResponse fn pasid addr len answer => Sys2Proof.Machine.execTranslationResponse fn pasid addr len answer s
  | .flashOperationTimeout ch place => Sys2Proof.Machine.execFlashOperationTimeout ch place s
  | .powerRemoved => Sys2Proof.Machine.execPowerRemoved s
  | .debugPortAccess reach => Sys2Proof.Machine.execDebugPortAccess reach s
  | .vfEnableSet n => Sys2Proof.Machine.execVfEnableSet n s

end Sys2Proof.Machine
end

