-- ==== Sys2Proof/Safety.lean ====
section
/-! DEFINITION. What claims call a safe run, and the invariants they state. -/

namespace Sys2Proof.Machine

/-- A step answers a next state: the block neither faults nor refuses. -/
def Runs (s : State) : Prop := ∃ t, step s = .next t

/-- Ring command `c` starts now and meets no refusal: its ring can start (R57, R73), it need not wait (R102), and no check of R84
refuses it. -/
def Takes (s : State) (h : Hdr) (rid : RingId) (c : RingCmd) : Prop :=
  canStart s h.fn rid h.serial = true ∧ c.waits s = false ∧ ringRefusal c h (consume s h.fn rid) = none

/-- The state as a ring command finds it: its entry is consumed. -/
def begun (s : State) (h : Hdr) (rid : RingId) : State := consume s h.fn rid

/-- The state as a command on the session of descriptor `d` finds it: its entry is consumed, and the session's last operation is this one. -/
def touched (s : State) (h : Hdr) (rid : RingId) (d : Nat) : State := modSession (begun s h rid) d (fun x => { x with lastOpPm := s.postmark })

/-- The state with object `o`, as `v` describes it, under version `c` of a class: it stays mirrored only where the class mirrors. -/
def reclassed (s : State) (o : Nat) (v : ObjView) (c : Ref) : State :=
  if v.index then modIndex s o (fun ix => { ix with classRef := c, mirrored := ix.mirrored && clMirror (cfgBody s 3 c) })
  else modBundle s o (fun b => { b with classRef := c, mirrored := b.mirrored && clMirror (cfgBody s 3 c) })

/-- The state with session `d`, which reads as `x`, under version `c` of a class: its pages in HBM are placed anew, and no copy of it stays
mirrored where the class does not mirror. -/
def reclassedSession (s : State) (d : Nat) (x : Session) (c : Ref) : State :=
  let t := (x.refs.map (·.1)).foldl (replacePage d) (upd s d (fun x => { x with classRef := c, mirrored := clMirror (cfgBody s 3 c) }))
  if clMirror (cfgBody s 3 c) then t
  else { t with copies := amMap t.copies (fun k q => if x.refs.any (fun e => copyKey e.2.tier e.2.loc == k) then { q with mirrored := false } else q) }

/-- The state with session `d` MIGRATING to device `target` over connection `c`, its migration command under `tag`. -/
def handingOver (s : State) (d target c tag : Nat) : State :=
  modPair (upd (resolveWait s (.replaced d) { status := .fault }) d
      (fun x => { x with state := .migrating, prior := x.state, migrateTarget := target, move := none, ebbDeferred := false })) (fun p =>
    { p with migrations := amSet p.migrations d { conn := c, peer := target, tag := some tag, phase := 0 } })

/-- The state with `v` in the shadow of live field `f`, its pending bit set since the first write that waits (R92). -/
def shadowed (s : State) (f : LiveField) (v : Nat) : State :=
  setLive s f { getLive s f with shadow := some v, since := if (getLive s f).shadow.isSome then (getLive s f).since else s.postmark }

/-- The state once the frame of a packet of opcode `op` has come in: it ends slack water (R656) and its port counts it and its bytes. -/
def arrived (s : State) (op : Nat) (p : TwPkt) : State :=
  frameIn (leaveSlack s 3) p.port ((getConn (leaveSlack s 3) p.dstConn).elim (110 + p.payload.length)
    (fun x => frameBytes (getPort (leaveSlack s 3) p.port) x (opExt op) p.payload.length))

/-- The state once packet `p` has found its connection `x`: the context was used, and the peer's number is learnt where it was open. -/
def learnt (s : State) (p : TwPkt) (x : Conn) : State :=
  let t := modTw s (fun t => { t with cache := amMod t.cache p.dstConn (fun e => { e with used := s.postmark }) })
  if x.peerConn = 0xFFFFFFFF then pump (modConn t p.dstConn (fun x => { x with peerConn := p.srcConn })) p.dstConn else t

/-- A packet counts as marked by the device itself: its region's miss buffer is half full, or it waits for a tag. -/
def heldBack (s : State) (c : Nat) (x : Conn) : Bool := missHalf s (connRegion c) || (!x.waiting.isEmpty && !tagAvailable s x.fn)

/-- The state once packet `p`, of connection `x`, has been counted, with its congestion mark and with one of the device's own. -/
def noted (s : State) (p : TwPkt) (x : Conn) : State :=
  let t := learnt s p x
  let held := heldBack t p.dstConn x
  let u := if p.ce then count t p.port 11 1 else t
  modConn (if held then count u p.port 12 1 else u) p.dstConn
    (fun x => { x with rcvCount := (x.rcvCount + 1) % 65536, ceCount := (x.ceCount + (if p.ce || held then 1 else 0)) % 65536 })

/-- In `t`, the command with header `h`, taken from ring `rid` in `s`, is an operation under the lowest tag that was free, in state `st`. -/
def OpAt (s t : State) (h : Hdr) (rid : RingId) (st : OpState) : Prop :=
  ∃ o, amGet t.ops (freeTag s) = some o ∧ o.origin = .ring h.fn rid ∧ o.cmdId = h.cmdId ∧ o.state = st

/-- `t` differs from `s` in the functions' registers and rings, the operations under their tags, and what has been driven outside, at most. -/
def RingOnly (s t : State) : Prop := { t with fns := s.fns, ops := s.ops, out := s.out } = s

/-- `t` is `x` but for what taking the command with header `h` in `s` does besides its own effect, at most: the registers and rings of its own
function, the operation under its tag and new ones, and new output. -/
def Otherwise (s : State) (h : Hdr) (x t : State) : Prop :=
  RingOnly x t ∧ (∀ n, n ≠ h.fn → getFn t n = getFn x n) ∧ (∀ k o, k ≠ freeTag s → amGet x.ops k = some o → amGet t.ops k = some o)
    ∧ ∃ l, t.out = l ++ x.out

/-- A boot record that names only slots A (0) and B (1), or no trial (0xFF), and at most one try (R677, R680). -/
def BootRec.sane (r : BootRec) : Bool := decide (r.active < 2) && (r.trial == 255 || decide (r.trial < 2)) && decide (r.tries < 2)

/-- A copy of the boot record is sane where its CRC checks. -/
def recSane (r : Option BootRec) : Bool :=
  match r with
  | some x => x.sane
  | none => true

/-- Firmware state is consistent: both copies of the boot record name real slots, the running slot is one, a running trial image is never
marked untried, so that a trial which is not committed is not tried again (R683), and both image slots are in their one form. -/
def FirmwareInv (s : State) : Prop :=
  recSane s.boot.recA = true ∧ recSane s.boot.recB = true ∧ s.boot.running < 2
    ∧ (s.boot.trialRun = true → (recInForce s.boot).trial = 255 ∨ (recInForce s.boot).tries = 1)
    ∧ Memory.wf s.boot.slotA = true ∧ Memory.wf s.boot.slotB = true

/-- Commands that act on the boot record, the image slots, the fuse or the state of the boot; no other command does. -/
def bootCommand (c : Instr) : Bool :=
  match c with
  | .powerUp | .powerRemoved | .porNFall _ | .porNRise _ _ _ _ _ _ _ | .regulatorTimeout _ | .selfTestDone _ _ _ => true
  | .fwDownload _ _ _ | .fwActivate _ _ _ | .fwCommit _ | .trialCommitTimer _ | .pldmFirmwareUpdate _ | .eventEn _ _ => true
  | _ => false

/-- The `n`th byte of a window line starts at `line × 64`: what a byte of the window reads as once line `line` holds `bytes`. -/
def lineWritten (m : List Host.Cell) (line : Nat) (bytes : List Byte) (a : Nat) : Byte :=
  if line * 64 ≤ a ∧ a < line * 64 + 64 then (bytes.drop (a - line * 64)).headD 0#8 else cellGet m a

end Sys2Proof.Machine
end

