-- ==== Sys2Proof/Certificates/Slice0/Obligations.lean ====
section
/-! DEFINITION. The statements for the provers, one definition each. Takes, OpAt, Otherwise and begun are those of Sys2Proof.Safety. -/

section
open Sys2Proof Sys2Proof.Machine

/-- IDENTIFY, READ_LOG, QUERY_USAGE, READ_DEAD_LETTERS, QUERY_SESSION and QUERY_CONNECTION (admin ring) and QUERY_INDEX (search ring), once taken with no refusal and with a buffer the device can write, write their bytes at ADDR and are ready with status OK under their tag. READ_DEAD_LETTERS also takes what it reports from the dead-letter ring and clears LOST, and reading the trace log clears it. QUERY_CONFIG finishes OK with the current and the named version. Nothing else changes but the function's own rings, new operations and output. -/
def Obligations.AdminQueriesWriteTheirBuffers : Prop :=
  (∀ (s : State) (h : Hdr), Takes s h .admin (identifySpec h) → (hostWrite (takeFresh (begun s h .admin)).2 h.fn h.addr (identifyBytes (takeFresh (begun s h .admin)).2 h.fn s.fresh)).2 = none →
      ∃ t, exec (.identify h) s = .next t ∧ OpAt s t h .admin (.ready (rOk 4096)) ∧ Otherwise s h ((hostWrite (takeFresh (begun s h .admin)).2 h.fn h.addr (identifyBytes (takeFresh (begun s h .admin)).2 h.fn s.fresh)).1) t)
    ∧ (∀ (s : State) (h : Hdr) (log : Nat), Takes s h .admin (readLogSpec h log) → (hostWrite (if log = 0x70 then clearTrace (begun s h .admin) h.target else (begun s h .admin)) h.fn h.addr (logBytes (begun s h .admin) h.fn log h.target h.len)).2 = none →
      ∃ t, exec (.readLog h log) s = .next t ∧ OpAt s t h .admin (.ready rOk) ∧ Otherwise s h ((hostWrite (if log = 0x70 then clearTrace (begun s h .admin) h.target else (begun s h .admin)) h.fn h.addr (logBytes (begun s h .admin) h.fn log h.target h.len)).1) t)
    ∧ (∀ (s : State) (h : Hdr), Takes s h .admin (queryUsageSpec h) → (hostWrite (begun s h .admin) h.fn h.addr (usageBytes (begun s h .admin) h.target)).2 = none →
      ∃ t, exec (.queryUsage h) s = .next t ∧ OpAt s t h .admin (.ready rOk) ∧ Otherwise s h ((hostWrite (begun s h .admin) h.fn h.addr (usageBytes (begun s h .admin) h.target)).1) t)
    ∧ (∀ (s : State) (h : Hdr), Takes s h .admin (readDeadLettersSpec h) → (hostWrite (begun s h .admin) h.fn h.addr (deadLetterBytes ((getFn (begun s h .admin) h.fn).deadLetters.take (min (h.len / 32) (getFn (begun s h .admin) h.fn).deadLetters.length)))).2 = none →
      ∃ t, exec (.readDeadLetters h) s = .next t ∧ OpAt s t h .admin (.ready (rOk (min (h.len / 32) (getFn (begun s h .admin) h.fn).deadLetters.length) (getFn (begun s h .admin) h.fn).lost)) ∧ Otherwise s h (modFn (hostWrite (begun s h .admin) h.fn h.addr (deadLetterBytes ((getFn (begun s h .admin) h.fn).deadLetters.take (min (h.len / 32) (getFn (begun s h .admin) h.fn).deadLetters.length)))).1 h.fn (fun f => { f with deadLetters := f.deadLetters.drop (min (h.len / 32) (getFn (begun s h .admin) h.fn).deadLetters.length), lost := 0 })) t)
    ∧ (∀ (s : State) (h : Hdr) (kind : Nat), Takes s h .admin (queryConfigSpec h kind) →
      ∃ t, exec (.queryConfig h kind) s = .next t ∧ OpAt s t h .admin (.ready (rOk (cfgCurrent (begun s h .admin) kind h.target) (cfgNamed (begun s h .admin) kind h.target))) ∧ Otherwise s h (begun s h .admin) t)
    ∧ (∀ (s : State) (h : Hdr) (handle : Nat) (d : Nat) (x : Session), Takes s h .admin (querySessionSpec h handle) → findHandle s handle = some d → amGet (touch (touched s h .admin d) d false).sessions d = some x → (hostWrite (touch (touched s h .admin d) d false) h.fn h.addr (descBytes (touch (touched s h .admin d) d false) d x)).2 = none →
      ∃ t, exec (.querySession h handle) s = .next t ∧ OpAt s t h .admin (.ready rOk) ∧ Otherwise s h ((hostWrite (touch (touched s h .admin d) d false) h.fn h.addr (descBytes (touch (touched s h .admin d) d false) d x)).1) t)
    ∧ (∀ (s : State) (h : Hdr) (x : Conn), Takes s h .admin (queryConnectionSpec h) → getConn s h.target = some x → (hostWrite (begun s h .admin) h.fn h.addr (contextBytes x (if x.failed then 2 else 1))).2 = none →
      ∃ t, exec (.queryConnection h) s = .next t ∧ OpAt s t h .admin (.ready rOk) ∧ Otherwise s h ((hostWrite (begun s h .admin) h.fn h.addr (contextBytes x (if x.failed then 2 else 1))).1) t)
    ∧ (∀ (s : State) (h : Hdr) (ix : Index), Takes s h .search (queryIndexSpec h) → indexAt s h.target = some ix → (hostWrite (begun s h .search) h.fn h.addr (ix.shards.flatMap (fun e => shardRecord e.1 ix e.2))).2 = none →
      ∃ t, exec (.queryIndex h) s = .next t ∧ OpAt s t h .search (.ready rOk) ∧ Otherwise s h ((hostWrite (begun s h .search) h.fn h.addr (ix.shards.flatMap (fun e => shardRecord e.1 ix e.2))).1) t)

/-- CREATE_STEP_RING, once taken with no refusal, makes ring pair TARGET of its function live and empty, with the bases, depth and vector given, and finishes OK. DELETE_STEP_RING, once taken, drops the announced entries of ring pair TARGET and waits under its tag for the last receipt of that ring; where nothing is owed it finishes at once. -/
def Obligations.StepRingCommandsMakeAndUnmakeRings : Prop :=
  (∀ (s : State) (h : Hdr) (sqBase rqBase depth vector : Nat), Takes s h .admin (createStepRingSpec h sqBase rqBase depth vector) →
      ∃ t, exec (.createStepRing h sqBase rqBase depth vector) s = .next t ∧ OpAt s t h .admin (.ready rOk) ∧ Otherwise s h (modFn (begun s h .admin) h.fn (fun f => { f with steps := amSet f.steps h.target { live := true, base := sqBase, rqBase := rqBase, depth := depth, vector := vector, port := (getFn (begun s h .admin) h.fn).admin.port } })) t)
    ∧ (∀ (s : State) (h : Hdr), Takes s h .admin (deleteStepRingSpec h) →
      exec (.deleteStepRing h) s = .next (settleRing (settleDeletion (park (modRing (begun s h .admin) h.fn (.step h.target) (fun r => { r with deleting := true, slots := [] })) h (freeTag s) (.ringReceipts h.fn h.target)) h.fn h.target) h.fn .admin))

/-- Once taken with no refusal: CREATE_ACCOUNT adds account TARGET in the partition given, with no quota; DELETE_ACCOUNT removes it; SET_QUOTA sets its quota at the tier, advances that tier's quota version and tells the queues that wait on quota; SET_CEILING sets the partition's ceiling at the tier (2^64 - 1 meaning none) and advances its version; each finishes OK. RELEASE_PARTITION starts to close every session of the partition that is not closing, ends its consent, forgets its consent key, and waits until the partition is free. -/
def Obligations.AccountCommandsTakeEffect : Prop :=
  (∀ (s : State) (h : Hdr) (partition : Nat), Takes s h .admin (createAccountSpec h partition) →
      ∃ t, exec (.createAccount h partition) s = .next t ∧ OpAt s t h .admin (.ready rOk) ∧ Otherwise s h { (begun s h .admin) with accounts := amSet s.accounts h.target { partition := partition } } t)
    ∧ (∀ (s : State) (h : Hdr), Takes s h .admin (deleteAccountSpec h) →
      ∃ t, exec (.deleteAccount h) s = .next t ∧ OpAt s t h .admin (.ready rOk) ∧ Otherwise s h (removeAccount (begun s h .admin) h.target) t)
    ∧ (∀ (s : State) (h : Hdr) (tier bytes : Nat), Takes s h .admin (setQuotaSpec h tier bytes) →
      ∃ t, exec (.setQuota h tier bytes) s = .next t ∧ OpAt s t h .admin (.ready rOk) ∧ Otherwise s h (noteQuotas (modAccount (begun s h .admin) h.target (fun x => { x with quota := amSet x.quota tier bytes, quotaVer := amSet x.quotaVer tier (amGetD x.quotaVer tier 0 + 1) })) h.target) t)
    ∧ (∀ (s : State) (h : Hdr) (tier bytes : Nat), Takes s h .admin (setCeilingSpec h tier bytes) →
      ∃ t, exec (.setCeiling h tier bytes) s = .next t ∧ OpAt s t h .admin (.ready rOk) ∧ Otherwise s h { (begun s h .admin) with ceilings := amSet s.ceilings (h.target * 8 + tier) { bytes := if bytes = 2 ^ 64 - 1 then none else some bytes, ver := (match amGet s.ceilings (h.target * 8 + tier) with | some c => c.ver | none => 0) + 1 } } t)
    ∧ (∀ (s : State) (h : Hdr), Takes s h .admin (releasePartitionSpec h) →
      exec (.releasePartition h) s = .next (settleRing (settlePartition (modSec (endConsent (((s.sessions.filter (fun e => e.2.partition == h.target && e.2.state != .closing)).map (·.1)).foldl beginClose (park (begun s h .admin) h (freeTag s) (.partitionFreed h.target))) h.target) (fun c => { c with consentKeys := amErase c.consentKeys h.target, consentSeq := amErase c.consentSeq h.target })) h.target) h.fn .admin))

/-- PUBLISH_CONFIG, once taken with no refusal, where its body has the plaintext q, stores q as the next version of its number and finishes OK with that version. RETIRE_CONFIG marks the version retired, frees what nothing pins any more, and finishes OK. -/
def Obligations.ConfigCommandsTakeEffect : Prop :=
  (∀ (s : State) (h : Hdr) (kind base account : Nat) (body : HostRead) (sv : SealVerdict) (q : List Byte), Takes s h .admin (publishConfigSpec h kind base account body sv) → (cfgPlain (begun s h .admin) kind account (bodyBytes body) sv).1 = some q →
      ∃ t, exec (.publishConfig h kind base account body sv) s = .next t ∧ OpAt s t h .admin (.ready (rOk (storeVersion (begun s h .admin) kind h.target account q).2)) ∧ Otherwise s h ((storeVersion (begun s h .admin) kind h.target account q).1) t)
    ∧ (∀ (s : State) (h : Hdr) (kind version : Nat), Takes s h .admin (retireConfigSpec h kind version) →
      ∃ t, exec (.retireConfig h kind version) s = .next t ∧ OpAt s t h .admin (.ready rOk) ∧ Otherwise s h (freeConfigs { (begun s h .admin) with configs := amMod s.configs (cfgKey kind h.target) (fun c => { c with vers := amMod c.vers version (fun v => { v with retired := true }) }) }) t)

/-- Once taken with no refusal: LOAD_BUNDLE puts an unsealed bundle in a run of HBM frames, or an unsealed index in its shards, under a new object number and finishes OK with that number; DROP_BUNDLE removes the bundle and frees its frames; PLACE_OBJECT, where the class asks no move, gives the object its class, where it asks one to HBM starts the flood, and where it asks one below HBM lowers it; REGISTER_AS adds a key under a new number and finishes OK with it; DEREGISTER_AS removes the key. -/
def Obligations.ObjectAndKeyCommandsTakeEffect : Prop :=
  (∀ (s : State) (h : Hdr) (bundleKind cls : Nat) (body : HostRead) (sv : SealVerdict) (shards : List ShardImg) (c : Ref) (p : List Byte) (q : Nat × Nat), Takes s h .admin (loadBundleSpec h bundleKind cls body sv shards) → bundleKind = 0 → resolveRef s 3 { num := cls, ver := 0xFFFF } = some c → (openSealed s (bodyBytes body) h.target 0 sv).1 = some p → bundleRun s p.length = some q →
      ∃ t, exec (.loadBundle h bundleKind cls body sv shards) s = .next t ∧ OpAt s t h .admin (.ready (rOk (newObject (takeRun (begun s h .admin) q.1 q.2 (framesOf p.length) (some h.target))).1)) ∧ Otherwise s h (checkPressure (noteQuotas { (newObject (takeRun (begun s h .admin) q.1 q.2 (framesOf p.length) (some h.target))).2 with bundles := amSet (newObject (takeRun (begun s h .admin) q.1 q.2 (framesOf p.length) (some h.target))).2.bundles (newObject (takeRun (begun s h .admin) q.1 q.2 (framesOf p.length) (some h.target))).1 { account := h.target, classRef := c, body := p, tier := 0, run := some (runKey q.1 q.2), lastLive := s.postmark } } h.target)) t)
    ∧ (∀ (s : State) (h : Hdr) (bundleKind cls : Nat) (body : HostRead) (sv : SealVerdict) (shards : List ShardImg) (c : Ref) (p : List Byte) (q : State × Index), Takes s h .admin (loadBundleSpec h bundleKind cls body sv shards) → bundleKind = 1 → resolveRef s 3 { num := cls, ver := 0xFFFF } = some c → (openSealed s (bodyBytes body) h.target 1 sv).1 = some p → buildIndex (begun s h .admin) h.target c p (slice p 128 (codebookBytes p)) (shardOfImg shards) = .ok q →
      ∃ t, exec (.loadBundle h bundleKind cls body sv shards) s = .next t ∧ OpAt s t h .admin (.ready (rOk (newObject q.1).1)) ∧ Otherwise s h (checkPressure (noteQuotas { (newObject q.1).2 with indexes := amSet (newObject q.1).2.indexes (newObject q.1).1 (withNorms q.2) } h.target)) t)
    ∧ (∀ (s : State) (h : Hdr) (b : Bundle), Takes s h .admin (dropBundleSpec h) → amGet s.bundles h.target = some b →
      ∃ t, exec (.dropBundle h) s = .next t ∧ OpAt s t h .admin (.ready rOk) ∧ Otherwise s h (noteQuotas (dropBundleRun { (begun s h .admin) with bundles := amErase s.bundles h.target } b) b.account) t)
    ∧ (∀ (s : State) (h : Hdr) (cls : Nat) (v : ObjView) (c : Ref), Takes s h .admin (placeObjectSpec h cls) → objView s h.target = some v → resolveRef s 3 { num := cls, ver := 0xFFFF } = some c → (objMove s v (cfgBody s 3 c)).1 = none →
      ∃ t, exec (.placeObject h cls) s = .next t ∧ OpAt s t h .admin (.ready rOk) ∧ Otherwise s h (noteQuotas (reclassed (begun s h .admin) h.target v c) v.account) t)
    ∧ (∀ (s : State) (h : Hdr) (cls : Nat) (v : ObjView) (c : Ref) (b : Bundle), Takes s h .admin (placeObjectSpec h cls) → objView s h.target = some v → resolveRef s 3 { num := cls, ver := 0xFFFF } = some c → (objMove s v (cfgBody s 3 c)).1 = some 0 → amGet (reclassed (begun s h .admin) h.target v c).bundles h.target = some b →
      exec (.placeObject h cls) s = .next (settleRing (raiseBundle (park (reclassed (begun s h .admin) h.target v c) h (freeTag s) (.objReplaced h.target)) h.target (clFloodLc (cfgBody s 3 c))) h.fn .admin))
    ∧ (∀ (s : State) (h : Hdr) (cls : Nat) (v : ObjView) (c : Ref) (n : Nat) (b : Bundle), Takes s h .admin (placeObjectSpec h cls) → objView s h.target = some v → resolveRef s 3 { num := cls, ver := 0xFFFF } = some c → (objMove s v (cfgBody s 3 c)).1 = some (n + 1) → amGet (reclassed (begun s h .admin) h.target v c).bundles h.target = some b →
      ∃ t, exec (.placeObject h cls) s = .next t ∧ OpAt s t h .admin (.ready rOk) ∧ Otherwise s h (lowerBundle (reclassed (begun s h .admin) h.target v c) h.target b (n + 1) (cfgBody s 3 c)) t)
    ∧ (∀ (s : State) (h : Hdr) (cls : Nat) (v : ObjView) (c : Ref) (ix : Index) (u : State), Takes s h .admin (placeObjectSpec h cls) → objView s h.target = some v → resolveRef s 3 { num := cls, ver := 0xFFFF } = some c → (objMove s v (cfgBody s 3 c)).1 = some 0 → amGet (reclassed (begun s h .admin) h.target v c).bundles h.target = none → amGet (reclassed (begun s h .admin) h.target v c).indexes h.target = some ix → raiseVectors (reclassed (begun s h .admin) h.target v c) h.target ix = some u →
      ∃ t, exec (.placeObject h cls) s = .next t ∧ OpAt s t h .admin (.ready rOk) ∧ Otherwise s h (checkPressure (noteQuotas u v.account)) t)
    ∧ (∀ (s : State) (h : Hdr) (cls : Nat) (v : ObjView) (c : Ref) (n : Nat) (ix : Index), Takes s h .admin (placeObjectSpec h cls) → objView s h.target = some v → resolveRef s 3 { num := cls, ver := 0xFFFF } = some c → (objMove s v (cfgBody s 3 c)).1 = some (n + 1) → amGet (reclassed (begun s h .admin) h.target v c).bundles h.target = none → amGet (reclassed (begun s h .admin) h.target v c).indexes h.target = some ix →
      ∃ t, exec (.placeObject h cls) s = .next t ∧ OpAt s t h .admin (.ready rOk) ∧ Otherwise s h (noteQuotas (lowerVectors (reclassed (begun s h .admin) h.target v c) h.target ix (n + 1) v.bytes (cfgBody s 3 c)) v.account) t)
    ∧ (∀ (s : State) (h : Hdr) (pasid account perms : Nat), Takes s h .admin (registerAsSpec h pasid account perms) →
      ∃ t, exec (.registerAs h pasid account perms) s = .next t ∧ OpAt s t h .admin (.ready (rOk (amNewKey s.asKeys 1 (2 ^ 32) (Config.newName s.fresh)))) ∧ Otherwise s h { (takeFresh (begun s h .admin)).2 with asKeys := amSet s.asKeys (amNewKey s.asKeys 1 (2 ^ 32) (Config.newName s.fresh)) { fn := h.fn, pasid := pasid, account := account, perms := perms } } t)
    ∧ (∀ (s : State) (h : Hdr), Takes s h .admin (deregisterAsSpec h) →
      ∃ t, exec (.deregisterAs h) s = .next t ∧ OpAt s t h .admin (.ready rOk) ∧ Otherwise s h { (begun s h .admin) with asKeys := amErase s.asKeys h.target } t)

/-- Once taken with no refusal: CREATE_INDEX, where the parameter block can be built at its class, adds the index built under a new object number and finishes OK with it; COMPACT_INDEX sets a compacting sweep on every shard and waits for the sweeps; DELETE_INDEX marks the index deleting and waits until no operation uses it; MAP_SHARDS sets the shard map to the non-zero entries, advances the map version and finishes OK with it. -/
def Obligations.IndexAdminCommandsTakeEffect : Prop :=
  (∀ (s : State) (h : Hdr) (cls : Nat) (params : HostRead) (c : Ref) (q : State × Index), Takes s h .admin (createIndexSpec h cls params) → resolveRef s 3 { num := cls, ver := 0xFFFF } = some c → buildIndex (begun s h .admin) h.target c (bodyBytes params) ((bodyBytes params).drop 128) (fun _ => { region := 0 }) = .ok q →
      ∃ t, exec (.createIndex h cls params) s = .next t ∧ OpAt s t h .admin (.ready (rOk (newObject q.1).1)) ∧ Otherwise s h (checkPressure (noteQuotas { (newObject q.1).2 with indexes := amSet (newObject q.1).2.indexes (newObject q.1).1 q.2 } h.target)) t)
    ∧ (∀ (s : State) (h : Hdr), Takes s h .admin (compactIndexSpec h) →
      ∃ t, exec (.compactIndex h) s = .next t ∧ OpAt s t h .admin (.waiting (.compacted h.target)) ∧ Otherwise s h (modIndex (begun s h .admin) h.target (fun ix => { ix with shards := amMap ix.shards (fun _ x => { x with sweep := some { tombs := tombstones x, compact := true } }) })) t)
    ∧ (∀ (s : State) (h : Hdr), Takes s h .admin (deleteIndexSpec h) →
      exec (.deleteIndex h) s = .next (settleRing (settleIndex (modIndex (park (begun s h .admin) h (freeTag s) (.indexIdle h.target)) h.target (fun ix => { ix with deleting := true })) h.target) h.fn .admin))
    ∧ (∀ (s : State) (h : Hdr) (body : HostRead) (ix : Index), Takes s h .search (mapShardsSpec h body) → indexAt s h.target = some ix →
      ∃ t, exec (.mapShards h body) s = .next t ∧ OpAt s t h .search (.ready (rOk (ix.mapVer + 1))) ∧ Otherwise s h (modIndex (begun s h .search) h.target (fun ix => { ix with map := ((List.range 256).filter (fun i => field (bodyBytes body) (8 * i) 8 != 0)).map (fun i => (i, field (bodyBytes body) (8 * i) 8)), mapVer := ix.mapVer + 1 })) t)

/-- Once taken from the search ring with no refusal, on an index that is there: SEARCH starts over the index's shards; INSERT waits as a change to its shard that carries the node's attributes with their check, its vector and its full-precision vector; DELETE_NODE waits as a change that names the slot and generation. Each is an operation under its tag, charged to the index's account. -/
def Obligations.SearchRingCommandsStart : Prop :=
  (∀ (s : State) (h : Hdr) (e : SearchEntry) (operand : HostRead) (ix : Index), Takes s h .search (searchSpec h e operand) → indexAt s h.target = some ix →
      exec (.search h e operand) s = .next (settleRing (takeSearch (begun s h .search) (freeTag s) h.target ix e (bodyBytes operand) (getFn (begun s h .search) h.fn).set3 h.be (.host h.fn) (ringOp (begun s h .search) h .search (.waiting .searchWork))) h.fn .search))
    ∧ (∀ (s : State) (h : Hdr) (shard gid : Nat) (body : HostRead) (ix : Index), Takes s h .search (insertSpec h shard gid body) → indexAt s h.target = some ix →
      exec (.insert h shard gid body) s = .next (settleRing (takeChange (begun s h .search) { tag := freeTag s, index := h.target, shard := shard, change := .insert gid (slice (bodyBytes body) 0 60 ++ leBytes 4 (crc32c (slice (bodyBytes body) 0 60))) (slice (bodyBytes body) 64 (if ixFormat ix.params = 3 then ixSubspaces ix.params else ixDim ix.params * vecElBytes (ixFormat ix.params))) ((bodyBytes body).drop (64 + (if ixFormat ix.params = 3 then ixSubspaces ix.params else ixDim ix.params * vecElBytes (ixFormat ix.params)))) } { ringOp (begun s h .search) h .search (.waiting .searchWork) with account := some ix.account, object := some h.target }) h.fn .search))
    ∧ (∀ (s : State) (h : Hdr) (shard slot gen : Nat), Takes s h .search (deleteNodeSpec h shard slot gen) →
      exec (.deleteNode h shard slot gen) s = .next (settleRing (takeChange (begun s h .search) { tag := freeTag s, index := h.target, shard := shard, change := .delete slot gen } { ringOp (begun s h .search) h .search (.waiting .searchWork) with account := some (indexAccount s h.target), object := some h.target }) h.fn .search))

/-- Once taken with no refusal, on a session of descriptor d: CREATE_SESSION places a NEW session at a free index and finishes OK with the index; CLOSE_SESSION starts to close and waits until the session is freed; SET_WAITING gives the hint, starts the wait of an ACTIVE session and reschedules that of an IDLE one; PARK_NOW waits for PARKED and starts the ebb of an IDLE session; FLOOD_NOW cancels an ebb, floods a PARKED session, joins a flood under way, and finishes at once where every page is in HBM. -/
def Obligations.SessionCommandsTakeEffect : Prop :=
  (∀ (s : State) (h : Hdr) (handle profile vocab constr cls : Nat) (d : Nat) (p c : Ref), Takes s h .admin (createSessionSpec h handle profile vocab constr cls) → newIndex (begun s h .admin) = some d → resolveRef s 0 (refOf profile) = some p → resolveRef s 3 { num := cls, ver := 0xFFFF } = some c →
      ∃ t, exec (.createSession h handle profile vocab constr cls) s = .next t ∧ OpAt s t h .admin (.ready (rOk d)) ∧ Otherwise s h (placeSession (takeFresh (begun s h .admin)).2 d (newSession (takeFresh (begun s h .admin)).2 handle p (refOf vocab) (refOf constr) c (Config.hbmAddr s.fresh))) t)
    ∧ (∀ (s : State) (h : Hdr) (handle : Nat) (d : Nat), Takes s h .admin (closeSessionSpec h handle) → findHandle s handle = some d →
      ∃ t, exec (.closeSession h handle) s = .next t ∧ OpAt s t h .admin (.waiting (.freed d)) ∧ Otherwise s h (beginClose (touched s h .admin d) d) t)
    ∧ (∀ (s : State) (h : Hdr) (handle expectedMs : Nat) (d : Nat) (x : Session), Takes s h .admin (setWaitingSpec h handle expectedMs) → findHandle s handle = some d → amGet (upd (touched s h .admin d) d (fun y => { y with waitHint := expectedMs != 0, expectedMs := expectedMs })).sessions d = some x → x.state = .active →
      ∃ t, exec (.setWaiting h handle expectedMs) s = .next t ∧ OpAt s t h .admin (.ready rOk) ∧ Otherwise s h (enterIdle (upd (touched s h .admin d) d (fun y => { y with waitHint := expectedMs != 0, expectedMs := expectedMs })) d) t)
    ∧ (∀ (s : State) (h : Hdr) (handle expectedMs : Nat) (d : Nat) (x : Session), Takes s h .admin (setWaitingSpec h handle expectedMs) → findHandle s handle = some d → amGet (upd (touched s h .admin d) d (fun y => { y with waitHint := expectedMs != 0, expectedMs := expectedMs })).sessions d = some x → x.state = .idle →
      ∃ t, exec (.setWaiting h handle expectedMs) s = .next t ∧ OpAt s t h .admin (.ready rOk) ∧ Otherwise s h (upd (upd (touched s h .admin d) d (fun y => { y with waitHint := expectedMs != 0, expectedMs := expectedMs })) d (fun x => schedule (upd (touched s h .admin d) d (fun y => { y with waitHint := expectedMs != 0, expectedMs := expectedMs })) x (predictedWait (upd (touched s h .admin d) d (fun y => { y with waitHint := expectedMs != 0, expectedMs := expectedMs })) x) x.waitStartPm)) t)
    ∧ (∀ (s : State) (h : Hdr) (handle : Nat) (d : Nat), Takes s h .admin (parkNowSpec h handle) → findHandle s handle = some d → sessTest (putOp (touched s h .admin d) (freeTag s) { ringOp (touched s h .admin d) h .admin (.waiting (.parked d)) with account := some (handleAccount handle) }) handle (fun x => x.state == .idle) = true →
      exec (.parkNow h handle) s = .next (settleRing (dueEbb (putOp (touched s h .admin d) (freeTag s) { ringOp (touched s h .admin d) h .admin (.waiting (.parked d)) with account := some (handleAccount handle) }) d) h.fn .admin))
    ∧ (∀ (s : State) (h : Hdr) (handle : Nat) (d : Nat), Takes s h .admin (parkNowSpec h handle) → findHandle s handle = some d → sessTest (putOp (touched s h .admin d) (freeTag s) { ringOp (touched s h .admin d) h .admin (.waiting (.parked d)) with account := some (handleAccount handle) }) handle (fun x => x.state == .idle) = false →
      ∃ t, exec (.parkNow h handle) s = .next t ∧ OpAt s t h .admin (.waiting (.parked d)) ∧ Otherwise s h ((touched s h .admin d)) t)
    ∧ (∀ (s : State) (h : Hdr) (handle : Nat) (d : Nat) (x : Session), Takes s h .admin (floodNowSpec h handle) → findHandle s handle = some d → amGet (touched s h .admin d).sessions d = some x → x.state = .ebbing →
      ∃ t, exec (.floodNow h handle) s = .next t ∧ OpAt s t h .admin (.ready rOk) ∧ Otherwise s h (upd (cancelEbb (touched s h .admin d) d) d (fun x => { x with state := .idle, ebbAtPm := 0, floodLc := !h.be })) t)
    ∧ (∀ (s : State) (h : Hdr) (handle : Nat) (d : Nat) (x : Session), Takes s h .admin (floodNowSpec h handle) → findHandle s handle = some d → amGet (touched s h .admin d).sessions d = some x → x.state = .parked →
      exec (.floodNow h handle) s = .next (settleRing (endFlood (startFlood (putOp (touched s h .admin d) (freeTag s) { ringOp (touched s h .admin d) h .admin (.waiting (.flooded d)) with account := some (handleAccount handle) }) d (!h.be) false).1 d) h.fn .admin))
    ∧ (∀ (s : State) (h : Hdr) (handle : Nat) (d : Nat) (x : Session), Takes s h .admin (floodNowSpec h handle) → findHandle s handle = some d → amGet (touched s h .admin d).sessions d = some x → x.state = .flooding →
      ∃ t, exec (.floodNow h handle) s = .next t ∧ OpAt s t h .admin (.waiting (.flooded d)) ∧ Otherwise s h ((upd (touched s h .admin d) d (fun x => { x with floodLc := x.floodLc || !h.be }))) t)
    ∧ (∀ (s : State) (h : Hdr) (handle : Nat) (d : Nat) (x : Session), Takes s h .admin (floodNowSpec h handle) → findHandle s handle = some d → amGet (touched s h .admin d).sessions d = some x → (x.state = .new ∨ x.state = .active ∨ x.state = .idle) → allHbm x = true →
      ∃ t, exec (.floodNow h handle) s = .next t ∧ OpAt s t h .admin (.ready rOk) ∧ Otherwise s h ((touched s h .admin d)) t)
    ∧ (∀ (s : State) (h : Hdr) (handle : Nat) (d : Nat) (x : Session), Takes s h .admin (floodNowSpec h handle) → findHandle s handle = some d → amGet (touched s h .admin d).sessions d = some x → (x.state = .new ∨ x.state = .active ∨ x.state = .idle) → allHbm x = false →
      ∃ t, exec (.floodNow h handle) s = .next t ∧ OpAt s t h .admin (.waiting (.flooded d)) ∧ Otherwise s h ((touched s h .admin d)) t)

/-- Once taken with no refusal, on a session of descriptor d: SET_SESSION_CLASS gives the class; where no copy strays it finishes OK, where the class prefers HBM it floods, and otherwise it moves each stray copy to the tier found, waiting under its tag. MIGRATE_SESSION, with a connection to the target, makes the session MIGRATING and sends the offer. RESTORE_SESSION waits for the restore, which it asks the buddy for unless one runs. -/
def Obligations.SessionClassMoveAndRestore : Prop :=
  (∀ (s : State) (h : Hdr) (handle cls : Nat) (d : Nat) (c : Ref) (x : Session), Takes s h .admin (setSessionClassSpec h handle cls) → findHandle s handle = some d → resolveRef s 3 { num := cls, ver := 0xFFFF } = some c → amGet (touched s h .admin d).sessions d = some x → (strayCopies x (cfgBody (touched s h .admin d) 3 c)).isEmpty = true →
      ∃ t, exec (.setSessionClass h handle cls) s = .next t ∧ OpAt s t h .admin (.ready rOk) ∧ Otherwise s h ((reclassedSession (touched s h .admin d) d x c)) t)
    ∧ (∀ (s : State) (h : Hdr) (handle cls : Nat) (d : Nat) (c : Ref) (x : Session), Takes s h .admin (setSessionClassSpec h handle cls) → findHandle s handle = some d → resolveRef s 3 { num := cls, ver := 0xFFFF } = some c → amGet (touched s h .admin d).sessions d = some x → (strayCopies x (cfgBody (touched s h .admin d) 3 c)).isEmpty = false → clTierPref (cfgBody (touched s h .admin d) 3 c) 0 = 0 →
      exec (.setSessionClass h handle cls) s = .next (settleRing ((startFlood (putOp (putOp (reclassedSession (touched s h .admin d) d x c) (freeTag s) { ringOp (reclassedSession (touched s h .admin d) d x c) h .admin (.waiting (.replaced d)) with account := some (handleAccount handle) }) (freeTag s) { ringOp (putOp (reclassedSession (touched s h .admin d) d x c) (freeTag s) { ringOp (reclassedSession (touched s h .admin d) d x c) h .admin (.waiting (.replaced d)) with account := some (handleAccount handle) }) h .admin (.waiting (.flooded d)) with account := some (handleAccount handle) }) d (!h.be) false).1) h.fn .admin))
    ∧ (∀ (s : State) (h : Hdr) (handle cls : Nat) (d n : Nat) (c : Ref) (x : Session), Takes s h .admin (setSessionClassSpec h handle cls) → findHandle s handle = some d → resolveRef s 3 { num := cls, ver := 0xFFFF } = some c → amGet (touched s h .admin d).sessions d = some x → (strayCopies x (cfgBody (touched s h .admin d) 3 c)).isEmpty = false → clTierPref (cfgBody (touched s h .admin d) 3 c) 0 ≠ 0 → (moveTier (touched s h .admin d) (handleAccount handle) (cfgBody (touched s h .admin d) 3 c) (strayBytes (touched s h .admin d) x (strayCopies x (cfgBody (touched s h .admin d) 3 c))) (straySizes (touched s h .admin d) x (strayCopies x (cfgBody (touched s h .admin d) 3 c)))).1 = some n →
      exec (.setSessionClass h handle cls) s = .next (settleRing ((strayCopies x (cfgBody (touched s h .admin d) 3 c)).foldl (fun s k => sendMove s d k) (upd (putOp (reclassedSession (touched s h .admin d) d x c) (freeTag s) { ringOp (reclassedSession (touched s h .admin d) d x c) h .admin (.waiting (.replaced d)) with account := some (handleAccount handle) }) d (fun y => { y with move := some { todo := (strayCopies x (cfgBody (touched s h .admin d) 3 c)), tier := n, reserve := strayBytes (putOp (reclassedSession (touched s h .admin d) d x c) (freeTag s) { ringOp (reclassedSession (touched s h .admin d) d x c) h .admin (.waiting (.replaced d)) with account := some (handleAccount handle) }) y (strayCopies x (cfgBody (touched s h .admin d) 3 c)) } }))) h.fn .admin))
    ∧ (∀ (s : State) (h : Hdr) (handle target : Nat) (d c : Nat) (x : Session), Takes s h .admin (migrateSessionSpec h handle target) → findHandle s handle = some d → connTo s target = some c → amGet (handingOver (putOp (begun s h .admin) (freeTag s) { ringOp (begun s h .admin) h .admin (.waiting (.handover d)) with account := some (handleAccount handle) }) d target c (freeTag s)).sessions d = some x →
      exec (.migrateSession h handle target) s = .next (settleRing (sendMigrate (handingOver (putOp (begun s h .admin) (freeTag s) { ringOp (begun s h .admin) h .admin (.waiting (.handover d)) with account := some (handleAccount handle) }) d target c (freeTag s)) d x c 1 0 { entry := some (migEntry x), stackCount := 12, pageLog2 := 8, fwMajor := Config.fwVersion / 2 ^ 24 % 256, configs := migConfigs (handingOver (putOp (begun s h .admin) (freeTag s) { ringOp (begun s h .admin) h .admin (.waiting (.handover d)) with account := some (handleAccount handle) }) d target c (freeTag s)) (migEntry x) }) h.fn .admin))
    ∧ (∀ (s : State) (h : Hdr) (handle : Nat) (d : Nat), Takes s h .admin (restoreSessionSpec h handle) → findHandle s handle = some d → restoring s d = true →
      ∃ t, exec (.restoreSession h handle) s = .next t ∧ OpAt s t h .admin (.waiting (.restored d)) ∧ Otherwise s h ((touched s h .admin d)) t)
    ∧ (∀ (s : State) (h : Hdr) (handle : Nat) (d : Nat), Takes s h .admin (restoreSessionSpec h handle) → findHandle s handle = some d → restoring s d = false →
      exec (.restoreSession h handle) s = .next (settleRing (askRestore (putOp (touched s h .admin d) (freeTag s) { ringOp (touched s h .admin d) h .admin (.waiting (.restored d)) with account := some (handleAccount handle) }) d ((amGet (putOp (touched s h .admin d) (freeTag s) { ringOp (touched s h .admin d) h .admin (.waiting (.restored d)) with account := some (handleAccount handle) }).sessions d).elim 2 (fun x => x.failCause))) h.fn .admin))

/-- Once taken with no refusal: ADD_EXTENT records the grant as waiting and tries it at once; RELEASE_EXTENT joins a release under way, starts one where the host holds the extent, and else finishes OK; HOST_LOST crashes the host and finishes OK; ACCEPT_LOSS clears the poison of the line, or of the whole extent, and finishes OK with the lines cleared. -/
def Obligations.WindowAdminCommandsTakeEffect : Prop :=
  (∀ (s : State) (h : Hdr) (extent host : Nat), Takes s h .admin (addExtentSpec h extent host) →
      exec (.addExtent h extent host) s = .next (settleRing (retryGrant (modWin (park (begun s h .admin) h (freeTag s) (.extentGrant h.target extent host)) (fun w => { w with grants := amSet w.grants (extKey h.target extent * 32 + host) { region := h.target, extent := extent, host := host, framesHeld := false, since := s.postmark } })) { region := h.target, extent := extent, host := host, framesHeld := false, since := s.postmark }) h.fn .admin))
    ∧ (∀ (s : State) (h : Hdr) (extent host : Nat), Takes s h .admin (releaseExtentSpec h extent host) → releaseRuns s h.target extent host = true →
      ∃ t, exec (.releaseExtent h extent host) s = .next t ∧ OpAt s t h .admin (.waiting (.extentRecall h.target extent host)) ∧ Otherwise s h (modWin (begun s h .admin) (fun w => { w with releases := w.releases.map (fun r => if r.region = h.target ∧ r.extent = extent ∧ r.host = host then { r with tags := r.tags ++ [freeTag s] } else r) })) t)
    ∧ (∀ (s : State) (h : Hdr) (extent host : Nat), Takes s h .admin (releaseExtentSpec h extent host) → releaseRuns s h.target extent host = false → (getExt s (extKey h.target extent)).hosts.contains host = true →
      exec (.releaseExtent h extent host) s = .next (settleRing (startRelease (park (begun s h .admin) h (freeTag s) (.extentRecall h.target extent host)) h.target extent host false [freeTag s]) h.fn .admin))
    ∧ (∀ (s : State) (h : Hdr) (extent host : Nat), Takes s h .admin (releaseExtentSpec h extent host) → releaseRuns s h.target extent host = false → (getExt s (extKey h.target extent)).hosts.contains host = false →
      ∃ t, exec (.releaseExtent h extent host) s = .next t ∧ OpAt s t h .admin (.ready rOk) ∧ Otherwise s h (begun s h .admin) t)
    ∧ (∀ (s : State) (h : Hdr) (host : Nat), Takes s h .admin (hostLostSpec h host) →
      ∃ t, exec (.hostLost h host) s = .next t ∧ OpAt s t h .admin (.ready rOk) ∧ Otherwise s h (crashHost (begun s h .admin) host 1) t)
    ∧ (∀ (s : State) (h : Hdr) (extent offset : Nat), Takes s h .admin (acceptLossSpec h extent offset) →
      ∃ t, exec (.acceptLoss h extent offset) s = .next t ∧ OpAt s t h .admin (.ready (rOk ((s.win.poison.filter (fun p => lineExt p.1 == extKey h.target extent && (offset == 2 ^ 64 - 1 || p.1 == extKey h.target extent * 2 ^ 22 + offset / 64))).map (·.1)).length)) ∧ Otherwise s h (((s.win.poison.filter (fun p => lineExt p.1 == extKey h.target extent && (offset == 2 ^ 64 - 1 || p.1 == extKey h.target extent * 2 ^ 22 + offset / 64))).map (·.1)).foldl clearPoison (begun s h .admin)) t)

/-- Once taken with no refusal: SET_CHART sets the epoch, the device table and the redirects, posts an event for each device declared lost and loses what its pool held; OPEN_CONNECTION opens the connection at a free number with the addresses, options and timers given, takes a cache entry where it is resident, resends owed commits where PF_0 opens it, and finishes OK with the number; CLOSE_CONNECTION closes it. -/
def Obligations.TidewayAdminCommandsTakeEffect : Prop :=
  (∀ (s : State) (h : Hdr) (epoch : Nat) (body : HostRead), Takes s h .admin (setChartSpec h epoch body) →
      ∃ t, exec (.setChart h epoch body) s = .next t ∧ OpAt s t h .admin (.ready rOk) ∧ Otherwise s h ((chartLost (begun s h .admin) (bodyBytes body)).foldl (fun s e => poolLost s e.1) ((chartLost (begun s h .admin) (bodyBytes body)).foldl (fun s e => match e.2 with | some id => postPf s 0x0407 0 id | none => s) (modTw { (begun s h .admin) with chartEpoch := epoch, redirects := (chartAfter (begun s h .admin) (bodyBytes body)).2 } (fun w => { w with devices := (chartAfter (begun s h .admin) (bodyBytes body)).1 })))) t)
    ∧ (∀ (s : State) (h : Hdr) (peerIp peerMac peerUdp peerConn peerDevice port mtu flags dscp : Nat) (c : Nat), Takes s h .admin (openConnectionSpec h peerIp peerMac peerUdp peerConn peerDevice port mtu flags dscp) → newConn (begun s h .admin) port (bit flags 3) = some c →
      ∃ t, exec (.openConnection h peerIp peerMac peerUdp peerConn peerDevice port mtu flags dscp) s = .next t ∧ OpAt s t h .admin (.ready (rOk c)) ∧ Otherwise s h (if h.fn = 0 then resendCommits (if bit flags 3 then (cacheTake (modTw (begun s h .admin) (fun t => { t with conns := amSet t.conns c { peerIp := peerIp, peerDevice := peerDevice, peerMac := peerMac, peerUdp := peerUdp, peerConn := peerConn, rate := portRate (begun s h .admin) port, rto := rtoInit (begun s h .admin), fn := h.fn, port := port, mtu8k := mtu == 1, resident := bit flags 3, spray := flags % 8, dscp := dscp, aiSince := s.postmark } })) c false).getD (modTw (begun s h .admin) (fun t => { t with conns := amSet t.conns c { peerIp := peerIp, peerDevice := peerDevice, peerMac := peerMac, peerUdp := peerUdp, peerConn := peerConn, rate := portRate (begun s h .admin) port, rto := rtoInit (begun s h .admin), fn := h.fn, port := port, mtu8k := mtu == 1, resident := bit flags 3, spray := flags % 8, dscp := dscp, aiSince := s.postmark } })) else (modTw (begun s h .admin) (fun t => { t with conns := amSet t.conns c { peerIp := peerIp, peerDevice := peerDevice, peerMac := peerMac, peerUdp := peerUdp, peerConn := peerConn, rate := portRate (begun s h .admin) port, rto := rtoInit (begun s h .admin), fn := h.fn, port := port, mtu8k := mtu == 1, resident := bit flags 3, spray := flags % 8, dscp := dscp, aiSince := s.postmark } }))) c peerDevice else (if bit flags 3 then (cacheTake (modTw (begun s h .admin) (fun t => { t with conns := amSet t.conns c { peerIp := peerIp, peerDevice := peerDevice, peerMac := peerMac, peerUdp := peerUdp, peerConn := peerConn, rate := portRate (begun s h .admin) port, rto := rtoInit (begun s h .admin), fn := h.fn, port := port, mtu8k := mtu == 1, resident := bit flags 3, spray := flags % 8, dscp := dscp, aiSince := s.postmark } })) c false).getD (modTw (begun s h .admin) (fun t => { t with conns := amSet t.conns c { peerIp := peerIp, peerDevice := peerDevice, peerMac := peerMac, peerUdp := peerUdp, peerConn := peerConn, rate := portRate (begun s h .admin) port, rto := rtoInit (begun s h .admin), fn := h.fn, port := port, mtu8k := mtu == 1, resident := bit flags 3, spray := flags % 8, dscp := dscp, aiSince := s.postmark } })) else (modTw (begun s h .admin) (fun t => { t with conns := amSet t.conns c { peerIp := peerIp, peerDevice := peerDevice, peerMac := peerMac, peerUdp := peerUdp, peerConn := peerConn, rate := portRate (begun s h .admin) port, rto := rtoInit (begun s h .admin), fn := h.fn, port := port, mtu8k := mtu == 1, resident := bit flags 3, spray := flags % 8, dscp := dscp, aiSince := s.postmark } })))) t)
    ∧ (∀ (s : State) (h : Hdr), Takes s h .admin (closeConnectionSpec h) →
      ∃ t, exec (.closeConnection h) s = .next t ∧ OpAt s t h .admin (.ready rOk) ∧ Otherwise s h (closeConn (begun s h .admin) h.target) t)

/-- Once taken with no refusal: SET_ROLE enters the role at once, or starts a drain and waits; PAIR_BIND finishes OK with 3 on a bound device, and else becomes BINDING, tells the buddy and tries to bind; SET_CHECKPOINT sets the timer and the step trigger; PAIR_UNBIND tears the epoch, releases everything and becomes unbound; RESTORE_DEVICE asks the holder for the image and waits; SUCCESSION records the successor; RELEASE_FROZEN frees the frozen harbour and its mirrors. -/
def Obligations.RoleAndPairCommandsTakeEffect : Prop :=
  (∀ (s : State) (h : Hdr) (role profile : Nat) (r : Ref), Takes s h .admin (setRoleSpec h role profile) → resolveRef s 4 (refOf profile) = some r → roleHolds s role = true →
      ∃ t, exec (.setRole h role profile) s = .next t ∧ OpAt s t h .admin (.waiting .roleDrain) ∧ Otherwise s h { modPair (begun s h .admin) (fun p => { p with drain := some { tag := freeTag s, role := role, profile := r, until_ := (s.postmark + field (cfgBody s 4 r) 0 4 * 1000000) } }) with roleNext := some role } t)
    ∧ (∀ (s : State) (h : Hdr) (role profile : Nat) (r : Ref), Takes s h .admin (setRoleSpec h role profile) → resolveRef s 4 (refOf profile) = some r → roleHolds s role = false →
      ∃ t, exec (.setRole h role profile) s = .next t ∧ OpAt s t h .admin (.ready (rOk 1)) ∧ Otherwise s h (enterRole (begun s h .admin) role r) t)
    ∧ (∀ (s : State) (h : Hdr) (buddy reservePct : Nat), Takes s h .admin (pairBindSpec h buddy reservePct) → bound s = true →
      ∃ t, exec (.pairBind h buddy reservePct) s = .next t ∧ OpAt s t h .admin (.ready (rOk 3)) ∧ Otherwise s h (begun s h .admin) t)
    ∧ (∀ (s : State) (h : Hdr) (buddy reservePct : Nat), Takes s h .admin (pairBindSpec h buddy reservePct) → bound s = false →
      exec (.pairBind h buddy reservePct) s = .next (settleRing (tryBind (isthmus (park (modPair (begun s h .admin) (fun p => { p with status := 1, buddy := buddy, reservePct := reservePct, parkPctBound := p.parkPct, bindSince := s.postmark, noFrames := p.announced.isSome && p.noFrames })) h (freeTag s) .buddyBind) (.bind reservePct (park (modPair (begun s h .admin) (fun p => { p with status := 1, buddy := buddy, reservePct := reservePct, parkPctBound := p.parkPct, bindSince := s.postmark, noFrames := p.announced.isSome && p.noFrames })) h (freeTag s) .buddyBind).pair.parkPct))) h.fn .admin))
    ∧ (∀ (s : State) (h : Hdr) (timerMs steps : Nat), Takes s h .admin (setCheckpointSpec h timerMs steps) →
      ∃ t, exec (.setCheckpoint h timerMs steps) s = .next t ∧ OpAt s t h .admin (.ready rOk) ∧ Otherwise s h (modPair (begun s h .admin) (fun p => { p with timerMs := timerMs, stepsTrigger := steps })) t)
    ∧ (∀ (s : State) (h : Hdr), Takes s h .admin (pairUnbindSpec h) →
      ∃ t, exec (.pairUnbind h) s = .next t ∧ OpAt s t h .admin (.ready rOk) ∧ Otherwise s h (resolveWait { modPair (isthmus (tearEpoch (begun s h .admin)) (.release .everything)) (fun p => { p with status := 0, reserve := 0, lastEpoch := 0, nextEpoch := 1, lastStart := none, entries := [], store := [], fulls := [], chains := [] }) with copies := amMap (modPair (isthmus (tearEpoch (begun s h .admin)) (.release .everything)) (fun p => { p with status := 0, reserve := 0, lastEpoch := 0, nextEpoch := 1, lastStart := none, entries := [], store := [], fulls := [], chains := [] })).copies (fun _ c => { c with mirrored := false }) } .buddyBind (rOk 0)) t)
    ∧ (∀ (s : State) (h : Hdr) (source holder : Nat), Takes s h .admin (restoreDeviceSpec h source holder) →
      exec (.restoreDevice h source holder) s = .next (settleRing (emit (.holderRead holder (amLowestFree s.pair.reads 1) (.image source)) (modPair (park (begun s h .admin) h (freeTag s) .restoreLc) (fun p => { p with restore := some { tag := freeTag s, source := source, holder := holder }, reads := amSet p.reads (amLowestFree s.pair.reads 1) .device }))) h.fn .admin))
    ∧ (∀ (s : State) (h : Hdr) (failed successor : Nat), Takes s h .admin (successionSpec h failed successor) →
      ∃ t, exec (.succession h failed successor) s = .next t ∧ OpAt s t h .admin (.ready rOk) ∧ Otherwise s h (modPair (begun s h .admin) (fun p => { p with successions := (failed, successor) :: p.successions.filter (fun e => e.1 != failed) })) t)
    ∧ (∀ (s : State) (h : Hdr) (source : Nat), Takes s h .admin (releaseFrozenSpec h source) →
      ∃ t, exec (.releaseFrozen h source) s = .next t ∧ OpAt s t h .admin (.ready rOk) ∧ Otherwise s h (modPair (dropMirrors (match amGet s.pair.frozen source with | some q => freeHarbour (begun s h .admin) q | none => (begun s h .admin)) (fun k => k.device == source)) (fun p => { p with frozen := amErase p.frozen source })) t)

/-- Once taken with no refusal: SET_CONSENT installs the token's scope and expiry and its sequence number and tells the functions; WITHDRAW_CONSENT ends the consent; SET_CONSENT_KEY ends it and installs the key; SET_DEVICE_SET installs the set and answers with its digest; FW_DOWNLOAD writes the image into the spare slot; FW_ACTIVATE makes the slot the trial; FW_COMMIT commits the running trial. -/
def Obligations.SecurityAdminCommandsTakeEffect : Prop :=
  (∀ (s : State) (h : Hdr) (token : HostRead) (signed : Bool), Takes s h .admin (setConsentSpec h token signed) →
      ∃ t, exec (.setConsent h token signed) s = .next t ∧ OpAt s t h .admin (.ready rOk) ∧ Otherwise s h (noteConsent (if field (bodyBytes token) 9 1 % 2 = 0 then clearTrace (modSec (begun s h .admin) (fun x => { x with consents := amSet x.consents h.target { scope := field (bodyBytes token) 9 1, until_ := s.postmark + field (bodyBytes token) 12 4 * 1000000000 }, consentSeq := amSet x.consentSeq h.target (field (bodyBytes token) 16 8) })) h.target else (modSec (begun s h .admin) (fun x => { x with consents := amSet x.consents h.target { scope := field (bodyBytes token) 9 1, until_ := s.postmark + field (bodyBytes token) 12 4 * 1000000000 }, consentSeq := amSet x.consentSeq h.target (field (bodyBytes token) 16 8) }))) h.target) t)
    ∧ (∀ (s : State) (h : Hdr), Takes s h .admin (withdrawConsentSpec h) →
      ∃ t, exec (.withdrawConsent h) s = .next t ∧ OpAt s t h .admin (.ready rOk) ∧ Otherwise s h (endConsent (begun s h .admin) h.target) t)
    ∧ (∀ (s : State) (h : Hdr) (key : HostRead) (proved : Bool), Takes s h .admin (setConsentKeySpec h key proved) →
      ∃ t, exec (.setConsentKey h key proved) s = .next t ∧ OpAt s t h .admin (.ready rOk) ∧ Otherwise s h (modSec (endConsent (begun s h .admin) h.target) (fun c => { c with consentKeys := amSet c.consentKeys h.target ((bodyBytes key).take 96) })) t)
    ∧ (∀ (s : State) (h : Hdr) (body : HostRead), Takes s h .admin (setDeviceSetSpec h body) →
      ∃ t, exec (.setDeviceSet h body) s = .next t ∧ OpAt s t h .admin (.ready (rOk (field (setDigest (setEntries (bodyBytes body))) 0 8))) ∧ Otherwise s h (modSec (begun s h .admin) (fun c => { c with deviceSet := (setEntries (bodyBytes body)) })) t)
    ∧ (∀ (s : State) (h : Hdr) (offset : Nat) (body : HostRead), Takes s h .admin (fwDownloadSpec h offset body) →
      ∃ t, exec (.fwDownload h offset body) s = .next t ∧ OpAt s t h .admin (.ready rOk) ∧ Otherwise s h (storeImage (begun s h .admin) (spareSlot s) offset (bodyBytes body)) t)
    ∧ (∀ (s : State) (h : Hdr) (slot : Nat) (found : SlotFound), Takes s h .admin (fwActivateSpec h slot found) →
      ∃ t, exec (.fwActivate h slot found) s = .next t ∧ OpAt s t h .admin (.ready rOk) ∧ Otherwise s h (activateSlot (begun s h .admin) slot) t)
    ∧ (∀ (s : State) (h : Hdr), Takes s h .admin (fwCommitSpec h) →
      ∃ t, exec (.fwCommit h) s = .next t ∧ OpAt s t h .admin (.ready rOk) ∧ Otherwise s h (commitTrial (begun s h .admin)) t)

/-- Once taken with no refusal: HM_ASSIGN gives the cores and the memory frames, waking their blocks, and finishes OK with the frames; HM_LOAD writes the bytes into harbourmaster memory at the offset; HM_START runs the cores named from the entry address and takes the digest of the memory; HM_STOP holds the cores named. -/
def Obligations.HarbourmasterCommandsTakeEffect : Prop :=
  (∀ (s : State) (h : Hdr) (mask memFrames : Nat), Takes s h .admin (hmAssignSpec h mask memFrames) → memFrames = s.hm.memFrames →
      ∃ t, exec (.hmAssign h mask memFrames) s = .next t ∧ OpAt s t h .admin (.ready (rOk memFrames)) ∧ Otherwise s h (([2, 3, 4, 5].filter (fun b => bits mask (4 * (b - 2) + 3) (4 * (b - 2)) != 0)).foldl (fun s b => requestWake s (96 + b) false 0) { (begun s h .admin) with hm := { (begun s h .admin).hm with assigned := mask } }) t)
    ∧ (∀ (s : State) (h : Hdr) (mask memFrames : Nat) (q : List Nat × State), Takes s h .admin (hmAssignSpec h mask memFrames) → memFrames ≠ s.hm.memFrames → hmTake (hmFree (begun s h .admin)) memFrames = some q →
      ∃ t, exec (.hmAssign h mask memFrames) s = .next t ∧ OpAt s t h .admin (.ready (rOk memFrames)) ∧ Otherwise s h (([2, 3, 4, 5].filter (fun b => bits mask (4 * (b - 2) + 3) (4 * (b - 2)) != 0)).foldl (fun s b => requestWake s (96 + b) false 0) { (checkPressure { q.2 with hm := { q.2.hm with memRuns := q.1, memFrames := memFrames } }) with hm := { (checkPressure { q.2 with hm := { q.2.hm with memRuns := q.1, memFrames := memFrames } }).hm with assigned := mask } }) t)
    ∧ (∀ (s : State) (h : Hdr) (offset : Nat) (body : HostRead), Takes s h .admin (hmLoadSpec h offset body) →
      ∃ t, exec (.hmLoad h offset body) s = .next t ∧ OpAt s t h .admin (.ready rOk) ∧ Otherwise s h { (begun s h .admin) with hm := { s.hm with mem := cellsWrite s.hm.mem offset ((bodyBytes body).take h.len) } } t)
    ∧ (∀ (s : State) (h : Hdr) (mask entry : Nat), Takes s h .admin (hmStartSpec h mask entry) →
      ∃ t, exec (.hmStart h mask entry) s = .next t ∧ OpAt s t h .admin (.ready rOk) ∧ Otherwise s h { (begun s h .admin) with hm := { s.hm with running := bitsOr s.hm.running mask, entry := (List.range 16).foldl (fun m i => if bit mask i then amSet m i entry else m) s.hm.entry, digest := some (sha384 (cellsRead s.hm.mem 0 (hmSize s))) } } t)
    ∧ (∀ (s : State) (h : Hdr) (mask : Nat), Takes s h .admin (hmStopSpec h mask) →
      ∃ t, exec (.hmStop h mask) s = .next t ∧ OpAt s t h .admin (.ready rOk) ∧ Otherwise s h (hmHold (begun s h .admin) mask) t)

/-- Once taken with no refusal, with a signed profile p: MEDIA_FORMAT formats the media found and finishes OK with the shingles it can form and what it leaves unused; MEDIA_ATTACH attaches the media found and finishes OK with the orphaned shingles; MEDIA_RECLAIM starts to erase every orphaned shingle and finishes OK with their count; SET_WALL_CLOCK keeps the offset of the wall clock from the postmark and finishes OK with the postmark. -/
def Obligations.MediaAdminCommandsTakeEffect : Prop :=
  (∀ (s : State) (h : Hdr) (lifeDays : Nat) (profile : ProfileRead) (found : List ChFound) (p : MediaProfile), Takes s h .admin (mediaFormatSpec h lifeDays profile found) → profile = .ok p →
      ∃ t, exec (.mediaFormat h lifeDays profile found) s = .next t ∧ OpAt s t h .admin (.ready (rOk (formable (formatMedia (begun s h .admin) lifeDays p found)) (unusedUnits (formatMedia (begun s h .admin) lifeDays p found) + unusedLuns p found (begun s h .admin)))) ∧ Otherwise s h ((formatMedia (begun s h .admin) lifeDays p found)) t)
    ∧ (∀ (s : State) (h : Hdr) (lifeDays : Nat) (profile : ProfileRead) (found : List ChFound) (p : MediaProfile), Takes s h .admin (mediaAttachSpec h lifeDays profile found) → profile = .ok p →
      ∃ t, exec (.mediaAttach h lifeDays profile found) s = .next t ∧ OpAt s t h .admin (.ready (rOk ((attachMedia (begun s h .admin) lifeDays p found).media.shingles.countP (fun e => e.2.st == .orphaned)))) ∧ Otherwise s h ((attachMedia (begun s h .admin) lifeDays p found)) t)
    ∧ (∀ (s : State) (h : Hdr), Takes s h .admin (mediaReclaimSpec h) →
      ∃ t, exec (.mediaReclaim h) s = .next t ∧ OpAt s t h .admin (.ready (rOk ((s.media.shingles.filter (fun e => e.2.st == .orphaned)).map (·.1)).length)) ∧ Otherwise s h (((s.media.shingles.filter (fun e => e.2.st == .orphaned)).map (·.1)).foldl beginErase (begun s h .admin)) t)
    ∧ (∀ (s : State) (h : Hdr) (wallNs : Nat), Takes s h .admin (setWallClockSpec h wallNs) →
      ∃ t, exec (.setWallClock h wallNs) s = .next t ∧ OpAt s t h .admin (.ready (rOk s.postmark)) ∧ Otherwise s h (modMedia (begun s h .admin) (fun m => { m with wallOffset := some ((wallNs : Int) - (s.postmark : Int)) })) t)

/-- Once taken from the text ring with no refusal: OPEN_STREAM opens a stream at the lowest free number of its function and finishes OK with it; TOKENIZE and DETOKENIZE, where nothing in the input fails and the output can be written, write what the input and the stream give, keep the rest in the stream, close it where FINAL is set and all is consumed, and finish OK with the outputs and the inputs consumed; CLOSE_STREAM drops the stream. -/
def Obligations.StreamCommandsTakeEffect : Prop :=
  (∀ (s : State) (h : Hdr) (direction flags vocab : Nat) (v : Ref), Takes s h .text (openStreamSpec h direction flags vocab) → resolveRef s 1 (refOf vocab) = some v →
      ∃ t, exec (.openStream h direction flags vocab) s = .next t ∧ OpAt s t h .text (.ready (rOk ((amLowestFree s.streams (streamKey h.fn 0)) % 4096))) ∧ Otherwise s h ((noteQuotas (fitPool { (begun s h .text) with streams := amSet s.streams (amLowestFree s.streams (streamKey h.fn 0)) { account := h.target, detok := direction == 1, flags := flags, vocab := v } } h.target) h.target)) t)
    ∧ (∀ (s : State) (h : Hdr) (outAddr outCap final : Nat) (input : HostRead) (st : Stream), Takes s h .text (tokenizeSpec h outAddr outCap final input) → streamAt s h = some st → (hostWrite (begun s h .text) h.fn outAddr ((tokOut (cfgBody s 1 st.vocab) st (final == 1) (bodyBytes input) outCap).toks.flatMap (leBytes 4))).2 = none → (tokOut (cfgBody s 1 st.vocab) st (final == 1) (bodyBytes input) outCap).fail = none →
      ∃ t, exec (.tokenize h outAddr outCap final input) s = .next t ∧ OpAt s t h .text (.ready (rOk (tokOut (cfgBody s 1 st.vocab) st (final == 1) (bodyBytes input) outCap).toks.length (tokOut (cfgBody s 1 st.vocab) st (final == 1) (bodyBytes input) outCap).used)) ∧ Otherwise s h (if (final == 1) && (tokOut (cfgBody s 1 st.vocab) st (final == 1) (bodyBytes input) outCap).all then dropStream (hostWrite (begun s h .text) h.fn outAddr ((tokOut (cfgBody s 1 st.vocab) st (final == 1) (bodyBytes input) outCap).toks.flatMap (leBytes 4))).1 (streamKey h.fn h.target) else { (hostWrite (begun s h .text) h.fn outAddr ((tokOut (cfgBody s 1 st.vocab) st (final == 1) (bodyBytes input) outCap).toks.flatMap (leBytes 4))).1 with streams := amSet (hostWrite (begun s h .text) h.fn outAddr ((tokOut (cfgBody s 1 st.vocab) st (final == 1) (bodyBytes input) outCap).toks.flatMap (leBytes 4))).1.streams (streamKey h.fn h.target) (tokOut (cfgBody s 1 st.vocab) st (final == 1) (bodyBytes input) outCap).stream }) t)
    ∧ (∀ (s : State) (h : Hdr) (outAddr outCap final : Nat) (input : HostRead) (st : Stream), Takes s h .text (detokenizeSpec h outAddr outCap final input) → streamAt s h = some st → ((hostWrite (begun s h .text) h.fn outAddr ((if final = 1 ∧ (detokRun (cfgBody s 1 st.vocab) (bit st.flags 1) outCap (idsOf (bodyBytes input)) { carry := st.raw, joined := st.count }).used = (idsOf (bodyBytes input)).length then detokEnd (cfgBody s 1 st.vocab) outCap (detokRun (cfgBody s 1 st.vocab) (bit st.flags 1) outCap (idsOf (bodyBytes input)) { carry := st.raw, joined := st.count }) else (detokRun (cfgBody s 1 st.vocab) (bit st.flags 1) outCap (idsOf (bodyBytes input)) { carry := st.raw, joined := st.count })).text)).2 = none) → ((if final = 1 ∧ (detokRun (cfgBody s 1 st.vocab) (bit st.flags 1) outCap (idsOf (bodyBytes input)) { carry := st.raw, joined := st.count }).used = (idsOf (bodyBytes input)).length then detokEnd (cfgBody s 1 st.vocab) outCap (detokRun (cfgBody s 1 st.vocab) (bit st.flags 1) outCap (idsOf (bodyBytes input)) { carry := st.raw, joined := st.count }) else (detokRun (cfgBody s 1 st.vocab) (bit st.flags 1) outCap (idsOf (bodyBytes input)) { carry := st.raw, joined := st.count })).fail = none) →
      ∃ t, exec (.detokenize h outAddr outCap final input) s = .next t ∧ OpAt s t h .text (.ready (rOk (if final = 1 ∧ (detokRun (cfgBody s 1 st.vocab) (bit st.flags 1) outCap (idsOf (bodyBytes input)) { carry := st.raw, joined := st.count }).used = (idsOf (bodyBytes input)).length then detokEnd (cfgBody s 1 st.vocab) outCap (detokRun (cfgBody s 1 st.vocab) (bit st.flags 1) outCap (idsOf (bodyBytes input)) { carry := st.raw, joined := st.count }) else (detokRun (cfgBody s 1 st.vocab) (bit st.flags 1) outCap (idsOf (bodyBytes input)) { carry := st.raw, joined := st.count })).text.length (if final = 1 ∧ (detokRun (cfgBody s 1 st.vocab) (bit st.flags 1) outCap (idsOf (bodyBytes input)) { carry := st.raw, joined := st.count }).used = (idsOf (bodyBytes input)).length then detokEnd (cfgBody s 1 st.vocab) outCap (detokRun (cfgBody s 1 st.vocab) (bit st.flags 1) outCap (idsOf (bodyBytes input)) { carry := st.raw, joined := st.count }) else (detokRun (cfgBody s 1 st.vocab) (bit st.flags 1) outCap (idsOf (bodyBytes input)) { carry := st.raw, joined := st.count })).used)) ∧ Otherwise s h (if final = 1 ∧ (if final = 1 ∧ (detokRun (cfgBody s 1 st.vocab) (bit st.flags 1) outCap (idsOf (bodyBytes input)) { carry := st.raw, joined := st.count }).used = (idsOf (bodyBytes input)).length then detokEnd (cfgBody s 1 st.vocab) outCap (detokRun (cfgBody s 1 st.vocab) (bit st.flags 1) outCap (idsOf (bodyBytes input)) { carry := st.raw, joined := st.count }) else (detokRun (cfgBody s 1 st.vocab) (bit st.flags 1) outCap (idsOf (bodyBytes input)) { carry := st.raw, joined := st.count })).used = (idsOf (bodyBytes input)).length ∧ (if final = 1 ∧ (detokRun (cfgBody s 1 st.vocab) (bit st.flags 1) outCap (idsOf (bodyBytes input)) { carry := st.raw, joined := st.count }).used = (idsOf (bodyBytes input)).length then detokEnd (cfgBody s 1 st.vocab) outCap (detokRun (cfgBody s 1 st.vocab) (bit st.flags 1) outCap (idsOf (bodyBytes input)) { carry := st.raw, joined := st.count }) else (detokRun (cfgBody s 1 st.vocab) (bit st.flags 1) outCap (idsOf (bodyBytes input)) { carry := st.raw, joined := st.count })).carry = [] then dropStream (hostWrite (begun s h .text) h.fn outAddr ((if final = 1 ∧ (detokRun (cfgBody s 1 st.vocab) (bit st.flags 1) outCap (idsOf (bodyBytes input)) { carry := st.raw, joined := st.count }).used = (idsOf (bodyBytes input)).length then detokEnd (cfgBody s 1 st.vocab) outCap (detokRun (cfgBody s 1 st.vocab) (bit st.flags 1) outCap (idsOf (bodyBytes input)) { carry := st.raw, joined := st.count }) else (detokRun (cfgBody s 1 st.vocab) (bit st.flags 1) outCap (idsOf (bodyBytes input)) { carry := st.raw, joined := st.count })).text)).1 (streamKey h.fn h.target) else { (hostWrite (begun s h .text) h.fn outAddr ((if final = 1 ∧ (detokRun (cfgBody s 1 st.vocab) (bit st.flags 1) outCap (idsOf (bodyBytes input)) { carry := st.raw, joined := st.count }).used = (idsOf (bodyBytes input)).length then detokEnd (cfgBody s 1 st.vocab) outCap (detokRun (cfgBody s 1 st.vocab) (bit st.flags 1) outCap (idsOf (bodyBytes input)) { carry := st.raw, joined := st.count }) else (detokRun (cfgBody s 1 st.vocab) (bit st.flags 1) outCap (idsOf (bodyBytes input)) { carry := st.raw, joined := st.count })).text)).1 with streams := amSet (hostWrite (begun s h .text) h.fn outAddr ((if final = 1 ∧ (detokRun (cfgBody s 1 st.vocab) (bit st.flags 1) outCap (idsOf (bodyBytes input)) { carry := st.raw, joined := st.count }).used = (idsOf (bodyBytes input)).length then detokEnd (cfgBody s 1 st.vocab) outCap (detokRun (cfgBody s 1 st.vocab) (bit st.flags 1) outCap (idsOf (bodyBytes input)) { carry := st.raw, joined := st.count }) else (detokRun (cfgBody s 1 st.vocab) (bit st.flags 1) outCap (idsOf (bodyBytes input)) { carry := st.raw, joined := st.count })).text)).1.streams (streamKey h.fn h.target) { st with count := (if final = 1 ∧ (detokRun (cfgBody s 1 st.vocab) (bit st.flags 1) outCap (idsOf (bodyBytes input)) { carry := st.raw, joined := st.count }).used = (idsOf (bodyBytes input)).length then detokEnd (cfgBody s 1 st.vocab) outCap (detokRun (cfgBody s 1 st.vocab) (bit st.flags 1) outCap (idsOf (bodyBytes input)) { carry := st.raw, joined := st.count }) else (detokRun (cfgBody s 1 st.vocab) (bit st.flags 1) outCap (idsOf (bodyBytes input)) { carry := st.raw, joined := st.count })).joined, raw := (if final = 1 ∧ (detokRun (cfgBody s 1 st.vocab) (bit st.flags 1) outCap (idsOf (bodyBytes input)) { carry := st.raw, joined := st.count }).used = (idsOf (bodyBytes input)).length then detokEnd (cfgBody s 1 st.vocab) outCap (detokRun (cfgBody s 1 st.vocab) (bit st.flags 1) outCap (idsOf (bodyBytes input)) { carry := st.raw, joined := st.count }) else (detokRun (cfgBody s 1 st.vocab) (bit st.flags 1) outCap (idsOf (bodyBytes input)) { carry := st.raw, joined := st.count })).carry } }) t)
    ∧ (∀ (s : State) (h : Hdr), Takes s h .text (closeStreamSpec h) →
      ∃ t, exec (.closeStream h) s = .next t ∧ OpAt s t h .text (.ready rOk) ∧ Otherwise s h (dropStream (begun s h .text) (streamKey h.fn h.target)) t)

/-- Once taken from the text ring with no refusal, on a session of descriptor d: READ_TEXT reads from the cursor, or waits for text up to its wait; READ_MASK is served, or waits for the masks of the round; SET_RULES and RESET_CONSTRAINT apply at once with the receipt that the edit gives, or wait for the end of the round where it is closing. -/
def Obligations.SessionTextCommandsTakeEffect : Prop :=
  (∀ (s : State) (h : Hdr) (handle cursor waitMs flags : Nat) (d : Nat), Takes s h .text (readTextSpec h handle cursor waitMs flags) → findHandle s handle = some d →
      exec (.readText h handle cursor waitMs flags) s = .next (settleRing (takeReadText (touched s h .text d) (freeTag s) d cursor waitMs flags h.len h.addr (.host h.fn) (ringOp (touched s h .text d) h .text (.waiting (.newText d)))) h.fn .text))
    ∧ (∀ (s : State) (h : Hdr) (handle round which : Nat) (d : Nat), Takes s h .text (readMaskSpec h handle round which) → findHandle s handle = some d →
      exec (.readMask h handle round which) s = .next (settleRing (takeReadMask (touched s h .text d) (freeTag s) d round which h.len h.addr (.host h.fn) (ringOp (touched s h .text d) h .text (.waiting (.masks d)))) h.fn .text))
    ∧ (∀ (s : State) (h : Hdr) (handle : Nat) (body : HostRead) (d : Nat) (x : Session), Takes s h .text (setRulesSpec h handle body) → findHandle s handle = some d → amGet (touched s h .text d).sessions d = some x → x.round.closing = false →
      ∃ t, exec (.setRules h handle body) s = .next t ∧ OpAt s t h .text (.ready (applyEdit (touched s h .text d) d (.rules (if h.len = 0 then [] else bodyBytes body))).2) ∧ Otherwise s h ((applyEdit (touched s h .text d) d (.rules (if h.len = 0 then [] else bodyBytes body))).1) t)
    ∧ (∀ (s : State) (h : Hdr) (handle : Nat) (body : HostRead) (d : Nat) (x : Session), Takes s h .text (setRulesSpec h handle body) → findHandle s handle = some d → amGet (touched s h .text d).sessions d = some x → x.round.closing = true →
      ∃ t, exec (.setRules h handle body) s = .next t ∧ OpAt s t h .text (.waiting (.masks d)) ∧ Otherwise s h { (touched s h .text d) with textDefers := amSet (touched s h .text d).textDefers (freeTag s) { d := d, edit := (.rules (if h.len = 0 then [] else bodyBytes body)) } } t)
    ∧ (∀ (s : State) (h : Hdr) (handle state : Nat) (d : Nat) (x : Session), Takes s h .text (resetConstraintSpec h handle state) → findHandle s handle = some d → amGet (touched s h .text d).sessions d = some x → x.round.closing = false →
      ∃ t, exec (.resetConstraint h handle state) s = .next t ∧ OpAt s t h .text (.ready (applyEdit (touched s h .text d) d (.reset state)).2) ∧ Otherwise s h ((applyEdit (touched s h .text d) d (.reset state)).1) t)
    ∧ (∀ (s : State) (h : Hdr) (handle state : Nat) (d : Nat) (x : Session), Takes s h .text (resetConstraintSpec h handle state) → findHandle s handle = some d → amGet (touched s h .text d).sessions d = some x → x.round.closing = true →
      ∃ t, exec (.resetConstraint h handle state) s = .next t ∧ OpAt s t h .text (.waiting (.masks d)) ∧ Otherwise s h { (touched s h .text d) with textDefers := amSet (touched s h .text d).textDefers (freeTag s) { d := d, edit := (.reset state) } } t)

/-- Once taken from a step ring with no refusal, on a session of descriptor d that reads as x: STEP becomes an operation of the session that holds a step of the entry; it waits for the fence where the session is fenced, for its round where it names the next, and else is admitted. COMMIT becomes an operation that holds the round and mask; where the session is not fenced, the round closes to new steps. -/
def Obligations.StepRingWorkStarts : Prop :=
  (∀ (s : State) (h : Hdr) (n : Nat) (e : StepEntry) (d : Nat) (x : Session), Takes s h (.step n) (stepSpec h n e) → findHandle s e.handle = some d → amGet s.sessions d = some x → x.fence = true →
      ∃ t, exec (.step h n e) s = .next t ∧ OpAt s t h (.step n) (.waiting .stepWork) ∧ Otherwise s h { (begun s h (.step n)) with steps := amSet s.steps (freeTag s) { ({ entry := e, d := d, via := .host h.fn, partition := if h.fn = 0 then 0 else x.partition, be := h.be, phase := .running, admPm := s.postmark } : StepRec) with phase := .heldFence, fenceWait := true } } t)
    ∧ (∀ (s : State) (h : Hdr) (n : Nat) (e : StepEntry) (d : Nat) (x : Session), Takes s h (.step n) (stepSpec h n e) → findHandle s e.handle = some d → amGet s.sessions d = some x → x.fence = false → e.round ≠ x.round.num →
      ∃ t, exec (.step h n e) s = .next t ∧ OpAt s t h (.step n) (.waiting .stepWork) ∧ Otherwise s h { (begun s h (.step n)) with steps := amSet s.steps (freeTag s) { ({ entry := e, d := d, via := .host h.fn, partition := if h.fn = 0 then 0 else x.partition, be := h.be, phase := .running, admPm := s.postmark } : StepRec) with phase := .heldRound, roundHeld := true } } t)
    ∧ (∀ (s : State) (h : Hdr) (n : Nat) (e : StepEntry) (d : Nat) (x : Session), Takes s h (.step n) (stepSpec h n e) → findHandle s e.handle = some d → amGet s.sessions d = some x → x.fence = false → e.round = x.round.num →
      exec (.step h n e) s = .next (settleRing (admitStep { putOp (begun s h (.step n)) (freeTag s) { ringOp (begun s h (.step n)) h (.step n) (.waiting .stepWork) with session := some d, account := some (handleAccount x.handle), be := h.be, state := .waiting .stepWork } with steps := amSet s.steps (freeTag s) ({ entry := e, d := d, via := .host h.fn, partition := if h.fn = 0 then 0 else x.partition, be := h.be, phase := .running, admPm := s.postmark } : StepRec) } (freeTag s) ({ entry := e, d := d, via := .host h.fn, partition := if h.fn = 0 then 0 else x.partition, be := h.be, phase := .running, admPm := s.postmark } : StepRec)) h.fn (.step n)))
    ∧ (∀ (s : State) (h : Hdr) (n handle descIndex round mask : Nat) (d : Nat) (x : Session), Takes s h (.step n) (commitSpec h n handle descIndex round mask) → findHandle s handle = some d → amGet s.sessions d = some x → x.fence = true →
      ∃ t, exec (.commit h n handle descIndex round mask) s = .next t ∧ OpAt s t h (.step n) (.waiting .stepWork) ∧ Otherwise s h { (begun s h (.step n)) with commits := amSet s.commits (freeTag s) { d := d, round := round, mask := mask, held := true, be := h.be, vocab := (resolveRef s 1 x.vocabRef), cset := (csetNow s x) } } t)
    ∧ (∀ (s : State) (h : Hdr) (n handle descIndex round mask : Nat) (d : Nat) (x : Session), Takes s h (.step n) (commitSpec h n handle descIndex round mask) → findHandle s handle = some d → amGet s.sessions d = some x → x.fence = false →
      exec (.commit h n handle descIndex round mask) s = .next (settleRing (upd { putOp (begun s h (.step n)) (freeTag s) { ringOp (begun s h (.step n)) h (.step n) (.waiting .stepWork) with session := some d, account := some (handleAccount x.handle), captured := ((resolveRef s 1 x.vocabRef).toList.map (fun r => (cfgKey 1 r.num, r.ver))) ++ ((csetNow s x).toList.map (fun r => (cfgKey 2 r.num, r.ver))), state := .waiting .stepWork } with commits := amSet s.commits (freeTag s) { d := d, round := round, mask := mask, held := false, be := h.be, vocab := (resolveRef s 1 x.vocabRef), cset := (csetNow s x) } } d (fun y => { y with lastOpPm := s.postmark, round := { y.round with closing := true } })) h.fn (.step n)))

/-- POWER_UP from the unpowered stage supplies the always-on domain and starts the postmark at 0; POR_N_RISE boots from the slots to try where NOR answers, else parks the device in recovery, and counts the boot; SELF_TEST_DONE makes the device READY, retires each failed cell and takes out each failed region; POR_N_FALL puts the block in its reset; POWER_REMOVED also loses the log, the security state and the wall clock, and POWER_UP starts over. -/
def Obligations.PowerAndResetEventsTakeEffect : Prop :=
  (∀ (s : State), s.boot.stage = 0 →
      exec (.powerUp) s = .next ({ s with boot := { s.boot with stage := 1 }, aon := true, postmark := 0 }))
    ∧ (∀ (s : State) (sel : Nat) (pairId : Bool) (mgmt : Nat) (slotA slotB : SlotFound) (norAnswers : Bool) (pm : Nat), s.boot.stage = 1 → norAnswers = true →
      exec (.porNRise sel pairId mgmt slotA slotB norAnswers pm) s = .next ({ (advance pm s) with boot := { (bootFrom slotA slotB (slotsToTry sel (recInForce s.boot)) s.boot : Boot) with sel := sel, mgmt := mgmt }, pair := { s.pair with strap := pairId }, faults := { s.faults with boots := s.faults.boots + 1 } }))
    ∧ (∀ (s : State) (sel : Nat) (pairId : Bool) (mgmt : Nat) (slotA slotB : SlotFound) (norAnswers : Bool) (pm : Nat), s.boot.stage = 1 → norAnswers = false →
      exec (.porNRise sel pairId mgmt slotA slotB norAnswers pm) s = .next ({ (advance pm s) with boot := { ({ s.boot with stage := 4 } : Boot) with sel := sel, mgmt := mgmt }, pair := { s.pair with strap := pairId }, faults := { s.faults with boots := s.faults.boots + 1 } }))
    ∧ (∀ (s : State) (failedRegions : List Nat) (failedCells : List (Nat × Nat × Nat × Nat)) (pm : Nat), s.boot.stage = 2 →
      exec (.selfTestDone failedRegions failedCells pm) s = .next (((failedRegions.filter (fun r => r < 10 ∧ r ≠ 8)) ++ (failedCells.foldl (fun s c => retireCell s { level := 0, kind := if c.2.1 = 1 then 0x01 else if c.2.1 = 11 then 0x04 else 0x02, unit := { region := c.1, kind := c.2.1, index := c.2.2.1, cell := some c.2.2.2 }, what := .cell, pm := s.postmark }) (modFaults (modBoot { (advance pm s) with ready := true } (fun b => { b with stage := 3, readyPm := (advance pm s).postmark })) (fun f => { f with restarted := false }))).boot.regFailed.filter (fun r => !failedRegions.contains r)).foldl (fun s r => regionOut (if r < 6 then { s with regionsOut := r :: s.regionsOut } else s) r) (failedCells.foldl (fun s c => retireCell s { level := 0, kind := if c.2.1 = 1 then 0x01 else if c.2.1 = 11 then 0x04 else 0x02, unit := { region := c.1, kind := c.2.1, index := c.2.2.1, cell := some c.2.2.2 }, what := .cell, pm := s.postmark }) (modFaults (modBoot { (advance pm s) with ready := true } (fun b => { b with stage := 3, readyPm := (advance pm s).postmark })) (fun f => { f with restarted := false })))))
    ∧ (∀ (s : State) (pm : Nat), 2 ≤ s.boot.stage →
      exec (.porNFall pm) s = .next (porState (advance pm s)))
    ∧ (∀ (s : State), exec (.powerRemoved) s = .next ({ (porState s) with faults := { boots := 0 }, sec := {}, boot := { (porState s).boot with stage := 0 }, aon := false, media := { (porState s).media with wallOffset := none } }))

/-- PERST_N_FALL on a port not in reset crashes the hosts behind it on a READY device, marks the port in reset, and resets every function once both ports are; PERST_N_RISE takes the port out of reset with the version the link trains to, or with none where its port region is out; HOST_LINK_DOWN crashes the port's hosts; REGULATOR_TIMEOUT in the self test marks the region failed, and parks the device in recovery where the region is the core's; PMBUS_POLL keeps the readings of the rails. -/
def Obligations.BoardEventsTakeEffect : Prop :=
  (∀ (s : State) (p pm : Nat), p < 2 → s.beached = false → portInReset s p = false → s.boot.stage = 3 →
      exec (.perstNFall p pm) s = .next (bothReset (setHost (crashPort (advance pm s) p) p { version := 0, switched := false, inReset := true })))
    ∧ (∀ (s : State) (p pm : Nat), p < 2 → s.beached = false → portInReset s p = false → s.boot.stage ≠ 3 →
      exec (.perstNFall p pm) s = .next (setHost (advance pm s) p { version := 0, switched := false, inReset := true }))
    ∧ (∀ (s : State) (p version : Nat) (switched : Bool), p < 2 → s.beached = false → 2 ≤ s.boot.stage → s.faults.regionsDown.contains (6 + p) = false →
      exec (.perstNRise p version switched) s = .next (setHost s p { version := version, switched := switched }))
    ∧ (∀ (s : State) (p version : Nat) (switched : Bool), p < 2 → s.beached = false → (s.boot.stage < 2 ∨ s.faults.regionsDown.contains (6 + p) = true) →
      exec (.perstNRise p version switched) s = .next (setHost s p {}))
    ∧ (∀ (s : State) (p : Nat), p < 2 → s.beached = false →
      exec (.hostLinkDown p) s = .next (setHost (crashPort s p) p { amGetD s.win.ports p {} with version := 0 }))
    ∧ (∀ (s : State) (region : Nat), s.boot.stage = 2 → region ≠ 8 →
      exec (.regulatorTimeout region) s = .next (modBoot s (fun b => { b with regFailed := region :: b.regFailed.filter (· != region) })))
    ∧ (∀ (s : State) (region : Nat), s.boot.stage = 2 → region = 8 →
      exec (.regulatorTimeout region) s = .next (modBoot s (fun b => { b with stage := 4 })))
    ∧ (∀ (s : State) (reads : List RailRead) (pm : Nat), 2 ≤ s.boot.stage → s.beached = false →
      exec (.pmbusPoll reads pm) s = .next (modPow (advance pm s) (fun p => { p with rails := reads.foldl (fun m r => if r.rail < 10 then amSet m r.rail r else m) p.rails })))

/-- On a function that takes doorbells, slack water ending first: a tail write to a ring that takes doorbells and is not stopped, with an index within its depth, makes the index the producer index, announces the slots up to it and settles the ring; with an index outside the depth it posts RING_INDEX with the ring and the index, and does nothing else. A head write with an index within the depth becomes the receipt ring's head and lets held receipts out, and for a step ring also settles a deletion; EVENT_HEAD with an index within the event ring's depth becomes its head. -/
def Obligations.DoorbellsMoveTheirIndexes : Prop :=
  (∀ (s : State) (fn  value : Nat) (entries : List SlotRead), fnTakes (leaveSlack s 2) fn = true → ringTakes (getRing (getFn (leaveSlack s 2) fn) .admin) = true → (getRing (getFn (leaveSlack s 2) fn) .admin).stopped = false → value % 65536 < (getRing (getFn (leaveSlack s 2) fn) .admin).depth →
      exec (.adminSqTail fn value entries) s = .next (settleRing (modRing (leaveSlack s 2) fn .admin (fun r => { r with prod := value % 65536, slots := r.slots ++ announced (getRing (getFn (leaveSlack s 2) fn) .admin) (value % 65536) entries })) fn .admin))
    ∧ (∀ (s : State) (fn n value : Nat) (entries : List SlotRead), fnTakes (leaveSlack s 2) fn = true → ringTakes (getRing (getFn (leaveSlack s 2) fn) (.step n)) = true → (getRing (getFn (leaveSlack s 2) fn) (.step n)).stopped = false → value % 65536 < (getRing (getFn (leaveSlack s 2) fn) (.step n)).depth →
      exec (.stepSqTail fn n value entries) s = .next (settleRing (modRing (leaveSlack s 2) fn (.step n) (fun r => { r with prod := value % 65536, slots := r.slots ++ announced (getRing (getFn (leaveSlack s 2) fn) (.step n)) (value % 65536) entries })) fn (.step n)))
    ∧ (∀ (s : State) (fn  value : Nat) (entries : List SlotRead), fnTakes (leaveSlack s 2) fn = true → ringTakes (getRing (getFn (leaveSlack s 2) fn) .text) = true → (getRing (getFn (leaveSlack s 2) fn) .text).stopped = false → value % 65536 < (getRing (getFn (leaveSlack s 2) fn) .text).depth →
      exec (.textSqTail fn value entries) s = .next (settleRing (modRing (leaveSlack s 2) fn .text (fun r => { r with prod := value % 65536, slots := r.slots ++ announced (getRing (getFn (leaveSlack s 2) fn) .text) (value % 65536) entries })) fn .text))
    ∧ (∀ (s : State) (fn  value : Nat) (entries : List SlotRead), fnTakes (leaveSlack s 2) fn = true → ringTakes (getRing (getFn (leaveSlack s 2) fn) .search) = true → (getRing (getFn (leaveSlack s 2) fn) .search).stopped = false → value % 65536 < (getRing (getFn (leaveSlack s 2) fn) .search).depth →
      exec (.searchSqTail fn value entries) s = .next (settleRing (modRing (leaveSlack s 2) fn .search (fun r => { r with prod := value % 65536, slots := r.slots ++ announced (getRing (getFn (leaveSlack s 2) fn) .search) (value % 65536) entries })) fn .search))
    ∧ (∀ (s : State) (fn  value : Nat) (entries : List SlotRead), fnTakes (leaveSlack s 2) fn = true → ringTakes (getRing (getFn (leaveSlack s 2) fn) .admin) = true → (getRing (getFn (leaveSlack s 2) fn) .admin).stopped = false → (getRing (getFn (leaveSlack s 2) fn) .admin).depth ≤ value % 65536 →
      exec (.adminSqTail fn value entries) s = .next (postEvent (leaveSlack s 2) fn 0x0001 (ringSource .admin) (value % 65536)))
    ∧ (∀ (s : State) (fn n value : Nat) (entries : List SlotRead), fnTakes (leaveSlack s 2) fn = true → ringTakes (getRing (getFn (leaveSlack s 2) fn) (.step n)) = true → (getRing (getFn (leaveSlack s 2) fn) (.step n)).stopped = false → (getRing (getFn (leaveSlack s 2) fn) (.step n)).depth ≤ value % 65536 →
      exec (.stepSqTail fn n value entries) s = .next (postEvent (leaveSlack s 2) fn 0x0001 (ringSource (.step n)) (value % 65536)))
    ∧ (∀ (s : State) (fn  value : Nat) (entries : List SlotRead), fnTakes (leaveSlack s 2) fn = true → ringTakes (getRing (getFn (leaveSlack s 2) fn) .text) = true → (getRing (getFn (leaveSlack s 2) fn) .text).stopped = false → (getRing (getFn (leaveSlack s 2) fn) .text).depth ≤ value % 65536 →
      exec (.textSqTail fn value entries) s = .next (postEvent (leaveSlack s 2) fn 0x0001 (ringSource .text) (value % 65536)))
    ∧ (∀ (s : State) (fn  value : Nat) (entries : List SlotRead), fnTakes (leaveSlack s 2) fn = true → ringTakes (getRing (getFn (leaveSlack s 2) fn) .search) = true → (getRing (getFn (leaveSlack s 2) fn) .search).stopped = false → (getRing (getFn (leaveSlack s 2) fn) .search).depth ≤ value % 65536 →
      exec (.searchSqTail fn value entries) s = .next (postEvent (leaveSlack s 2) fn 0x0001 (ringSource .search) (value % 65536)))
    ∧ (∀ (s : State) (fn  value : Nat), fnTakes (leaveSlack s 2) fn = true → ringTakes (getRing (getFn (leaveSlack s 2) fn) .admin) = true → (getRing (getFn (leaveSlack s 2) fn) .admin).stopped = false → value % 65536 < (getRing (getFn (leaveSlack s 2) fn) .admin).depth →
      exec (.adminRqHead fn value) s = .next (flushHeld (getRing (getFn (leaveSlack s 2) fn) .admin).held.length (modRing (leaveSlack s 2) fn .admin (fun r => { r with rqHead := value % 65536 })) fn .admin))
    ∧ (∀ (s : State) (fn n value : Nat), fnTakes (leaveSlack s 2) fn = true → ringTakes (getRing (getFn (leaveSlack s 2) fn) (.step n)) = true → (getRing (getFn (leaveSlack s 2) fn) (.step n)).stopped = false → value % 65536 < (getRing (getFn (leaveSlack s 2) fn) (.step n)).depth →
      exec (.stepRqHead fn n value) s = .next (settleDeletion (flushHeld (getRing (getFn (leaveSlack s 2) fn) (.step n)).held.length (modRing (leaveSlack s 2) fn (.step n) (fun r => { r with rqHead := value % 65536 })) fn (.step n)) fn n))
    ∧ (∀ (s : State) (fn  value : Nat), fnTakes (leaveSlack s 2) fn = true → ringTakes (getRing (getFn (leaveSlack s 2) fn) .text) = true → (getRing (getFn (leaveSlack s 2) fn) .text).stopped = false → value % 65536 < (getRing (getFn (leaveSlack s 2) fn) .text).depth →
      exec (.textRqHead fn value) s = .next (flushHeld (getRing (getFn (leaveSlack s 2) fn) .text).held.length (modRing (leaveSlack s 2) fn .text (fun r => { r with rqHead := value % 65536 })) fn .text))
    ∧ (∀ (s : State) (fn  value : Nat), fnTakes (leaveSlack s 2) fn = true → ringTakes (getRing (getFn (leaveSlack s 2) fn) .search) = true → (getRing (getFn (leaveSlack s 2) fn) .search).stopped = false → value % 65536 < (getRing (getFn (leaveSlack s 2) fn) .search).depth →
      exec (.searchRqHead fn value) s = .next (flushHeld (getRing (getFn (leaveSlack s 2) fn) .search).held.length (modRing (leaveSlack s 2) fn .search (fun r => { r with rqHead := value % 65536 })) fn .search))
    ∧ (∀ (s : State) (fn value : Nat), fnTakes (leaveSlack s 2) fn = true → (getFn (leaveSlack s 2) fn).eventEn = true → (getFn (leaveSlack s 2) fn).eventStopped = false → value % 65536 < (getFn (leaveSlack s 2) fn).evDepth →
      exec (.eventHead fn value) s = .next (modFn (leaveSlack s 2) fn (fun f => { f with evHead := value % 65536 })))

/-- On a function whose registers are open: ENABLE sets the bit and, on 0 to 1, the command set that VF_COMPAT selects; ADMIN_EN, TEXT_EN and SEARCH_EN from 0 to 1, with a depth in range, start an empty ring pair at the bases written, and from 1 to 0 send held receipts to the dead-letter ring and drop the pair; EVENT_EN from 0 to 1, with a depth in range, starts the event ring empty with PHASE 1 and tells what a restart or a fallback owes, and from 1 to 0 stops it. -/
def Obligations.EnableBitsTakeEffect : Prop :=
  (∀ (s : State) (fn : Nat) (on : Bool), regsOpen s fn = true →
      exec (.enable fn on) s = .next (modFn s fn (fun f => { f with enable := on, set3 := if on && !f.enable then fn != 0 && s.vfCompat.getLsbD (fn - 1) else f.set3 })))
    ∧ (∀ (s : State) (fn : Nat) (on : Bool), regsOpen s fn = true → (getFn s fn).adminEn = false → on = true →
      exec (.adminEn fn on) s = .next (setFn s fn { (getFn s fn) with adminEn := true, admin := freshRing true (getFn s fn).adminSqBase.toNat (getFn s fn).adminRqBase.toNat 256 0 (getFn s fn).adminPort }))
    ∧ (∀ (s : State) (fn : Nat) (on : Bool), regsOpen s fn = true → (getFn s fn).adminEn = true → on = false →
      exec (.adminEn fn on) s = .next (modFn (dropHeld s fn .admin) fn (fun f => { f with adminEn := false, admin := {} })))
    ∧ (∀ (s : State) (fn : Nat) (on : Bool), regsOpen s fn = true → (getFn s fn).textEn = false → on = true → pow2In 16 4096 ((getFn s fn).textCfg.toNat % 2 ^ 13) = true →
      exec (.textEn fn on) s = .next (setFn s fn { (getFn s fn) with textEn := true, text := freshRing true (getFn s fn).textSqBase.toNat (getFn s fn).textRqBase.toNat ((getFn s fn).textCfg.toNat % 2 ^ 13) (bits (getFn s fn).textCfg.toNat 21 16) (getFn s fn).textPort }))
    ∧ (∀ (s : State) (fn : Nat) (on : Bool), regsOpen s fn = true → (getFn s fn).textEn = true → on = false →
      exec (.textEn fn on) s = .next (modFn (dropHeld s fn .text) fn (fun f => { f with textEn := false, text := {} })))
    ∧ (∀ (s : State) (fn : Nat) (on : Bool), regsOpen s fn = true → (getFn s fn).searchEn = false → on = true → pow2In 16 4096 ((getFn s fn).searchCfg.toNat % 2 ^ 13) = true →
      exec (.searchEn fn on) s = .next (setFn s fn { (getFn s fn) with searchEn := true, search := freshRing true (getFn s fn).searchSqBase.toNat (getFn s fn).searchRqBase.toNat ((getFn s fn).searchCfg.toNat % 2 ^ 13) (bits (getFn s fn).searchCfg.toNat 21 16) (getFn s fn).searchPort }))
    ∧ (∀ (s : State) (fn : Nat) (on : Bool), regsOpen s fn = true → (getFn s fn).searchEn = true → on = false →
      exec (.searchEn fn on) s = .next (modFn (dropHeld s fn .search) fn (fun f => { f with searchEn := false, search := {} })))
    ∧ (∀ (s : State) (fn : Nat) (on : Bool), regsOpen s fn = true → (getFn s fn).eventEn = false → on = true → pow2In 64 4096 ((getFn s fn).eventCfg.toNat % 2 ^ 13) = true →
      exec (.eventEn fn on) s = .next (tellFallback (tellRestart (setFn s fn { (getFn s fn) with eventEn := true, eventStopped := false, evBase := (getFn s fn).eventBase.toNat, evDepth := (getFn s fn).eventCfg.toNat % 2 ^ 13, evVector := bits (getFn s fn).eventCfg.toNat 21 16, evProd := 0, evHead := 0, evPhase := true }) fn) fn))
    ∧ (∀ (s : State) (fn : Nat) (on : Bool), regsOpen s fn = true → (getFn s fn).eventEn = true → on = false →
      exec (.eventEn fn on) s = .next (setFn s fn { (getFn s fn) with eventEn := false, eventStopped := false, evProd := 0, evHead := 0 }))

/-- On a function whose registers are open, a write of RECEIPT_HOLD, COALESCE, FWD_GRACE, SNOOP_TIMEOUT, LC_LIMIT, LC_SHARE, TW_RTO, TW_CC, TW_ACK, PWR_CTRL, WARM_RESERVE, THERMAL_CFG or POWER_CAP whose fields are in range puts them in the shadow and marks the field pending since the first write that waits; nothing else changes. LIVE_APPLIED puts the shadow in force, clears the pending bit and posts LIVE_APPLIED; LIVE_APPLY_DEADLINE marks a field stalled once it has waited 100 us. -/
def Obligations.LiveFieldWritesReachTheShadow : Prop :=
  (∀ (s : State) (fn : Nat) (value : Word32), regsOpen s fn = true → value.toNat % 2 ^ 14 ≤ 10000 →
      exec (.receiptHold fn value) s = .next (shadowed s (.receiptHold fn) (value.toNat % 2 ^ 14)))
    ∧ (∀ (s : State) (fn : Nat) (value : Word32), regsOpen s fn = true → (value.toNat % 2 ^ 12 + bits value.toNat 31 16 * 2 ^ 16) % 2 ^ 12 ≠ 0 →
      exec (.coalesce fn value) s = .next (shadowed s (.coalesce fn) ((value.toNat % 2 ^ 12 + bits value.toNat 31 16 * 2 ^ 16))))
    ∧ (∀ (s : State) (value : Word32), regsOpen s 0 = true → value.toNat % 2 ^ 10 ≤ 1000 →
      exec (.fwdGrace value) s = .next (shadowed s .fwdGrace (value.toNat % 2 ^ 10)))
    ∧ (∀ (s : State) (value : Word32), regsOpen s 0 = true → value.toNat % 2 ^ 7 ≠ 0 → value.toNat % 2 ^ 7 ≤ 100 →
      exec (.snoopTimeout value) s = .next (shadowed s .snoopTimeout (value.toNat % 2 ^ 7)))
    ∧ (∀ (s : State) (value : Word32), regsOpen s 0 = true → 10 ≤ value.toNat % 128 → value.toNat % 128 ≤ 90 →
      exec (.lcLimit value) s = .next (shadowed s .lcLimit (value.toNat % 128)))
    ∧ (∀ (s : State) (partition : Nat) (value : Word32), regsOpen s 0 = true → 1 ≤ partition → partition ≤ 64 → vfLocked s partition = false → ((List.range 64).map (· + 1)).foldl (fun n q => if q = partition then n else n + livePending s (.lcShare q)) 0 + value.toNat % 128 ≤ 100 →
      exec (.lcShare partition value) s = .next (shadowed s (.lcShare partition) (value.toNat % 128)))
    ∧ (∀ (s : State) (value : Word64), regsOpen s 0 = true → inRange 1000 65535 (bits value.toNat 63 48) = true → inRange 20 10000 (bits value.toNat 47 32) = true → inRange 1 15 (bits value.toNat 19 16) = true → inRange 20 1000 (bits value.toNat 9 0) = true →
      exec (.twRto value) s = .next (shadowed s .twRto (bits value.toNat 9 0 + bits value.toNat 19 16 * 2 ^ 16 + bits value.toNat 47 32 * 2 ^ 32 + bits value.toNat 63 48 * 2 ^ 48)))
    ∧ (∀ (s : State) (value : Word64), regsOpen s 0 = true → inRange 1 65535 (bits value.toNat 63 48) = true → inRange 10 10000 (bits value.toNat 47 32) = true → inRange 1 255 (bits value.toNat 31 24) = true → inRange 1 255 (bits value.toNat 23 16) = true → inRange 1 8 (bits value.toNat 3 0) = true →
      exec (.twCc value) s = .next (shadowed s .twCc (bits value.toNat 3 0 + bits value.toNat 23 16 * 2 ^ 16 + bits value.toNat 31 24 * 2 ^ 24 + bits value.toNat 47 32 * 2 ^ 32 + bits value.toNat 63 48 * 2 ^ 48)))
    ∧ (∀ (s : State) (value : Word32), regsOpen s 0 = true → inRange 100 20000 (bits value.toNat 31 16) = true → inRange 1 64 (bits value.toNat 6 0) = true →
      exec (.twAck value) s = .next (shadowed s .twAck (bits value.toNat 6 0 + bits value.toNat 31 16 * 2 ^ 16)))
    ∧ (∀ (s : State) (value : Word32), regsOpen s 0 = true → 1 ≤ bits value.toNat 30 16 → bits value.toNat 30 16 ≤ 30000 →
      exec (.pwrCtrl value) s = .next (shadowed s .pwrCtrl (value.toNat % 2 + bits value.toNat 30 16 * 2 ^ 16)))
    ∧ (∀ (s : State) (value : Word32), regsOpen s 0 = true → (∀ k < 6, bits value.toNat (4 * k + 3) (4 * k) ≤ 8) →
      exec (.warmReserve value) s = .next ([0, 1, 2, 3, 4, 5].foldl (fun s k => shadowed s (.warmReserve k) (bits value.toNat (4 * k + 3) (4 * k))) s))
    ∧ (∀ (s : State) (value : Word32), regsOpen s 0 = true → 70 ≤ value.toNat % 128 → value.toNat % 128 ≤ 100 →
      exec (.thermalCfg value) s = .next (shadowed s .thermalCfg (value.toNat % 128)))
    ∧ (∀ (s : State) (value : Word32), regsOpen s 0 = true → (value.toNat % 2048 = 0 ∨ (400 ≤ value.toNat % 2048 ∧ value.toNat % 2048 ≤ 1150)) →
      exec (.powerCap value) s = .next (shadowed s .powerCap (value.toNat % 2048)))
    ∧ (∀ (s : State) (field : LiveField) (pm : Nat) (v : Nat), (getLive s field).shadow = some v →
      exec (.liveApplied field pm) s = .next (admitAll (settleAll (postEvent (match field with | .warmReserve r => (reserveOf (setLive (advance pm s) field { value := v }) r).foldl (fun s b => requestWake s (14 * r + b) false 0) (setLive (advance pm s) field { value := v }) | _ => setLive (advance pm s) field { value := v }) (liveWhere field).1 0x0004 (liveWhere field).2 0))))
    ∧ (∀ (s : State) (field : LiveField) (pm : Nat), (getLive s field).shadow.isSome = true → (getLive s field).since + 100000 ≤ max s.postmark pm →
      exec (.liveApplyDeadline field pm) s = .next (setLive (advance pm s) field { (getLive s field) with stalled := true }))

/-- On an open PF_0: SW_REGION disabling a region writes it and frees the directory with the last, and enabling one within its limits writes it, taking the directory's frames with the first; PORT_CFG on a disabled port writes it and, enabling it in a legal mode, wakes its part of the port region; TW_CTRL_ENABLE turns the Tideway on with its port and hop limit, or off closing every connection; FLASH_CH before a format writes the channel and wakes it where it is enabled; REGISTER_WRITE writes a plain register; POSTMARK_LO answers the low half and latches the high half; VF_COMPAT changes the bits of VFs that are neither enabled nor locked. -/
def Obligations.DeviceRegisterWritesTakeEffect : Prop :=
  (∀ (s : State) (n : Nat) (value : Word64), n < 8 → regsOpen s 0 = true → rgLocked s n = false → rgEnable ((if rgEnable (value.toNat) then 1 else 0) + (if rgInterleave (value.toNat) then 16 else 0) + rgHome (value.toNat) * 32 + rgExtents (value.toNat) * 2 ^ 32) = false →
      exec (.swRegion n value) s = .next (if (List.range 8).any (fun i => rgEnable (swReg (modWin s (fun x => { x with regions := amSet x.regions n (BitVec.ofNat 64 ((if rgEnable (value.toNat) then 1 else 0) + (if rgInterleave (value.toNat) then 16 else 0) + rgHome (value.toNat) * 32 + rgExtents (value.toNat) * 2 ^ 32)) })) i)) then (modWin s (fun x => { x with regions := amSet x.regions n (BitVec.ofNat 64 ((if rgEnable (value.toNat) then 1 else 0) + (if rgInterleave (value.toNat) then 16 else 0) + rgHome (value.toNat) * 32 + rgExtents (value.toNat) * 2 ^ 32)) })) else freeDirectory (modWin s (fun x => { x with regions := amSet x.regions n (BitVec.ofNat 64 ((if rgEnable (value.toNat) then 1 else 0) + (if rgInterleave (value.toNat) then 16 else 0) + rgHome (value.toNat) * 32 + rgExtents (value.toNat) * 2 ^ 32)) }))))
    ∧ (∀ (s : State) (n : Nat) (value : Word64), n < 8 → regsOpen s 0 = true → rgLocked s n = false → rgEnable ((if rgEnable (value.toNat) then 1 else 0) + (if rgInterleave (value.toNat) then 16 else 0) + rgHome (value.toNat) * 32 + rgExtents (value.toNat) * 2 ^ 32) = true → rgExtents ((if rgEnable (value.toNat) then 1 else 0) + (if rgInterleave (value.toNat) then 16 else 0) + rgHome (value.toNat) * 32 + rgExtents (value.toNat) * 2 ^ 32) ≠ 0 → rgExtents ((if rgEnable (value.toNat) then 1 else 0) + (if rgInterleave (value.toNat) then 16 else 0) + rgHome (value.toNat) * 32 + rgExtents (value.toNat) * 2 ^ 32) ≤ 1024 → rgHome ((if rgEnable (value.toNat) then 1 else 0) + (if rgInterleave (value.toNat) then 16 else 0) + rgHome (value.toNat) * 32 + rgExtents (value.toNat) * 2 ^ 32) ≤ 5 → otherExtents s n + rgExtents ((if rgEnable (value.toNat) then 1 else 0) + (if rgInterleave (value.toNat) then 16 else 0) + rgHome (value.toNat) * 32 + rgExtents (value.toNat) * 2 ^ 32) ≤ 2048 → s.win.dirRuns.isEmpty = false →
      exec (.swRegion n value) s = .next (modWin s (fun x => { x with regions := amSet x.regions n (BitVec.ofNat 64 ((if rgEnable (value.toNat) then 1 else 0) + (if rgInterleave (value.toNat) then 16 else 0) + rgHome (value.toNat) * 32 + rgExtents (value.toNat) * 2 ^ 32)) })))
    ∧ (∀ (s : State) (n : Nat) (value : Word64) (u : State), n < 8 → regsOpen s 0 = true → rgLocked s n = false → rgEnable ((if rgEnable (value.toNat) then 1 else 0) + (if rgInterleave (value.toNat) then 16 else 0) + rgHome (value.toNat) * 32 + rgExtents (value.toNat) * 2 ^ 32) = true → rgExtents ((if rgEnable (value.toNat) then 1 else 0) + (if rgInterleave (value.toNat) then 16 else 0) + rgHome (value.toNat) * 32 + rgExtents (value.toNat) * 2 ^ 32) ≠ 0 → rgExtents ((if rgEnable (value.toNat) then 1 else 0) + (if rgInterleave (value.toNat) then 16 else 0) + rgHome (value.toNat) * 32 + rgExtents (value.toNat) * 2 ^ 32) ≤ 1024 → rgHome ((if rgEnable (value.toNat) then 1 else 0) + (if rgInterleave (value.toNat) then 16 else 0) + rgHome (value.toNat) * 32 + rgExtents (value.toNat) * 2 ^ 32) ≤ 5 → otherExtents s n + rgExtents ((if rgEnable (value.toNat) then 1 else 0) + (if rgInterleave (value.toNat) then 16 else 0) + rgHome (value.toNat) * 32 + rgExtents (value.toNat) * 2 ^ 32) ≤ 2048 → s.win.dirRuns.isEmpty = true → takeDirectory s = some u →
      exec (.swRegion n value) s = .next (checkPressure (modWin u (fun x => { x with regions := amSet x.regions n (BitVec.ofNat 64 ((if rgEnable (value.toNat) then 1 else 0) + (if rgInterleave (value.toNat) then 16 else 0) + rgHome (value.toNat) * 32 + rgExtents (value.toNat) * 2 ^ 32)) }))))
    ∧ (∀ (s : State) (n : Nat) (value : Word64), n < 16 → regsOpen s 0 = true → pcEnable (getPort s n) = false → bit (portCfgBits value.toNat) 0 = true → bits (portCfgBits value.toNat) 7 4 ≤ 7 → (bits (portCfgBits value.toNat) 7 4 = 2 → n % 8 % 2 = 0 ∧ neighbourEnabled s (n / 8) (n % 8 + 1) none = false) → (n % 8 = 0 ∨ neighbourEnabled s (n / 8) (n % 8 - 1) (some 2) = false) →
      exec (.portCfg n value) s = .next (requestWake (modPort s n (fun x => { x with cfg := BitVec.ofNat 64 (portCfgBits value.toNat) })) (84 + 6 * (n / 8) + n % 8 / 4) false 0))
    ∧ (∀ (s : State) (n : Nat) (value : Word64), n < 16 → regsOpen s 0 = true → bit (portCfgBits value.toNat) 0 = false →
      exec (.portCfg n value) s = .next (modPort s n (fun x => { x with cfg := BitVec.ofNat 64 (portCfgBits value.toNat) })))
    ∧ (∀ (s : State) (value : Word32), regsOpen s 0 = true → s.tw.enable = false →
      exec (.twCtrlEnable value) s = .next (modTw s (fun t => { t with enable := bit value.toNat 0 && bits value.toNat 31 16 != 0, udpPort := bits value.toNat 31 16, hopLimit := bits value.toNat 15 8 })))
    ∧ (∀ (s : State) (value : Word32), regsOpen s 0 = true → s.tw.enable = true → bit value.toNat 0 = false →
      exec (.twCtrlEnable value) s = .next (modTw ((s.tw.conns.map (·.1)).foldl closeConn s) (fun t => { t with enable := false, missed := [], missFull := [] })))
    ∧ (∀ (s : State) (n : Nat) (value : Word64), n < 32 → regsOpen s 0 = true → (s.media.state = 0 ∨ s.media.state = 5) →
      exec (.flashCh n value) s = .next (if bit value.toNat 0 then requestWake (modMedia s (fun m => { m with channels := amSet m.channels n { getCh s n with enable := bit value.toNat 0, iface := bits value.toNat 7 4, ceMask := bits value.toNat 15 8, rate := bits value.toNat 31 16 } })) (106 + n / 8) false 0 else (modMedia s (fun m => { m with channels := amSet m.channels n { getCh s n with enable := bit value.toNat 0, iface := bits value.toNat 7 4, ceMask := bits value.toNat 15 8, rate := bits value.toNat 31 16 } }))))
    ∧ (∀ (s : State) (fn port : Nat) (reg : PlainReg) (value : Nat), regsOpen s fn = true → s.beached = false →
      exec (.registerWrite fn port reg value) s = .next (writeReg s fn port reg value))
    ∧ (∀ (s : State) (fn pm : Nat), fnPresent s fn = true →
      exec (.postmarkLo fn pm) s = .next (emit (.readData fn (max s.postmark pm % 2 ^ 32)) (modFn (advance pm s) fn (fun f => { f with latch := some (max s.postmark pm / 2 ^ 32 % 2 ^ 32) }))))
    ∧ (∀ (s : State) (value : Word64), exec (.vfCompat value) s = .next { s with vfCompat := (s.vfCompat &&& (BitVec.ofNat 64 ((List.range 64).foldl (fun m i => if (getFn s (i + 1)).enable || vfLocked s (i + 1) then m + 2 ^ i else m) 0))) ||| (value &&& ~~~(BitVec.ofNat 64 ((List.range 64).foldl (fun m i => if (getFn s (i + 1)).enable || vfLocked s (i + 1) then m + 2 ^ i else m) 0))) })

/-- On a READY device, a function-level reset of a present VF or of PF_0 that is not in one already begins it: the function becomes busy, its operations end and its rings empty; FLR_DONE brings a busy function to its reset state; clearing VF Enable resets every present VF and hides them; setting it shows VF_1 to VF_n, at most 64. -/
def Obligations.FunctionResetsTakeEffect : Prop :=
  (∀ (s : State) (n : Nat), s.vfEnable = false →
      exec (.vfEnableSet n) s = .next { s with vfEnable := true, numVfs := min n 64 })
    ∧ (∀ (s : State), s.vfEnable = true →
      exec (.vfEnableClear) s = .next (goOn { ((presentFns s).filter (· != 0)).foldl resetFn s with vfEnable := false }))
    ∧ (∀ (s : State) (fn : Nat), fn ≠ 0 → fnPresent s fn = true → s.ready = true → (getFn s fn).flrBusy = false →
      exec (.perFunctionReset fn) s = .next (goOn (beginFlr s fn)))
    ∧ (∀ (s : State), s.ready = true → (getFn s 0).flrBusy = false →
      exec (.pf0Reset) s = .next (goOn (beginFlr s 0)))
    ∧ (∀ (s : State) (fn : Nat), fnPresent s fn = true → (getFn s fn).flrBusy = true →
      exec (.flrDone fn) s = .next (goOn (clearFn s fn)))

/-- OPERATION_COMPLETE of an operation that is ready removes it with what it held under its tag, delivers its receipt, settles what waited for it and admits what it made room for. RECEIPT_HOLD_EXPIRY of a receipt held for the hold time moves it to the dead-letter ring and posts DEAD_LETTER. COALESCE_TIMEOUT of receipts unsignalled for the coalescing time signals the ring. -/
def Obligations.ReceiptsAreDelivered : Prop :=
  (∀ (s : State) (tag pm : Nat) (o : Op) (r : Rcpt), amGet s.ops tag = some o → o.state = .ready r →
      exec (.operationComplete tag pm) s = .next (startFetches (admitAll (match o.session with | some d => prepareMigration (settleIndexes (afterOp (deliver { (advance pm s) with ops := amErase s.ops tag, steps := amErase s.steps tag, commits := amErase s.commits tag, searches := amErase s.searches tag } o r) o)) d | none => settleIndexes (afterOp (deliver { (advance pm s) with ops := amErase s.ops tag, steps := amErase s.steps tag, commits := amErase s.commits tag, searches := amErase s.searches tag } o r) o)))))
    ∧ (∀ (s : State) (fn : Nat) (ring : RingId) (pm : Nat) (q : Held) (rest : List Held), (getRing (getFn s fn) ring).held = q :: rest → q.since + liveVal s (.receiptHold fn) * 1000 ≤ max s.postmark pm →
      exec (.receiptHoldExpiry fn ring pm) s = .next (match ring with | .step n => settleDeletion (postEvent (deadLetter (modRing (advance pm s) fn ring (fun r => { r with held := rest })) fn ring q.receipt) fn 0x0003 (ringSource ring) 0) fn n | _ => (postEvent (deadLetter (modRing (advance pm s) fn ring (fun r => { r with held := rest })) fn ring q.receipt) fn 0x0003 (ringSource ring) 0)))
    ∧ (∀ (s : State) (fn : Nat) (ring : RingId) (pm : Nat), (getRing (getFn s fn) ring).unsig ≠ 0 → (getRing (getFn s fn) ring).unsigSince + coalesceTime s fn * 1000 ≤ max s.postmark pm →
      exec (.coalesceTimeout fn ring pm) s = .next (signalRing (advance pm s) fn ring))

/-- PAGE_TASK_DONE ends the block's running task: it is traced, the step counts one less, and the block runs on. STEP_MERGE of a running step with no task left finishes it: with the final blocks of a decode step, with the partial block of a slice step, PAGES_ABSENT where a slice lacks pages. COMMIT_APPLY of a closing round with no step open applies the accepted path and finishes OK, or finishes BUSY where an accepted row is missing. COMMIT_NOTICE delivers the oldest notice to the session's mask set of the same round. MASK_READY stores the mask of a node whose parent's is there and serves the reads. -/
def Obligations.StepEngineEventsTakeEffect : Prop :=
  (∀ (s : State) (region block pm : Nat) (t : Task), (getBlock (advance pm s) region block).running = some t →
      exec (.pageTaskDone region block pm) s = .next (clearTrace (runBlock { (traceTask (advance pm s) region block (getBlock (advance pm s) region block) t) with steps := amMod (traceTask (advance pm s) region block (getBlock (advance pm s) region block) t).steps t.tag (fun q => { q with tasksLeft := q.tasksLeft - 1 }) } region block { (getBlock (advance pm s) region block) with running := none }) t.partition))
    ∧ (∀ (s : State) (tag pm : Nat) (q : StepRec) (x : Session), amGet s.steps tag = some q → amGet s.sessions q.d = some x → q.phase = .running → q.tasksLeft = 0 → q.entry.mode ≠ 1 →
      exec (.stepMerge tag pm) s = .next (finishWith (advance pm s) tag q (stepRcpt q (if q.degraded then .degraded else .ok) (pagesRead (attnIn (advance pm s) x q) (stepSpan q.entry (attnIn (advance pm s) x q)).1 (stepSpan q.entry (attnIn (advance pm s) x q)).2) 0) [(40, q.entry.resultAddr, finalBlock (attnIn (advance pm s) x q))]))
    ∧ (∀ (s : State) (tag pm : Nat) (q : StepRec) (x : Session), amGet s.steps tag = some q → amGet s.sessions q.d = some x → q.phase = .running → q.tasksLeft = 0 → q.entry.mode = 1 → (q.srcs.any (fun p => p == .missing) && !(stepMissing q.entry q.srcs).isEmpty && !q.degraded) = false →
      exec (.stepMerge tag pm) s = .next (finishWith (advance pm s) tag q (stepRcpt q (if q.degraded then .degraded else .ok) (pagesRead (attnIn (advance pm s) x q) (stepSpan q.entry (attnIn (advance pm s) x q)).1 (stepSpan q.entry (attnIn (advance pm s) x q)).2) 0) [(40, q.entry.resultAddr, partialBlock (attnIn (advance pm s) x q) q.entry.firstPage q.entry.lastPage q.entry.treePages)]))
    ∧ (∀ (s : State) (tag pm : Nat) (q : StepRec) (x : Session), amGet s.steps tag = some q → amGet s.sessions q.d = some x → q.phase = .running → q.tasksLeft = 0 → q.entry.mode = 1 → (q.srcs.any (fun p => p == .missing) && !(stepMissing q.entry q.srcs).isEmpty && !q.degraded) = true →
      exec (.stepMerge tag pm) s = .next (finishWith (advance pm s) tag q (stepRcpt q .pagesAbsent (pagesRead (attnIn (advance pm s) x q) (stepSpan q.entry (attnIn (advance pm s) x q)).1 (stepSpan q.entry (attnIn (advance pm s) x q)).2) (missingList (advance pm s) x).length) ((40, q.entry.resultAddr, partialBlock (attnIn (advance pm s) x q) q.entry.firstPage q.entry.lastPage q.entry.treePages) :: missingWrite (advance pm s) x q)))
    ∧ (∀ (s : State) (d pm : Nat) (x : Session) (tag : Nat) (c : CommitRec), amGet s.sessions d = some x → s.commits.find? (fun e => e.2.d == d && !e.2.held && (match amGet s.ops e.1 with | some o => o.state == .waiting .stepWork | none => false)) = some (tag, c) → x.round.closing = true → roundOpen (advance pm s) d c.round = false → (if c.mask = 0 then none else missingRows x) = none →
      exec (.commitApply d pm) s = .next (admitHeldRound (textAfterCommit (resolveTag (applyCommit (advance pm s) d ((acceptPath x.round.cands x.round.parents c.mask).getD []) c) tag { status := .ok, detail := c.round, resA := x.tokens + ((acceptPath x.round.cands x.round.parents c.mask).getD []).length, resB := ((acceptPath x.round.cands x.round.parents c.mask).getD []).length }) d) d))
    ∧ (∀ (s : State) (d pm : Nat) (x : Session) (tag l : Nat) (c : CommitRec), amGet s.sessions d = some x → s.commits.find? (fun e => e.2.d == d && !e.2.held && (match amGet s.ops e.1 with | some o => o.state == .waiting .stepWork | none => false)) = some (tag, c) → x.round.closing = true → roundOpen (advance pm s) d c.round = false → (if c.mask = 0 then none else missingRows x) = some l →
      exec (.commitApply d pm) s = .next (textAfterCommit (resolveTag (upd (advance pm s) d (fun x => { x with round := { x.round with closing := false } })) tag { rBusy 1 with resA := l }) d))
    ∧ (∀ (s : State) (pm : Nat) (n : Notice) (rest : List Notice) (x : Session) (m : MaskSet), s.notices = n :: rest → amGet s.sessions n.d = some x → x.masks = some m → m.round = n.round →
      exec (.commitNotice pm) s = .next (modSession (if (!n.be && txAdmit { (advance pm s) with notices := rest } x.partition (maskSize (maskTokens ({ (advance pm s) with notices := rest }) m) * (1 + (if x.round.fixed then x.round.cands else 16)))) then { { (advance pm s) with notices := rest } with txLoads := (advance pm s).txLoads.filter (fun l => decide (max s.postmark pm < l.pm + 100000)) ++ [{ pm := max s.postmark pm, partition := x.partition, bytes := (maskSize (maskTokens ({ (advance pm s) with notices := rest }) m) * (1 + (if x.round.fixed then x.round.cands else 16))) }] } else { (advance pm s) with notices := rest }) n.d (fun y => { y with masks := some { m with notice := some (max s.postmark pm), ranBe := !(!n.be && txAdmit { (advance pm s) with notices := rest } x.partition (maskSize (maskTokens ({ (advance pm s) with notices := rest }) m) * (1 + (if x.round.fixed then x.round.cands else 16)))) } })))
    ∧ (∀ (s : State) (d m pm : Nat) (x : Session) (ms : MaskSet), amGet s.sessions d = some x → x.masks = some ms → (ms.notice.isSome && !amHas ms.ready m && (m == 16 || (x.round.fixed && decide (m < x.round.cands) && amHas ms.ready (if (x.round.parents.drop m).headD 0x1F = 0x1F then 16 else (x.round.parents.drop m).headD 0x1F)))) = true →
      exec (.maskReady d m pm) s = .next (serveMasks (fitStore d ((modSession (advance pm s) d (fun y => { y with masks := some { ms with ready := amSet ms.ready m { outcome := (nodeMask (maskRules (advance pm s) x ms) (maskNode (maskRules (advance pm s) x ms) ms x.round m)).outcome, bytes := maskBytes (maskRules (advance pm s) x ms).tokens (nodeMask (maskRules (advance pm s) x ms) (maskNode (maskRules (advance pm s) x ms) ms x.round m)).allowed }, readyPm := if m = 16 then some (max s.postmark pm) else ms.readyPm } })).sessions.length + 1) (modSession (advance pm s) d (fun y => { y with masks := some { ms with ready := amSet ms.ready m { outcome := (nodeMask (maskRules (advance pm s) x ms) (maskNode (maskRules (advance pm s) x ms) ms x.round m)).outcome, bytes := maskBytes (maskRules (advance pm s) x ms).tokens (nodeMask (maskRules (advance pm s) x ms) (maskNode (maskRules (advance pm s) x ms) ms x.round m)).allowed }, readyPm := if m = 16 then some (max s.postmark pm) else ms.readyPm } }))) d))

/-- SEARCH_DEADLINE of a search that is not finished counts every device still asked as missing once the deadline has come. MENDING_BATCH of a resident shard ends the walk where no node is left, holds back while a snapshot or an old stamp needs the versions, and else writes the mended edges of the batch under the next change number. SLOT_RELEASE of a walked tombstone that nothing holds frees the slot and ends the sweep with the last. SHARD_VERIFIED marks the shard verified and settles the changes that waited. -/
def Obligations.SearchEngineEventsTakeEffect : Prop :=
  (∀ (s : State) (tag pm : Nat) (q : SearchRec), amGet s.searches tag = some q → q.finished = false → q.until_ ≤ max s.postmark pm →
      exec (.searchDeadline tag pm) s = .next ((q.asked.map (·.1)).foldl (fun s dev => searchAnswered s tag dev none) (advance pm s)))
    ∧ (∀ (s : State) (index shard : Nat) (ix : Index) (x : Shard), (indexAt s index).bind (fun i => (amGet i.shards shard).map (fun h => (i, h))) = some (ix, x) → s.regionsOut.contains x.region = false → (x.sweep.getD { tombs := tombstones x }).walked = false → (mendNext x (x.sweep.getD { tombs := tombstones x }).next).isEmpty = true →
      exec (.mendingBatch index shard) s = .next (settleIndexes (setShard s index shard (endSweep (rebaseShard { x with sweep := some { (x.sweep.getD { tombs := tombstones x }) with walked := true } })))))
    ∧ (∀ (s : State) (index shard : Nat) (ix : Index) (x : Shard), (indexAt s index).bind (fun i => (amGet i.shards shard).map (fun h => (i, h))) = some (ix, x) → s.regionsOut.contains x.region = false → (x.sweep.getD { tombs := tombstones x }).walked = false → (mendNext x (x.sweep.getD { tombs := tombstones x }).next).isEmpty = false → ((mendNext x (x.sweep.getD { tombs := tombstones x }).next).any (fun e => versionHeld (snapshots s index shard) x.changeSeq e.2) || stampsOld x) = true →
      exec (.mendingBatch index shard) s = .next (if stampsOld x then settleIndexes (setShard s index shard (rebaseShard x)) else s))
    ∧ (∀ (s : State) (index shard : Nat) (ix : Index) (x : Shard), (indexAt s index).bind (fun i => (amGet i.shards shard).map (fun h => (i, h))) = some (ix, x) → s.regionsOut.contains x.region = false → (x.sweep.getD { tombs := tombstones x }).walked = false → (mendNext x (x.sweep.getD { tombs := tombstones x }).next).isEmpty = false → ((mendNext x (x.sweep.getD { tombs := tombstones x }).next).any (fun e => versionHeld (snapshots s index shard) x.changeSeq e.2) || stampsOld x) = false →
      exec (.mendingBatch index shard) s = .next (setShard s index shard { x with changeSeq := (seqNext x.changeSeq), nodes := ((mendNext x (x.sweep.getD { tombs := tombstones x }).next).foldl (fun m e => amSet m e.1 (writeEdges x.changeSeq (seqNext x.changeSeq) e.2 (mendEdges ix x e.1 e.2))) x.nodes), sweep := some { (x.sweep.getD { tombs := tombstones x }) with next := ((mendNext x (x.sweep.getD { tombs := tombstones x }).next).getLast?.map (·.1)).getD 0 + 1 } }))
    ∧ (∀ (s : State) (index shard slot : Nat) (x : Shard) (w : Sweep) (n : SNode), (indexAt s index).bind (fun i => amGet i.shards shard) = some x → x.sweep = some w → amGet x.nodes slot = some n → (w.walked && w.tombs.contains slot && (snapshots s index shard).isEmpty && !stampsOld x && !s.regionsOut.contains x.region) = true →
      exec (.slotRelease index shard slot) s = .next (settleIndexes (setShard s index shard (endSweep { x with changeSeq := seqNext x.changeSeq, nodes := amSet x.nodes slot { n with inUse := false, edgesA := [], edgesB := [] }, sweep := some { w with tombs := w.tombs.filter (· != slot) } }))))
    ∧ (∀ (s : State) (index shard : Nat) (x : Shard), (indexAt s index).bind (fun i => amGet i.shards shard) = some x → s.regionsOut.contains x.region = false →
      exec (.shardVerified index shard) s = .next (settleIndexes (setShard s index shard { x with verified := true })))

/-- At a postmark that is a whole number of days, BUDGET_DAY sets every account's bytes written today to 0 and clears its spent budget. At a postmark that is a whole number of ten minutes, SOUNDINGS_AGING takes a sixteenth, rounded down, off every bin of every account's histograms. -/
def Obligations.DailyAgingTakesEffect : Prop :=
  (∀ (s : State) (pm : Nat), pm % 86400000000000 = 0 → s.postmark ≤ pm →
      exec (.budgetDay pm) s = .next ({ (advance pm s) with accounts := amMap s.accounts (fun _ c => { c with writtenToday := 0, budgetSpent := false }) }))
    ∧ (∀ (s : State) (pm : Nat), pm % 600000000000 = 0 → s.postmark ≤ pm →
      exec (.soundingsAging pm) s = .next ({ (advance pm s) with accounts := amMap s.accounts (fun _ c => { c with waitHist := c.waitHist.map (fun e => (e.1, e.2 - e.2 / 16)), ratioHist := c.ratioHist.map (fun e => (e.1, e.2 - e.2 / 16)) }) }))

/-- While a core runs, a write of the policy ring's producer index below 4,096 stores the entries from the old index up to it and moves the index. POLICY_ENTRY with an entry unread ends slack water, acts on the entry for a session that is not a stub and is IDLE, EBBING or PARKED (clamped, and counted where clamped), ignores it for any other, moves the consumer index, and raises the cores' interrupt where it is due. -/
def Obligations.PolicyRingEventsTakeEffect : Prop :=
  (∀ (s : State) (value : Word32) (entries : List PolicyEntry), s.hm.running ≠ 0 → value.toNat < 4096 →
      exec (.policyProducerIndex value entries) s = .next ({ s with hm := { s.hm with policy := (List.range ((value.toNat + 4096 - s.hm.policyProd) % 4096)).foldl (fun m i => match (entries.drop i).head? with | some e => amSet m ((s.hm.policyProd + i) % 4096) e | none => m) s.hm.policy, policyProd := value.toNat } }))
    ∧ (∀ (s : State), s.hm.policyCons ≠ s.hm.policyProd → findHandle (leaveSlack s 5) (policyHead s).handle = none →
      exec (.policyEntry) s = .next (hmInterrupt { (leaveSlack s 5) with hm := { (leaveSlack s 5).hm with policyCons := ((leaveSlack s 5).hm.policyCons + 1) % 4096 } }))
    ∧ (∀ (s : State) (d : Nat) (x : Session), s.hm.policyCons ≠ s.hm.policyProd → findHandle (leaveSlack s 5) (policyHead s).handle = some d → amGet (leaveSlack s 5).sessions d = some x → x.stub = false → (x.state == SState.idle || x.state == SState.ebbing || x.state == SState.parked) = true →
      exec (.policyEntry) s = .next (hmInterrupt { (policyApply (if (policyClamp (leaveSlack s 5) x (policyHead s)).2 then modAccount (leaveSlack s 5) (handleAccount x.handle) (fun a => { a with policyClamped := (a.policyClamped + 1) % 2 ^ 32 }) else (leaveSlack s 5)) d x (policyClamp (leaveSlack s 5) x (policyHead s)).1) with hm := { (policyApply (if (policyClamp (leaveSlack s 5) x (policyHead s)).2 then modAccount (leaveSlack s 5) (handleAccount x.handle) (fun a => { a with policyClamped := (a.policyClamped + 1) % 2 ^ 32 }) else (leaveSlack s 5)) d x (policyClamp (leaveSlack s 5) x (policyHead s)).1).hm with policyCons := ((policyApply (if (policyClamp (leaveSlack s 5) x (policyHead s)).2 then modAccount (leaveSlack s 5) (handleAccount x.handle) (fun a => { a with policyClamped := (a.policyClamped + 1) % 2 ^ 32 }) else (leaveSlack s 5)) d x (policyClamp (leaveSlack s 5) x (policyHead s)).1).hm.policyCons + 1) % 4096 } }))
    ∧ (∀ (s : State) (d : Nat) (x : Session), s.hm.policyCons ≠ s.hm.policyProd → findHandle (leaveSlack s 5) (policyHead s).handle = some d → amGet (leaveSlack s 5).sessions d = some x → (x.stub = true ∨ (x.state == SState.idle || x.state == SState.ebbing || x.state == SState.parked) = false) →
      exec (.policyEntry) s = .next (hmInterrupt { (leaveSlack s 5) with hm := { (leaveSlack s 5).hm with policyCons := ((leaveSlack s 5).hm.policyCons + 1) % 4096 } }))

/-- ROLE_DRAIN_END of a drain under way enters the role, with outcome 1, once nothing the role excludes is held; ROLE_DRAIN_TIMEOUT ends it with outcome 0 once its time is up and something is. PAIR_BIND_TIMEOUT 10 s after the command ends the binding with outcome 2 where the buddy had no frames, else 0. RESTORE_DONE ends a restore whose holder has nothing left, posts RESTORE_DONE and releases the holder. TRIAL_COMMIT_TIMER commits a trial image that has run, ready, for 600 s without a chip restart. -/
def Obligations.RoleAndBindTimersTakeEffect : Prop :=
  (∀ (s : State) (q : RoleDrain), s.pair.drain = some q → roleHolds s q.role = false →
      exec (.roleDrainEnd) s = .next (resolveWait (enterRole s q.role q.profile) .roleDrain (rOk 1)))
    ∧ (∀ (s : State) (pm : Nat) (q : RoleDrain), s.pair.drain = some q → q.until_ ≤ max s.postmark pm → roleHolds s q.role = true →
      exec (.roleDrainTimeout pm) s = .next (resolveWait { modPair (advance pm s) (fun p => { p with drain := none }) with roleNext := none } .roleDrain (rOk 0)))
    ∧ (∀ (s : State) (pm : Nat), s.pair.status = 1 → s.pair.bindSince + 10000000000 ≤ max s.postmark pm →
      exec (.pairBindTimeout pm) s = .next (resolveWait (modPair (advance pm s) (fun p => { p with status := 0 })) .buddyBind (rOk (if s.pair.noFrames then 2 else 0))))
    ∧ (∀ (s : State) (q : RestoreRun), s.pair.restore = some q → q.background = true → holderLeft s q.holder = false →
      exec (.restoreDone) s = .next (emit (.holderRelease q.holder q.source) (postPf (modPair s (fun p => { p with restore := none })) 0x0707 0 q.source)))
    ∧ (∀ (s : State) (pm : Nat), s.boot.stage = 3 → s.boot.trialRun = true → s.faults.restarted = false → s.beached = false → s.boot.readyPm + 600000000000 ≤ max s.postmark pm →
      exec (.trialCommitTimer pm) s = .next (commitTrial (advance pm s)))

/-- On a session of descriptor d that reads as x: IDLE_TIMER 2 s after the last operation of an ACTIVE session with none in flight makes it IDLE with no hint; EBB_START retries a deferred ebb or starts a due one; FLOOD_START floods a PARKED session or cancels the ebb of an EBBING one when its flood is due; RESUME_PM_PASSED reschedules an IDLE wait whose resume time has passed; BLOCKED_RETRY retries floods of its bundles and a blocked ebb or flood; SESSION_FREED frees a CLOSING session with nothing in flight; DESC_DIRTY_TIMEOUT writes back a descriptor dirty for 10 ms. READ_TEXT_WAIT_EXPIRY answers a READ_TEXT whose wait is over. -/
def Obligations.SessionTimersTakeEffect : Prop :=
  (∀ (s : State) (d pm : Nat) (x : Session), amGet s.sessions d = some x → x.state = .active → inflight s d = 0 → x.lastOpPm + 2000000000 ≤ max s.postmark pm →
      exec (.idleTimer d pm) s = .next (enterIdle (upd (advance pm s) d (fun y => { y with waitHint := false })) d))
    ∧ (∀ (s : State) (d pm : Nat) (x : Session), amGet s.sessions d = some x → x.state = .idle → x.ebbDeferred = true →
      exec (.ebbStart d pm) s = .next (retryDeferred (advance pm s) d))
    ∧ (∀ (s : State) (d pm : Nat) (x : Session), amGet s.sessions d = some x → x.state = .idle → x.ebbDeferred = false → x.ebbAtPm ≠ 0 → x.ebbAtPm ≤ max s.postmark pm →
      exec (.ebbStart d pm) s = .next (dueEbb (advance pm s) d))
    ∧ (∀ (s : State) (d pm : Nat) (x : Session), amGet s.sessions d = some x → floodDue (advance pm s) x = true → x.state = .parked → (startFlood (advance pm s) d (clFloodLc (sessClass (advance pm s) x)) true).2 = true →
      exec (.floodStart d pm) s = .next (endFlood (startFlood (advance pm s) d (clFloodLc (sessClass (advance pm s) x)) true).1 d))
    ∧ (∀ (s : State) (d pm : Nat) (x : Session), amGet s.sessions d = some x → floodDue (advance pm s) x = true → x.state = .parked → (startFlood (advance pm s) d (clFloodLc (sessClass (advance pm s) x)) true).2 = false →
      exec (.floodStart d pm) s = .next (floodBlocked (startFlood (advance pm s) d (clFloodLc (sessClass (advance pm s) x)) true).1 d))
    ∧ (∀ (s : State) (d pm : Nat) (x : Session), amGet s.sessions d = some x → floodDue (advance pm s) x = true → x.state = .ebbing →
      exec (.floodStart d pm) s = .next (upd (cancelEbb (advance pm s) d) d (fun y => { y with state := .idle, ebbAtPm := 0 })))
    ∧ (∀ (s : State) (d pm : Nat) (x : Session), amGet s.sessions d = some x → x.state = .idle → x.waiting = true → x.resumePm ≠ 0 → x.resumePm ≤ max s.postmark pm →
      exec (.resumePmPassed d pm) s = .next (upd (if x.predFlood then modAccount (advance pm s) (handleAccount x.handle) (fun c => { c with floodsUnused := (c.floodsUnused + 1) % 2 ^ 32 }) else (advance pm s)) d (fun y => { schedule (if x.predFlood then modAccount (advance pm s) (handleAccount x.handle) (fun c => { c with floodsUnused := (c.floodsUnused + 1) % 2 ^ 32 }) else (advance pm s)) y (if 64 ≤ histTotal (match amGet s.accounts (handleAccount x.handle) with | some c => c.waitHist.filter (fun b => decide (((max s.postmark pm - x.waitStartPm) / 1000000) < binEdge b.1)) | none => []) then binEdge (quantileBin (match amGet s.accounts (handleAccount x.handle) with | some c => c.waitHist.filter (fun b => decide (((max s.postmark pm - x.waitStartPm) / 1000000) < binEdge b.1)) | none => []) (clQuantile (sessClass (advance pm s) x)) 80) else 2 * ((max s.postmark pm - x.waitStartPm) / 1000000)) (if x.predFlood then modAccount (advance pm s) (handleAccount x.handle) (fun c => { c with floodsUnused := (c.floodsUnused + 1) % 2 ^ 32 }) else (advance pm s)).postmark with predFlood := false })))
    ∧ (∀ (s : State) (d pm : Nat) (x : Session), amGet s.sessions d = some x → x.state = .idle → x.ebbBlocked = true → (ebbClear (s.bundles.foldl (fun u e => if e.2.account = (handleAccount x.handle) ∧ e.2.flooding = true then raiseBundle u e.1 e.2.floodLc else u) (advance pm s)) d = true) →
      exec (.blockedRetry d pm) s = .next (startEbb (s.bundles.foldl (fun u e => if e.2.account = (handleAccount x.handle) ∧ e.2.flooding = true then raiseBundle u e.1 e.2.floodLc else u) (advance pm s)) d))
    ∧ (∀ (s : State) (d pm : Nat) (x : Session), amGet s.sessions d = some x → x.state = .parked → x.floodBlocked = true →
      exec (.blockedRetry d pm) s = .next (endFlood (startFlood (s.bundles.foldl (fun u e => if e.2.account = (handleAccount x.handle) ∧ e.2.flooding = true then raiseBundle u e.1 e.2.floodLc else u) (advance pm s)) d (clFloodLc (sessClass (s.bundles.foldl (fun u e => if e.2.account = (handleAccount x.handle) ∧ e.2.flooding = true then raiseBundle u e.1 e.2.floodLc else u) (advance pm s)) x)) true).1 d))
    ∧ (∀ (s : State) (d : Nat) (x : Session), amGet s.sessions d = some x → x.state = .closing → inflight s d = 0 →
      exec (.sessionFreed d) s = .next (retryGrants (settlePartition (resolveWait (freeSession (endText s d) d) (.freed d) rOk) x.partition)))
    ∧ (∀ (s : State) (d pm : Nat) (e : DcEntry), amGet s.dcache d = some e → e.dirty = true → e.dirtySince + 10000000 ≤ max s.postmark pm →
      exec (.descDirtyTimeout d pm) s = .next (writeBack (advance pm s) d))
    ∧ (∀ (s : State) (tag pm : Nat) (q : TextRead), amGet s.textReads tag = some q → q.until_ ≤ max s.postmark pm →
      exec (.readTextWaitExpiry tag pm) s = .next (endTextRead (advance pm s) tag q))

/-- COPY_STORED of a page that the ebb or the class move still has to do stores its copy and switches the reference. EBB_COMPLETE of an EBBING session with no page to do drops the HBM pages, makes it PARKED, answers the waiters, and floods it again where a flood is due. FLOOD_PAGE_ARRIVED of a page that has come places it, completes the flood with the last, and resumes the steps and writes that waited. BUNDLE_EBB of an HBM bundle whose account has been without a live session for the class's longest delay lowers it to a tier with room. -/
def Obligations.EbbAndFloodProgressTakesEffect : Prop :=
  (∀ (s : State) (d layer page : Nat) (x : Session) (r : PRef) (j : EbbJob) (p : PageRec), amGet s.sessions d = some x → amGet x.refs (pk layer page) = some r → x.ebb = some j → j.todo.contains (pk layer page) = true → recOf s r = some p →
      exec (.copyStored d layer page) s = .next (noteQuotas (storeEbb s d (pk layer page) x j r p) (handleAccount x.handle)))
    ∧ (∀ (s : State) (d layer page : Nat) (x : Session) (r : PRef) (j : MoveJob), amGet s.sessions d = some x → amGet x.refs (pk layer page) = some r → x.ebb = none → x.move = some j → j.todo.contains (pk layer page) = true →
      exec (.copyStored d layer page) s = .next (storeMove s d (pk layer page) x j r))
    ∧ (∀ (s : State) (d : Nat) (x : Session) (j : EbbJob), amGet s.sessions d = some x → x.ebb = some j → x.state = .ebbing → j.todo = [] → floodDue (retryGrants (checkPressure (noteQuotas (resolveWait (writeBack (modSession (modAccount (upd (j.switched.foldl (fun u e => dropRef u e.2.loc) s) d (fun y => { y with state := .parked, ebb := none, ebbAtPm := 0, policyTier := none })) (handleAccount x.handle) (fun c => if x.predFlood then { c with floodsUnused := (c.floodsUnused + 1) % 2 ^ 32 } else c)) d (fun y => { y with predFlood := false })) d) (.parked d) rOk) (handleAccount x.handle)))) x = false →
      exec (.ebbComplete d) s = .next (retryGrants (checkPressure (noteQuotas (resolveWait (writeBack (modSession (modAccount (upd (j.switched.foldl (fun u e => dropRef u e.2.loc) s) d (fun y => { y with state := .parked, ebb := none, ebbAtPm := 0, policyTier := none })) (handleAccount x.handle) (fun c => if x.predFlood then { c with floodsUnused := (c.floodsUnused + 1) % 2 ^ 32 } else c)) d (fun y => { y with predFlood := false })) d) (.parked d) rOk) (handleAccount x.handle)))))
    ∧ (∀ (s : State) (d : Nat) (x : Session) (j : EbbJob), amGet s.sessions d = some x → x.ebb = some j → x.state = .ebbing → j.todo = [] → floodDue (retryGrants (checkPressure (noteQuotas (resolveWait (writeBack (modSession (modAccount (upd (j.switched.foldl (fun u e => dropRef u e.2.loc) s) d (fun y => { y with state := .parked, ebb := none, ebbAtPm := 0, policyTier := none })) (handleAccount x.handle) (fun c => if x.predFlood then { c with floodsUnused := (c.floodsUnused + 1) % 2 ^ 32 } else c)) d (fun y => { y with predFlood := false })) d) (.parked d) rOk) (handleAccount x.handle)))) x = true →
      exec (.ebbComplete d) s = .next (if (startFlood (retryGrants (checkPressure (noteQuotas (resolveWait (writeBack (modSession (modAccount (upd (j.switched.foldl (fun u e => dropRef u e.2.loc) s) d (fun y => { y with state := .parked, ebb := none, ebbAtPm := 0, policyTier := none })) (handleAccount x.handle) (fun c => if x.predFlood then { c with floodsUnused := (c.floodsUnused + 1) % 2 ^ 32 } else c)) d (fun y => { y with predFlood := false })) d) (.parked d) rOk) (handleAccount x.handle)))) d (clFloodLc (sessClass (retryGrants (checkPressure (noteQuotas (resolveWait (writeBack (modSession (modAccount (upd (j.switched.foldl (fun u e => dropRef u e.2.loc) s) d (fun y => { y with state := .parked, ebb := none, ebbAtPm := 0, policyTier := none })) (handleAccount x.handle) (fun c => if x.predFlood then { c with floodsUnused := (c.floodsUnused + 1) % 2 ^ 32 } else c)) d (fun y => { y with predFlood := false })) d) (.parked d) rOk) (handleAccount x.handle)))) x)) true).2 then endFlood (startFlood (retryGrants (checkPressure (noteQuotas (resolveWait (writeBack (modSession (modAccount (upd (j.switched.foldl (fun u e => dropRef u e.2.loc) s) d (fun y => { y with state := .parked, ebb := none, ebbAtPm := 0, policyTier := none })) (handleAccount x.handle) (fun c => if x.predFlood then { c with floodsUnused := (c.floodsUnused + 1) % 2 ^ 32 } else c)) d (fun y => { y with predFlood := false })) d) (.parked d) rOk) (handleAccount x.handle)))) d (clFloodLc (sessClass (retryGrants (checkPressure (noteQuotas (resolveWait (writeBack (modSession (modAccount (upd (j.switched.foldl (fun u e => dropRef u e.2.loc) s) d (fun y => { y with state := .parked, ebb := none, ebbAtPm := 0, policyTier := none })) (handleAccount x.handle) (fun c => if x.predFlood then { c with floodsUnused := (c.floodsUnused + 1) % 2 ^ 32 } else c)) d (fun y => { y with predFlood := false })) d) (.parked d) rOk) (handleAccount x.handle)))) x)) true).1 d else floodBlocked (startFlood (retryGrants (checkPressure (noteQuotas (resolveWait (writeBack (modSession (modAccount (upd (j.switched.foldl (fun u e => dropRef u e.2.loc) s) d (fun y => { y with state := .parked, ebb := none, ebbAtPm := 0, policyTier := none })) (handleAccount x.handle) (fun c => if x.predFlood then { c with floodsUnused := (c.floodsUnused + 1) % 2 ^ 32 } else c)) d (fun y => { y with predFlood := false })) d) (.parked d) rOk) (handleAccount x.handle)))) d (clFloodLc (sessClass (retryGrants (checkPressure (noteQuotas (resolveWait (writeBack (modSession (modAccount (upd (j.switched.foldl (fun u e => dropRef u e.2.loc) s) d (fun y => { y with state := .parked, ebb := none, ebbAtPm := 0, policyTier := none })) (handleAccount x.handle) (fun c => if x.predFlood then { c with floodsUnused := (c.floodsUnused + 1) % 2 ^ 32 } else c)) d (fun y => { y with predFlood := false })) d) (.parked d) rOk) (handleAccount x.handle)))) x)) true).1 d))
    ∧ (∀ (s : State) (d layer page pm : Nat) (x : Session) (j : FloodJob), amGet s.sessions d = some x → x.flood = some j → j.todo.contains (pk layer page) = true → pageHere (advance pm s) x j (pk layer page) = true → (x.floodLc || !beHeld (advance pm s) (d % 6)) = true →
      exec (.floodPageArrived d layer page pm) s = .next (resumeWrites (resumeSteps (checkPressure (endFlood (placePage (advance pm s) d (pk layer page)) d)) d) d))
    ∧ (∀ (s : State) (object pm : Nat) (b : Bundle) (n : Nat), amGet s.bundles object = some b → b.tier = 0 → (s.sessions.any (fun e => handleAccount e.2.handle == b.account && keepsBundles e.2)) = false → bundlePinned s object = false → b.lastLive + 1000000 * clDelayMax (cfgBody s 3 b.classRef) ≤ max s.postmark pm → (objectTier (advance pm s) b.account (cfgBody s 3 b.classRef) b.body.length [b.body.length]).1 = some n →
      exec (.bundleEbb object pm) s = .next (lowerBundle (advance pm s) object b n (cfgBody s 3 b.classRef)))

/-- While the device takes work, a packet of any of the opcodes that comes in on one of the 16 ports, ends slack water and is counted. Where the connection it names is open, on that port, to that peer, the packet is taken with its context when that is cached, and a WRITE waits for the fetch of the context while that is under way. Where no such connection is open, a WRITE is dropped and the port counts it. A packet taken that is not in the shape of its connection's segments is dropped; of the others one already held is only acknowledged, one 1,024 or more ahead of the last in order is dropped, and any other is taken for its contents, then what it lets be admitted is. A MIGRATE_COMMIT or MIGRATE_ABORT also admits what waited for the session. -/
def Obligations.PacketsReachTheirConnections : Prop :=
  (∀ (s : State) (p : TwPkt) (e : CacheEntry), p.port < 16 → accepting s = true → pktKnown (arrived s opPageWrite p) p.port p.srcIp p.srcConn p.dstConn = true → amGet (arrived s opPageWrite p).tw.cache p.dstConn = some e → e.fetching = false →
      exec (.pageWrite p) s = .next (takePacket (arrived s opPageWrite p) opPageWrite p none none))
    ∧ (∀ (s : State) (p : TwPkt) (e : CacheEntry), p.port < 16 → accepting s = true → pktKnown (arrived s opStep p) p.port p.srcIp p.srcConn p.dstConn = true → amGet (arrived s opStep p).tw.cache p.dstConn = some e → e.fetching = false →
      exec (.stepEntry p) s = .next (takePacket (arrived s opStep p) opStep p none none))
    ∧ (∀ (s : State) (p : TwPkt) (e : CacheEntry), p.port < 16 → accepting s = true → pktKnown (arrived s opText p) p.port p.srcIp p.srcConn p.dstConn = true → amGet (arrived s opText p).tw.cache p.dstConn = some e → e.fetching = false →
      exec (.textRead p) s = .next (takePacket (arrived s opText p) opText p none none))
    ∧ (∀ (s : State) (p : TwPkt) (e : CacheEntry), p.port < 16 → accepting s = true → pktKnown (arrived s opBundle p) p.port p.srcIp p.srcConn p.dstConn = true → amGet (arrived s opBundle p).tw.cache p.dstConn = some e → e.fetching = false →
      exec (.bundleRead p) s = .next (takePacket (arrived s opBundle p) opBundle p none none))
    ∧ (∀ (s : State) (p : TwPkt) (e : CacheEntry), p.port < 16 → accepting s = true → pktKnown (arrived s opWrite p) p.port p.srcIp p.srcConn p.dstConn = true → amGet (arrived s opWrite p).tw.cache p.dstConn = some e → e.fetching = false →
      exec (.write p) s = .next (takePacket (arrived s opWrite p) opWrite p none none))
    ∧ (∀ (s : State) (p : TwPkt) (e : CacheEntry), p.port < 16 → accepting s = true → pktKnown (arrived s opWrite p) p.port p.srcIp p.srcConn p.dstConn = true → amGet (arrived s opWrite p).tw.cache p.dstConn = some e → e.fetching = true →
      exec (.write p) s = .next (holdMissed (arrived s opWrite p) { op := opWrite, pkt := p, data := none, mig := none }))
    ∧ (∀ (s : State) (p : TwPkt), p.port < 16 → accepting s = true → pktKnown (arrived s opWrite p) p.port p.srcIp p.srcConn p.dstConn = false →
      exec (.write p) s = .next (count (arrived s opWrite p) p.port 8 1))
    ∧ (∀ (s : State) (p : TwPkt) (data : HostRead) (e : CacheEntry), p.port < 16 → accepting s = true → pktKnown (arrived s opRead p) p.port p.srcIp p.srcConn p.dstConn = true → amGet (arrived s opRead p).tw.cache p.dstConn = some e → e.fetching = false →
      exec (.read p data) s = .next (takePacket (arrived s opRead p) opRead p (some data) none))
    ∧ (∀ (s : State) (p : TwPkt) (e : CacheEntry), p.port < 16 → accepting s = true → pktKnown (arrived s opResp p) p.port p.srcIp p.srcConn p.dstConn = true → amGet (arrived s opResp p).tw.cache p.dstConn = some e → e.fetching = false →
      exec (.respData p) s = .next (takePacket (arrived s opResp p) opResp p none none))
    ∧ (∀ (s : State) (p : TwPkt) (e : CacheEntry), p.port < 16 → accepting s = true → pktKnown (arrived s opCompletion p) p.port p.srcIp p.srcConn p.dstConn = true → amGet (arrived s opCompletion p).tw.cache p.dstConn = some e → e.fetching = false →
      exec (.completion p) s = .next (takePacket (arrived s opCompletion p) opCompletion p none none))
    ∧ (∀ (s : State) (p : TwPkt) (e : CacheEntry), p.port < 16 → accepting s = true → pktKnown (arrived s opSearch p) p.port p.srcIp p.srcConn p.dstConn = true → amGet (arrived s opSearch p).tw.cache p.dstConn = some e → e.fetching = false →
      exec (.shardSearch p) s = .next (takePacket (arrived s opSearch p) opSearch p none none))
    ∧ (∀ (s : State) (p : TwPkt) (e : CacheEntry), p.port < 16 → accepting s = true → pktKnown (arrived s opPoolPut p) p.port p.srcIp p.srcConn p.dstConn = true → amGet (arrived s opPoolPut p).tw.cache p.dstConn = some e → e.fetching = false →
      exec (.poolPut p) s = .next (takePacket (arrived s opPoolPut p) opPoolPut p none none))
    ∧ (∀ (s : State) (p : TwPkt) (e : CacheEntry), p.port < 16 → accepting s = true → pktKnown (arrived s opPoolGet p) p.port p.srcIp p.srcConn p.dstConn = true → amGet (arrived s opPoolGet p).tw.cache p.dstConn = some e → e.fetching = false →
      exec (.poolGet p) s = .next (takePacket (arrived s opPoolGet p) opPoolGet p none none))
    ∧ (∀ (s : State) (p : TwPkt) (e : CacheEntry), p.port < 16 → accepting s = true → pktKnown (arrived s opPoolFree p) p.port p.srcIp p.srcConn p.dstConn = true → amGet (arrived s opPoolFree p).tw.cache p.dstConn = some e → e.fetching = false →
      exec (.poolFree p) s = .next (takePacket (arrived s opPoolFree p) opPoolFree p none none))
    ∧ (∀ (s : State) (p : TwPkt) (m : MigMsg) (e : CacheEntry), p.port < 16 → accepting s = true → pktKnown (arrived s opMigrate p) p.port p.srcIp p.srcConn p.dstConn = true → amGet (arrived s opMigrate p).tw.cache p.dstConn = some e → e.fetching = false →
      exec (.migrateOffer p m) s = .next (takePacket (arrived s opMigrate p) opMigrate { p with aux := 1 } none (some m)))
    ∧ (∀ (s : State) (p : TwPkt) (m : MigMsg) (e : CacheEntry), p.port < 16 → accepting s = true → pktKnown (arrived s opMigrate p) p.port p.srcIp p.srcConn p.dstConn = true → amGet (arrived s opMigrate p).tw.cache p.dstConn = some e → e.fetching = false →
      exec (.migratePages p m) s = .next (takePacket (arrived s opMigrate p) opMigrate { p with aux := 2 } none (some m)))
    ∧ (∀ (s : State) (p : TwPkt) (m : MigMsg) (e : CacheEntry), p.port < 16 → accepting s = true → pktKnown (arrived s opMigrate p) p.port p.srcIp p.srcConn p.dstConn = true → amGet (arrived s opMigrate p).tw.cache p.dstConn = some e → e.fetching = false →
      exec (.migratePrepare p m) s = .next (takePacket (arrived s opMigrate p) opMigrate { p with aux := 3 } none (some m)))
    ∧ (∀ (s : State) (p : TwPkt) (e : CacheEntry), p.port < 16 → accepting s = true → pktKnown (arrived s opMigrate p) p.port p.srcIp p.srcConn p.dstConn = true → amGet (arrived s opMigrate p).tw.cache p.dstConn = some e → e.fetching = false →
      exec (.migrateCommit p) s = .next (admitAll (takePacket (arrived s opMigrate p) opMigrate { p with aux := 4 } none none)))
    ∧ (∀ (s : State) (p : TwPkt), p.port < 16 → accepting s = true → pktKnown (arrived s opMigrate p) p.port p.srcIp p.srcConn p.dstConn = false →
      exec (.migrateCommit p) s = .next (admitAll (count (arrived s opMigrate p) p.port 8 1)))
    ∧ (∀ (s : State) (p : TwPkt) (e : CacheEntry), p.port < 16 → accepting s = true → pktKnown (arrived s opMigrate p) p.port p.srcIp p.srcConn p.dstConn = true → amGet (arrived s opMigrate p).tw.cache p.dstConn = some e → e.fetching = false →
      exec (.migrateAbort p) s = .next (admitAll (takePacket (arrived s opMigrate p) opMigrate { p with aux := 5 } none none)))
    ∧ (∀ (s : State) (op : Nat) (p : TwPkt) (data : Option HostRead) (mig : Option MigMsg) (x : Conn), getConn s p.dstConn = some x → pktShape x p = false →
      takePacket s op p data mig = count s p.port 8 1)
    ∧ (∀ (s : State) (op : Nat) (p : TwPkt) (data : Option HostRead) (mig : Option MigMsg) (x y : Conn), getConn s p.dstConn = some x → pktShape x p = true → getConn (noted s p x) p.dstConn = some y → (psnHeld y p.psn || y.placing.any (fun q => q.msg.op == opWrite && q.psn == p.psn)) = true →
      takePacket s op p data mig = ackNow (noted s p x) p.dstConn)
    ∧ (∀ (s : State) (op : Nat) (p : TwPkt) (data : Option HostRead) (mig : Option MigMsg) (x y : Conn), getConn s p.dstConn = some x → pktShape x p = true → getConn (noted s p x) p.dstConn = some y → (psnHeld y p.psn || y.placing.any (fun q => q.msg.op == opWrite && q.psn == p.psn)) = false → 1024 ≤ serDiff p.psn y.cumPsn →
      takePacket s op p data mig = count (noted s p x) p.port 9 1)
    ∧ (∀ (s : State) (op : Nat) (p : TwPkt) (data : Option HostRead) (mig : Option MigMsg) (x y : Conn), getConn s p.dstConn = some x → pktShape x p = true → getConn (noted s p x) p.dstConn = some y → (psnHeld y p.psn || y.placing.any (fun q => q.msg.op == opWrite && q.psn == p.psn)) = false → serDiff p.psn y.cumPsn < 1024 →
      takePacket s op p data mig = admitConn (takeContents (noted s p x) p.dstConn op p data mig) p.dstConn)

/-- ACK of an open connection whose context is cached is counted and taken. RTO_EXPIRY after the timeout doubles it up to the limit, halves the rate down to the minimum, counts, and sends the oldest packet again, or past the retry limit fails the connection. ACK_DELAY_EXPIRY sends the held ACK. AI_INTERVAL raises the rate by the step where no ACK reported marks. PRI_TIMEOUT fails each placement whose page request is 10 ms old. CONTEXT_FETCHED fills the cache and takes what waited. TRANSLATION_RESPONSE maps, asks for, or fails a page. HANDOVER after an OK to PREPARE makes the session a stub and sends COMMIT. STUB_RELEASE frees a stub that nothing needs. -/
def Obligations.TidewayTimersTakeEffect : Prop :=
  (∀ (s : State) (a : TwAck) (e : CacheEntry), a.port < 16 → accepting s = true → pktKnown (frameIn s a.port ((getConn s a.dstConn).elim 110 (fun x => frameBytes (getPort s a.port) x true 0))) a.port a.srcIp a.srcConn a.dstConn = true → amGet (frameIn s a.port ((getConn s a.dstConn).elim 110 (fun x => frameBytes (getPort s a.port) x true 0))).tw.cache a.dstConn = some e → e.fetching = false →
      exec (.ack a) s = .next (startFetches (takeAck (frameIn s a.port ((getConn s a.dstConn).elim 110 (fun x => frameBytes (getPort s a.port) x true 0))) a)))
    ∧ (∀ (s : State) (a : TwAck), a.port < 16 → accepting s = true → pktKnown (frameIn s a.port ((getConn s a.dstConn).elim 110 (fun x => frameBytes (getPort s a.port) x true 0))) a.port a.srcIp a.srcConn a.dstConn = false →
      exec (.ack a) s = .next (count (frameIn s a.port ((getConn s a.dstConn).elim 110 (fun x => frameBytes (getPort s a.port) x true 0))) a.port 8 1))
    ∧ (∀ (s : State) (c pm : Nat) (x : Conn) (p : OutPkt), getConn s c = some x → x.flight.find? (fun p => !p.acked) = some p → x.failed = false → x.lastUna + x.rto ≤ max s.postmark pm → retryLimit (modConn (count (advance pm s) x.port 14 1) c (fun y => { y with rto := min (rtoMax (count (advance pm s) x.port 14 1)) (2 * y.rto), retries := y.retries + 1, rate := max (minRate (count (advance pm s) x.port 14 1)) (y.rate / 2), lastDec := max s.postmark pm, aiSince := max s.postmark pm, aiMarked := false, lastUna := max s.postmark pm, flight := y.flight.map (fun q => if q.psn = p.psn then { q with retx := true } else q) })) < x.retries + 1 →
      exec (.rtoExpiry c pm) s = .next (failConn (modConn (count (advance pm s) x.port 14 1) c (fun y => { y with rto := min (rtoMax (count (advance pm s) x.port 14 1)) (2 * y.rto), retries := y.retries + 1, rate := max (minRate (count (advance pm s) x.port 14 1)) (y.rate / 2), lastDec := max s.postmark pm, aiSince := max s.postmark pm, aiMarked := false, lastUna := max s.postmark pm, flight := y.flight.map (fun q => if q.psn = p.psn then { q with retx := true } else q) })) c 1))
    ∧ (∀ (s : State) (c pm : Nat) (x : Conn) (p : OutPkt), getConn s c = some x → x.flight.find? (fun p => !p.acked) = some p → x.failed = false → x.lastUna + x.rto ≤ max s.postmark pm → ¬ retryLimit (modConn (count (advance pm s) x.port 14 1) c (fun y => { y with rto := min (rtoMax (count (advance pm s) x.port 14 1)) (2 * y.rto), retries := y.retries + 1, rate := max (minRate (count (advance pm s) x.port 14 1)) (y.rate / 2), lastDec := max s.postmark pm, aiSince := max s.postmark pm, aiMarked := false, lastUna := max s.postmark pm, flight := y.flight.map (fun q => if q.psn = p.psn then { q with retx := true } else q) })) < x.retries + 1 →
      exec (.rtoExpiry c pm) s = .next (resend (modConn (count (advance pm s) x.port 14 1) c (fun y => { y with rto := min (rtoMax (count (advance pm s) x.port 14 1)) (2 * y.rto), retries := y.retries + 1, rate := max (minRate (count (advance pm s) x.port 14 1)) (y.rate / 2), lastDec := max s.postmark pm, aiSince := max s.postmark pm, aiMarked := false, lastUna := max s.postmark pm, flight := y.flight.map (fun q => if q.psn = p.psn then { q with retx := true } else q) })) c p))
    ∧ (∀ (s : State) (c pm : Nat) (x : Conn), getConn s c = some x → x.failed = false → x.unAcked ≠ 0 → x.unAckedPm + ackDelay s ≤ max s.postmark pm →
      exec (.ackDelayExpiry c pm) s = .next (ackNow (advance pm s) c))
    ∧ (∀ (s : State) (c pm : Nat) (x : Conn), getConn s c = some x → x.failed = false → x.aiSince + aiInterval s ≤ max s.postmark pm →
      exec (.aiInterval c pm) s = .next (modConn (advance pm s) c (fun y => { y with rate := if y.aiMarked then y.rate else min (portRate s y.port) (y.rate + aiStep s), aiSince := max s.postmark pm, aiMarked := false })))
    ∧ (∀ (s : State) (c pm : Nat) (x : Conn), getConn s c = some x →
      exec (.priTimeout c pm) s = .next ((x.placing.filter (fun p => match p.pri with | some (t, _) => decide (t + 10000000 ≤ max s.postmark pm) | none => false)).foldl (fun u p => placeFail u c p (firstOn p (p.pri.elim 0 (fun q => q.2)))) (advance pm s)))
    ∧ (∀ (s : State) (c : Nat) (e : CacheEntry) (x : Conn), amGet s.tw.cache c = some e → getConn s c = some x → e.fetching = true →
      exec (.contextFetched c) s = .next (startFetches (noteMissEmpty ((s.tw.missed.filter (fun m => m.pkt.dstConn == c)).foldl toCell (modTw s (fun t => { t with missed := t.missed.filter (fun m => m.pkt.dstConn != c), cache := amSet t.cache c { used := s.postmark, fetching := false, image := contextBytes x 1 } }))))))
    ∧ (∀ (s : State) (fn addr len : Nat), exec (.translationResponse fn none addr len .mapped) s = .next (modFn s fn (fun f => { f with unmapped := f.unmapped.filter (fun r => r.2 < addr || addr + len ≤ r.1) })))
    ∧ (∀ (s : State) (fn addr len : Nat), len ≠ 0 →
      exec (.translationResponse fn none addr len .absent) s = .next (modFn s fn (fun f => { f with unmapped := (addr, addr + len - 1) :: f.unmapped })))
    ∧ (∀ (s : State) (fn addr len : Nat), len ≠ 0 →
      exec (.translationResponse fn none addr len .failed) s = .next (modFn s fn (fun f => { f with unmapped := (addr, addr + len - 1) :: f.unmapped })))
    ∧ (∀ (s : State) (fn q addr len : Nat), exec (.translationResponse fn (some q) addr len .mapped) s = .next (retryPlacings fn q (pageOf addr) ((askingRegions s fn q (pageOf addr)).foldl (fun u r => xlatTake u r fn q (pageOf addr)) s)))
    ∧ (∀ (s : State) (fn q addr len : Nat), exec (.translationResponse fn (some q) addr len .absent) s = .next (askPage fn q (pageOf addr) s))
    ∧ (∀ (s : State) (fn q addr len : Nat), exec (.translationResponse fn (some q) addr len .failed) s = .next (failPlacings fn q (pageOf addr) s))
    ∧ (∀ (s : State) (d pm : Nat) (g : Migration) (x : Session), getMigration s d = some g → amGet s.sessions d = some x → g.tag.isSome = true → g.phase = 4 →
      exec (.handover d pm) s = .next (admitAll (sendMigrate (modMigration (upd (endText (advance pm s) d) d (fun x => { x with stub := true, forwarding := true, handoverPm := (endText (advance pm s) d).postmark, migrateEpoch := ((endText (advance pm s) d).chartEpoch + 1) % 2 ^ 32, migrateTarget := g.peer })) d (fun g => { g with phase := 5 })) d x g.conn 4 3 {})))
    ∧ (∀ (s : State) (d pm : Nat) (x : Session), amGet s.sessions d = some x → x.stub = true → gracePassed (advance pm s) x = true → openForwards s d = false → x.migrateEpoch ≤ s.chartEpoch → getMigration s d = none →
      exec (.stubRelease d pm) s = .next (retryGrants (freeSession (advance pm s) d)))

/-- ARP_REQUEST for the port's IPv4 address and NEIGHBOR_SOLICITATION for its IPv6 address on an enabled port count the frame and are answered with the port's MAC address; an ARP_REQUEST for another address, or on a port that is not enabled, changes nothing. MAC_CONTROL_FRAME counts. FRAME_DROPPED counts a frame error or a packet drop. PORT_UP of an enabled port that is down, its region in, records the lanes and posts PORT_UP to every function with a connection on it. PORT_DOWN of a port that is up clears them and posts PORT_DOWN. FEC_DEGRADED counts the codewords, and posts FEC_DEGRADED where they start. -/
def Obligations.PortEventsTakeEffect : Prop :=
  (∀ (s : State) (n ip bytes : Nat), ipv4 ip = true → n < 16 → pcEnable (getPort s n) = true → (getPort s n).ip.toNat = ip →
      exec (.arpRequest n ip bytes) s = .next (emit (.neighborAnswer n (Config.baseMac + n)) (count (count (frameIn s n bytes) n 1 1) n 3 bytes)))
    ∧ (∀ (s : State) (n ip bytes : Nat), ipv4 ip = true → (16 ≤ n ∨ pcEnable (getPort s n) = false ∨ (getPort s n).ip.toNat ≠ ip) →
      exec (.arpRequest n ip bytes) s = .next s)
    ∧ (∀ (s : State) (n ip bytes : Nat), ipv4 ip = false → n < 16 → pcEnable (getPort s n) = true → (getPort s n).ip.toNat = ip →
      exec (.neighborSolicitation n ip bytes) s = .next (emit (.neighborAnswer n (Config.baseMac + n)) (count (count (frameIn s n bytes) n 1 1) n 3 bytes)))
    ∧ (∀ (s : State) (n bytes : Nat), n < 16 →
      exec (.macControlFrame n bytes) s = .next (count (frameIn s n bytes) n 7 1))
    ∧ (∀ (s : State) (n bytes : Nat) (packet : Bool), n < 16 →
      exec (.frameDropped n bytes packet) s = .next (count (frameIn s n bytes) n (if packet then 8 else 6) 1))
    ∧ (∀ (s : State) (n lanes : Nat), n < 16 → pcEnable (getPort s n) = true → (getPort s n).up = false → s.faults.regionsDown.contains (6 + n / 8) = false → s.faults.runs.any (fun q => q.region == 6 + n / 8 || q.region == 8) = false →
      exec (.portUp n lanes) s = .next ((portFns (modPort s n (fun p => { p with up := true, lanesUp := min 8 lanes, changes := (p.changes + 1) % 65536 })) n).foldl (fun u f => postEvent u f 0x0401 n (pcMode (getPort s n) + min 8 lanes * 256)) (modPort s n (fun p => { p with up := true, lanesUp := min 8 lanes, changes := (p.changes + 1) % 65536 }))))
    ∧ (∀ (s : State) (n : Nat), n < 16 → (getPort s n).up = true →
      exec (.portDown n) s = .next ((portFns (modPort s n (fun p => { p with up := false, lanesUp := 0, changes := (p.changes + 1) % 65536 })) n).foldl (fun u f => postEvent u f 0x0402 n (((getPort s n).changes + 1) % 65536)) (modPort s n (fun p => { p with up := false, lanesUp := 0, changes := (p.changes + 1) % 65536 }))))
    ∧ (∀ (s : State) (n codewords : Nat), n < 16 →
      exec (.fecDegraded n codewords) s = .next (if codewords ≠ 0 ∧ (getPort s n).fecDegraded = false then postPf (count (modPort s n (fun p => { p with fecDegraded := codewords != 0 })) n 5 codewords) 0x0403 n (codewords % 2 ^ 32) else (count (modPort s n (fun p => { p with fecDegraded := codewords != 0 })) n 5 codewords)))

/-- MEM_READ and MEM_WRITE of a linked host reach the line as a read under the asked state (I where the host is not tracked) or a write; a full-line write of a line the host owns, and WRITE_BACK of one, is accepted as a write-back and acknowledged, and WRITE_BACK of a line the host does not own is a write. Each ends slack water. BIRSPI of a snoop issued to the host answers it and lets what waited go on. SNOOP_TIMEOUT_EXPIRED of a snoop out for the timeout crashes the host. HM_WINDOW_ACCESS of a running core loads, stores, or writes back as host 16. -/
def Obligations.WindowAccessesTakeEffect : Prop :=
  (∀ (s : State) (host dpa hold : Nat), memOk s host dpa = true → hold < 3 →
      exec (.memRead host dpa hold) s = .next (arriveLine (leaveSlack s 4) { line := dpa / 64, host := host, ask := .read (if hostUntracked s host then 0 else hold), for_ := .host }))
    ∧ (∀ (s : State) (host dpa hold : Nat) (bytes : List Byte) (mask : Nat), memOk s host dpa = true → mask = fullMask → owns (leaveSlack s 4) host (dpa / 64) = true →
      exec (.memWrite host dpa hold bytes mask) s = .next (emit (.memDone host dpa) (acceptWriteBack (leaveSlack s 4) host (dpa / 64) hold bytes)))
    ∧ (∀ (s : State) (host dpa hold : Nat) (bytes : List Byte) (mask : Nat), memOk s host dpa = true → (mask ≠ fullMask ∨ owns (leaveSlack s 4) host (dpa / 64) = false) →
      exec (.memWrite host dpa hold bytes mask) s = .next (arriveLine (leaveSlack s 4) { line := dpa / 64, host := host, ask := .write bytes mask, for_ := .host }))
    ∧ (∀ (s : State) (host dpa hold : Nat) (bytes : List Byte), memOk s host dpa = true → owns (leaveSlack s 4) host (dpa / 64) = true →
      exec (.writeBack host dpa hold bytes) s = .next (emit (.memDone host dpa) (acceptWriteBack (leaveSlack s 4) host (dpa / 64) hold bytes)))
    ∧ (∀ (s : State) (host dpa hold : Nat) (bytes : List Byte), memOk s host dpa = true → owns (leaveSlack s 4) host (dpa / 64) = false →
      exec (.writeBack host dpa hold bytes) s = .next (arriveLine (leaveSlack s 4) { line := dpa / 64, host := host, ask := .write bytes fullMask, for_ := .host }))
    ∧ (∀ (s : State) (host dpa : Nat) (p : Snoop), s.win.snoops.find? (fun p => p.host == host && p.line == dpa / 64 && p.issued.isSome) = some p →
      exec (.birspi host dpa) s = .next (settleReleases (serve (issueSnoops 1 (modReq (answerSnoop (modWin s (fun w => { w with snoops := w.snoops.filter (· != p) })) p) p.line (fun q => match q.ask with | .recall h => if h = host then { q with curDone := true } else q | _ => if p.kind = 2 then { q with curDone := true } else q)) host) p.line)))
    ∧ (∀ (s : State) (host dpa pm : Nat), s.win.snoops.any (fun p => p.host == host && p.line == dpa / 64 && (match p.issued with | some t => decide (t + liveVal s .snoopTimeout * 1000000 ≤ max s.postmark pm) | none => false)) = true →
      exec (.snoopTimeoutExpired host dpa pm) s = .next (crashHost (advance pm s) host 2))
    ∧ (∀ (s : State) (dpa hold : Nat), s.hm.running ≠ 0 → dpa < 2 ^ 41 → dpa % 64 = 0 →
      exec (.hmWindowAccess dpa (.load hold)) s = .next (arriveLine s { line := dpa / 64, host := 16, ask := .read (min 2 hold), for_ := .core false }))
    ∧ (∀ (s : State) (dpa : Nat) (bytes : List Byte) (mask : Nat), s.hm.running ≠ 0 → dpa < 2 ^ 41 → dpa % 64 = 0 →
      exec (.hmWindowAccess dpa (.store bytes mask)) s = .next (arriveLine s { line := dpa / 64, host := 16, ask := .write bytes mask, for_ := .core true }))
    ∧ (∀ (s : State) (dpa hold : Nat) (bytes : List Byte), s.hm.running ≠ 0 → dpa < 2 ^ 41 → dpa % 64 = 0 → owns s 16 (dpa / 64) = true →
      exec (.hmWindowAccess dpa (.writeBack hold bytes)) s = .next (acceptWriteBack s 16 (dpa / 64) hold bytes))
    ∧ (∀ (s : State) (dpa hold : Nat) (bytes : List Byte), s.hm.running ≠ 0 → dpa < 2 ^ 41 → dpa % 64 = 0 → owns s 16 (dpa / 64) = false →
      exec (.hmWindowAccess dpa (.writeBack hold bytes)) s = .next (arriveLine s { line := dpa / 64, host := 16, ask := .write bytes fullMask, for_ := .core true }))

/-- ADD_DYNAMIC_CAPACITY_RESPONSE of a CXL 3.x host whose grant waits for it ends the grant, accepted or not. ADD_EXTENT_TIMEOUT after a second ends one that waits for the host with outcome 2, one that waits for frames with outcome 3, and before that tries again to take the frames. RELEASE_DYNAMIC_CAPACITY of an extent the host holds starts its release once. SCRUB_COMPLETE of a scrubbing extent clears its poison, zeroes its bytes, and frees its frames. -/
def Obligations.WindowCapacityTakesEffect : Prop :=
  (∀ (s : State) (host region extent : Nat) (accept : Bool) (g : GrantWait), amGet s.win.grants (extKey region extent * 32 + host) = some g → g.framesHeld = true → hostVersion s host = 3 →
      exec (.addDynamicCapacityResponse host region extent accept) s = .next (endGrantWait s region extent host (if accept then 1 else 0)))
    ∧ (∀ (s : State) (region extent host pm : Nat) (g : GrantWait), amGet s.win.grants (extKey region extent * 32 + host) = some g → g.since + 1000000000 ≤ max s.postmark pm → g.framesHeld = true →
      exec (.addExtentTimeout region extent host pm) s = .next (endGrantWait (advance pm s) region extent host 2))
    ∧ (∀ (s : State) (region extent host pm : Nat) (g : GrantWait), amGet s.win.grants (extKey region extent * 32 + host) = some g → g.since + 1000000000 ≤ max s.postmark pm → g.framesHeld = false →
      exec (.addExtentTimeout region extent host pm) s = .next (resolveWait (modWin (advance pm s) (fun w => { w with grants := amErase w.grants (extKey region extent * 32 + host) })) (.extentGrant region extent host) (rOk 3)))
    ∧ (∀ (s : State) (region extent host pm : Nat) (g : GrantWait), amGet s.win.grants (extKey region extent * 32 + host) = some g → max s.postmark pm < g.since + 1000000000 →
      exec (.addExtentTimeout region extent host pm) s = .next (retryGrant (advance pm s) g))
    ∧ (∀ (s : State) (host region extent : Nat), hostVersion s host = 3 → (getExt s (extKey region extent)).hosts.contains host = true →
      exec (.releaseDynamicCapacity host region extent) s = .next (if releaseRuns (emit (.mailbox host .done) s) region extent host then (emit (.mailbox host .done) s) else startRelease (emit (.mailbox host .done) s) region extent host true []))
    ∧ (∀ (s : State) (host region extent : Nat), hostVersion s host = 3 → (getExt s (extKey region extent)).hosts.contains host = false →
      exec (.releaseDynamicCapacity host region extent) s = .next (emit (.mailbox host .invalidInput) s))
    ∧ (∀ (s : State) (region extent : Nat) (e : Extent), amGet s.win.extents (extKey region extent) = some e → e.scrubbing = true →
      exec (.scrubComplete region extent) s = .next (retryGrants (modWin (e.runs.foldl freeRun ((s.win.poison.filter (fun p => lineExt p.1 == (extKey region extent))).foldl (fun u p => clearPoison u p.1) s)) (fun w => { w with extents := amErase w.extents (extKey region extent), mem := cellsZero w.mem ((extKey region extent) * 2 ^ 28) (((extKey region extent) + 1) * 2 ^ 28) }))))

/-- CLEAR_POISON of a line the host may reach writes it whole. GET_POISON_LIST, IDENTIFY_MEMORY_DEVICE, GET_DYNAMIC_CAPACITY_CONFIGURATION, GET_DYNAMIC_CAPACITY_EXTENT_LIST and GET_EVENT_RECORDS are answered from the window's state and change nothing else, unsupported where the host's CXL version lacks them. CLEAR_EVENT_RECORDS drops the oldest records of the dynamic-capacity log. BIND_LD, UNBIND_LD and GET_LD_INFO bind, unbind and list the logical devices of a port behind a switch. -/
def Obligations.CxlMailboxTakesEffect : Prop :=
  (∀ (s : State) (host dpa : Nat) (bytes : List Byte), memOk s host dpa = true →
      exec (.clearPoison host dpa bytes) s = .next (arriveLine (emit (.mailbox host .done) s) { line := dpa / 64, host := host, ask := .write bytes fullMask, for_ := .slice }))
    ∧ (∀ (s : State) (host dpa : Nat) (bytes : List Byte), memOk s host dpa = false →
      exec (.clearPoison host dpa bytes) s = .next (emit (.mailbox host .unsupported) s))
    ∧ (∀ (s : State) (host : Nat), exec (.getPoisonList host) s = .next (emit (.mailbox host (if 2 ≤ hostVersion s host then .poisonList (s.win.loss.filter (fun r => (getExt s (lineExt r.line)).hosts.contains host)) (s.win.lost != 0) else .unsupported)) s))
    ∧ (∀ (s : State) (host : Nat), hostVersion s host = 3 →
      exec (.identifyMemoryDevice host) s = .next (emit (.mailbox host (.identify 0 true)) s))
    ∧ (∀ (s : State) (host : Nat), hostVersion s host = 2 →
      exec (.identifyMemoryDevice host) s = .next (emit (.mailbox host (.identify (2 ^ 28 * (match amGet s.win.decoders host with | some es => es.length | none => (grantedTo s host).length)) false)) s))
    ∧ (∀ (s : State) (host : Nat), exec (.getDynamicCapacityConfiguration host) s = .next (emit (.mailbox host (if hostVersion s host = 3 then .regions (((List.range 8).filter (fun n => rgEnable (swReg s n))).map (fun n => (n, dpaOf n 0 0, rgExtents (swReg s n) * 2 ^ 28))) (2 ^ 28) else .unsupported)) s))
    ∧ (∀ (s : State) (host : Nat), exec (.getDynamicCapacityExtentList host) s = .next (emit (.mailbox host (if hostVersion s host = 3 then .extents (grantedTo s host) else .unsupported)) s))
    ∧ (∀ (s : State) (host : Nat) (dynamic : Bool), exec (.getEventRecords host dynamic) s = .next (emit (.mailbox host (if hostVersion s host = 0 then .unsupported else .events (if dynamic then amGetD s.win.capLogs host [] else []))) s))
    ∧ (∀ (s : State) (host : Nat) (dynamic : Bool) (n : Nat), hostVersion s host ≠ 0 →
      exec (.clearEventRecords host dynamic n) s = .next (emit (.mailbox host .done) (if dynamic then modWin s (fun w => { w with capLogs := amSet w.capLogs host ((amGetD w.capLogs host []).drop n) }) else s)))
    ∧ (∀ (s : State) (port ld : Nat), switchedPort s port = true → ld < 16 → s.win.lds.contains ((1 - port) * 16 + ld) = false →
      exec (.bindLd port ld) s = .next (emit (.mailbox ld .done) (modWin s (fun w => { w with lds := if w.lds.contains (port * 16 + ld) then w.lds else insertBy id (port * 16 + ld) w.lds }))))
    ∧ (∀ (s : State) (port ld : Nat), switchedPort s port = true → (16 ≤ ld ∨ s.win.lds.contains ((1 - port) * 16 + ld) = true) →
      exec (.bindLd port ld) s = .next (emit (.mailbox ld .invalidInput) s))
    ∧ (∀ (s : State) (port ld : Nat), switchedPort s port = true →
      exec (.unbindLd port ld) s = .next (emit (.mailbox ld .done) (modWin s (fun w => { w with lds := w.lds.filter (· != port * 16 + ld) }))))
    ∧ (∀ (s : State) (port : Nat), switchedPort s port = true →
      exec (.getLdInfo port) s = .next (emit (.mailbox 0 (.lds ((s.win.lds.filter (fun k => k / 16 == port)).map (fun k => (k / 16, k % 16))) 16)) s))

/-- With the media READY or READ_ONLY: FLASH_READ_DONE counts the bytes read and how the unit decoded, marks a rebuilt shingle for rebuilding, and loses a row that could not be rebuilt. PROGRAM_DONE marks the row's unit, and finishes the row with its last; a failed one cuts the shingle there and retires the unit. ERASE_DONE counts the erase, frees the shingle with the last of its units, and retires a unit that failed. FLASH_OPERATION_TIMEOUT counts on the LUN and fails it with the third in a row. -/
def Obligations.FlashOperationsTakeEffect : Prop :=
  (∀ (s : State) (n row unit : Nat) (o : UnitRead) (sh : Shingle) (l : Lun), amGet s.media.shingles n = some sh → amGet s.media.luns ((sh.units.drop unit).headD 0 / 65536) = some l → l.online = true → ((s.media.state = 3 ∨ s.media.state = 4)) → sh.st ≠ .erasing → row < sh.rows → unit < sh.units.length →
      exec (.flashReadDone n row unit o) s = .next (match o with | .rebuilt => markRebuild (noteDecode (modMedia (lunAnswered (noteRead s n unit) ((sh.units.drop unit).headD 0 / 65536)) (fun m => { m with bytesRead := (m.bytesRead + (match o with | .rebuilt => sh.units.length | .lost => sh.units.length | _ => 1) * (mProfile (lunAnswered (noteRead s n unit) ((sh.units.drop unit).headD 0 / 65536))).unit) % 2 ^ 64 })) ((sh.units.drop unit).headD 0 / 65536) o) n | .lost => loseRow (markRebuild (noteDecode (modMedia (lunAnswered (noteRead s n unit) ((sh.units.drop unit).headD 0 / 65536)) (fun m => { m with bytesRead := (m.bytesRead + (match o with | .rebuilt => sh.units.length | .lost => sh.units.length | _ => 1) * (mProfile (lunAnswered (noteRead s n unit) ((sh.units.drop unit).headD 0 / 65536))).unit) % 2 ^ 64 })) ((sh.units.drop unit).headD 0 / 65536) o) n) n row sh | _ => (noteDecode (modMedia (lunAnswered (noteRead s n unit) ((sh.units.drop unit).headD 0 / 65536)) (fun m => { m with bytesRead := (m.bytesRead + (match o with | .rebuilt => sh.units.length | .lost => sh.units.length | _ => 1) * (mProfile (lunAnswered (noteRead s n unit) ((sh.units.drop unit).headD 0 / 65536))).unit) % 2 ^ 64 })) ((sh.units.drop unit).headD 0 / 65536) o)))
    ∧ (∀ (s : State) (n row unit : Nat) (o : UnitRead) (sh : Shingle) (l : Lun), amGet s.media.shingles n = some sh → amGet s.media.luns ((sh.units.drop unit).headD 0 / 65536) = some l → l.online = false → ((s.media.state = 3 ∨ s.media.state = 4)) → sh.st ≠ .erasing → row < sh.rows → unit < sh.units.length → (o = UnitRead.rebuilt ∨ o = UnitRead.lost) →
      exec (.flashReadDone n row unit o) s = .next (match o with | .rebuilt => markRebuild (noteDecode (modMedia s (fun m => { m with bytesRead := (m.bytesRead + (match o with | .rebuilt => sh.units.length | .lost => sh.units.length | _ => 1) * (mProfile s).unit) % 2 ^ 64 })) ((sh.units.drop unit).headD 0 / 65536) o) n | .lost => loseRow (markRebuild (noteDecode (modMedia s (fun m => { m with bytesRead := (m.bytesRead + (match o with | .rebuilt => sh.units.length | .lost => sh.units.length | _ => 1) * (mProfile s).unit) % 2 ^ 64 })) ((sh.units.drop unit).headD 0 / 65536) o) n) n row sh | _ => (noteDecode (modMedia s (fun m => { m with bytesRead := (m.bytesRead + (match o with | .rebuilt => sh.units.length | .lost => sh.units.length | _ => 1) * (mProfile s).unit) % 2 ^ 64 })) ((sh.units.drop unit).headD 0 / 65536) o)))
    ∧ (∀ (s : State) (n unit : Nat) (sh : Shingle), amGet s.media.shingles n = some sh → ((s.media.state = 3 ∨ s.media.state = 4)) → (sh.st = .opened ∨ sh.st = .closed) → sh.rows < rowsDue s sh → unit < sh.units.length → sh.rowUnits.contains unit = false →
      exec (.programDone n unit true) s = .next (if sh.rowUnits.length + 1 = sh.units.length then finishRow (modShingle (lunAnswered s ((sh.units.drop unit).headD 0 / 65536)) n (fun x => { x with rowUnits := unit :: x.rowUnits })) n else (modShingle (lunAnswered s ((sh.units.drop unit).headD 0 / 65536)) n (fun x => { x with rowUnits := unit :: x.rowUnits }))))
    ∧ (∀ (s : State) (n unit : Nat) (sh : Shingle), amGet s.media.shingles n = some sh → ((s.media.state = 3 ∨ s.media.state = 4)) → (sh.st = .opened ∨ sh.st = .closed) → sh.rows < rowsDue s sh → unit < sh.units.length → sh.rowUnits.contains unit = false →
      exec (.programDone n unit false) s = .next (retireUnit (cutShingle (lunAnswered s ((sh.units.drop unit).headD 0 / 65536)) n) ((sh.units.drop unit).headD 0)))
    ∧ (∀ (s : State) (n unit : Nat) (ok : Bool) (sh : Shingle), amGet s.media.shingles n = some sh → ((s.media.state = 3 ∨ s.media.state = 4)) → sh.st = .erasing → unit < sh.units.length → sh.erased.contains unit = false → (match amGet s.media.luns (((sh.units.drop unit).headD 0) / 65536) with | some l => !l.online | none => true) = false → ((List.range sh.units.length).all (fun i => (unit :: sh.erased).contains i || (match amGet s.media.luns ((sh.units.drop i).headD 0 / 65536) with | some l => !l.online | none => true))) = true →
      exec (.eraseDone n unit ok) s = .next (if ok then settleMedia (noteScrubbed (modMedia (if ok then modMedia (lunAnswered s ((sh.units.drop unit).headD 0 / 65536)) (fun m => { m with erases := amSet m.erases ((sh.units.drop unit).headD 0) (amGetD m.erases ((sh.units.drop unit).headD 0) 0 + 1) }) else (lunAnswered s ((sh.units.drop unit).headD 0 / 65536))) (fun m => { m with shingles := amErase m.shingles n })) n) else retireUnit (noteScrubbed (modMedia (if ok then modMedia (lunAnswered s ((sh.units.drop unit).headD 0 / 65536)) (fun m => { m with erases := amSet m.erases ((sh.units.drop unit).headD 0) (amGetD m.erases ((sh.units.drop unit).headD 0) 0 + 1) }) else (lunAnswered s ((sh.units.drop unit).headD 0 / 65536))) (fun m => { m with shingles := amErase m.shingles n })) n) ((sh.units.drop unit).headD 0)))
    ∧ (∀ (s : State) (n unit : Nat) (ok : Bool) (sh : Shingle), amGet s.media.shingles n = some sh → ((s.media.state = 3 ∨ s.media.state = 4)) → sh.st = .erasing → unit < sh.units.length → sh.erased.contains unit = false → (match amGet s.media.luns (((sh.units.drop unit).headD 0) / 65536) with | some l => !l.online | none => true) = false → ((List.range sh.units.length).all (fun i => (unit :: sh.erased).contains i || (match amGet s.media.luns ((sh.units.drop i).headD 0 / 65536) with | some l => !l.online | none => true))) = false →
      exec (.eraseDone n unit ok) s = .next (if ok then settleMedia (modShingle (if ok then modMedia (lunAnswered s ((sh.units.drop unit).headD 0 / 65536)) (fun m => { m with erases := amSet m.erases ((sh.units.drop unit).headD 0) (amGetD m.erases ((sh.units.drop unit).headD 0) 0 + 1) }) else (lunAnswered s ((sh.units.drop unit).headD 0 / 65536))) n (fun x => { x with erased := unit :: sh.erased })) else retireUnit (modShingle (if ok then modMedia (lunAnswered s ((sh.units.drop unit).headD 0 / 65536)) (fun m => { m with erases := amSet m.erases ((sh.units.drop unit).headD 0) (amGetD m.erases ((sh.units.drop unit).headD 0) 0 + 1) }) else (lunAnswered s ((sh.units.drop unit).headD 0 / 65536))) n (fun x => { x with erased := unit :: sh.erased })) ((sh.units.drop unit).headD 0)))
    ∧ (∀ (s : State) (ch place : Nat) (l : Lun), amGet s.media.luns (ch * 32 + place) = some l → l.online = true → place < 32 → ((s.media.state = 3 ∨ s.media.state = 4)) →
      exec (.flashOperationTimeout ch place) s = .next (if 3 ≤ l.timeouts + 1 then failLun (modMedia s (fun m => { m with luns := amSet m.luns (ch * 32 + place) { l with timeouts := l.timeouts + 1 } })) (ch * 32 + place) else (modMedia s (fun m => { m with luns := amSet m.luns (ch * 32 + place) { l with timeouts := l.timeouts + 1 } }))))

/-- ROW_FILL_TIMEOUT fills the open row of a shingle 1 ms after it began. RELOCATE_SHINGLE, with no relocation domain held, relocates the next shingle that is due. RETENTION_SCAN of a closed shingle counts its reads, records when and what it found, and marks the shingle for refresh where a unit corrected too much or needed a retry, or the shingle is too old. REFRESH_BEHIND posts once when a marked shingle has waited for a day. FORMAT_RECORD_HOURLY rewrites the wall time of the format record every hour. -/
def Obligations.MediaTimersTakeEffect : Prop :=
  (∀ (s : State) (n pm : Nat) (sh : Shingle), amGet s.media.shingles n = some sh → sh.st = .opened → sh.ptr % rowBlocks s sh.chans.length ≠ 0 → sh.partSince + 1000000 ≤ max s.postmark pm →
      exec (.rowFillTimeout n pm) s = .next (fillRow (advance pm s) n))
    ∧ (∀ (s : State) (pm : Nat) (n why : Nat), (amHas s.pow.holds 37 || amHas s.pow.holds 38 || amHas s.pow.holds 39) = false → (s.media.state = 3 ∨ (s.media.state = 4 ∧ 0 < freeShingles s)) → relocateNext (advance pm s) = some (n, why) →
      exec (.relocateShingle pm) s = .next (relocate (advance pm s) n why))
    ∧ (∀ (s : State) (n : Nat) (results : List (Nat × Bool)) (pm : Nat) (sh : Shingle), amGet s.media.shingles n = some sh → ((s.media.state = 3 ∨ s.media.state = 4)) → sh.st = .closed → results.length = sh.units.length →
      exec (.retentionScan n results pm) s = .next (if (results.any (fun r => decide ((mProfile (advance pm s)).refreshBits < r.1) || r.2) || decide ((mProfile (advance pm s)).refreshDays * dayNs < shAge (modMedia (modShingle ((List.range results.length).foldl (fun u i => noteRead u n i) (advance pm s)) n (fun x => { x with scanned := ((List.range results.length).foldl (fun u i => noteRead u n i) (advance pm s)).postmark, corrected := (List.range results.length).map (fun i => (i, ((results.drop i).headD (0, false)).1)) })) (fun m => { m with bytesRead := (m.bytesRead + results.length * (mProfile (advance pm s)).unit) % 2 ^ 64, retried := m.retried + results.countP (fun r => r.2) })) sh)) = true then markRefresh (modMedia (modShingle ((List.range results.length).foldl (fun u i => noteRead u n i) (advance pm s)) n (fun x => { x with scanned := ((List.range results.length).foldl (fun u i => noteRead u n i) (advance pm s)).postmark, corrected := (List.range results.length).map (fun i => (i, ((results.drop i).headD (0, false)).1)) })) (fun m => { m with bytesRead := (m.bytesRead + results.length * (mProfile (advance pm s)).unit) % 2 ^ 64, retried := m.retried + results.countP (fun r => r.2) })) n else (modMedia (modShingle ((List.range results.length).foldl (fun u i => noteRead u n i) (advance pm s)) n (fun x => { x with scanned := ((List.range results.length).foldl (fun u i => noteRead u n i) (advance pm s)).postmark, corrected := (List.range results.length).map (fun i => (i, ((results.drop i).headD (0, false)).1)) })) (fun m => { m with bytesRead := (m.bytesRead + results.length * (mProfile (advance pm s)).unit) % 2 ^ 64, retried := m.retried + results.countP (fun r => r.2) }))))
    ∧ (∀ (s : State) (pm : Nat), (rearmBehind (advance pm s)).media.behindPosted = false → (((rearmBehind (advance pm s)).media.state = 3 ∨ (rearmBehind (advance pm s)).media.state = 4)) → (refreshWaiting (rearmBehind (advance pm s))).any (fun e => decide (e.2 + 86400000000000 < (rearmBehind (advance pm s)).postmark)) = true →
      exec (.refreshBehind pm) s = .next (postPf (modMedia (rearmBehind (advance pm s)) (fun m => { m with behindPosted := true })) 0x0607 0 ((refreshWaiting (rearmBehind (advance pm s))).length % 2 ^ 32)))
    ∧ (∀ (s : State) (pm : Nat), s.media.wallOffset.isSome = true → ((s.media.state = 3 ∨ s.media.state = 4)) → s.media.hourPm + 3600000000000 ≤ max s.postmark pm →
      exec (.formatRecordHourly pm) s = .next (modMedia (advance pm s) (fun m => { m with hourPm := max s.postmark pm, format := m.format.map (fun r => { r with wall := wallWord (advance pm s) }) })))

/-- ISTHMUS_HEARTBEAT sends a heartbeat on each half that is up. BUDDY_HEARTBEAT on a link records that the buddy lives. BUDDY_LOST with a bound buddy silent for 1 ms, BUDDY_ANNOUNCE of a removal, and BUDDY_RESTART_TIMEOUT end the pair; an announced restart waits 3 s for it. LINK_DEGRADED lowers a half's lanes and posts; with no lane left on either, the running epoch is torn. ISTHMUS_HALF_UP brings a half up to a device of the other strap. PAIR_KEY_UPDATE changes a half's key. BUDDY_PAIR_BIND records the buddy's announcement and binds where both agree. -/
def Obligations.IsthmusEventsTakeEffect : Prop :=
  (∀ (s : State) (pm : Nat), exec (.isthmusHeartbeat pm) s = .next (if (getHalf (if (getHalf (advance pm s) 0).lanes = 0 then (advance pm s) else emit (.isthmus (.heartbeat 0)) (setHalf (advance pm s) 0 (fun h => { h with flits := h.flits + 1 }))) 1).lanes = 0 then (if (getHalf (advance pm s) 0).lanes = 0 then (advance pm s) else emit (.isthmus (.heartbeat 0)) (setHalf (advance pm s) 0 (fun h => { h with flits := h.flits + 1 }))) else emit (.isthmus (.heartbeat 1)) (setHalf (if (getHalf (advance pm s) 0).lanes = 0 then (advance pm s) else emit (.isthmus (.heartbeat 0)) (setHalf (advance pm s) 0 (fun h => { h with flits := h.flits + 1 }))) 1 (fun h => { h with flits := h.flits + 1 }))))
    ∧ (∀ (s : State) (pm : Nat), linked s = true →
      exec (.buddyHeartbeat pm) s = .next (modPair (advance pm s) (fun p => { p with lastFlit := max s.postmark pm, restartUntil := none })))
    ∧ (∀ (s : State) (pm : Nat), bound s = true → s.pair.restartUntil = none → s.pair.lastFlit + 1000000 ≤ max s.postmark pm →
      exec (.buddyLost pm) s = .next (loseBuddy (advance pm s)))
    ∧ (∀ (s : State) (pm : Nat), bound (advance pm (leaveFlit s)) = true →
      exec (.buddyAnnounce true pm) s = .next (modPair (tearEpoch (advance pm (leaveFlit s))) (fun p => { p with restartUntil := some ((advance pm (leaveFlit s)).postmark + 3000000000) })))
    ∧ (∀ (s : State) (pm : Nat), bound (advance pm (leaveFlit s)) = true →
      exec (.buddyAnnounce false pm) s = .next (loseBuddy (advance pm (leaveFlit s))))
    ∧ (∀ (s : State) (pm until_ : Nat), s.pair.restartUntil = some until_ → until_ ≤ max s.postmark pm →
      exec (.buddyRestartTimeout pm) s = .next (loseBuddy (advance pm s)))
    ∧ (∀ (s : State) (half lanes : Nat), half < 2 → lanes < (getHalf s half).lanes → (lanes = 0 ∨ lanes = 8) →
      exec (.linkDegraded half lanes) s = .next (if linked (postPf (setHalf s half (fun h => { h with lanes := lanes })) 0x0709 half lanes) then (postPf (setHalf s half (fun h => { h with lanes := lanes })) 0x0709 half lanes) else tearEpoch (postPf (setHalf s half (fun h => { h with lanes := lanes })) 0x0709 half lanes)))
    ∧ (∀ (s : State) (half lanes : Nat) (peerStrap : Bool) (pm : Nat), half < 2 → (lanes = 8 ∨ lanes = 16) → (getHalf s half).lanes = 0 → peerStrap ≠ s.pair.strap → s.faults.regionsDown.contains (6 + half) = false → s.faults.runs.any (fun q => q.region == 6 + half || q.region == 8) = false →
      exec (.isthmusHalfUp half lanes peerStrap pm) s = .next (if lanes = 8 then postPf (modPair (setHalf (advance pm s) half (fun h => { h with lanes := lanes, flits := 0, keySince := max s.postmark pm })) (fun p => { p with lastFlit := max s.postmark pm })) 0x0709 half 8 else (modPair (setHalf (advance pm s) half (fun h => { h with lanes := lanes, flits := 0, keySince := max s.postmark pm })) (fun p => { p with lastFlit := max s.postmark pm }))))
    ∧ (∀ (s : State) (half pm : Nat), half < 2 → bound s = true → (getHalf s half).lanes ≠ 0 → (2 ^ 32 ≤ (getHalf s half).flits ∨ (getHalf s half).keySince + dayNs ≤ max s.postmark pm) →
      exec (.pairKeyUpdate half pm) s = .next (emit (.isthmus (.keyUpdate half)) (setHalf (advance pm s) half (fun h => { h with flits := 0, keySince := max s.postmark pm, keyGen := h.keyGen + 1 }))))
    ∧ (∀ (s : State) (dev names reservePct parkPct : Nat) (reserved : Bool), linked (leaveFlit s) = true → bound (leaveFlit s) = false → reservePct ≤ 50 → parkPct ≤ 100 →
      exec (.buddyPairBind dev names reservePct parkPct reserved) s = .next (tryBind (modPair (leaveFlit s) (fun p => { p with announced := some (dev, names, reservePct, parkPct), noFrames := !reserved }))))

/-- PARK_COPY stores a copy in the hosted park area where it fits and overlaps none; MIRROR_COPY writes a mirror copy to the media; RELEASE_NOTICE lets go of what it names. EPOCH_START begins an epoch when one is due. CHECKPOINT_DELTA adds an item to the open slot of its epoch; COMMIT_RECORD commits the slot when the record checks, and answers; EPOCH_COMMITTED commits the own epoch. HARBOUR_READ is answered from the harbour. ISTHMUS_READ_DATA gives a flood, a lost media copy, a device restore or an in-place restore what it asked for. -/
def Obligations.HarbourCopiesTakeEffect : Prop :=
  (∀ (s : State) (loc : Nat) (c : PageCopy) (h : Harbour), (leaveFlit s).pair.hosted = some h → loc + (parkFramesOf c.body.length) ≤ h.parkMax → h.park.any (fun e => decide (e.1 < loc + (parkFramesOf c.body.length)) && decide (loc < e.1 + parkFramesOf e.2.body.length)) = false →
      exec (.parkCopy loc c) s = .next (modPair (leaveFlit s) (fun p => { p with hosted := some { h with park := amSet h.park loc c } })))
    ∧ (∀ (s : State) (c : PageCopy) (loc : Nat) (u : State), bound (leaveFlit s) = true → (leaveFlit s).media.state = 3 → (leaveFlit s).media.mirrors.length < 4194304 → mediaPlace (leaveFlit s) 6 { handle := c.handle, device := c.device, mirror := true, tail := c.tail, blocks := copyBlocks c.body.length, copy := { account := c.account, layer := c.layer, page := c.page, size := c.body.length, format := c.format, gen := c.gen, filled := c.filled, narrowed := c.narrowed, mirrored := false, chainId := if c.chainId = 0 then none else some c.chainId }, body := c.body } = (some loc, u) →
      exec (.mirrorCopy c) s = .next (modMedia u (fun m => { m with mirrors := ({ device := c.device, handle := c.handle, layer := c.layer, page := c.page, gen := c.gen }, loc) :: m.mirrors.filter (fun e => e.1 != { device := c.device, handle := c.handle, layer := c.layer, page := c.page, gen := c.gen }) })))
    ∧ (∀ (s : State) (handle layer page gen : Nat), exec (.releaseNotice (.mirror handle layer page gen)) s = .next (releaseMirrorKey (leaveFlit s) { device := (leaveFlit s).pair.buddy, handle := handle, layer := layer, page := page, gen := gen }))
    ∧ (∀ (s : State) (loc : Nat), exec (.releaseNotice (.park loc)) s = .next (modPair (leaveFlit s) (fun p => { p with hosted := p.hosted.map (fun h => { h with park := amErase h.park loc }) })))
    ∧ (∀ (s : State) (a : Nat), exec (.releaseNotice (.account a)) s = .next (modPair (dropMirrors (leaveFlit s) (fun k => k.device == (leaveFlit s).pair.buddy && handleAccount k.handle == a)) (fun p => { p with hosted := p.hosted.map (fun h => { h with park := amFilter h.park (fun _ c => c.account != a) }) })))
    ∧ (∀ (s : State) (h : Harbour), (leaveFlit s).pair.hosted = some h →
      exec (.releaseNotice .everything) s = .next (modPair (dropMirrors (freeHarbour (leaveFlit s) h) (fun k => k.device == (leaveFlit s).pair.buddy)) (fun p => { p with hosted := none, releasePending := [] })))
    ∧ (∀ (s : State) (source : Nat) (h : Harbour), amGet (leaveFlit s).pair.frozen source = some h →
      exec (.releaseNotice (.frozen source)) s = .next (modPair (dropMirrors (freeHarbour (leaveFlit s) h) (fun k => k.device == source)) (fun p => { p with frozen := amErase p.frozen source })))
    ∧ (∀ (s : State) (pm : Nat), epochDue (advance pm s) = true →
      exec (.epochStart pm) s = .next (startEpoch (advance pm s)))
    ∧ (∀ (s : State) (epoch : Nat) (item : CkptItem) (bytes : List Byte) (h : Harbour), (leaveFlit s).pair.hosted = some h → bound (leaveFlit s) = true →
      exec (.checkpointDelta epoch item bytes) s = .next (modPair (leaveFlit s) (fun p => { p with hosted := some { (applyItem epoch (match h.cur with | some (b, _, _) => if b = epoch then h else openSlot h epoch | none => openSlot h epoch) item) with cur := (applyItem epoch (match h.cur with | some (b, _, _) => if b = epoch then h else openSlot h epoch | none => openSlot h epoch) item).cur.map (fun c => (c.1, c.2.1 + bytes.length, crc64Go c.2.2 bytes)) } })))
    ∧ (∀ (s : State) (r : CommitRecord) (h k : Harbour) (e n crc : Nat), (leaveFlit s).pair.hosted = some h → (match h.cur with | some (b, _, _) => if b = r.epoch then h else openSlot h r.epoch | none => openSlot h r.epoch) = k → k.cur = some (e, n, crc) → bound (leaveFlit s) = true → recordValid r (r.epoch % 2) k.source = true → n = r.byteCount → (crc ^^^ 0xFFFFFFFFFFFFFFFF) = r.epochCrc → namesMade k (if r.epoch % 2 = 0 then k.slotA else k.slotB) = true →
      exec (.commitRecord r) s = .next (isthmus (modPair (dropMirrors (modPair (leaveFlit s) (fun p => { p with hosted := some (writeRecord k r) })) (fun q => ((modPair (leaveFlit s) (fun p => { p with hosted := some (writeRecord k r) })).pair.releasePending.filter (fun q => !slotNamesMirror (writeRecord k r) q)).contains q)) (fun p => { p with releasePending := p.releasePending.filter (fun q => !((modPair (leaveFlit s) (fun p => { p with hosted := some (writeRecord k r) })).pair.releasePending.filter (fun q => !slotNamesMirror (writeRecord k r) q)).contains q) })) (.committed r.epoch)))
    ∧ (∀ (s : State) (epoch : Nat) (r : EpochRun), (leaveFlit s).pair.run = some r → r.num = epoch → bound (leaveFlit s) = true →
      exec (.epochCommitted epoch) s = .next (commitEpoch (leaveFlit s) r))
    ∧ (∀ (s : State) (source req : Nat) (ask : HarbourAsk), exec (.harbourRead source req ask) s = .next (isthmus (harbourServe (leaveFlit s) source ask).1 (.data req (harbourServe (leaveFlit s) source ask).2)))
    ∧ (∀ (s : State) (req d key : Nat) (c : PageCopy), amGet (leaveFlit s).pair.reads req = some (.flood d key) →
      exec (.isthmusReadData req (.copy c)) s = .next (arriveCopy (modPair (leaveFlit s) (fun p => { p with reads := amErase p.reads req })) d key c))
    ∧ (∀ (s : State) (req d key : Nat) (data : HarbourData), amGet (leaveFlit s).pair.reads req = some (.flood d key) → (∀ c, data ≠ .copy c) →
      exec (.isthmusReadData req data) s = .next (loseSession (modPair (leaveFlit s) (fun p => { p with reads := amErase p.reads req })) d 2))
    ∧ (∀ (s : State) (req loc : Nat) (c : PageCopy) (m : MediaCopy), amGet (leaveFlit s).pair.reads req = some (.mirror loc) → mediaAt (modPair (leaveFlit s) (fun p => { p with reads := amErase p.reads req })) loc = some m →
      exec (.isthmusReadData req (.copy c)) s = .next ({ (modMedia (modPair (leaveFlit s) (fun p => { p with reads := amErase p.reads req })) (fun k => { k with fromBuddy := k.fromBuddy + 1 })) with copies := amMod (modPair (leaveFlit s) (fun p => { p with reads := amErase p.reads req })).copies (copyKey 3 loc) (fun old => { old with rows := parseBody (((modPair (leaveFlit s) (fun p => { p with reads := amErase p.reads req })).sessions.find? (fun e => e.2.handle == m.handle)).elim [] (fun e => sessProfile (modPair (leaveFlit s) (fun p => { p with reads := amErase p.reads req })) e.2)) c.body old.format old.filled }) }))
    ∧ (∀ (s : State) (req : Nat) (i : HarbourImage) (q : RestoreRun), amGet (leaveFlit s).pair.reads req = some .device → (leaveFlit s).pair.restore = some q →
      exec (.isthmusReadData req (.image i)) s = .next (restoreImage (modPair (leaveFlit s) (fun p => { p with reads := amErase p.reads req })) q i))
    ∧ (∀ (s : State) (req d cause : Nat) (i : HarbourImage), amGet (leaveFlit s).pair.reads req = some (.session d cause) →
      exec (.isthmusReadData req (.image i)) s = .next (restoreInPlace (modPair (leaveFlit s) (fun p => { p with reads := amErase p.reads req })) d cause i))
    ∧ (∀ (s : State) (req d cause : Nat), amGet (leaveFlit s).pair.reads req = some (.session d cause) →
      exec (.isthmusReadData req .nothing) s = .next (resolveWait (failSession (modPair (leaveFlit s) (fun p => { p with reads := amErase p.reads req })) d cause) (.restored d) { status := .version }))

/-- On a device that is up and not beached, after containments that have ended are settled: each kind of error detected is raised at the level, with the kind, the unit and the object that the tables give it, in one place for cell, block, region and chip errors, with block and region errors of chip C_0 raised as chip errors. A rail out of range or a PMB alert faults the regions it feeds. CORRECTED_ERROR counts its class, and moves a frame with 16 corrected errors in a day. The alert line follows. -/
def Obligations.ErrorsAreDetected : Prop :=
  (∀ (s : State) (region block cell info pm : Nat), s.boot.stage = 3 → s.beached = false →
      exec (.attentionCellError region block cell info pm) s = .next (noteAlert s (detect (settleContained (advance pm s)) { level := 0, kind := 0x01, unit := { region := region, kind := 1, index := block, cell := some cell }, what := .attnCell, info := info, pm := (settleContained (advance pm s)).postmark })))
    ∧ (∀ (s : State) (region kind index cell info pm : Nat), s.boot.stage = 3 → s.beached = false →
      exec (.cellError region kind index cell info pm) s = .next (noteAlert s (detect (settleContained (advance pm s)) { level := 0, kind := 0x02, unit := { region := region, kind := kind, index := index, cell := some cell }, what := .cell, info := info, pm := (settleContained (advance pm s)).postmark })))
    ∧ (∀ (s : State) (region cell info dur pm : Nat), s.boot.stage = 3 → s.beached = false →
      exec (.connectionCacheError region cell info dur pm) s = .next (noteAlert s (detect (settleContained (advance pm s)) { level := 0, kind := 0x03, unit := { region := region, kind := 8, cell := some cell }, what := .connCell, info := info, pm := (settleContained (advance pm s)).postmark, until_ := some ((settleContained (advance pm s)).postmark + dur) })))
    ∧ (∀ (s : State) (block core info pm : Nat), s.boot.stage = 3 → s.beached = false →
      exec (.coreError block core info pm) s = .next (noteAlert s (detect (settleContained (advance pm s)) { level := 0, kind := 0x04, unit := { region := 8, kind := 11, index := block, cell := some core }, what := .core, info := info, pm := (settleContained (advance pm s)).postmark })))
    ∧ (∀ (s : State) (region kind index info dur pm : Nat), s.boot.stage = 3 → s.beached = false →
      exec (.blockError region kind index info dur pm) s = .next (noteAlert s (detect (settleContained (advance pm s)) { level := 1, kind := 0x10, unit := { region := region, kind := kind, index := index }, what := .block, info := info, pm := (settleContained (advance pm s)).postmark, until_ := some ((settleContained (advance pm s)).postmark + dur) })))
    ∧ (∀ (s : State) (d info dur pm : Nat), s.boot.stage = 3 → s.beached = false →
      exec (.descriptorCacheError d info dur pm) s = .next (noteAlert s (detect (settleContained (advance pm s)) { level := 1, kind := 0x11, unit := { region := d % 6, kind := 5 }, what := .descEntry d, object := (descOwner (settleContained (advance pm s)) d).1, info := info, account := (descOwner (settleContained (advance pm s)) d).2.1, partition := (descOwner (settleContained (advance pm s)) d).2.2, pm := (settleContained (advance pm s)).postmark, until_ := some ((settleContained (advance pm s)).postmark + dur) })))
    ∧ (∀ (s : State) (stack frame : Nat) (object : HbmObject) (info dur pm : Nat), s.boot.stage = 3 → s.beached = false →
      exec (.hbmUncorrectable stack frame object info dur pm) s = .next (noteAlert s (detect (settleContained (advance pm s)) { level := 1, kind := 0x12, unit := { region := stack / 2, kind := 4, index := stack % 2 }, what := .hbm stack frame object, object := (hbmOwner (settleContained (advance pm s)) object).1, info := info, account := (hbmOwner (settleContained (advance pm s)) object).2.1, partition := (hbmOwner (settleContained (advance pm s)) object).2.2, pm := (settleContained (advance pm s)).postmark, until_ := some ((settleContained (advance pm s)).postmark + dur) })))
    ∧ (∀ (s : State) (region info pm : Nat), s.boot.stage = 3 → s.beached = false →
      exec (.regionError region info pm) s = .next (noteAlert s (detect (settleContained (advance pm s)) { level := 2, kind := 0x20, unit := { region := region }, what := .region, info := info, pm := (settleContained (advance pm s)).postmark })))
    ∧ (∀ (s : State) (info pm : Nat), s.boot.stage = 3 → s.beached = false →
      exec (.chipError info pm) s = .next (noteAlert s (detect (settleContained (advance pm s)) { level := 3, kind := 0x30, unit := { region := 8, kind := 16 }, what := .chip, info := info, pm := (settleContained (advance pm s)).postmark })))
    ∧ (∀ (s : State) (rail : Rail) (pm : Nat), s.boot.stage = 3 → s.beached = false →
      exec (.railOutOfRange rail pm) s = .next (noteAlert s ((railFeeds rail).foldl railFault (settleContained (advance pm s)))))
    ∧ (∀ (s : State) (region pm : Nat), s.boot.stage = 3 → s.beached = false →
      exec (.pmbAlertN region pm) s = .next (noteAlert s (railFault (settleContained (advance pm s)) region)))
    ∧ (∀ (s : State) (cls pm : Nat), s.boot.stage = 3 → s.beached = false →
      exec (.correctedError cls none pm) s = .next (noteAlert s ((modFaults (settleContained (advance pm s)) (fun f => { f with corrected := f.corrected.zipIdx.map (fun (n, i) => if i = cls then n + 1 else n) })))))
    ∧ (∀ (s : State) (cls k pm : Nat), s.boot.stage = 3 → s.beached = false →
      exec (.correctedError cls (some k) pm) s = .next (noteAlert s (if 16 ≤ ((modFaults (settleContained (advance pm s)) (fun f => { f with corrected := f.corrected.zipIdx.map (fun (n, i) => if i = cls then n + 1 else n) })).postmark :: (amGetD (modFaults (settleContained (advance pm s)) (fun f => { f with corrected := f.corrected.zipIdx.map (fun (n, i) => if i = cls then n + 1 else n) })).faults.frameHits k []).filter (fun p => decide ((modFaults (settleContained (advance pm s)) (fun f => { f with corrected := f.corrected.zipIdx.map (fun (n, i) => if i = cls then n + 1 else n) })).postmark < p + dayNs))).length then moveFrame (modFaults (modFaults (settleContained (advance pm s)) (fun f => { f with corrected := f.corrected.zipIdx.map (fun (n, i) => if i = cls then n + 1 else n) })) (fun f => { f with frameHits := amErase f.frameHits k })) (k / 2 ^ 20) (k % 2 ^ 20) else modFaults (modFaults (settleContained (advance pm s)) (fun f => { f with corrected := f.corrected.zipIdx.map (fun (n, i) => if i = cls then n + 1 else n) })) (fun f => { f with frameHits := amSet f.frameHits k ((modFaults (settleContained (advance pm s)) (fun f => { f with corrected := f.corrected.zipIdx.map (fun (n, i) => if i = cls then n + 1 else n) })).postmark :: (amGetD (modFaults (settleContained (advance pm s)) (fun f => { f with corrected := f.corrected.zipIdx.map (fun (n, i) => if i = cls then n + 1 else n) })).faults.frameHits k []).filter (fun p => decide ((modFaults (settleContained (advance pm s)) (fun f => { f with corrected := f.corrected.zipIdx.map (fun (n, i) => if i = cls then n + 1 else n) })).postmark < p + dayNs))) }))))
    ∧ (∀ (s : State) (e : ErrRec), ¬ (e.unit.region = 8 ∧ (e.level = 1 ∨ e.level = 2)) → detect s e = raiseError 6 s e)
    ∧ (∀ (s : State) (e : ErrRec), e.unit.region = 8 → (e.level = 1 ∨ e.level = 2) → detect s e = raiseError 6 s { e with level := 3, kind := 0x30, what := .chip, until_ := none })

/-- CELL_SELF_TEST_DONE ends the handling of its cell and retires it where it failed the test, is a harbourmaster core that failed, or erred three times in a day. REGION_RETURN ends the restart of a region: it comes back with a passed test, and is out with a failed one. CHIP_RESTART_DONE closes the Tideway, resets every function, ends every consent, brings the device back, restores what was dirty and counts the restart. -/
def Obligations.FaultRecoveryTakesEffect : Prop :=
  (∀ (s : State) (region kind index cell : Nat) (pass : Bool) (again : List Nat) (pm : Nat) (h : ErrRec), s.boot.stage = 3 → s.beached = false → (settleContained (advance pm s)).faults.handling.find? (fun g => g.unit = ({ region := region, kind := kind, index := index, cell := some cell } : ErrUnit) && g.until_.isNone && g.level == 0) = some h →
      exec (.cellSelfTestDone region kind index cell pass again pm) s = .next (noteAlert s (if (!pass || (match hmCore ({ region := region, kind := kind, index := index, cell := some cell } : ErrUnit) with | some i => bit (endHandling (cellCount (settleContained (advance pm s)) ({ region := region, kind := kind, index := index, cell := some cell } : ErrUnit)).2 h again).hm.failed i | none => false) || decide (3 ≤ (cellCount (settleContained (advance pm s)) ({ region := region, kind := kind, index := index, cell := some cell } : ErrUnit)).1)) = true then retireCell (endHandling (cellCount (settleContained (advance pm s)) ({ region := region, kind := kind, index := index, cell := some cell } : ErrUnit)).2 h again) h else (endHandling (cellCount (settleContained (advance pm s)) ({ region := region, kind := kind, index := index, cell := some cell } : ErrUnit)).2 h again))))
    ∧ (∀ (s : State) (region : Nat) (pass : Bool) (again : List Nat) (pm : Nat) (h : ErrRec) (q : RegionRun), s.boot.stage = 3 → s.beached = false → (settleContained (advance pm s)).faults.handling.find? (fun g => g.level == 2 && g.unit.region == region) = some h → (settleContained (advance pm s)).faults.runs.find? (fun r => r.region == region) = some q →
      exec (.regionReturn region pass again pm) s = .next (noteAlert s (goOn (endHandling (if pass then regionBack (modFaults (settleContained (advance pm s)) (fun f => { f with runs := f.runs.filter (fun r => r.region != region) })) q else regionOut (modFaults (settleContained (advance pm s)) (fun f => { f with runs := f.runs.filter (fun r => r.region != region) })) region) h again))))
    ∧ (∀ (s : State) (again : List Nat) (pm : Nat) (h : ErrRec), s.boot.stage = 3 → s.beached = false → (settleContained (advance pm s)).faults.handling.find? (fun g => g.level == 3) = some h →
      exec (.chipRestartDone again pm) s = .next (noteAlert s (goOn (endHandling (emit (.platformEvent 0x0806 0) (rebooted (settleContained (advance pm s)))) h again))))

/-- LIGHTHOUSE_SOUNDING keeps the last 10 input powers and the last 1,000 soundings; LIGHTHOUSE_RECORD makes their record and interrupts the cores. PLDM_SENSOR_READ, VENDOR_STATUS and VENDOR_LOG answer once the self test runs, VENDOR_STATUS clearing the alert, ALERT_RESPONSE giving the address of a device whose alert line is low. PLDM_FIRMWARE_UPDATE writes a slot that is not the active one and activates an image that no check refuses, and answers whether it did. -/
def Obligations.TelemetryTakesEffect : Prop :=
  (∀ (s : State) (meters : Meters) (pm : Nat), s.aon = true →
      exec (.lighthouseSounding meters pm) s = .next (modFaults (modPow (advance pm s) (fun p => { p with inputs := (meters.inputMw :: p.inputs).take 10 })) (fun f => { f with soundings := (meters :: f.soundings).take 1000 })))
    ∧ (∀ (s : State) (pm : Nat), s.aon = true → s.faults.soundings ≠ [] →
      exec (.lighthouseRecord pm) s = .next (hmInterrupt (modFaults (advance pm s) (fun f => { f with soundings := [], record := some (recordNow (advance pm s)) }))))
    ∧ (∀ (s : State) (id : Nat), 2 ≤ s.boot.stage →
      exec (.pldmSensorRead id) s = .next (emit (.sensor id (s.faults.record.bind (fun r => sensorValue r id))) s))
    ∧ (∀ (s : State), 2 ≤ s.boot.stage →
      exec (.vendorStatus) s = .next (emit (.vendorStatus (faultStatus s) s.beached) (modFaults s (fun f => { f with alertSeen := alertWord s, alert := false }))))
    ∧ (∀ (s : State) (log off : Nat), 2 ≤ s.boot.stage →
      exec (.vendorLog log off) s = .next (emit (.vendorLog log off (((if log = 0x10 then errorLog s 0 (32 + 4096 * 64) else if log = 0x60 then lighthouseBytes s 0 else []).drop off).take 256)) s))
    ∧ (∀ (s : State), 2 ≤ s.boot.stage → s.faults.alert = true →
      exec (.alertResponse) s = .next (emit (.alertAddress (0x64 + s.boot.mgmt)) (modFaults s (fun f => { f with alert := false }))))
    ∧ (∀ (s : State) (slot off : Nat) (bs : List Byte), 3 ≤ s.boot.stage → s.beached = false → slot < 2 → off + bs.length ≤ 32505344 → (s.boot.stage = 4 ∨ slot = spareSlot s) →
      exec (.pldmFirmwareUpdate (.write slot off bs)) s = .next (emit (.pldmDone true) (storeImage s slot off bs)))
    ∧ (∀ (s : State) (slot off : Nat) (bs : List Byte), 3 ≤ s.boot.stage → s.beached = false → (2 ≤ slot ∨ 32505344 < off + bs.length ∨ (s.boot.stage ≠ 4 ∧ slot ≠ spareSlot s)) →
      exec (.pldmFirmwareUpdate (.write slot off bs)) s = .next (emit (.pldmDone false) s))
    ∧ (∀ (s : State) (slot : Nat) (found : SlotFound), 3 ≤ s.boot.stage → s.beached = false → slot < 2 → (activateRefuse s slot found).all (fun r => r.isNone) = true →
      exec (.pldmFirmwareUpdate (.activate slot found)) s = .next (emit (.pldmDone true) (activateSlot s slot)))
    ∧ (∀ (s : State) (slot : Nat) (found : SlotFound), 3 ≤ s.boot.stage → s.beached = false → (2 ≤ slot ∨ (activateRefuse s slot found).all (fun r => r.isNone) = false) →
      exec (.pldmFirmwareUpdate (.activate slot found)) s = .next (emit (.pldmDone false) s))

/-- Each SPDM request over an open transport ends slack water and is answered. GET_VERSION starts the negotiation anew, GET_CAPABILITIES and NEGOTIATE_ALGORITHMS move it on; digests, certificates, challenges and measurements need it complete, and a slot below 2. KEY_EXCHANGE opens a session under the lowest free number and FINISH makes it whole, or drops it where it does not verify. HEARTBEAT, KEY_UPDATE, END_SESSION and vendor-defined requests are answered in a whole session; outside one HEARTBEAT and END_SESSION, and outside any a vendor-defined request, are answered with an error and change nothing else. GET_VERSION over a closed transport changes nothing. -/
def Obligations.AttestationTakesEffect : Prop :=
  (∀ (s : State) (via : SpdmVia), spdmOpen s via = true →
      exec (.getVersion via) s = .next (emit (.spdm via (.version [0x12, 0x13])) (setPeer (leaveSlack s 6) via { (peerOf (leaveSlack s 6) via) with phase := 1 })))
    ∧ (∀ (s : State) (via : SpdmVia), spdmOpen s via = true → 1 ≤ (peerOf (leaveSlack s 6) via).phase →
      exec (.getCapabilities via) s = .next (emit (.spdm via (.capabilities 17)) (setPeer (leaveSlack s 6) via { (peerOf (leaveSlack s 6) via) with phase := max (peerOf (leaveSlack s 6) via).phase 2 })))
    ∧ (∀ (s : State) (via : SpdmVia) (supported : Bool), spdmOpen s via = true → 2 ≤ (peerOf (leaveSlack s 6) via).phase → supported = true →
      exec (.negotiateAlgorithms via supported) s = .next (emit (.spdm via .algorithms) (setPeer (leaveSlack s 6) via { (peerOf (leaveSlack s 6) via) with phase := 3 })))
    ∧ (∀ (s : State) (via : SpdmVia), spdmOpen s via = true → 3 ≤ (peerOf (leaveSlack s 6) via).phase →
      exec (.getDigests via) s = .next (emit (.spdm via (.digests [0, 1])) (leaveSlack s 6)))
    ∧ (∀ (s : State) (via : SpdmVia) (slot : Nat), spdmOpen s via = true → slot < 2 → 3 ≤ (peerOf (leaveSlack s 6) via).phase →
      exec (.getCertificate via slot) s = .next (emit (.spdm via (.certificate slot)) (leaveSlack s 6)))
    ∧ (∀ (s : State) (via : SpdmVia) (slot : Nat), spdmOpen s via = true → slot < 2 → 3 ≤ (peerOf (leaveSlack s 6) via).phase →
      exec (.challenge via slot) s = .next (emit (.spdm via (.challengeAuth slot)) (leaveSlack s 6)))
    ∧ (∀ (s : State) (via : SpdmVia) (index : Nat), spdmOpen s via = true → ((if index = 0xFF then List.range 0x50 else [index]).filterMap (fun i => (measureBlock (leaveSlack s 6) i).map (fun b => (i, b)))).isEmpty = false → 3 ≤ (peerOf (leaveSlack s 6) via).phase →
      exec (.getMeasurements via index) s = .next (emit (.spdm via (.measurements ((if index = 0xFF then List.range 0x50 else [index]).filterMap (fun i => (measureBlock (leaveSlack s 6) i).map (fun b => (i, b)))) (consentElement (leaveSlack s 6)))) (leaveSlack s 6)))
    ∧ (∀ (s : State) (via : SpdmVia) (slot : Nat), spdmOpen s via = true → 3 ≤ (peerOf (leaveSlack s 6) via).phase → slot < 2 →
      exec (.keyExchange via slot) s = .next (emit (.spdm via (.keyExchange (amLowestFree (peerOf (leaveSlack s 6) via).sessions 1))) (setPeer (leaveSlack s 6) via { (peerOf (leaveSlack s 6) via) with sessions := amSet (peerOf (leaveSlack s 6) via).sessions (amLowestFree (peerOf (leaveSlack s 6) via).sessions 1) false })))
    ∧ (∀ (s : State) (via : SpdmVia) (session : Nat), spdmOpen s via = true → amGet (peerOf (leaveSlack s 6) via).sessions session = some false →
      exec (.finish via session true) s = .next (emit (.spdm via (.finished session)) (setPeer (leaveSlack s 6) via { (peerOf (leaveSlack s 6) via) with sessions := amSet (peerOf (leaveSlack s 6) via).sessions session true })))
    ∧ (∀ (s : State) (via : SpdmVia) (session : Nat), spdmOpen s via = true → amGet (peerOf (leaveSlack s 6) via).sessions session = some false →
      exec (.finish via session false) s = .next (emit (.spdm via .error) (setPeer (leaveSlack s 6) via { (peerOf (leaveSlack s 6) via) with sessions := amErase (peerOf (leaveSlack s 6) via).sessions session })))
    ∧ (∀ (s : State) (via : SpdmVia) (session : Nat), spdmOpen s via = true → amGet (peerOf (leaveSlack s 6) via).sessions session = some true →
      exec (.spdmHeartbeat via session) s = .next (emit (.spdm via .heartbeat) (leaveSlack s 6)))
    ∧ (∀ (s : State) (via : SpdmVia) (session : Nat), spdmOpen s via = true → amGet (peerOf (leaveSlack s 6) via).sessions session = some true →
      exec (.spdmKeyUpdate via session) s = .next (emit (.spdm via .keyUpdated) (leaveSlack s 6)))
    ∧ (∀ (s : State) (via : SpdmVia) (session : Nat), spdmOpen s via = true → amGet (peerOf (leaveSlack s 6) via).sessions session = some true →
      exec (.endSession via session) s = .next (emit (.spdm via .ended) (setPeer (leaveSlack s 6) via { (peerOf (leaveSlack s 6) via) with sessions := amErase (peerOf (leaveSlack s 6) via).sessions session })))
    ∧ (∀ (s : State) (via : SpdmVia) (session : Nat) (req : VendorReq), spdmOpen s via = true → amGet (peerOf (leaveSlack s 6) via).sessions session = some true →
      exec (.vendorDefinedRequest via (some session) req) s = .next (emit (.spdm via (vendorStep (leaveSlack s 6) req).2) (vendorStep (leaveSlack s 6) req).1))
    ∧ (∀ (s : State) (via : SpdmVia) (req : VendorReq), spdmOpen s via = true →
      exec (.vendorDefinedRequest via none req) s = .next (emit (.spdm via .error) (leaveSlack s 6)))
    ∧ (∀ (s : State) (via : SpdmVia) (session : Nat), spdmOpen s via = true → amGet (peerOf (leaveSlack s 6) via).sessions session ≠ some true →
      exec (.spdmHeartbeat via session) s = .next (emit (.spdm via .error) (leaveSlack s 6)))
    ∧ (∀ (s : State) (via : SpdmVia) (session : Nat), spdmOpen s via = true → amGet (peerOf (leaveSlack s 6) via).sessions session ≠ some true →
      exec (.endSession via session) s = .next (emit (.spdm via .error) (leaveSlack s 6)))
    ∧ (∀ (s : State) (via : SpdmVia), spdmOpen s via = false →
      exec (.getVersion via) s = .next s)

/-- DEBUG_UNLOCK with a good token, while debug is closed and from the self test on, opens the debug state until reset and posts DEBUG_UNLOCKED. CONSENT_EXPIRY ends a consent whose time has come. The debug port reaches the device when debug is open, a partition when debug is open and its consent allows it, putting its virtual function into the TDISP error state, and the boundary scan in recovery; with debug closed, or no consent to a partition, it does not reach the device or the partition and changes nothing. -/
def Obligations.DebugAndConsentTakeEffect : Prop :=
  (∀ (s : State) (pm : Nat), s.sec.debug = false → 2 ≤ s.boot.stage → s.beached = false →
      exec (.debugUnlock true pm) s = .next (postPf (modSec (advance pm s) (fun c => { c with debug := true })) 0x0A05 0 (max s.postmark pm % 2 ^ 64)))
    ∧ (∀ (s : State) (partition pm : Nat) (c : Consent), amGet s.sec.consents partition = some c → c.until_ ≤ max s.postmark pm →
      exec (.consentExpiry partition pm) s = .next (endConsent (advance pm s) partition))
    ∧ (∀ (s : State), s.beached = false → s.sec.debug = true →
      exec (.debugPortAccess .device) s = .next (emit (.debugData .device) s))
    ∧ (∀ (s : State), s.sec.debug = false →
      exec (.debugPortAccess .device) s = .next s)
    ∧ (∀ (s : State) (n : Nat), s.beached = false → s.sec.debug = true → bit (consentScope s n) 1 = true →
      exec (.debugPortAccess (.partition n)) s = .next (emit (.debugData (.partition n)) (setTdisp s n 3)))
    ∧ (∀ (s : State) (n : Nat), (s.sec.debug = false ∨ bit (consentScope s n) 1 = false) →
      exec (.debugPortAccess (.partition n)) s = .next s)
    ∧ (∀ (s : State), s.beached = false → s.boot.stage = 4 →
      exec (.debugPortAccess .boundaryScan) s = .next (emit (.debugData .boundaryScan) s))

/-- WAKE_ADMIT starts the ramp of the first wake of its region within the charge of 20. WAKE_READY of a ramp that has run turns its domain on, asks for the reserve where a block that woke is out, and else gives the block work. BLOCK_IDLE_GATE gates a block that is idle for 500 µs, the last idle in reserve order, above the warm reserve; and another domain that is idle. SLACK_ENTER starts ENTERING on a quiet device that may; SLACK_ENTERED gates the domains of slack water and posts SLACK_ENTERED. LEAVING_SCHEDULED leaves 50 µs before what is scheduled. -/
def Obligations.PowerStatesTakeEffect : Prop :=
  (∀ (s : State) (dom pm : Nat) (w : Wake), s.pow.wakes.find? (fun v => v.dom == dom) = some w → s.pow.wakes.any (fun v => domRegion v.dom == domRegion dom && wakeBefore v w) = false → rampCharge (advance pm s) (domRegion dom) + (wakeCost dom).1 ≤ 20 →
      exec (.wakeAdmit dom pm) s = .next ((modPow (advance pm s) (fun p => { p with wakes := p.wakes.filter (fun v => v.dom != dom), ramps := p.ramps ++ [{ dom := dom, charge := (wakeCost dom).1, rampEnd := max s.postmark pm + (wakeCost dom).2.1, ready := max s.postmark pm + (wakeCost dom).2.2 }] }))))
    ∧ (∀ (s : State) (dom pm : Nat) (w : Wake), s.pow.wakes.find? (fun v => v.dom == dom) = some w → (s.pow.wakes.any (fun v => domRegion v.dom == domRegion dom && wakeBefore v w) = true ∨ 20 < rampCharge (advance pm s) (domRegion dom) + (wakeCost dom).1) →
      exec (.wakeAdmit dom pm) s = .next ((advance pm s)))
    ∧ (∀ (s : State) (dom pm : Nat) (q : Ramp), s.pow.ramps.find? (fun r => r.dom == dom && decide (r.ready ≤ (advance pm s).postmark)) = some q → dom < 84 → dom % 14 < 8 → blockOut (setDom (modPow (advance pm s) (fun p => { p with ramps := p.ramps.filter (· != q) })) dom 0) (domRegion dom) (dom % 14) = true →
      exec (.wakeReady dom pm) s = .next (goOn (clearShort (restoreHalves (settleLeaving ((reserveOf (setDom (modPow (advance pm s) (fun p => { p with ramps := p.ramps.filter (· != q) })) dom 0) (domRegion dom)).foldl (fun u b => requestWake u (14 * domRegion dom + b) true 0) (setDom (modPow (advance pm s) (fun p => { p with ramps := p.ramps.filter (· != q) })) dom 0)))))))
    ∧ (∀ (s : State) (dom pm : Nat) (q : Ramp), s.pow.ramps.find? (fun r => r.dom == dom && decide (r.ready ≤ (advance pm s).postmark)) = some q → dom < 84 → dom % 14 < 8 → blockOut (setDom (modPow (advance pm s) (fun p => { p with ramps := p.ramps.filter (· != q) })) dom 0) (domRegion dom) (dom % 14) = false →
      exec (.wakeReady dom pm) s = .next (goOn (clearShort (restoreHalves (settleLeaving (wantWakes (runBlock (moveTasks (domRegion dom) (dom % 14) true 64 (moveTasks (domRegion dom) (dom % 14) false 64 (setDom (modPow (advance pm s) (fun p => { p with ramps := p.ramps.filter (· != q) })) dom 0))) (domRegion dom) (dom % 14) (getBlock (moveTasks (domRegion dom) (dom % 14) true 64 (moveTasks (domRegion dom) (dom % 14) false 64 (setDom (modPow (advance pm s) (fun p => { p with ramps := p.ramps.filter (· != q) })) dom 0))) (domRegion dom) (dom % 14))) (domRegion dom)))))))
    ∧ (∀ (s : State) (dom pm : Nat) (q : Ramp), s.pow.ramps.find? (fun r => r.dom == dom && decide (r.ready ≤ (advance pm s).postmark)) = some q → (84 ≤ dom ∨ 8 ≤ dom % 14) →
      exec (.wakeReady dom pm) s = .next (goOn (clearShort (restoreHalves (settleLeaving (setDom (modPow (advance pm s) (fun p => { p with ramps := p.ramps.filter (· != q) })) dom 0))))))
    ∧ (∀ (s : State) (dom pm : Nat), s.pow.state = 0 → getDom s dom = 0 → dom < 84 → dom % 14 < 8 → ((blockOn (advance pm s) (dom / 14) (dom % 14) && (getBlock (advance pm s) (dom / 14) (dom % 14)).running.isNone && (getBlock (advance pm s) (dom / 14) (dom % 14)).queued.isEmpty && (getBlock (advance pm s) (dom / 14) (dom % 14)).waiting.isEmpty && decide ((getBlock (advance pm s) (dom / 14) (dom % 14)).sincePm + 500000 ≤ max s.postmark pm)) && !((reserveOrder.reverse.takeWhile (· != dom % 14)).any (fun b => (blockOn (advance pm s) (dom / 14) b && (getBlock (advance pm s) (dom / 14) b).running.isNone && (getBlock (advance pm s) (dom / 14) b).queued.isEmpty && (getBlock (advance pm s) (dom / 14) b).waiting.isEmpty && decide ((getBlock (advance pm s) (dom / 14) b).sincePm + 500000 ≤ max s.postmark pm)))) && !(reserveOf (advance pm s) (dom / 14)).contains (dom % 14) && decide (liveVal s (.warmReserve (dom / 14)) < onBlocks (advance pm s) (dom / 14))) = true →
      exec (.blockIdleGate dom pm) s = .next (setDom (advance pm s) dom 2))
    ∧ (∀ (s : State) (dom pm : Nat), s.pow.state = 0 → getDom s dom = 0 → (84 ≤ dom ∨ 8 ≤ dom % 14) → domIdle (advance pm s) dom = true →
      exec (.blockIdleGate dom pm) s = .next (setDom (advance pm s) dom 2))
    ∧ (∀ (s : State) (hmWaiting : Bool) (pm : Nat), accepting s = true → s.pow.state = 0 → liveVal s .pwrCtrl % 2 = 1 → quiet (advance pm s) hmWaiting = true →
      exec (.slackEnter hmWaiting pm) s = .next (modPow (advance pm s) (fun p => { p with state := 1 })))
    ∧ (∀ (s : State) (pm : Nat), s.pow.state = 1 →
      exec (.slackEntered pm) s = .next (postPf (if s.pair.half0.lanes ≠ 0 ∧ s.pair.half1.lanes ≠ 0 then setHalf (setHalf (modPow (slackDoms.foldl (fun u e => setDom u e.1 e.2) (advance pm s)) (fun p => { p with state := 2, wakes := [], halves := some (s.pair.half0.lanes, s.pair.half1.lanes) })) 0 (fun h => { h with lanes := 8 })) 1 (fun h => { h with lanes := 0 }) else (modPow (slackDoms.foldl (fun u e => setDom u e.1 e.2) (advance pm s)) (fun p => { p with state := 2, wakes := [], halves := some (s.pair.half0.lanes, s.pair.half1.lanes) }))) 0x0901 0 ((if s.pair.half0.lanes ≠ 0 ∧ s.pair.half1.lanes ≠ 0 then setHalf (setHalf (modPow (slackDoms.foldl (fun u e => setDom u e.1 e.2) (advance pm s)) (fun p => { p with state := 2, wakes := [], halves := some (s.pair.half0.lanes, s.pair.half1.lanes) })) 0 (fun h => { h with lanes := 8 })) 1 (fun h => { h with lanes := 0 }) else (modPow (slackDoms.foldl (fun u e => setDom u e.1 e.2) (advance pm s)) (fun p => { p with state := 2, wakes := [], halves := some (s.pair.half0.lanes, s.pair.half1.lanes) }))).sessions.length % 2 ^ 32)))
    ∧ (∀ (s : State) (pm : Nat), (scheduled (advance pm s)).any (fun t => decide (t ≤ max s.postmark pm + 50000)) = true →
      exec (.leavingScheduled pm) s = .next (leaveSlack (advance pm s) 1))

/-- NEIGHBOUR_CHECK beyond a limit corrects and posts once, and within it ends the correction and raises the clocks. NEIGHBOUR_LIMIT_TIMEOUT still beyond it 10 ms later is a region error of the region acted on. THERMAL_CHECK acts on clocks, holds and refresh and drives THERM_N, and a trip is a chip error. POWER_CAP_CHECK caps above the cap, lowers the clocks while it lasts, and raises and lifts below 0.95 of it. RESERVE_SHORT posts once when a region has fewer blocks than its reserve. -/
def Obligations.ClockRulesTakeEffect : Prop :=
  (∀ (s : State) (a b quantity va vb pm : Nat), joined a b = true → ((advance pm s).faults.regionsDown.contains a || (advance pm s).faults.runs.any (fun q => q.region == a)) = false → ((advance pm s).faults.regionsDown.contains b || (advance pm s).faults.runs.any (fun q => q.region == b)) = false → s.beached = false → beyond quantity va vb = true → (advance pm s).pow.corrections.any (fun c => c.a == a && c.b == b && c.quantity == quantity) = true →
      exec (.neighbourCheck a b quantity va vb pm) s = .next ((correct (advance pm s) a b quantity va vb).2))
    ∧ (∀ (s : State) (a b quantity va vb pm : Nat), joined a b = true → ((advance pm s).faults.regionsDown.contains a || (advance pm s).faults.runs.any (fun q => q.region == a)) = false → ((advance pm s).faults.regionsDown.contains b || (advance pm s).faults.runs.any (fun q => q.region == b)) = false → s.beached = false → beyond quantity va vb = true → (advance pm s).pow.corrections.any (fun c => c.a == a && c.b == b && c.quantity == quantity) = false →
      exec (.neighbourCheck a b quantity va vb pm) s = .next (postPf (modPow (correct (advance pm s) a b quantity va vb).2 (fun p => { p with corrections := p.corrections ++ [{ a := a, b := b, quantity := quantity, acted := (correct (advance pm s) a b quantity va vb).1, since := max s.postmark pm }] })) 0x0906 (correct (advance pm s) a b quantity va vb).1 ((if (correct (advance pm s) a b quantity va vb).1 = a then b else a) + quantity * 256)))
    ∧ (∀ (s : State) (a b quantity va vb pm : Nat), joined a b = true → ((advance pm s).faults.regionsDown.contains a || (advance pm s).faults.runs.any (fun q => q.region == a)) = false → ((advance pm s).faults.regionsDown.contains b || (advance pm s).faults.runs.any (fun q => q.region == b)) = false → s.beached = false → beyond quantity va vb = false →
      exec (.neighbourCheck a b quantity va vb pm) s = .next (([a, b].filter (fun r => (((advance pm s).pow.corrections.filter (fun c => c.a == a && c.b == b && c.quantity == quantity)).map (fun c => c.acted)).contains r || !(modPow (advance pm s) (fun p => { p with corrections := p.corrections.filter (fun c => !(c.a == a && c.b == b && c.quantity == quantity)) })).pow.corrections.any (fun c => c.acted == r))).foldl (fun u r => raiseClock u r 4 0) (modPow (advance pm s) (fun p => { p with corrections := p.corrections.filter (fun c => !(c.a == a && c.b == b && c.quantity == quantity)) }))))
    ∧ (∀ (s : State) (a b quantity pm : Nat) (q : Correction), s.pow.corrections.find? (fun c => c.a == a && c.b == b && c.quantity == quantity) = some q → q.since + 10000000 ≤ max s.postmark pm → s.boot.stage = 3 → s.beached = false →
      exec (.neighbourLimitTimeout a b quantity true pm) s = .next (noteAlert s (detect (modPow (settleContained (advance pm s)) (fun p => { p with corrections := p.corrections.filter (· != q) })) { level := 2, kind := 0x20, unit := { region := q.acted }, what := .region, info := quantity, pm := (settleContained (advance pm s)).postmark })))
    ∧ (∀ (s : State) (a b quantity pm : Nat), exec (.neighbourLimitTimeout a b quantity false pm) s = .next ((advance pm s)))
    ∧ (∀ (s : State) (junctions stackTemps : List Nat) (pm : Nat), s.boot.stage = 3 → s.beached = false → trips junctions (thermalActs junctions stackTemps (advance pm s)) = false →
      exec (.thermalCheck junctions stackTemps pm) s = .next (goOn (thermSignal (thermalActs junctions stackTemps (advance pm s)) junctions stackTemps)))
    ∧ (∀ (s : State) (junctions stackTemps : List Nat) (pm : Nat), s.boot.stage = 3 → s.beached = false → trips junctions (thermalActs junctions stackTemps (advance pm s)) = true → (thermSignal (modPow (thermalActs junctions stackTemps (advance pm s)) (fun p => { p with trip := true })) junctions stackTemps).boot.stage = 3 → (thermSignal (modPow (thermalActs junctions stackTemps (advance pm s)) (fun p => { p with trip := true })) junctions stackTemps).beached = false →
      exec (.thermalCheck junctions stackTemps pm) s = .next (noteAlert (thermSignal (modPow (thermalActs junctions stackTemps (advance pm s)) (fun p => { p with trip := true })) junctions stackTemps) (detect (settleContained (advance pm (thermSignal (modPow (thermalActs junctions stackTemps (advance pm s)) (fun p => { p with trip := true })) junctions stackTemps))) { level := 3, kind := 0x30, unit := { region := 8, kind := 16 }, what := .chip, info := junctions.foldl max 0, pm := (settleContained (advance pm (thermSignal (modPow (thermalActs junctions stackTemps (advance pm s)) (fun p => { p with trip := true })) junctions stackTemps))).postmark })))
    ∧ (∀ (s : State) (junctions stackTemps : List Nat) (pm : Nat), 2 ≤ s.boot.stage → (s.beached = true ∨ s.boot.stage ≠ 3) →
      exec (.thermalCheck junctions stackTemps pm) s = .next (thermSignal (advance pm s) junctions stackTemps))
    ∧ (∀ (s : State) (pm : Nat), accepting s = true → liveVal s .powerCap ≠ 0 → 1000 * liveVal s .powerCap < inputMean (advance pm s) → s.pow.capped = true →
      exec (.powerCapCheck pm) s = .next (if (s.pow.overSince.getD (max s.postmark pm)) + 10000000 ≤ max s.postmark pm then [0, 1, 2, 3, 4, 5].foldl (fun u k => lowerClock u k 3 4 1000000) (modPow (advance pm s) (fun p => { p with overSince := some (s.pow.overSince.getD (max s.postmark pm)), underSince := none })) else (modPow (advance pm s) (fun p => { p with overSince := some (s.pow.overSince.getD (max s.postmark pm)), underSince := none }))))
    ∧ (∀ (s : State) (pm : Nat), accepting s = true → liveVal s .powerCap ≠ 0 → 1000 * liveVal s .powerCap < inputMean (advance pm s) → s.pow.capped = false →
      exec (.powerCapCheck pm) s = .next (postPf (modPow (advance pm s) (fun p => { p with capped := true, overSince := some (max s.postmark pm), underSince := none, holds := (List.range 10).foldl (fun m r => amSet m (4 * r + 3) none) p.holds })) 0x0907 0 (inputMean (advance pm s) / 100 % 2 ^ 32)))
    ∧ (∀ (s : State) (pm : Nat), accepting s = true → (liveVal s .powerCap = 0 ∨ inputMean (advance pm s) ≤ 1000 * liveVal s .powerCap) → s.pow.capped = false →
      exec (.powerCapCheck pm) s = .next ((advance pm s)))
    ∧ (∀ (s : State) (pm : Nat), accepting s = true → (liveVal s .powerCap = 0 ∨ inputMean (advance pm s) ≤ 1000 * liveVal s .powerCap) → s.pow.capped = true → liveVal s .powerCap ≠ 0 → 95 * (1000 * liveVal s .powerCap) ≤ 100 * inputMean (advance pm s) →
      exec (.powerCapCheck pm) s = .next (modPow (advance pm s) (fun p => { p with overSince := none, underSince := none })))
    ∧ (∀ (s : State) (pm : Nat), accepting s = true → (liveVal s .powerCap = 0 ∨ inputMean (advance pm s) ≤ 1000 * liveVal s .powerCap) → s.pow.capped = true → (liveVal s .powerCap = 0 ∨ 100 * inputMean (advance pm s) < 95 * (1000 * liveVal s .powerCap)) → (liveVal s .powerCap ≠ 0 ∧ max s.postmark pm < (s.pow.underSince.getD (max s.postmark pm)) + 100000000) →
      exec (.powerCapCheck pm) s = .next ((modPow (advance pm s) (fun p => { p with overSince := none, underSince := some (s.pow.underSince.getD (max s.postmark pm)) }))))
    ∧ (∀ (s : State) (pm : Nat), accepting s = true → (liveVal s .powerCap = 0 ∨ inputMean (advance pm s) ≤ 1000 * liveVal s .powerCap) → s.pow.capped = true → (liveVal s .powerCap = 0 ∨ 100 * inputMean (advance pm s) < 95 * (1000 * liveVal s .powerCap)) → (liveVal s .powerCap = 0 ∨ (s.pow.underSince.getD (max s.postmark pm)) + 100000000 ≤ max s.postmark pm) → [0, 1, 2, 3, 4, 5].any (fun k => decide (clockN ([0, 1, 2, 3, 4, 5].foldl (fun u k => raiseClock u k 3 10000000) (modPow (advance pm s) (fun p => { p with overSince := none, underSince := some (s.pow.underSince.getD (max s.postmark pm)) }))) k 3 < 8)) = true →
      exec (.powerCapCheck pm) s = .next (([0, 1, 2, 3, 4, 5].foldl (fun u k => raiseClock u k 3 10000000) (modPow (advance pm s) (fun p => { p with overSince := none, underSince := some (s.pow.underSince.getD (max s.postmark pm)) })))))
    ∧ (∀ (s : State) (pm : Nat), accepting s = true → (liveVal s .powerCap = 0 ∨ inputMean (advance pm s) ≤ 1000 * liveVal s .powerCap) → s.pow.capped = true → (liveVal s .powerCap = 0 ∨ 100 * inputMean (advance pm s) < 95 * (1000 * liveVal s .powerCap)) → (liveVal s .powerCap = 0 ∨ (s.pow.underSince.getD (max s.postmark pm)) + 100000000 ≤ max s.postmark pm) → [0, 1, 2, 3, 4, 5].any (fun k => decide (clockN ([0, 1, 2, 3, 4, 5].foldl (fun u k => raiseClock u k 3 10000000) (modPow (advance pm s) (fun p => { p with overSince := none, underSince := some (s.pow.underSince.getD (max s.postmark pm)) }))) k 3 < 8)) = false →
      exec (.powerCapCheck pm) s = .next (goOn (modPow ([0, 1, 2, 3, 4, 5].foldl (fun u k => raiseClock u k 3 10000000) (modPow (advance pm s) (fun p => { p with overSince := none, underSince := some (s.pow.underSince.getD (max s.postmark pm)) }))) (fun p => { p with capped := false, underSince := none, holds := (List.range 10).foldl (fun m r => amErase m (4 * r + 3)) p.holds }))))
    ∧ (∀ (s : State) (region pm : Nat), region < 6 → (clearShort (advance pm s)).pow.state = 0 → reserveHeld (clearShort (advance pm s)) region = false → (clearShort (advance pm s)).pow.shortPosted.contains region = false → (clearShort (advance pm s)).regionsOut.contains region = false →
      exec (.reserveShort region pm) s = .next (postPf (modPow (clearShort (advance pm s)) (fun p => { p with shortPosted := insertBy id region p.shortPosted })) 0x0908 region (onBlocks (clearShort (advance pm s)) region)))

/-- For every state whose queue has command c in front, a step is exec of c on the state with the queue's rest. -/
def Obligations.StepRunsTheFrontCommand : Prop :=
  ∀ (s : State) (c : Instr) (rest : List Instr), s.pending = c :: rest → step s = exec c { s with pending := rest }

/-- With an empty queue a step answers a next state: while the always-on domain has power the postmark is one nanosecond higher, and nothing else changes; without it nothing changes. That idling takes one nanosecond is the model's choice (log entry 5). -/
def Obligations.EmptyQueueLetsTimePass : Prop :=
  (∀ (s : State), s.pending = [] → s.aon = true → step s = .next { s with postmark := s.postmark + 1 })
    ∧ (∀ (s : State), s.pending = [] → s.aon = false → step s = .next s)

/-- After reset the queue is empty, every function has its enable bits clear, the Tideway is off with no connection, no VF is present, there is no session, account, index, bundle or ring operation, the media are ABSENT and the pair UNBOUND, every byte of the window and of harbourmaster memory reads zero, and the firmware state is consistent. -/
def Obligations.ResetIsClosedAndConsistent : Prop :=
  (State.reset.pending = [])
    ∧ (∀ n, (getFn State.reset n).enable = false ∧ (getFn State.reset n).adminEn = false ∧ (getFn State.reset n).textEn = false ∧ (getFn State.reset n).searchEn = false ∧ (getFn State.reset n).eventEn = false)
    ∧ (State.reset.tw.enable = false ∧ State.reset.tw.conns = [] ∧ State.reset.vfEnable = false)
    ∧ (State.reset.sessions = [] ∧ State.reset.accounts = [] ∧ State.reset.indexes = [] ∧ State.reset.bundles = [] ∧ State.reset.ops = [])
    ∧ (State.reset.media.state = 0 ∧ State.reset.pair.status = 0)
    ∧ (∀ a, cellGet State.reset.win.mem a = 0#8 ∧ cellGet State.reset.hm.mem a = 0#8)
    ∧ (FirmwareInv State.reset)

/-- For every state in which both copies of the boot record name real slots, the running slot is one, a trial that runs is never marked untried, and both image slots are in their one form: if a step answers a next state, the same holds of it. -/
def Obligations.FirmwareStaysConsistent : Prop :=
  ∀ (s t : State), FirmwareInv s → step s = .next t → FirmwareInv t

/-- A command that is none of the boot and firmware commands, nor EVENT_EN, which reports a fallback, leaves all of the boot state as it is: the boot record, the image slots, the running image, the fuse and the device's identity. No command at all lowers the SVN fuse or changes the device's identity. -/
def Obligations.OnlyBootCommandsTouchFirmware : Prop :=
  (∀ (c : Instr) (s t : State), bootCommand c = false → exec c s = .next t → t.boot = s.boot)
    ∧ (∀ (c : Instr) (s t : State), exec c s = .next t → s.boot.svnFuse ≤ t.boot.svnFuse ∧ t.boot.deviceId = s.boot.deviceId)

/-- A ring command whose ring can start, that need not wait, and that a check refuses, answers a next state in which its entry is consumed and its operation, under the lowest tag that was free, is ready with the receipt of the first refusal; nothing but the rings, operations and outputs of taking it differs. A command of another set than the one its function speaks (3 or 4) is refused as INVALID with DETAIL 1. -/
def Obligations.RefusedRingCommandsOnlyAnswer : Prop :=
  (∀ (s : State) (h : Hdr) (rid : RingId) (c : RingCmd) (r : Rcpt), canStart s h.fn rid h.serial = true → c.waits s = false → ringRefusal c h (begun s h rid) = some r →
      ∃ t, ringCmd rid h c s = .next t ∧ OpAt s t h rid (.ready r) ∧ Otherwise s h (begun s h rid) t)
    ∧ (∀ (h : Hdr) (c : RingCmd) (s : State), ((getFn s h.fn).set3 = true ∧ h.set ≠ 3) ∨ ((getFn s h.fn).set3 = false ∧ h.set ≠ 4) → ringRefusal c h s = some (rInvalid 1))

/-- If a function has no tag available, a command of any of its rings changes nothing: its entry stays in the ring, not refused, and a command whose function has a tag again is taken by the rules of its own. -/
def Obligations.NoTagLeavesTheEntry : Prop :=
  (∀ (s : State) (h : Hdr) (rid : RingId) (c : RingCmd), tagAvailable s h.fn = false → ringCmd rid h c s = .next s)
    ∧ (∀ (s : State) (h : Hdr) (rid : RingId) (c : RingCmd), Takes s h rid c → tagAvailable s h.fn = true ∧ ringCmd rid h c s = .next (settleRing (c.run (begun s h rid) (freeTag s)) h.fn rid))

/-- In SLACK_WATER with no session dirty and no session received, the epoch timer expiring after the first epoch since the bind starts no epoch: EPOCH_START changes the postmark alone. -/
def Obligations.SlackWaterStartsNoIdleEpoch : Prop :=
  ∀ (s : State) (p pm : Nat), s.pow.state = 2 → s.pair.lastStart = some p → s.pair.received = false → (∀ e ∈ s.sessions, e.2.ckptDirty = false ∧ e.2.ckptSteps < s.pair.stepsTrigger) →
      exec (.epochStart pm) s = .next (advance pm s)

/-- If EVENT_EN is set while the DEPTH field of EVENT_CFG, bits 12 to 0, is none of the powers of two from 64 to 4,096, then EVENT_EN stays 0 and nothing changes. -/
def Obligations.BadEventDepthKeepsEventsOff : Prop :=
  ∀ (s : State) (fn : Nat), (getFn s fn).eventEn = false → (∀ k, 6 ≤ k → k ≤ 12 → (getFn s fn).eventCfg.toNat % 2 ^ 13 ≠ 2 ^ k) →
      exec (.eventEn fn true) s = .next s ∧ (getFn s fn).eventEn = false

/-- On an ACTIVE device, a WRITE_BACK by the host that owns its line, with no request and no release in progress, answers a next state in which the bytes of the line read as written, every other byte of the window reads as before, the memory keeps its form, the line's directory entry is gone for I (UNTRACKED) and names the host alone for S (SHARED) and A (OWNED), and nothing but the window and the answer to the host has changed. -/
def Obligations.WriteBacksStoreTheirLineAlone : Prop :=
  ∀ (s : State) (host dpa hold : Nat) (bytes : List Byte), s.pow.state = 0 → memOk s host dpa = true → owns s host (dpa / 64) = true → s.win.reqs = [] → s.win.releases = [] → Memory.wf s.win.mem = true →
      ∃ t, exec (.writeBack host dpa hold bytes) s = .next t ∧ Memory.wf t.win.mem = true ∧ (∀ a, cellGet t.win.mem a = lineWritten s.win.mem (dpa / 64) bytes a)
        ∧ (hold = 0 → t.win.dir = amErase s.win.dir (dpa / 64))
        ∧ (hold ≠ 0 → t.win.dir = amSet s.win.dir (dpa / 64) { holders := [host], owned := hold == 2, granted := s.win.grantSeq })
        ∧ { t with win := s.win, out := s.out } = s ∧ t.out = .memDone host dpa :: s.out

end
end

