-- ==== Sys2Proof/Laws/AMap.lean ====
section
/-! SUPPORT. Reading a sparse table after it is changed; a lowest free key is free; the one form is kept. -/

namespace Sys2Proof.Machine

variable {α : Type}

@[simp] theorem amGet_amSet_self (m : AMap α) (k : Nat) (v : α) : amGet (amSet m k v) k = some v := by
  induction m with
  | nil => simp [amSet, amGet]
  | cons e r ih =>
    obtain ⟨a, b⟩ := e
    simp only [amSet]
    split
    · simp [amGet]
    · split
      · simp [amGet]
      · simp [amGet, *]

theorem amGet_amSet_ne (m : AMap α) {k k' : Nat} (v : α) (h : k' ≠ k) : amGet (amSet m k v) k' = amGet m k' := by
  induction m with
  | nil => simp [amSet, amGet, h]
  | cons e r ih =>
    obtain ⟨a, b⟩ := e
    simp only [amSet]
    split
    · simp [amGet, h]
    · split
      · subst_vars; simp [amGet, h]
      · simp [amGet, ih]

theorem amGet_amErase_ne (m : AMap α) {k k' : Nat} (h : k' ≠ k) : amGet (amErase m k) k' = amGet m k' := by
  induction m with
  | nil => rfl
  | cons e r ih =>
    obtain ⟨a, b⟩ := e
    simp only [amErase]
    split
    · subst_vars; simp [amGet, h]
    · simp [amGet, ih]

theorem amGet_amMod_ne (m : AMap α) {k k' : Nat} (f : α → α) (h : k' ≠ k) : amGet (amMod m k f) k' = amGet m k' := by
  unfold amMod
  split
  · exact amGet_amSet_ne _ _ h
  · rfl

@[simp] theorem amGet_amMod_self (m : AMap α) (k : Nat) (f : α → α) : amGet (amMod m k f) k = (amGet m k).map f := by
  unfold amMod
  split
  · rename_i h; simp [h]
  · rename_i h; simp [h]

/-- A listed key stands in the list. -/
theorem amGet_mem {m : AMap α} {k : Nat} {v : α} (h : amGet m k = some v) : (k, v) ∈ m := by
  induction m with
  | nil => cases h
  | cons e r ih =>
    obtain ⟨a, b⟩ := e
    simp only [amGet] at h
    split at h
    · cases h; subst_vars; simp
    · exact List.mem_cons_of_mem _ (ih h)

theorem amFree_hit (m : AMap α) (fuel n : Nat) (h : amHas m (amFree m fuel n) = true) : ∀ i, i ≤ fuel → amHas m (n + i) = true := by
  induction fuel generalizing n with
  | zero => intro i hi; obtain rfl : i = 0 := by omega
            simpa [amFree] using h
  | succ f ih =>
    simp only [amFree] at h
    split at h
    · rename_i hn
      intro i hi
      cases i with
      | zero => exact hn
      | succ i =>
        have := ih (n + 1) h i (by omega)
        rwa [show n + 1 + i = n + (i + 1) by omega] at this
    · rename_i hn; exact absurd h hn

/-- The lowest free key is free. -/
theorem amLowestFree_free (m : AMap α) (lo : Nat) : amHas m (amLowestFree m lo) = false := by
  by_contra hc
  have hc : amHas m (amLowestFree m lo) = true := by simpa using hc
  have h := amFree_hit m m.length lo hc
  have hsub : (Finset.Icc lo (lo + m.length)) ⊆ (m.map (·.1)).toFinset := by
    intro x hx
    have hx := Finset.mem_Icc.mp hx
    have hk := h (x - lo) (by omega)
    rw [show lo + (x - lo) = x by omega] at hk
    obtain ⟨v, hv⟩ := Option.isSome_iff_exists.mp hk
    exact List.mem_toFinset.mpr (List.mem_map.mpr ⟨_, amGet_mem hv, rfl⟩)
  have h1 := Finset.card_le_card hsub
  have h2 := List.toFinset_card_le (m.map (·.1))
  simp only [Nat.card_Icc, List.length_map] at h1 h2
  omega

theorem amWf_cons {k : Nat} {v : α} {m : AMap α} (h : amWf ((k, v) :: m) = true) : amWf m = true := by
  cases m with
  | nil => rfl
  | cons e r => simp only [amWf, Bool.and_eq_true] at h; exact h.2

/-- Setting a key keeps a table in its one form. -/
theorem amSet_wf (m : AMap α) (k : Nat) (v : α) (h : amWf m = true) : amWf (amSet m k v) = true := by
  induction m with
  | nil => rfl
  | cons e r ih =>
    obtain ⟨a, b⟩ := e
    simp only [amSet]
    split
    · rename_i hk; simp [amWf, hk, h]
    · split
      · subst_vars
        cases r with
        | nil => rfl
        | cons e2 r2 => obtain ⟨a2, b2⟩ := e2; simpa [amWf] using h
      · have hr := ih (amWf_cons h)
        cases r with
        | nil => simp only [amSet, amWf, Bool.and_true, decide_eq_true_eq]; omega
        | cons e2 r2 =>
          obtain ⟨a2, b2⟩ := e2
          simp only [amWf, Bool.and_eq_true, decide_eq_true_eq] at h
          simp only [amSet] at hr ⊢
          split
          · rename_i hk; simp only [amWf, Bool.and_eq_true, decide_eq_true_eq]; rw [if_pos hk] at hr
            exact ⟨by omega, by simpa [amWf, hk] using h.2⟩
          · split
            · rename_i h1 h2; subst h2
              rw [if_neg h1, if_pos rfl] at hr
              simp only [amWf, Bool.and_eq_true, decide_eq_true_eq]; exact ⟨by omega, hr⟩
            · rename_i h1 h2
              rw [if_neg h1, if_neg h2] at hr
              simp only [amWf, Bool.and_eq_true, decide_eq_true_eq]; exact ⟨h.1, hr⟩

end Sys2Proof.Machine
end

