-- ==== Sys2Proof/Laws/Keep.lean ====
section
/-! SUPPORT. What it is for a command to leave the boot state (DEVICE_ID, boot records, image slots, fuses) as it is. -/

namespace Sys2Proof.Machine

/-- An outcome, if it is a next state, has the boot state of `s`. -/
def KeepsBoot (s : State) (o : Host.Outcome State Fault Refusal) : Prop := ∀ t, o = .next t → t.boot = s.boot

@[simp] theorem KeepsBoot.next_iff {s t : State} : KeepsBoot s (.next t) ↔ t.boot = s.boot :=
  ⟨fun h => h t rfl, fun h _ e => by cases e; exact h⟩

/-- A fold of operations that each keep the boot state keeps it. -/
theorem foldl_boot {α : Type} (f : State → α → State) (l : List α) (s : State) (h : ∀ s a, (f s a).boot = s.boot) :
    (l.foldl f s).boot = s.boot := by
  induction l generalizing s with
  | nil => rfl
  | cons a l ih => exact (ih (f s a)).trans (h s a)

/-- The same for a fold that carries something beside the state. -/
theorem foldl_boot_fst {α β : Type} (f : State × β → α → State × β) (l : List α) (p : State × β) (h : ∀ p a, (f p a).1.boot = p.1.boot) :
    (l.foldl f p).1.boot = p.1.boot := by
  induction l generalizing p with
  | nil => rfl
  | cons a l ih => exact (ih (f p a)).trans (h p a)

theorem foldl_boot_snd {α β : Type} (f : β × State → α → β × State) (l : List α) (p : β × State) (h : ∀ p a, (f p a).2.boot = p.2.boot) :
    (l.foldl f p).2.boot = p.2.boot := by
  induction l generalizing p with
  | nil => rfl
  | cons a l ih => exact (ih (f p a)).trans (h p a)

theorem foldl_boot_snd2 {α β γ : Type} (f : β × γ × State → α → β × γ × State) (l : List α) (p : β × γ × State)
    (h : ∀ p a, (f p a).2.2.boot = p.2.2.boot) : (l.foldl f p).2.2.boot = p.2.2.boot := by
  induction l generalizing p with
  | nil => rfl
  | cons a l ih => exact (ih (f p a)).trans (h p a)

end Sys2Proof.Machine
end

