-- ==== Sys2Proof/Laws/KeepOps.lean ====
section
/-! SUPPORT. The operations of Ops leave the boot state as it is. -/

set_option Elab.async false
set_option linter.all false
set_option linter.unusedTactic false
set_option linter.unreachableTactic false

namespace Sys2Proof.Machine

@[simp] theorem advance_boot (pm : Nat) (s : State) :
    (advance pm s).boot = s.boot := by
  simp [advance]

@[simp] theorem emit_boot (o : Output) (s : State) :
    (emit o s).boot = s.boot := by
  simp [emit]

@[simp] theorem emits_boot (os : List Output) (s : State) :
    (emits os s).boot = s.boot := by
  unfold emits
  exact foldl_boot _ _ _ (fun _ _ => by simp)

@[simp] theorem takeFresh_boot (s : State) :
    (takeFresh s).2.boot = s.boot := by
  simp [takeFresh]

@[simp] theorem setFn_boot (s : State) (n : Nat) (f : Fn) :
    (setFn s n f).boot = s.boot := by
  simp [setFn]

@[simp] theorem modFn_boot (s : State) (n : Nat) (g : Fn → Fn) :
    (modFn s n g).boot = s.boot := by
  simp [modFn]

@[simp] theorem modRing_boot (s : State) (fn : Nat) (rid : RingId) (g : Ring → Ring) :
    (modRing s fn rid g).boot = s.boot := by
  simp [modRing]

@[simp] theorem setLive_boot (s : State) (f : LiveField) (l : Live) :
    (setLive s f l).boot = s.boot := by
  simp [setLive]

@[simp] theorem writeLive_boot (s : State) (f : LiveField) (v : Nat) (inRange : Bool) :
    (writeLive s f v inRange).boot = s.boot := by
  unfold writeLive
  split <;> simp

@[simp] theorem raise_boot (s : State) (fn : Nat) (vec : Nat) :
    (raise s fn vec).boot = s.boot := by
  unfold raise
  all_goals (repeat' (first
    | with_reducible rfl
    | with_reducible assumption
    | (simp; done)
    | split
    | (with_reducible refine (foldl_boot _ _ _ (fun _ _ => ?_)).trans ?_)
    | (with_reducible refine (foldl_boot_fst _ _ _ (fun _ _ => ?_)).trans ?_)
    | (with_reducible refine (foldl_boot_snd2 _ _ _ (fun _ _ => ?_)).trans ?_)
    | (with_reducible refine (foldl_boot_snd _ _ _ (fun _ _ => ?_)).trans ?_)
    | (simp_all; done)
    | (simp +zetaDelta [*]; done)
    | (simp_all +zetaDelta; done)
    | dsimp only
    | simp))

@[simp] theorem hostWrite_boot (s : State) (fn : Nat) (addr : Nat) (bs : List Byte) :
    (hostWrite s fn addr bs).1.boot = s.boot := by
  unfold hostWrite
  repeat' split
  all_goals simp

@[simp] theorem loseEvent_boot (s : State) (fn : Nat) :
    (loseEvent s fn).boot = s.boot := by
  simp [loseEvent]

@[simp] theorem postEvent_boot (s : State) (fn : Nat) (code : Nat) (source : Nat) (data : Nat) :
    (postEvent s fn code source data).boot = s.boot := by
  unfold postEvent
  all_goals (repeat' (first
    | with_reducible rfl
    | with_reducible assumption
    | (simp; done)
    | split
    | (with_reducible refine (foldl_boot _ _ _ (fun _ _ => ?_)).trans ?_)
    | (with_reducible refine (foldl_boot_fst _ _ _ (fun _ _ => ?_)).trans ?_)
    | (with_reducible refine (foldl_boot_snd2 _ _ _ (fun _ _ => ?_)).trans ?_)
    | (with_reducible refine (foldl_boot_snd _ _ _ (fun _ _ => ?_)).trans ?_)
    | (simp_all; done)
    | (simp +zetaDelta [*]; done)
    | (simp_all +zetaDelta; done)
    | dsimp only
    | simp))

@[simp] theorem postPf_boot (s : State) (code : Nat) (source : Nat) (data : Nat) :
    (postPf s code source data).boot = s.boot := by
  simp [postPf]

@[simp] theorem postAccount_boot (s : State) (account : Nat) (code : Nat) (data : Nat) :
    (postAccount s account code data).boot = s.boot := by
  unfold postAccount
  split <;> simp

@[simp] theorem deadLetter_boot (s : State) (fn : Nat) (rid : RingId) (r : Receipt) :
    (deadLetter s fn rid r).boot = s.boot := by
  simp [deadLetter]

@[simp] theorem signalRing_boot (s : State) (fn : Nat) (rid : RingId) :
    (signalRing s fn rid).boot = s.boot := by
  simp [signalRing]

@[simp] theorem writeReceipt_boot (s : State) (fn : Nat) (rid : RingId) (rc : Receipt) :
    (writeReceipt s fn rid rc).boot = s.boot := by
  unfold writeReceipt
  all_goals (repeat' (first
    | with_reducible rfl
    | with_reducible assumption
    | (simp; done)
    | split
    | (with_reducible refine (foldl_boot _ _ _ (fun _ _ => ?_)).trans ?_)
    | (with_reducible refine (foldl_boot_fst _ _ _ (fun _ _ => ?_)).trans ?_)
    | (with_reducible refine (foldl_boot_snd2 _ _ _ (fun _ _ => ?_)).trans ?_)
    | (with_reducible refine (foldl_boot_snd _ _ _ (fun _ _ => ?_)).trans ?_)
    | (simp_all; done)
    | (simp +zetaDelta [*]; done)
    | (simp_all +zetaDelta; done)
    | dsimp only
    | simp))

@[simp] theorem deliverReceipt_boot (s : State) (fn : Nat) (rid : RingId) (rcpt : Rcpt) (cmdId : Nat) :
    (deliverReceipt s fn rid rcpt cmdId).boot = s.boot := by
  unfold deliverReceipt
  all_goals (repeat' (first
    | with_reducible rfl
    | with_reducible assumption
    | (simp; done)
    | split
    | (with_reducible refine (foldl_boot _ _ _ (fun _ _ => ?_)).trans ?_)
    | (with_reducible refine (foldl_boot_fst _ _ _ (fun _ _ => ?_)).trans ?_)
    | (with_reducible refine (foldl_boot_snd2 _ _ _ (fun _ _ => ?_)).trans ?_)
    | (with_reducible refine (foldl_boot_snd _ _ _ (fun _ _ => ?_)).trans ?_)
    | (simp_all; done)
    | (simp +zetaDelta [*]; done)
    | (simp_all +zetaDelta; done)
    | dsimp only
    | simp))

@[simp] theorem flushHeld_boot (x0 : Nat) (x1 : State) (x2 : Nat) (x3 : RingId) :
    (flushHeld x0 x1 x2 x3).boot = x1.boot := by
  fun_induction flushHeld x0 x1 x2 x3
  all_goals (repeat' (first
    | with_reducible rfl
    | with_reducible assumption
    | (simp; done)
    | split
    | (with_reducible refine (foldl_boot _ _ _ (fun _ _ => ?_)).trans ?_)
    | (with_reducible refine (foldl_boot_fst _ _ _ (fun _ _ => ?_)).trans ?_)
    | (with_reducible refine (foldl_boot_snd2 _ _ _ (fun _ _ => ?_)).trans ?_)
    | (with_reducible refine (foldl_boot_snd _ _ _ (fun _ _ => ?_)).trans ?_)
    | (simp_all; done)
    | (simp +zetaDelta [*]; done)
    | (simp_all +zetaDelta; done)
    | dsimp only
    | simp))

@[simp] theorem putOp_boot (s : State) (tag : Nat) (o : Op) :
    (putOp s tag o).boot = s.boot := by
  simp [putOp]

@[simp] theorem resolveTag_boot (s : State) (tag : Nat) (r : Rcpt) :
    (resolveTag s tag r).boot = s.boot := by
  simp [resolveTag]

@[simp] theorem resolveWait_boot (s : State) (w : Wait) (r : Rcpt) :
    (resolveWait s w r).boot = s.boot := by
  simp [resolveWait]

@[simp] theorem modPow_boot (s : State) (f : Power → Power) :
    (modPow s f).boot = s.boot := by
  simp [modPow]

@[simp] theorem setDom_boot (s : State) (d : Nat) (v : Nat) :
    (setDom s d v).boot = s.boot := by
  simp [setDom]

@[simp] theorem requestWake_boot (s : State) (d : Nat) (lc : Bool) (ord : Nat) :
    (requestWake s d lc ord).boot = s.boot := by
  unfold requestWake
  repeat' split
  all_goals simp

@[simp] theorem settleLeaving_boot (s : State) :
    (settleLeaving s).boot = s.boot := by
  unfold settleLeaving
  split <;> simp

@[simp] theorem leaveSlack_boot (s : State) (cause : Nat) :
    (leaveSlack s cause).boot = s.boot := by
  unfold leaveSlack
  all_goals (repeat' (first
    | with_reducible rfl
    | with_reducible assumption
    | (simp; done)
    | split
    | (with_reducible refine (foldl_boot _ _ _ (fun _ _ => ?_)).trans ?_)
    | (with_reducible refine (foldl_boot_fst _ _ _ (fun _ _ => ?_)).trans ?_)
    | (with_reducible refine (foldl_boot_snd2 _ _ _ (fun _ _ => ?_)).trans ?_)
    | (with_reducible refine (foldl_boot_snd _ _ _ (fun _ _ => ?_)).trans ?_)
    | (simp_all; done)
    | (simp +zetaDelta [*]; done)
    | (simp_all +zetaDelta; done)
    | dsimp only
    | simp))

@[simp] theorem leaveFlit_boot (s : State) :
    (leaveFlit s).boot = s.boot := by
  unfold leaveFlit
  split <;> simp

@[simp] theorem consume_boot (s : State) (fn : Nat) (rid : RingId) :
    (consume s fn rid).boot = s.boot := by
  simp [consume]

@[simp] theorem settleSlots_boot (x0 : List SlotRead) (x1 : State) (x2 : Nat) (x3 : RingId) :
    (settleSlots x0 x1 x2 x3).boot = x1.boot := by
  fun_induction settleSlots x0 x1 x2 x3
  all_goals (repeat' (first
    | with_reducible rfl
    | with_reducible assumption
    | (simp; done)
    | split
    | (with_reducible refine (foldl_boot _ _ _ (fun _ _ => ?_)).trans ?_)
    | (with_reducible refine (foldl_boot_fst _ _ _ (fun _ _ => ?_)).trans ?_)
    | (with_reducible refine (foldl_boot_snd2 _ _ _ (fun _ _ => ?_)).trans ?_)
    | (with_reducible refine (foldl_boot_snd _ _ _ (fun _ _ => ?_)).trans ?_)
    | (simp_all; done)
    | (simp +zetaDelta [*]; done)
    | (simp_all +zetaDelta; done)
    | dsimp only
    | simp))

@[simp] theorem settleRing_boot (s : State) (fn : Nat) (rid : RingId) :
    (settleRing s fn rid).boot = s.boot := by
  unfold settleRing
  all_goals (repeat' (first
    | with_reducible rfl
    | with_reducible assumption
    | (simp; done)
    | split
    | (with_reducible refine (foldl_boot _ _ _ (fun _ _ => ?_)).trans ?_)
    | (with_reducible refine (foldl_boot_fst _ _ _ (fun _ _ => ?_)).trans ?_)
    | (with_reducible refine (foldl_boot_snd2 _ _ _ (fun _ _ => ?_)).trans ?_)
    | (with_reducible refine (foldl_boot_snd _ _ _ (fun _ _ => ?_)).trans ?_)
    | (simp_all; done)
    | (simp +zetaDelta [*]; done)
    | (simp_all +zetaDelta; done)
    | dsimp only
    | simp))

@[simp] theorem startRing_boot (s : State) (h : Hdr) (rid : RingId) (k : State → Nat → State) (hk : ∀ s tag, (k s tag).boot = s.boot) :
    KeepsBoot s (startRing s h rid k) := by
  unfold startRing
  split
  · rw [KeepsBoot.next_iff, settleRing_boot, hk, consume_boot]
  · exact KeepsBoot.next_iff.mpr rfl

@[simp] theorem ringCmd_boot (rid : RingId) (h : Hdr) (c : RingCmd) (s : State) (hr : ∀ s tag, (c.run s tag).boot = s.boot) :
    KeepsBoot s (ringCmd rid h c s) := by
  unfold ringCmd
  split
  · exact KeepsBoot.next_iff.mpr rfl
  · refine startRing_boot _ _ _ _ (fun s tag => ?_)
    split
    · rfl
    · exact hr s tag

@[simp] theorem adminCmd_boot (h : Hdr) (c : RingCmd) (s : State) (hr : ∀ s tag, (c.run s tag).boot = s.boot) :
    KeepsBoot s (adminCmd h c s) := ringCmd_boot _ _ _ _ hr

@[simp] theorem finish_boot (s : State) (h : Hdr) (rid : RingId) (tag : Nat) (r : Rcpt) :
    (finish s h rid tag r).boot = s.boot := by
  simp [finish]

@[simp] theorem done_boot (s : State) (h : Hdr) (tag : Nat) (r : Rcpt) :
    (done s h tag r).boot = s.boot := by
  simp [done]

@[simp] theorem doneWrite_boot (s : State) (h : Hdr) (tag : Nat) (bs : List Byte) (r : Rcpt) :
    (doneWrite s h tag bs r).boot = s.boot := by
  unfold doneWrite
  all_goals (repeat' (first
    | with_reducible rfl
    | with_reducible assumption
    | (simp; done)
    | (with_reducible refine (congrArg (fun p => p.1.boot) ‹hostWrite _ _ _ _  = (_, _)›.symm).trans ?_)
    | split
    | (with_reducible refine (foldl_boot _ _ _ (fun _ _ => ?_)).trans ?_)
    | (with_reducible refine (foldl_boot_fst _ _ _ (fun _ _ => ?_)).trans ?_)
    | (with_reducible refine (foldl_boot_snd2 _ _ _ (fun _ _ => ?_)).trans ?_)
    | (with_reducible refine (foldl_boot_snd _ _ _ (fun _ _ => ?_)).trans ?_)
    | (simp_all; done)
    | (simp +zetaDelta [*]; done)
    | (simp_all +zetaDelta; done)
    | dsimp only
    | simp))

@[simp] theorem park_boot (s : State) (h : Hdr) (tag : Nat) (w : Wait) :
    (park s h tag w).boot = s.boot := by
  simp [park]

end Sys2Proof.Machine
end

