-- ==== Sys2Proof/Laws/KeepOperands.lean ====
section
/-! SUPPORT. The operations of Operands leave the boot state as it is. -/

set_option Elab.async false
set_option linter.all false
set_option linter.unusedTactic false
set_option linter.unreachableTactic false

namespace Sys2Proof.Machine

@[simp] theorem modAccount_boot (s : State) (a : Nat) (f : Account → Account) :
    (modAccount s a f).boot = s.boot := by
  simp [modAccount]

@[simp] theorem modSession_boot (s : State) (d : Nat) (f : Session → Session) :
    (modSession s d f).boot = s.boot := by
  simp [modSession]

end Sys2Proof.Machine
end

