-- ==== Sys2Proof/Laws/KeepTwBase.lean ====
section
/-! SUPPORT. The operations of TwBase leave the boot state as it is. -/

set_option Elab.async false
set_option linter.all false
set_option linter.unusedTactic false
set_option linter.unreachableTactic false

namespace Sys2Proof.Machine

@[simp] theorem modTw_boot (s : State) (f : Tideway → Tideway) :
    (modTw s f).boot = s.boot := by
  simp [modTw]

@[simp] theorem modConn_boot (s : State) (c : Nat) (f : Conn → Conn) :
    (modConn s c f).boot = s.boot := by
  simp [modConn]

@[simp] theorem modPort_boot (s : State) (n : Nat) (f : EPort → EPort) :
    (modPort s n f).boot = s.boot := by
  simp [modPort]

@[simp] theorem count_boot (s : State) (port : Nat) (k : Nat) (n : Nat) :
    (count s port k n).boot = s.boot := by
  simp [count]

@[simp] theorem transmit_boot (s : State) (c : Nat) (p : OutPkt) :
    (transmit s c p).boot = s.boot := by
  unfold transmit
  split <;> simp

@[simp] theorem pumpGo_boot (x0 : Nat) (x1 : State) (x2 : Nat) :
    (pumpGo x0 x1 x2).boot = x1.boot := by
  fun_induction pumpGo x0 x1 x2
  all_goals (repeat' (first
    | with_reducible rfl
    | with_reducible assumption
    | (simp; done)
    | split
    | (with_reducible refine (foldl_boot _ _ _ (fun _ _ => ?_)).trans ?_)
    | (with_reducible refine (foldl_boot_fst _ _ _ (fun _ _ => ?_)).trans ?_)
    | (with_reducible refine (foldl_boot_snd2 _ _ _ (fun _ _ => ?_)).trans ?_)
    | (with_reducible refine (foldl_boot_snd _ _ _ (fun _ _ => ?_)).trans ?_)
    | (simp_all; done)
    | (simp +zetaDelta [*]; done)
    | (simp_all +zetaDelta; done)
    | dsimp only
    | simp))

@[simp] theorem pump_boot (s : State) (c : Nat) :
    (pump s c).boot = s.boot := by
  unfold pump
  split <;> simp

@[simp] theorem sendMsg_boot (s : State) (c : Nat) (m : TwMsg) :
    (sendMsg s c m).boot = s.boot := by
  unfold sendMsg
  repeat' split
  all_goals simp

@[simp] theorem sendRequest_boot (s : State) (c : Nat) (m : TwMsg) (r : SentReq) :
    (sendRequest s c m r).boot = s.boot := by
  unfold sendRequest
  split <;> simp

@[simp] theorem flushDue_boot (s : State) (c : Nat) :
    (flushDue s c).boot = s.boot := by
  unfold flushDue
  all_goals (repeat' (first
    | with_reducible rfl
    | with_reducible assumption
    | (simp; done)
    | split
    | (with_reducible refine (foldl_boot _ _ _ (fun _ _ => ?_)).trans ?_)
    | (with_reducible refine (foldl_boot_fst _ _ _ (fun _ _ => ?_)).trans ?_)
    | (with_reducible refine (foldl_boot_snd2 _ _ _ (fun _ _ => ?_)).trans ?_)
    | (with_reducible refine (foldl_boot_snd _ _ _ (fun _ _ => ?_)).trans ?_)
    | (simp_all; done)
    | (simp +zetaDelta [*]; done)
    | (simp_all +zetaDelta; done)
    | dsimp only
    | simp))

@[simp] theorem twDeadLetter_boot (s : State) (fn : Nat) (req : Nat) (r : Rcpt) :
    (twDeadLetter s fn req r).boot = s.boot := by
  simp [twDeadLetter]

@[simp] theorem twComplete_boot (s : State) (fn : Nat) (c : Nat) (req : Nat) (be : Bool) (r : Rcpt) :
    (twComplete s fn c req be r).boot = s.boot := by
  unfold twComplete
  all_goals (repeat' (first
    | with_reducible rfl
    | with_reducible assumption
    | (simp; done)
    | split
    | (with_reducible refine (foldl_boot _ _ _ (fun _ _ => ?_)).trans ?_)
    | (with_reducible refine (foldl_boot_fst _ _ _ (fun _ _ => ?_)).trans ?_)
    | (with_reducible refine (foldl_boot_snd2 _ _ _ (fun _ _ => ?_)).trans ?_)
    | (with_reducible refine (foldl_boot_snd _ _ _ (fun _ _ => ?_)).trans ?_)
    | (simp_all; done)
    | (simp +zetaDelta [*]; done)
    | (simp_all +zetaDelta; done)
    | dsimp only
    | simp))

@[simp] theorem sendResult_boot (s : State) (c : Nat) (req : Nat) (key : Nat) (addr : Nat) (bs : List Byte) :
    (sendResult s c req key addr bs).boot = s.boot := by
  unfold sendResult
  repeat' split
  all_goals simp

@[simp] theorem sendResp_boot (s : State) (c : Nat) (req : Nat) (bs : List Byte) :
    (sendResp s c req bs).boot = s.boot := by
  unfold sendResp
  split <;> simp

@[simp] theorem ackNow_boot (s : State) (c : Nat) :
    (ackNow s c).boot = s.boot := by
  unfold ackNow
  split <;> simp

@[simp] theorem packetTaken_boot (s : State) (c : Nat) (psn : Nat) (last : Bool) :
    (packetTaken s c psn last).boot = s.boot := by
  unfold packetTaken
  all_goals (repeat' (first
    | with_reducible rfl
    | with_reducible assumption
    | (simp; done)
    | split
    | (with_reducible refine (foldl_boot _ _ _ (fun _ _ => ?_)).trans ?_)
    | (with_reducible refine (foldl_boot_fst _ _ _ (fun _ _ => ?_)).trans ?_)
    | (with_reducible refine (foldl_boot_snd2 _ _ _ (fun _ _ => ?_)).trans ?_)
    | (with_reducible refine (foldl_boot_snd _ _ _ (fun _ _ => ?_)).trans ?_)
    | (simp_all; done)
    | (simp +zetaDelta [*]; done)
    | (simp_all +zetaDelta; done)
    | dsimp only
    | simp))

@[simp] theorem noteKey_boot (s : State) (c : Nat) (key : Nat) (r : Rcpt) :
    (noteKey s c key r).boot = s.boot := by
  unfold noteKey
  repeat' split
  all_goals simp

@[simp] theorem refuseWrite_boot (s : State) (c : Nat) (msg : Nat) (key : Nat) (be : Bool) (r : Rcpt) :
    (refuseWrite s c msg key be r).boot = s.boot := by
  unfold refuseWrite
  repeat' split
  all_goals simp

@[simp] theorem writePlaced_boot (s : State) (c : Nat) (msg : Nat) (n : Nat) :
    (writePlaced s c msg n).boot = s.boot := by
  simp [writePlaced]

@[simp] theorem refuseRead_boot (s : State) (c : Nat) (msg : Nat) (key : Nat) (be : Bool) (r : Rcpt) :
    (refuseRead s c msg key be r).boot = s.boot := by
  unfold refuseRead
  split <;> simp

end Sys2Proof.Machine
end

