-- ==== Sys2Proof/Laws/KeepCopies.lean ====
section
/-! SUPPORT. The operations of Copies leave the boot state as it is. -/

set_option Elab.async false
set_option linter.all false
set_option linter.unusedTactic false
set_option linter.unreachableTactic false

namespace Sys2Proof.Machine

@[simp] theorem modPair_boot (s : State) (f : Pair → Pair) :
    (modPair s f).boot = s.boot := by
  simp [modPair]

@[simp] theorem isthmus_boot (s : State) (m : IstMsg) :
    (isthmus s m).boot = s.boot := by
  unfold isthmus
  split <;> simp

@[simp] theorem poolFree_boot (s : State) (loc : Nat) :
    (poolFree s loc).boot = s.boot := by
  unfold poolFree
  repeat' split
  all_goals simp

@[simp] theorem releaseMirror_boot (s : State) (loc : Nat) (c : Copy) :
    (releaseMirror s loc c).boot = s.boot := by
  unfold releaseMirror
  repeat' split
  all_goals simp

@[simp] theorem releaseCopy_boot (s : State) (key : Nat) :
    (releaseCopy s key).boot = s.boot := by
  unfold releaseCopy
  repeat' split
  all_goals simp

end Sys2Proof.Machine
end

