-- ==== Sys2Proof/Laws/KeepPlacement.lean ====
section
/-! SUPPORT. The operations of Placement leave the boot state as it is. -/

set_option Elab.async false
set_option linter.all false
set_option linter.unusedTactic false
set_option linter.unreachableTactic false

namespace Sys2Proof.Machine

@[simp] theorem takeRun_boot (s : State) (stack : Nat) (base : Nat) (n : Nat) (account : Option Nat) :
    (takeRun s stack base n account).boot = s.boot := by
  simp [takeRun]

@[simp] theorem freeRun_boot (s : State) (key : Nat) :
    (freeRun s key).boot = s.boot := by
  unfold freeRun
  all_goals (repeat' (first
    | with_reducible rfl
    | with_reducible assumption
    | (simp; done)
    | split
    | (with_reducible refine (foldl_boot _ _ _ (fun _ _ => ?_)).trans ?_)
    | (with_reducible refine (foldl_boot_fst _ _ _ (fun _ _ => ?_)).trans ?_)
    | (with_reducible refine (foldl_boot_snd2 _ _ _ (fun _ _ => ?_)).trans ?_)
    | (with_reducible refine (foldl_boot_snd _ _ _ (fun _ _ => ?_)).trans ?_)
    | (simp_all; done)
    | (simp +zetaDelta [*]; done)
    | (simp_all +zetaDelta; done)
    | dsimp only
    | simp))

theorem takeAnywhere_boot (s : State) (n : Nat) (account : Option Nat) :
    ∀ t, takeAnywhere s n account = some t → t.2.boot = s.boot := by
  intro t h
  unfold takeAnywhere at h
  repeat' (first | split at h | (dsimp only at h; split at h))
  all_goals (try dsimp only at h)
  all_goals (try (rw [Option.map_eq_some_iff] at h; obtain ⟨r, h, rfl⟩ := h))
  all_goals (first | (cases h; done) | cases h | skip)
  all_goals (repeat' (first
    | with_reducible rfl
    | with_reducible assumption
    | (simp; done)
    | split
    | (with_reducible refine (foldl_boot _ _ _ (fun _ _ => ?_)).trans ?_)
    | (with_reducible refine (foldl_boot_fst _ _ _ (fun _ _ => ?_)).trans ?_)
    | (with_reducible refine (foldl_boot_snd2 _ _ _ (fun _ _ => ?_)).trans ?_)
    | (with_reducible refine (foldl_boot_snd _ _ _ (fun _ _ => ?_)).trans ?_)
    | (simp_all; done)
    | (simp +zetaDelta [*]; done)
    | (simp_all +zetaDelta; done)
    | dsimp only
    | simp))

@[simp] theorem pressureOne_boot (s : State) (r : Nat) :
    (pressureOne s r).boot = s.boot := by
  unfold pressureOne
  repeat' split
  all_goals simp

@[simp] theorem checkPressure_boot (s : State) :
    (checkPressure s).boot = s.boot := by
  unfold checkPressure
  exact foldl_boot _ _ _ (fun _ _ => by simp)

@[simp] theorem noteQuota_boot (a : Nat) (s : State) (tier : Nat) :
    (noteQuota a s tier).boot = s.boot := by
  unfold noteQuota
  all_goals (repeat' (first
    | with_reducible rfl
    | with_reducible assumption
    | (simp; done)
    | split
    | (with_reducible refine (foldl_boot _ _ _ (fun _ _ => ?_)).trans ?_)
    | (with_reducible refine (foldl_boot_fst _ _ _ (fun _ _ => ?_)).trans ?_)
    | (with_reducible refine (foldl_boot_snd2 _ _ _ (fun _ _ => ?_)).trans ?_)
    | (with_reducible refine (foldl_boot_snd _ _ _ (fun _ _ => ?_)).trans ?_)
    | (simp_all; done)
    | (simp +zetaDelta [*]; done)
    | (simp_all +zetaDelta; done)
    | dsimp only
    | simp))

@[simp] theorem noteQuotas_boot (s : State) (a : Nat) :
    (noteQuotas s a).boot = s.boot := by
  simp [noteQuotas]

@[simp] theorem countWritten_boot (s : State) (a : Nat) (n : Nat) :
    (countWritten s a n).boot = s.boot := by
  simp [countWritten]

@[simp] theorem releaseRetained_boot (a : Nat) (n : Nat) (x0 : List (Nat × Copy)) (x1 : State) :
    (releaseRetained a n x0 x1).boot = x1.boot := by
  fun_induction releaseRetained a n x0 x1
  all_goals (repeat' (first
    | with_reducible rfl
    | with_reducible assumption
    | (simp; done)
    | split
    | (with_reducible refine (foldl_boot _ _ _ (fun _ _ => ?_)).trans ?_)
    | (with_reducible refine (foldl_boot_fst _ _ _ (fun _ _ => ?_)).trans ?_)
    | (with_reducible refine (foldl_boot_snd2 _ _ _ (fun _ _ => ?_)).trans ?_)
    | (with_reducible refine (foldl_boot_snd _ _ _ (fun _ _ => ?_)).trans ?_)
    | (simp_all; done)
    | (simp +zetaDelta [*]; done)
    | (simp_all +zetaDelta; done)
    | dsimp only
    | simp))

@[simp] theorem makeMediaRoom_boot (s : State) (a : Nat) (n : Nat) :
    (makeMediaRoom s a n).boot = s.boot := by
  simp [makeMediaRoom]

@[simp] theorem growPool_boot (s : State) (a : Nat) :
    (growPool s a).boot = s.boot := by
  unfold growPool
  all_goals (repeat' (first
    | with_reducible rfl
    | with_reducible assumption
    | (simp; done)
    | (with_reducible refine (takeAnywhere_boot _ _ _  _ ‹takeAnywhere _ _ _  = .some _›).trans ?_)
    | split
    | (with_reducible refine (foldl_boot _ _ _ (fun _ _ => ?_)).trans ?_)
    | (with_reducible refine (foldl_boot_fst _ _ _ (fun _ _ => ?_)).trans ?_)
    | (with_reducible refine (foldl_boot_snd2 _ _ _ (fun _ _ => ?_)).trans ?_)
    | (with_reducible refine (foldl_boot_snd _ _ _ (fun _ _ => ?_)).trans ?_)
    | (simp_all; done)
    | (simp +zetaDelta [*]; done)
    | (simp_all +zetaDelta; done)
    | dsimp only
    | simp))

@[simp] theorem fitPool_boot (s : State) (a : Nat) :
    (fitPool s a).boot = s.boot := by
  unfold fitPool
  all_goals (repeat' (first
    | with_reducible rfl
    | with_reducible assumption
    | (simp; done)
    | split
    | (with_reducible refine (foldl_boot _ _ _ (fun _ _ => ?_)).trans ?_)
    | (with_reducible refine (foldl_boot_fst _ _ _ (fun _ _ => ?_)).trans ?_)
    | (with_reducible refine (foldl_boot_snd2 _ _ _ (fun _ _ => ?_)).trans ?_)
    | (with_reducible refine (foldl_boot_snd _ _ _ (fun _ _ => ?_)).trans ?_)
    | (simp_all; done)
    | (simp +zetaDelta [*]; done)
    | (simp_all +zetaDelta; done)
    | dsimp only
    | simp))

end Sys2Proof.Machine
end

