-- ==== Sys2Proof/Laws/KeepMedia.lean ====
section
/-! SUPPORT. The operations of Media leave the boot state as it is. -/

set_option Elab.async false
set_option linter.all false
set_option linter.unusedTactic false
set_option linter.unreachableTactic false

namespace Sys2Proof.Machine

@[simp] theorem modMedia_boot (s : State) (f : Media → Media) :
    (modMedia s f).boot = s.boot := by
  simp [modMedia]

@[simp] theorem notePrograms_boot (s : State) (all : Nat) (stored : Nat) :
    (notePrograms s all stored).boot = s.boot := by
  simp [notePrograms]

@[simp] theorem setMedia_boot (s : State) (st : Nat) :
    (setMedia s st).boot = s.boot := by
  unfold setMedia
  split <;> simp

@[simp] theorem noteWear_boot (s : State) :
    (noteWear s).boot = s.boot := by
  unfold noteWear
  all_goals (repeat' (first
    | with_reducible rfl
    | with_reducible assumption
    | (simp; done)
    | split
    | (with_reducible refine (foldl_boot _ _ _ (fun _ _ => ?_)).trans ?_)
    | (with_reducible refine (foldl_boot_fst _ _ _ (fun _ _ => ?_)).trans ?_)
    | (with_reducible refine (foldl_boot_snd2 _ _ _ (fun _ _ => ?_)).trans ?_)
    | (with_reducible refine (foldl_boot_snd _ _ _ (fun _ _ => ?_)).trans ?_)
    | (simp_all; done)
    | (simp +zetaDelta [*]; done)
    | (simp_all +zetaDelta; done)
    | dsimp only
    | simp))

@[simp] theorem settleMedia_boot (s : State) :
    (settleMedia s).boot = s.boot := by
  unfold settleMedia
  all_goals (repeat' (first
    | with_reducible rfl
    | with_reducible assumption
    | (simp; done)
    | split
    | (with_reducible refine (foldl_boot _ _ _ (fun _ _ => ?_)).trans ?_)
    | (with_reducible refine (foldl_boot_fst _ _ _ (fun _ _ => ?_)).trans ?_)
    | (with_reducible refine (foldl_boot_snd2 _ _ _ (fun _ _ => ?_)).trans ?_)
    | (with_reducible refine (foldl_boot_snd _ _ _ (fun _ _ => ?_)).trans ?_)
    | (simp_all; done)
    | (simp +zetaDelta [*]; done)
    | (simp_all +zetaDelta; done)
    | dsimp only
    | simp))

@[simp] theorem modShingle_boot (s : State) (n : Nat) (f : Shingle → Shingle) :
    (modShingle s n f).boot = s.boot := by
  simp [modShingle]

theorem openShingle_boot (s : State) (w : Nat) :
    ∀ t, openShingle s w = some t → t.2.boot = s.boot := by
  intro t h
  unfold openShingle at h
  repeat' (first | split at h | (dsimp only at h; split at h))
  all_goals (try dsimp only at h)
  all_goals (try (rw [Option.map_eq_some_iff] at h; obtain ⟨r, h, rfl⟩ := h))
  all_goals (first | (cases h; done) | cases h | skip)
  all_goals (repeat' (first
    | with_reducible rfl
    | with_reducible assumption
    | (simp; done)
    | split
    | (with_reducible refine (foldl_boot _ _ _ (fun _ _ => ?_)).trans ?_)
    | (with_reducible refine (foldl_boot_fst _ _ _ (fun _ _ => ?_)).trans ?_)
    | (with_reducible refine (foldl_boot_snd2 _ _ _ (fun _ _ => ?_)).trans ?_)
    | (with_reducible refine (foldl_boot_snd _ _ _ (fun _ _ => ?_)).trans ?_)
    | (simp_all; done)
    | (simp +zetaDelta [*]; done)
    | (simp_all +zetaDelta; done)
    | dsimp only
    | simp))

@[simp] theorem closeShingle_boot (s : State) (n : Nat) :
    (closeShingle s n).boot = s.boot := by
  unfold closeShingle
  all_goals (repeat' (first
    | with_reducible rfl
    | with_reducible assumption
    | (simp; done)
    | split
    | (with_reducible refine (foldl_boot _ _ _ (fun _ _ => ?_)).trans ?_)
    | (with_reducible refine (foldl_boot_fst _ _ _ (fun _ _ => ?_)).trans ?_)
    | (with_reducible refine (foldl_boot_snd2 _ _ _ (fun _ _ => ?_)).trans ?_)
    | (with_reducible refine (foldl_boot_snd _ _ _ (fun _ _ => ?_)).trans ?_)
    | (simp_all; done)
    | (simp +zetaDelta [*]; done)
    | (simp_all +zetaDelta; done)
    | dsimp only
    | simp))

@[simp] theorem placeAt_boot (s : State) (n : Nat) (sh : Shingle) (c : MediaCopy) :
    (placeAt s n sh c).2.boot = s.boot := by
  simp [placeAt]

@[simp] theorem mediaPlace_boot (s : State) (w : Nat) (c : MediaCopy) :
    (mediaPlace s w c).2.boot = s.boot := by
  unfold mediaPlace
  all_goals (repeat' (first
    | with_reducible rfl
    | with_reducible assumption
    | (simp; done)
    | (with_reducible refine (openShingle_boot _ _  _ ‹openShingle _ _  = .some _›).trans ?_)
    | (with_reducible refine (congrArg (fun p => p.2.boot) ‹placeAt _ _ _ _  = (_, _)›.symm).trans ?_)
    | split
    | (with_reducible refine (foldl_boot _ _ _ (fun _ _ => ?_)).trans ?_)
    | (with_reducible refine (foldl_boot_fst _ _ _ (fun _ _ => ?_)).trans ?_)
    | (with_reducible refine (foldl_boot_snd2 _ _ _ (fun _ _ => ?_)).trans ?_)
    | (with_reducible refine (foldl_boot_snd _ _ _ (fun _ _ => ?_)).trans ?_)
    | (simp_all; done)
    | (simp +zetaDelta [*]; done)
    | (simp_all +zetaDelta; done)
    | dsimp only
    | simp))

@[simp] theorem countRow_boot (s : State) (n : Nat) (sh : Shingle) (lo : Nat) (hi : Nat) :
    (countRow s n sh lo hi).boot = s.boot := by
  simp [countRow]

@[simp] theorem finishRow_boot (s : State) (n : Nat) :
    (finishRow s n).boot = s.boot := by
  unfold finishRow
  split <;> simp

@[simp] theorem fillRow_boot (s : State) (n : Nat) :
    (fillRow s n).boot = s.boot := by
  simp [fillRow]

@[simp] theorem programAll_boot (s : State) (n : Nat) :
    (programAll s n).boot = s.boot := by
  unfold programAll
  all_goals (repeat' (first
    | with_reducible rfl
    | with_reducible assumption
    | (simp; done)
    | split
    | (with_reducible refine (foldl_boot _ _ _ (fun _ _ => ?_)).trans ?_)
    | (with_reducible refine (foldl_boot_fst _ _ _ (fun _ _ => ?_)).trans ?_)
    | (with_reducible refine (foldl_boot_snd2 _ _ _ (fun _ _ => ?_)).trans ?_)
    | (with_reducible refine (foldl_boot_snd _ _ _ (fun _ _ => ?_)).trans ?_)
    | (simp_all; done)
    | (simp +zetaDelta [*]; done)
    | (simp_all +zetaDelta; done)
    | dsimp only
    | simp))

@[simp] theorem beginErase_boot (s : State) (n : Nat) :
    (beginErase s n).boot = s.boot := by
  unfold beginErase
  repeat' split
  all_goals simp

@[simp] theorem markRefresh_boot (s : State) (n : Nat) :
    (markRefresh s n).boot = s.boot := by
  simp [markRefresh]

@[simp] theorem markRebuild_boot (s : State) (n : Nat) :
    (markRebuild s n).boot = s.boot := by
  simp [markRebuild]

@[simp] theorem rearmBehind_boot (s : State) :
    (rearmBehind s).boot = s.boot := by
  unfold rearmBehind
  split <;> simp

@[simp] theorem scrubAccount_boot (s : State) (a : Nat) :
    (scrubAccount s a).boot = s.boot := by
  unfold scrubAccount
  all_goals (repeat' (first
    | with_reducible rfl
    | with_reducible assumption
    | (simp; done)
    | split
    | (with_reducible refine (foldl_boot _ _ _ (fun _ _ => ?_)).trans ?_)
    | (with_reducible refine (foldl_boot_fst _ _ _ (fun _ _ => ?_)).trans ?_)
    | (with_reducible refine (foldl_boot_snd2 _ _ _ (fun _ _ => ?_)).trans ?_)
    | (with_reducible refine (foldl_boot_snd _ _ _ (fun _ _ => ?_)).trans ?_)
    | (simp_all; done)
    | (simp +zetaDelta [*]; done)
    | (simp_all +zetaDelta; done)
    | dsimp only
    | simp))

@[simp] theorem noteScrubbed_boot (s : State) (n : Nat) :
    (noteScrubbed s n).boot = s.boot := by
  unfold noteScrubbed
  all_goals (repeat' (first
    | with_reducible rfl
    | with_reducible assumption
    | (simp; done)
    | split
    | (with_reducible refine (foldl_boot _ _ _ (fun _ _ => ?_)).trans ?_)
    | (with_reducible refine (foldl_boot_fst _ _ _ (fun _ _ => ?_)).trans ?_)
    | (with_reducible refine (foldl_boot_snd2 _ _ _ (fun _ _ => ?_)).trans ?_)
    | (with_reducible refine (foldl_boot_snd _ _ _ (fun _ _ => ?_)).trans ?_)
    | (simp_all; done)
    | (simp +zetaDelta [*]; done)
    | (simp_all +zetaDelta; done)
    | dsimp only
    | simp))

end Sys2Proof.Machine
end

