-- ==== Sys2Proof/Laws/KeepPages.lean ====
section
/-! SUPPORT. The operations of Pages leave the boot state as it is. -/

set_option Elab.async false
set_option linter.all false
set_option linter.unusedTactic false
set_option linter.unreachableTactic false

namespace Sys2Proof.Machine

theorem openPage_boot (s : State) (x : Session) (d : Nat) (l : Nat) (i : Nat) (fmt : Nat) (gen : Option Nat) :
    ∀ t, openPage s x d l i fmt gen = some t → t.2.boot = s.boot := by
  intro t h
  unfold openPage at h
  repeat' (first | split at h | (dsimp only at h; split at h))
  all_goals (try dsimp only at h)
  all_goals (try (rw [Option.map_eq_some_iff] at h; obtain ⟨r, h, rfl⟩ := h))
  all_goals (first | (cases h; done) | cases h | skip)
  all_goals (repeat' (first
    | with_reducible rfl
    | with_reducible assumption
    | (simp; done)
    | split
    | (with_reducible refine (foldl_boot _ _ _ (fun _ _ => ?_)).trans ?_)
    | (with_reducible refine (foldl_boot_fst _ _ _ (fun _ _ => ?_)).trans ?_)
    | (with_reducible refine (foldl_boot_snd2 _ _ _ (fun _ _ => ?_)).trans ?_)
    | (with_reducible refine (foldl_boot_snd _ _ _ (fun _ _ => ?_)).trans ?_)
    | (simp_all; done)
    | (simp +zetaDelta [*]; done)
    | (simp_all +zetaDelta; done)
    | dsimp only
    | simp))

@[simp] theorem modPage_boot (s : State) (loc : Nat) (f : PageRec → PageRec) :
    (modPage s loc f).boot = s.boot := by
  simp [modPage]

@[simp] theorem freePage_boot (s : State) (loc : Nat) :
    (freePage s loc).boot = s.boot := by
  unfold freePage
  split <;> simp

@[simp] theorem dropRef_boot (s : State) (loc : Nat) :
    (dropRef s loc).boot = s.boot := by
  unfold dropRef
  all_goals (repeat' (first
    | with_reducible rfl
    | with_reducible assumption
    | (simp; done)
    | split
    | (with_reducible refine (foldl_boot _ _ _ (fun _ _ => ?_)).trans ?_)
    | (with_reducible refine (foldl_boot_fst _ _ _ (fun _ _ => ?_)).trans ?_)
    | (with_reducible refine (foldl_boot_snd2 _ _ _ (fun _ _ => ?_)).trans ?_)
    | (with_reducible refine (foldl_boot_snd _ _ _ (fun _ _ => ?_)).trans ?_)
    | (simp_all; done)
    | (simp +zetaDelta [*]; done)
    | (simp_all +zetaDelta; done)
    | dsimp only
    | simp))

@[simp] theorem reapPages_boot (s : State) :
    (reapPages s).boot = s.boot := by
  unfold reapPages
  exact foldl_boot _ _ _ (fun _ _ => by simp)

@[simp] theorem setRef_boot (s : State) (d : Nat) (key : Nat) (r : PRef) :
    (setRef s d key r).boot = s.boot := by
  simp [setRef]

@[simp] theorem indexPage_boot (d : Nat) (key : Nat) (shares : Bool) (s : State) :
    (indexPage d key shares s).boot = s.boot := by
  unfold indexPage
  all_goals (repeat' (first
    | with_reducible rfl
    | with_reducible assumption
    | (simp; done)
    | split
    | (with_reducible refine (foldl_boot _ _ _ (fun _ _ => ?_)).trans ?_)
    | (with_reducible refine (foldl_boot_fst _ _ _ (fun _ _ => ?_)).trans ?_)
    | (with_reducible refine (foldl_boot_snd2 _ _ _ (fun _ _ => ?_)).trans ?_)
    | (with_reducible refine (foldl_boot_snd _ _ _ (fun _ _ => ?_)).trans ?_)
    | (simp_all; done)
    | (simp +zetaDelta [*]; done)
    | (simp_all +zetaDelta; done)
    | dsimp only
    | simp))

@[simp] theorem settleChain_boot (s : State) (d : Nat) (shares : Bool) :
    (settleChain s d shares).boot = s.boot := by
  unfold settleChain
  all_goals (repeat' (first
    | with_reducible rfl
    | with_reducible assumption
    | (simp; done)
    | split
    | (with_reducible refine (foldl_boot _ _ _ (fun _ _ => ?_)).trans ?_)
    | (with_reducible refine (foldl_boot_fst _ _ _ (fun _ _ => ?_)).trans ?_)
    | (with_reducible refine (foldl_boot_snd2 _ _ _ (fun _ _ => ?_)).trans ?_)
    | (with_reducible refine (foldl_boot_snd _ _ _ (fun _ _ => ?_)).trans ?_)
    | (simp_all; done)
    | (simp +zetaDelta [*]; done)
    | (simp_all +zetaDelta; done)
    | dsimp only
    | simp))

end Sys2Proof.Machine
end

