-- ==== Sys2Proof/Laws/KeepSessions.lean ====
section
/-! SUPPORT. The operations of Sessions leave the boot state as it is. -/

set_option Elab.async false
set_option linter.all false
set_option linter.unusedTactic false
set_option linter.unreachableTactic false

namespace Sys2Proof.Machine

@[simp] theorem writeBack_boot (s : State) (d : Nat) :
    (writeBack s d).boot = s.boot := by
  unfold writeBack
  repeat' split
  all_goals simp

@[simp] theorem touch_boot (s : State) (d : Nat) (dirty : Bool) :
    (touch s d dirty).boot = s.boot := by
  unfold touch
  all_goals (repeat' (first
    | with_reducible rfl
    | with_reducible assumption
    | (simp; done)
    | split
    | (with_reducible refine (foldl_boot _ _ _ (fun _ _ => ?_)).trans ?_)
    | (with_reducible refine (foldl_boot_fst _ _ _ (fun _ _ => ?_)).trans ?_)
    | (with_reducible refine (foldl_boot_snd2 _ _ _ (fun _ _ => ?_)).trans ?_)
    | (with_reducible refine (foldl_boot_snd _ _ _ (fun _ _ => ?_)).trans ?_)
    | (simp_all; done)
    | (simp +zetaDelta [*]; done)
    | (simp_all +zetaDelta; done)
    | dsimp only
    | simp))

@[simp] theorem upd_boot (s : State) (d : Nat) (f : Session → Session) :
    (upd s d f).boot = s.boot := by
  unfold upd
  repeat' split
  all_goals simp

@[simp] theorem enterIdle_boot (s : State) (d : Nat) :
    (enterIdle s d).boot = s.boot := by
  simp [enterIdle]

@[simp] theorem recordWait_boot (s : State) (a : Nat) (w : Nat) (hint : Option Nat) :
    (recordWait s a w hint).boot = s.boot := by
  simp [recordWait]

@[simp] theorem endWait_boot (s : State) (d : Nat) :
    (endWait s d).boot = s.boot := by
  unfold endWait
  repeat' split
  all_goals simp

@[simp] theorem enterActive_boot (s : State) (d : Nat) :
    (enterActive s d).boot = s.boot := by
  simp [enterActive]

@[simp] theorem makeScout_boot (s : State) (d : Nat) (x : Session) (keys : List Nat) :
    (makeScout s d x keys).boot = s.boot := by
  unfold makeScout
  all_goals (repeat' (first
    | with_reducible rfl
    | with_reducible assumption
    | (simp; done)
    | (with_reducible refine (congrArg (fun p => p.2.boot) ‹takeFresh _  = (_, _)›.symm).trans ?_)
    | split
    | (with_reducible refine (foldl_boot _ _ _ (fun _ _ => ?_)).trans ?_)
    | (with_reducible refine (foldl_boot_fst _ _ _ (fun _ _ => ?_)).trans ?_)
    | (with_reducible refine (foldl_boot_snd2 _ _ _ (fun _ _ => ?_)).trans ?_)
    | (with_reducible refine (foldl_boot_snd _ _ _ (fun _ _ => ?_)).trans ?_)
    | (simp_all; done)
    | (simp +zetaDelta [*]; done)
    | (simp_all +zetaDelta; done)
    | dsimp only
    | simp))

@[simp] theorem freeScout_boot (s : State) (d : Nat) :
    (freeScout s d).boot = s.boot := by
  unfold freeScout
  repeat' split
  all_goals simp

@[simp] theorem sendCopy_boot (s : State) (d : Nat) (x : Session) (tier : Nat) (key : Nat) (c : Copy) :
    (sendCopy s d x tier key c).2.boot = s.boot := by
  unfold sendCopy
  all_goals (repeat' (first
    | with_reducible rfl
    | with_reducible assumption
    | (simp; done)
    | (with_reducible refine (congrArg (fun p => p.2.boot) ‹mediaPlace _ _ _  = (_, _)›.symm).trans ?_)
    | split
    | (with_reducible refine (foldl_boot _ _ _ (fun _ _ => ?_)).trans ?_)
    | (with_reducible refine (foldl_boot_fst _ _ _ (fun _ _ => ?_)).trans ?_)
    | (with_reducible refine (foldl_boot_snd2 _ _ _ (fun _ _ => ?_)).trans ?_)
    | (with_reducible refine (foldl_boot_snd _ _ _ (fun _ _ => ?_)).trans ?_)
    | (simp_all; done)
    | (simp +zetaDelta [*]; done)
    | (simp_all +zetaDelta; done)
    | dsimp only
    | simp))

@[simp] theorem sendEbb_boot (s : State) (d : Nat) (key : Nat) :
    (sendEbb s d key).boot = s.boot := by
  unfold sendEbb
  all_goals (repeat' (first
    | with_reducible rfl
    | with_reducible assumption
    | (simp; done)
    | (with_reducible refine (congrArg (fun p => p.2.boot) ‹sendCopy _ _ _ _ _ _  = (_, _)›.symm).trans ?_)
    | split
    | (with_reducible refine (foldl_boot _ _ _ (fun _ _ => ?_)).trans ?_)
    | (with_reducible refine (foldl_boot_fst _ _ _ (fun _ _ => ?_)).trans ?_)
    | (with_reducible refine (foldl_boot_snd2 _ _ _ (fun _ _ => ?_)).trans ?_)
    | (with_reducible refine (foldl_boot_snd _ _ _ (fun _ _ => ?_)).trans ?_)
    | (simp_all; done)
    | (simp +zetaDelta [*]; done)
    | (simp_all +zetaDelta; done)
    | dsimp only
    | simp))

@[simp] theorem startEbb_boot (s : State) (d : Nat) :
    (startEbb s d).boot = s.boot := by
  unfold startEbb
  all_goals (repeat' (first
    | with_reducible rfl
    | with_reducible assumption
    | (simp; done)
    | split
    | (with_reducible refine (foldl_boot _ _ _ (fun _ _ => ?_)).trans ?_)
    | (with_reducible refine (foldl_boot_fst _ _ _ (fun _ _ => ?_)).trans ?_)
    | (with_reducible refine (foldl_boot_snd2 _ _ _ (fun _ _ => ?_)).trans ?_)
    | (with_reducible refine (foldl_boot_snd _ _ _ (fun _ _ => ?_)).trans ?_)
    | (simp_all; done)
    | (simp +zetaDelta [*]; done)
    | (simp_all +zetaDelta; done)
    | dsimp only
    | simp))

@[simp] theorem dueEbb_boot (s : State) (d : Nat) :
    (dueEbb s d).boot = s.boot := by
  unfold dueEbb
  split <;> simp

@[simp] theorem retryDeferred_boot (s : State) (d : Nat) :
    (retryDeferred s d).boot = s.boot := by
  unfold retryDeferred
  repeat' split
  all_goals simp

@[simp] theorem dropPlaced_boot (s : State) (a : Nat) (loc : Nat) :
    (dropPlaced s a loc).boot = s.boot := by
  unfold dropPlaced
  all_goals (repeat' (first
    | with_reducible rfl
    | with_reducible assumption
    | (simp; done)
    | split
    | (with_reducible refine (foldl_boot _ _ _ (fun _ _ => ?_)).trans ?_)
    | (with_reducible refine (foldl_boot_fst _ _ _ (fun _ _ => ?_)).trans ?_)
    | (with_reducible refine (foldl_boot_snd2 _ _ _ (fun _ _ => ?_)).trans ?_)
    | (with_reducible refine (foldl_boot_snd _ _ _ (fun _ _ => ?_)).trans ?_)
    | (simp_all; done)
    | (simp +zetaDelta [*]; done)
    | (simp_all +zetaDelta; done)
    | dsimp only
    | simp))

@[simp] theorem undoEbb_boot (s : State) (d : Nat) :
    (undoEbb s d).boot = s.boot := by
  unfold undoEbb
  all_goals (repeat' (first
    | with_reducible rfl
    | with_reducible assumption
    | (simp; done)
    | split
    | (with_reducible refine (foldl_boot _ _ _ (fun _ _ => ?_)).trans ?_)
    | (with_reducible refine (foldl_boot_fst _ _ _ (fun _ _ => ?_)).trans ?_)
    | (with_reducible refine (foldl_boot_snd2 _ _ _ (fun _ _ => ?_)).trans ?_)
    | (with_reducible refine (foldl_boot_snd _ _ _ (fun _ _ => ?_)).trans ?_)
    | (simp_all; done)
    | (simp +zetaDelta [*]; done)
    | (simp_all +zetaDelta; done)
    | dsimp only
    | simp))

@[simp] theorem cancelEbb_boot (s : State) (d : Nat) :
    (cancelEbb s d).boot = s.boot := by
  simp [cancelEbb]

@[simp] theorem serveBundle_boot (s : State) (o : Nat) :
    (serveBundle s o).boot = s.boot := by
  unfold serveBundle
  all_goals (repeat' (first
    | with_reducible rfl
    | with_reducible assumption
    | (simp; done)
    | split
    | (with_reducible refine (foldl_boot _ _ _ (fun _ _ => ?_)).trans ?_)
    | (with_reducible refine (foldl_boot_fst _ _ _ (fun _ _ => ?_)).trans ?_)
    | (with_reducible refine (foldl_boot_snd2 _ _ _ (fun _ _ => ?_)).trans ?_)
    | (with_reducible refine (foldl_boot_snd _ _ _ (fun _ _ => ?_)).trans ?_)
    | (simp_all; done)
    | (simp +zetaDelta [*]; done)
    | (simp_all +zetaDelta; done)
    | dsimp only
    | simp))

@[simp] theorem raiseBundle_boot (s : State) (o : Nat) (lc : Bool) :
    (raiseBundle s o lc).boot = s.boot := by
  unfold raiseBundle
  all_goals (repeat' (first
    | with_reducible rfl
    | with_reducible assumption
    | (simp; done)
    | split
    | (with_reducible refine (foldl_boot _ _ _ (fun _ _ => ?_)).trans ?_)
    | (with_reducible refine (foldl_boot_fst _ _ _ (fun _ _ => ?_)).trans ?_)
    | (with_reducible refine (foldl_boot_snd2 _ _ _ (fun _ _ => ?_)).trans ?_)
    | (with_reducible refine (foldl_boot_snd _ _ _ (fun _ _ => ?_)).trans ?_)
    | (simp_all; done)
    | (simp +zetaDelta [*]; done)
    | (simp_all +zetaDelta; done)
    | dsimp only
    | simp))

@[simp] theorem floodBundles_boot (s : State) (a : Nat) (lc : Bool) :
    (floodBundles s a lc).boot = s.boot := by
  unfold floodBundles
  all_goals (repeat' (first
    | with_reducible rfl
    | with_reducible assumption
    | (simp; done)
    | split
    | (with_reducible refine (foldl_boot _ _ _ (fun _ _ => ?_)).trans ?_)
    | (with_reducible refine (foldl_boot_fst _ _ _ (fun _ _ => ?_)).trans ?_)
    | (with_reducible refine (foldl_boot_snd2 _ _ _ (fun _ _ => ?_)).trans ?_)
    | (with_reducible refine (foldl_boot_snd _ _ _ (fun _ _ => ?_)).trans ?_)
    | (simp_all; done)
    | (simp +zetaDelta [*]; done)
    | (simp_all +zetaDelta; done)
    | dsimp only
    | simp))

@[simp] theorem fetchPage_boot (s : State) (d : Nat) (x : Session) (lc : Bool) (key : Nat) :
    (fetchPage s d x lc key).boot = s.boot := by
  unfold fetchPage
  repeat' split
  all_goals simp

@[simp] theorem startFlood_boot (s : State) (d : Nat) (lc : Bool) (predictor : Bool) :
    (startFlood s d lc predictor).1.boot = s.boot := by
  unfold startFlood
  all_goals (repeat' (first
    | with_reducible rfl
    | with_reducible assumption
    | (simp; done)
    | split
    | (with_reducible refine (foldl_boot _ _ _ (fun _ _ => ?_)).trans ?_)
    | (with_reducible refine (foldl_boot_fst _ _ _ (fun _ _ => ?_)).trans ?_)
    | (with_reducible refine (foldl_boot_snd2 _ _ _ (fun _ _ => ?_)).trans ?_)
    | (with_reducible refine (foldl_boot_snd _ _ _ (fun _ _ => ?_)).trans ?_)
    | (simp_all; done)
    | (simp +zetaDelta [*]; done)
    | (simp_all +zetaDelta; done)
    | dsimp only
    | simp))

@[simp] theorem floodBlocked_boot (s : State) (d : Nat) :
    (floodBlocked s d).boot = s.boot := by
  unfold floodBlocked
  repeat' split
  all_goals simp

@[simp] theorem endFlood_boot (s : State) (d : Nat) :
    (endFlood s d).boot = s.boot := by
  unfold endFlood
  repeat' split
  all_goals simp

@[simp] theorem placePage_boot (s : State) (d : Nat) (key : Nat) :
    (placePage s d key).boot = s.boot := by
  unfold placePage
  all_goals (repeat' (first
    | with_reducible rfl
    | with_reducible assumption
    | (simp; done)
    | (with_reducible refine (openPage_boot _ _ _ _ _ _ _  _ ‹openPage _ _ _ _ _ _ _  = .some _›).trans ?_)
    | split
    | (with_reducible refine (foldl_boot _ _ _ (fun _ _ => ?_)).trans ?_)
    | (with_reducible refine (foldl_boot_fst _ _ _ (fun _ _ => ?_)).trans ?_)
    | (with_reducible refine (foldl_boot_snd2 _ _ _ (fun _ _ => ?_)).trans ?_)
    | (with_reducible refine (foldl_boot_snd _ _ _ (fun _ _ => ?_)).trans ?_)
    | (simp_all; done)
    | (simp +zetaDelta [*]; done)
    | (simp_all +zetaDelta; done)
    | dsimp only
    | simp))

@[simp] theorem failSession_boot (s : State) (d : Nat) (cause : Nat) :
    (failSession s d cause).boot = s.boot := by
  unfold failSession
  repeat' split
  all_goals simp

@[simp] theorem noteTable_boot (s : State) :
    (noteTable s).boot = s.boot := by
  unfold noteTable
  all_goals (repeat' (first
    | with_reducible rfl
    | with_reducible assumption
    | (simp; done)
    | split
    | (with_reducible refine (foldl_boot _ _ _ (fun _ _ => ?_)).trans ?_)
    | (with_reducible refine (foldl_boot_fst _ _ _ (fun _ _ => ?_)).trans ?_)
    | (with_reducible refine (foldl_boot_snd2 _ _ _ (fun _ _ => ?_)).trans ?_)
    | (with_reducible refine (foldl_boot_snd _ _ _ (fun _ _ => ?_)).trans ?_)
    | (simp_all; done)
    | (simp +zetaDelta [*]; done)
    | (simp_all +zetaDelta; done)
    | dsimp only
    | simp))

@[simp] theorem dropRetained_boot (s : State) (d : Nat) (x : Session) :
    (dropRetained s d x).boot = s.boot := by
  unfold dropRetained
  all_goals (repeat' (first
    | with_reducible rfl
    | with_reducible assumption
    | (simp; done)
    | split
    | (with_reducible refine (foldl_boot _ _ _ (fun _ _ => ?_)).trans ?_)
    | (with_reducible refine (foldl_boot_fst _ _ _ (fun _ _ => ?_)).trans ?_)
    | (with_reducible refine (foldl_boot_snd2 _ _ _ (fun _ _ => ?_)).trans ?_)
    | (with_reducible refine (foldl_boot_snd _ _ _ (fun _ _ => ?_)).trans ?_)
    | (simp_all; done)
    | (simp +zetaDelta [*]; done)
    | (simp_all +zetaDelta; done)
    | dsimp only
    | simp))

@[simp] theorem freeSession_boot (s : State) (d : Nat) :
    (freeSession s d).boot = s.boot := by
  unfold freeSession
  all_goals (repeat' (first
    | with_reducible rfl
    | with_reducible assumption
    | (simp; done)
    | split
    | (with_reducible refine (foldl_boot _ _ _ (fun _ _ => ?_)).trans ?_)
    | (with_reducible refine (foldl_boot_fst _ _ _ (fun _ _ => ?_)).trans ?_)
    | (with_reducible refine (foldl_boot_snd2 _ _ _ (fun _ _ => ?_)).trans ?_)
    | (with_reducible refine (foldl_boot_snd _ _ _ (fun _ _ => ?_)).trans ?_)
    | (simp_all; done)
    | (simp +zetaDelta [*]; done)
    | (simp_all +zetaDelta; done)
    | dsimp only
    | simp))

end Sys2Proof.Machine
end

