-- ==== Sys2Proof/Laws/KeepAdminFn.lean ====
section
/-! SUPPORT. The operations of AdminFn leave the boot state as it is. -/

set_option Elab.async false
set_option linter.all false
set_option linter.unusedTactic false
set_option linter.unreachableTactic false

namespace Sys2Proof.Machine

@[simp] theorem execIdentify_boot (h : Hdr) (s : State) :
    KeepsBoot s (execIdentify h s) := by
  unfold execIdentify identifySpec
  refine adminCmd_boot _ _ _ (fun _ _ => ?_)
  simp

@[simp] theorem execCreateStepRing_boot (h : Hdr) (sqBase : Nat) (rqBase : Nat) (depth : Nat) (vector : Nat) (s : State) :
    KeepsBoot s (execCreateStepRing h sqBase rqBase depth vector s) := by
  unfold execCreateStepRing createStepRingSpec
  refine adminCmd_boot _ _ _ (fun _ _ => ?_)
  simp

@[simp] theorem settleDeletion_boot (s : State) (fn : Nat) (n : Nat) :
    (settleDeletion s fn n).boot = s.boot := by
  unfold settleDeletion
  repeat' split
  all_goals simp

@[simp] theorem execDeleteStepRing_boot (h : Hdr) (s : State) :
    KeepsBoot s (execDeleteStepRing h s) := by
  unfold execDeleteStepRing deleteStepRingSpec
  refine adminCmd_boot _ _ _ (fun _ _ => ?_)
  simp

@[simp] theorem execReadDeadLetters_boot (h : Hdr) (s : State) :
    KeepsBoot s (execReadDeadLetters h s) := by
  unfold execReadDeadLetters readDeadLettersSpec
  all_goals (repeat' (first
    | with_reducible rfl
    | with_reducible assumption
    | (simp; done)
    | (with_reducible refine (congrArg (fun p => p.1.boot) ‹hostWrite _ _ _ _  = (_, _)›.symm).trans ?_)
    | (refine adminCmd_boot _ _ _ (fun _ _ => ?_))
    | (rw [KeepsBoot.next_iff])
    | split
    | (with_reducible refine (foldl_boot _ _ _ (fun _ _ => ?_)).trans ?_)
    | (with_reducible refine (foldl_boot_fst _ _ _ (fun _ _ => ?_)).trans ?_)
    | (with_reducible refine (foldl_boot_snd2 _ _ _ (fun _ _ => ?_)).trans ?_)
    | (with_reducible refine (foldl_boot_snd _ _ _ (fun _ _ => ?_)).trans ?_)
    | (simp_all; done)
    | (simp +zetaDelta [*]; done)
    | (simp_all +zetaDelta; done)
    | dsimp only
    | simp))

@[simp] theorem freeVersion_boot (kind : Nat) (num : Nat) (s : State) (e : Nat × CfgVer) :
    (freeVersion kind num s e).boot = s.boot := by
  unfold freeVersion
  all_goals (repeat' (first
    | with_reducible rfl
    | with_reducible assumption
    | (simp; done)
    | split
    | (with_reducible refine (foldl_boot _ _ _ (fun _ _ => ?_)).trans ?_)
    | (with_reducible refine (foldl_boot_fst _ _ _ (fun _ _ => ?_)).trans ?_)
    | (with_reducible refine (foldl_boot_snd2 _ _ _ (fun _ _ => ?_)).trans ?_)
    | (with_reducible refine (foldl_boot_snd _ _ _ (fun _ _ => ?_)).trans ?_)
    | (simp_all; done)
    | (simp +zetaDelta [*]; done)
    | (simp_all +zetaDelta; done)
    | dsimp only
    | simp))

@[simp] theorem freeConfigs_boot (s : State) :
    (freeConfigs s).boot = s.boot := by
  unfold freeConfigs
  all_goals (repeat' (first
    | with_reducible rfl
    | with_reducible assumption
    | (simp; done)
    | split
    | (with_reducible refine (foldl_boot _ _ _ (fun _ _ => ?_)).trans ?_)
    | (with_reducible refine (foldl_boot_fst _ _ _ (fun _ _ => ?_)).trans ?_)
    | (with_reducible refine (foldl_boot_snd2 _ _ _ (fun _ _ => ?_)).trans ?_)
    | (with_reducible refine (foldl_boot_snd _ _ _ (fun _ _ => ?_)).trans ?_)
    | (simp_all; done)
    | (simp +zetaDelta [*]; done)
    | (simp_all +zetaDelta; done)
    | dsimp only
    | simp))

@[simp] theorem settleAll_boot (s : State) :
    (settleAll s).boot = s.boot := by
  unfold settleAll
  all_goals (repeat' (first
    | with_reducible rfl
    | with_reducible assumption
    | (simp; done)
    | split
    | (with_reducible refine (foldl_boot _ _ _ (fun _ _ => ?_)).trans ?_)
    | (with_reducible refine (foldl_boot_fst _ _ _ (fun _ _ => ?_)).trans ?_)
    | (with_reducible refine (foldl_boot_snd2 _ _ _ (fun _ _ => ?_)).trans ?_)
    | (with_reducible refine (foldl_boot_snd _ _ _ (fun _ _ => ?_)).trans ?_)
    | (simp_all; done)
    | (simp +zetaDelta [*]; done)
    | (simp_all +zetaDelta; done)
    | dsimp only
    | simp))

@[simp] theorem afterOp_boot (s : State) (o : Op) :
    (afterOp s o).boot = s.boot := by
  unfold afterOp
  repeat' split
  all_goals simp

@[simp] theorem deliver_boot (s : State) (o : Op) (r : Rcpt) :
    (deliver s o r).boot = s.boot := by
  unfold deliver
  split <;> simp

@[simp] theorem execReceiptHoldExpiry_boot (fn : Nat) (ring : RingId) (pm : Nat) (s : State) :
    KeepsBoot s (execReceiptHoldExpiry fn ring pm s) := by
  unfold execReceiptHoldExpiry
  dsimp only
  repeat' split
  all_goals simp

@[simp] theorem execCoalesceTimeout_boot (fn : Nat) (ring : RingId) (pm : Nat) (s : State) :
    KeepsBoot s (execCoalesceTimeout fn ring pm s) := by
  unfold execCoalesceTimeout
  dsimp only
  repeat' split
  all_goals simp

end Sys2Proof.Machine
end

