-- ==== Sys2Proof/Laws/KeepDoorbells.lean ====
section
/-! SUPPORT. The operations of Doorbells leave the boot state as it is. -/

set_option Elab.async false
set_option linter.all false
set_option linter.unusedTactic false
set_option linter.unreachableTactic false

namespace Sys2Proof.Machine

@[simp] theorem postRingIndex_boot (s : State) (fn : Nat) (source : Nat) (idx : Nat) (notLive : Bool) :
    (postRingIndex s fn source idx notLive).boot = s.boot := by
  simp [postRingIndex]

@[simp] theorem sqDoorbell_boot (s : State) (fn : Nat) (rid : RingId) (value : Nat) (entries : List SlotRead) :
    (sqDoorbell s fn rid value entries).boot = s.boot := by
  unfold sqDoorbell
  all_goals (repeat' (first
    | with_reducible rfl
    | with_reducible assumption
    | (simp; done)
    | split
    | (with_reducible refine (foldl_boot _ _ _ (fun _ _ => ?_)).trans ?_)
    | (with_reducible refine (foldl_boot_fst _ _ _ (fun _ _ => ?_)).trans ?_)
    | (with_reducible refine (foldl_boot_snd2 _ _ _ (fun _ _ => ?_)).trans ?_)
    | (with_reducible refine (foldl_boot_snd _ _ _ (fun _ _ => ?_)).trans ?_)
    | (simp_all; done)
    | (simp +zetaDelta [*]; done)
    | (simp_all +zetaDelta; done)
    | dsimp only
    | simp))

@[simp] theorem rqDoorbell_boot (s : State) (fn : Nat) (rid : RingId) (value : Nat) :
    (rqDoorbell s fn rid value).boot = s.boot := by
  unfold rqDoorbell
  all_goals (repeat' (first
    | with_reducible rfl
    | with_reducible assumption
    | (simp; done)
    | split
    | (with_reducible refine (foldl_boot _ _ _ (fun _ _ => ?_)).trans ?_)
    | (with_reducible refine (foldl_boot_fst _ _ _ (fun _ _ => ?_)).trans ?_)
    | (with_reducible refine (foldl_boot_snd2 _ _ _ (fun _ _ => ?_)).trans ?_)
    | (with_reducible refine (foldl_boot_snd _ _ _ (fun _ _ => ?_)).trans ?_)
    | (simp_all; done)
    | (simp +zetaDelta [*]; done)
    | (simp_all +zetaDelta; done)
    | dsimp only
    | simp))

@[simp] theorem execAdminSqTail_boot (fn : Nat) (value : Nat) (entries : List SlotRead) (s : State) :
    KeepsBoot s (execAdminSqTail fn value entries s) := by
  simp [execAdminSqTail]

@[simp] theorem execAdminRqHead_boot (fn : Nat) (value : Nat) (s : State) :
    KeepsBoot s (execAdminRqHead fn value s) := by
  simp [execAdminRqHead]

@[simp] theorem execEventHead_boot (fn : Nat) (value : Nat) (s : State) :
    KeepsBoot s (execEventHead fn value s) := by
  unfold execEventHead
  dsimp only
  repeat' split
  all_goals simp

@[simp] theorem execStepSqTail_boot (fn : Nat) (n : Nat) (value : Nat) (entries : List SlotRead) (s : State) :
    KeepsBoot s (execStepSqTail fn n value entries s) := by
  simp [execStepSqTail]

@[simp] theorem execStepRqHead_boot (fn : Nat) (n : Nat) (value : Nat) (s : State) :
    KeepsBoot s (execStepRqHead fn n value s) := by
  simp [execStepRqHead]

@[simp] theorem execTextSqTail_boot (fn : Nat) (value : Nat) (entries : List SlotRead) (s : State) :
    KeepsBoot s (execTextSqTail fn value entries s) := by
  simp [execTextSqTail]

@[simp] theorem execTextRqHead_boot (fn : Nat) (value : Nat) (s : State) :
    KeepsBoot s (execTextRqHead fn value s) := by
  simp [execTextRqHead]

@[simp] theorem execSearchSqTail_boot (fn : Nat) (value : Nat) (entries : List SlotRead) (s : State) :
    KeepsBoot s (execSearchSqTail fn value entries s) := by
  simp [execSearchSqTail]

@[simp] theorem execSearchRqHead_boot (fn : Nat) (value : Nat) (s : State) :
    KeepsBoot s (execSearchRqHead fn value s) := by
  simp [execSearchRqHead]

@[simp] theorem execEnable_boot (fn : Nat) (on : Bool) (s : State) :
    KeepsBoot s (execEnable fn on s) := by
  unfold execEnable
  split <;> simp

@[simp] theorem dropHeld_boot (s : State) (fn : Nat) (rid : RingId) :
    (dropHeld s fn rid).boot = s.boot := by
  unfold dropHeld
  exact foldl_boot _ _ _ (fun _ _ => by simp)

@[simp] theorem execAdminEn_boot (fn : Nat) (on : Bool) (s : State) :
    KeepsBoot s (execAdminEn fn on s) := by
  unfold execAdminEn
  dsimp only
  repeat' split
  all_goals simp

@[simp] theorem tellRestart_boot (s : State) (fn : Nat) :
    (tellRestart s fn).boot = s.boot := by
  unfold tellRestart
  repeat' split
  all_goals simp

@[simp] theorem execTextEn_boot (fn : Nat) (on : Bool) (s : State) :
    KeepsBoot s (execTextEn fn on s) := by
  unfold execTextEn
  dsimp only
  repeat' split
  all_goals simp

@[simp] theorem execSearchEn_boot (fn : Nat) (on : Bool) (s : State) :
    KeepsBoot s (execSearchEn fn on s) := by
  unfold execSearchEn
  dsimp only
  repeat' split
  all_goals simp

@[simp] theorem execPostmarkLo_boot (fn : Nat) (pm : Nat) (s : State) :
    KeepsBoot s (execPostmarkLo fn pm s) := by
  unfold execPostmarkLo
  dsimp only
  repeat' split
  all_goals simp

@[simp] theorem execVfCompat_boot (value : Word64) (s : State) :
    KeepsBoot s (execVfCompat value s) := by
  simp [execVfCompat]

@[simp] theorem execReceiptHold_boot (fn : Nat) (value : Word32) (s : State) :
    KeepsBoot s (execReceiptHold fn value s) := by
  unfold execReceiptHold
  split <;> simp

@[simp] theorem execCoalesce_boot (fn : Nat) (value : Word32) (s : State) :
    KeepsBoot s (execCoalesce fn value s) := by
  unfold execCoalesce
  split <;> simp

@[simp] theorem execFwdGrace_boot (value : Word32) (s : State) :
    KeepsBoot s (execFwdGrace value s) := by
  unfold execFwdGrace
  split <;> simp

@[simp] theorem execSnoopTimeout_boot (value : Word32) (s : State) :
    KeepsBoot s (execSnoopTimeout value s) := by
  unfold execSnoopTimeout
  split <;> simp

end Sys2Proof.Machine
end

