-- ==== Sys2Proof/Laws/KeepMaskSets.lean ====
section
/-! SUPPORT. The operations of MaskSets leave the boot state as it is. -/

set_option Elab.async false
set_option linter.all false
set_option linter.unusedTactic false
set_option linter.unreachableTactic false

namespace Sys2Proof.Machine

@[simp] theorem openRound_boot (s : State) (d : Nat) (vocab : Option Ref) (cset : Option Ref) :
    (openRound s d vocab cset).boot = s.boot := by
  unfold openRound
  split <;> simp

@[simp] theorem recomputeMasks_boot (s : State) (d : Nat) :
    (recomputeMasks s d).boot = s.boot := by
  simp [recomputeMasks]

@[simp] theorem viaWrite_boot (s : State) (via : ResultVia) (addr : Nat) (bs : List Byte) :
    (viaWrite s via addr bs).1.boot = s.boot := by
  unfold viaWrite
  split <;> simp

@[simp] theorem writeMasks_boot (s : State) (x : Session) (m : MaskSet) (q : MaskRead) :
    (writeMasks s x m q).1.boot = s.boot := by
  unfold writeMasks
  all_goals (repeat' (first
    | with_reducible rfl
    | with_reducible assumption
    | (simp; done)
    | (with_reducible refine (congrArg (fun p => p.2.boot) ‹takeFresh _  = (_, _)›.symm).trans ?_)
    | (with_reducible refine (congrArg (fun p => p.1.boot) ‹viaWrite _ _ _ _  = (_, _)›.symm).trans ?_)
    | split
    | (with_reducible refine (foldl_boot _ _ _ (fun _ _ => ?_)).trans ?_)
    | (with_reducible refine (foldl_boot_fst _ _ _ (fun _ _ => ?_)).trans ?_)
    | (with_reducible refine (foldl_boot_snd2 _ _ _ (fun _ _ => ?_)).trans ?_)
    | (with_reducible refine (foldl_boot_snd _ _ _ (fun _ _ => ?_)).trans ?_)
    | (simp_all; done)
    | (simp +zetaDelta [*]; done)
    | (simp_all +zetaDelta; done)
    | dsimp only
    | simp))

@[simp] theorem serveRead_boot (s : State) (tag : Nat) (q : MaskRead) :
    (serveRead s tag q).boot = s.boot := by
  unfold serveRead
  all_goals (repeat' (first
    | with_reducible rfl
    | with_reducible assumption
    | (simp; done)
    | (with_reducible refine (congrArg (fun p => p.1.boot) ‹writeMasks _ _ _ _  = (_, _)›.symm).trans ?_)
    | split
    | (with_reducible refine (foldl_boot _ _ _ (fun _ _ => ?_)).trans ?_)
    | (with_reducible refine (foldl_boot_fst _ _ _ (fun _ _ => ?_)).trans ?_)
    | (with_reducible refine (foldl_boot_snd2 _ _ _ (fun _ _ => ?_)).trans ?_)
    | (with_reducible refine (foldl_boot_snd _ _ _ (fun _ _ => ?_)).trans ?_)
    | (simp_all; done)
    | (simp +zetaDelta [*]; done)
    | (simp_all +zetaDelta; done)
    | dsimp only
    | simp))

@[simp] theorem serveMasks_boot (s : State) (d : Nat) :
    (serveMasks s d).boot = s.boot := by
  unfold serveMasks
  exact foldl_boot _ _ _ (fun _ _ => by simp)

@[simp] theorem fitStore_boot (keep : Nat) (x0 : Nat) (x1 : State) :
    (fitStore keep x0 x1).boot = x1.boot := by
  fun_induction fitStore keep x0 x1
  all_goals (repeat' (first
    | with_reducible rfl
    | with_reducible assumption
    | (simp; done)
    | split
    | (with_reducible refine (foldl_boot _ _ _ (fun _ _ => ?_)).trans ?_)
    | (with_reducible refine (foldl_boot_fst _ _ _ (fun _ _ => ?_)).trans ?_)
    | (with_reducible refine (foldl_boot_snd2 _ _ _ (fun _ _ => ?_)).trans ?_)
    | (with_reducible refine (foldl_boot_snd _ _ _ (fun _ _ => ?_)).trans ?_)
    | (simp_all; done)
    | (simp +zetaDelta [*]; done)
    | (simp_all +zetaDelta; done)
    | dsimp only
    | simp))

end Sys2Proof.Machine
end

