-- ==== Sys2Proof/Laws/KeepTextOps.lean ====
section
/-! SUPPORT. The operations of TextOps leave the boot state as it is. -/

set_option Elab.async false
set_option linter.all false
set_option linter.unusedTactic false
set_option linter.unreachableTactic false

namespace Sys2Proof.Machine

@[simp] theorem readText_boot (s : State) (q : TextRead) :
    (readText s q).1.boot = s.boot := by
  unfold readText
  all_goals (repeat' (first
    | with_reducible rfl
    | with_reducible assumption
    | (simp; done)
    | (with_reducible refine (congrArg (fun p => p.2.boot) ‹takeFresh _  = (_, _)›.symm).trans ?_)
    | (with_reducible refine (congrArg (fun p => p.1.boot) ‹viaWrite _ _ _ _  = (_, _)›.symm).trans ?_)
    | split
    | (with_reducible refine (foldl_boot _ _ _ (fun _ _ => ?_)).trans ?_)
    | (with_reducible refine (foldl_boot_fst _ _ _ (fun _ _ => ?_)).trans ?_)
    | (with_reducible refine (foldl_boot_snd2 _ _ _ (fun _ _ => ?_)).trans ?_)
    | (with_reducible refine (foldl_boot_snd _ _ _ (fun _ _ => ?_)).trans ?_)
    | (simp_all; done)
    | (simp +zetaDelta [*]; done)
    | (simp_all +zetaDelta; done)
    | dsimp only
    | simp))

@[simp] theorem endTextRead_boot (s : State) (tag : Nat) (q : TextRead) :
    (endTextRead s tag q).boot = s.boot := by
  simp [endTextRead]

@[simp] theorem serveText_boot (s : State) (d : Nat) :
    (serveText s d).boot = s.boot := by
  unfold serveText
  all_goals (repeat' (first
    | with_reducible rfl
    | with_reducible assumption
    | (simp; done)
    | split
    | (with_reducible refine (foldl_boot _ _ _ (fun _ _ => ?_)).trans ?_)
    | (with_reducible refine (foldl_boot_fst _ _ _ (fun _ _ => ?_)).trans ?_)
    | (with_reducible refine (foldl_boot_snd2 _ _ _ (fun _ _ => ?_)).trans ?_)
    | (with_reducible refine (foldl_boot_snd _ _ _ (fun _ _ => ?_)).trans ?_)
    | (simp_all; done)
    | (simp +zetaDelta [*]; done)
    | (simp_all +zetaDelta; done)
    | dsimp only
    | simp))

@[simp] theorem applyEdit_boot (s : State) (d : Nat) (e : TextEdit) :
    (applyEdit s d e).1.boot = s.boot := by
  unfold applyEdit
  all_goals (repeat' (first
    | with_reducible rfl
    | with_reducible assumption
    | (simp; done)
    | split
    | (with_reducible refine (foldl_boot _ _ _ (fun _ _ => ?_)).trans ?_)
    | (with_reducible refine (foldl_boot_fst _ _ _ (fun _ _ => ?_)).trans ?_)
    | (with_reducible refine (foldl_boot_snd2 _ _ _ (fun _ _ => ?_)).trans ?_)
    | (with_reducible refine (foldl_boot_snd _ _ _ (fun _ _ => ?_)).trans ?_)
    | (simp_all; done)
    | (simp +zetaDelta [*]; done)
    | (simp_all +zetaDelta; done)
    | dsimp only
    | simp))

@[simp] theorem runDefers_boot (s : State) (d : Nat) :
    (runDefers s d).boot = s.boot := by
  unfold runDefers
  exact foldl_boot _ _ _ (fun _ _ => by simp)

@[simp] theorem textAfterCommit_boot (s : State) (d : Nat) :
    (textAfterCommit s d).boot = s.boot := by
  simp [textAfterCommit]

@[simp] theorem endText_boot (s : State) (d : Nat) :
    (endText s d).boot = s.boot := by
  unfold endText
  exact foldl_boot _ _ _ (fun _ _ => by simp)

end Sys2Proof.Machine
end

