-- ==== Sys2Proof/Laws/KeepSteps.lean ====
section
/-! SUPPORT. The operations of Steps leave the boot state as it is. -/

set_option Elab.async false
set_option linter.all false
set_option linter.unusedTactic false
set_option linter.unreachableTactic false

namespace Sys2Proof.Machine

@[simp] theorem setBlock_boot (s : State) (region : Nat) (b : Nat) (x : Block) :
    (setBlock s region b x).boot = s.boot := by
  simp [setBlock]

@[simp] theorem runBlock_boot (s : State) (region : Nat) (b : Nat) (x : Block) :
    (runBlock s region b x).boot = s.boot := by
  simp [runBlock]

@[simp] theorem wakeBlocks_boot (region : Nat) (thr : Nat) (est : Nat) (lc : Bool) (x0 : List Nat) (x1 : State) :
    (wakeBlocks region thr est lc x0 x1).boot = x1.boot := by
  fun_induction wakeBlocks region thr est lc x0 x1
  all_goals (repeat' (first
    | with_reducible rfl
    | with_reducible assumption
    | (simp; done)
    | split
    | (with_reducible refine (foldl_boot _ _ _ (fun _ _ => ?_)).trans ?_)
    | (with_reducible refine (foldl_boot_fst _ _ _ (fun _ _ => ?_)).trans ?_)
    | (with_reducible refine (foldl_boot_snd2 _ _ _ (fun _ _ => ?_)).trans ?_)
    | (with_reducible refine (foldl_boot_snd _ _ _ (fun _ _ => ?_)).trans ?_)
    | (simp_all; done)
    | (simp +zetaDelta [*]; done)
    | (simp_all +zetaDelta; done)
    | dsimp only
    | simp))

@[simp] theorem wantWakes_boot (s : State) (region : Nat) :
    (wantWakes s region).boot = s.boot := by
  simp [wantWakes]

@[simp] theorem queueTask_boot (stack : Nat) (s : State) (t : Task) :
    (queueTask stack s t).boot = s.boot := by
  simp [queueTask]

@[simp] theorem stepWrite_boot (s : State) (via : ResultVia) (addr : Nat) (bs : List Byte) :
    (stepWrite s via addr bs).1.boot = s.boot := by
  unfold stepWrite
  all_goals (repeat' (first
    | with_reducible rfl
    | with_reducible assumption
    | (simp; done)
    | (with_reducible refine (congrArg (fun p => p.1.boot) ‹hostWrite _ _ _ _  = (_, _)›.symm).trans ?_)
    | split
    | (with_reducible refine (foldl_boot _ _ _ (fun _ _ => ?_)).trans ?_)
    | (with_reducible refine (foldl_boot_fst _ _ _ (fun _ _ => ?_)).trans ?_)
    | (with_reducible refine (foldl_boot_snd2 _ _ _ (fun _ _ => ?_)).trans ?_)
    | (with_reducible refine (foldl_boot_snd _ _ _ (fun _ _ => ?_)).trans ?_)
    | (simp_all; done)
    | (simp +zetaDelta [*]; done)
    | (simp_all +zetaDelta; done)
    | dsimp only
    | simp))

@[simp] theorem finishStep_boot (s : State) (tag : Nat) (q : StepRec) (r : Rcpt) :
    (finishStep s tag q r).boot = s.boot := by
  simp [finishStep]

@[simp] theorem finishWith_boot (s : State) (tag : Nat) (q : StepRec) (r : Rcpt) (ws : List (Nat × Nat × List Byte)) :
    (finishWith s tag q r ws).boot = s.boot := by
  unfold finishWith
  all_goals (repeat' (first
    | with_reducible rfl
    | with_reducible assumption
    | (simp; done)
    | (with_reducible refine (congrArg (fun p => p.1.boot) ‹stepWrite _ _ _ _  = (_, _)›.symm).trans ?_)
    | split
    | (with_reducible refine (foldl_boot _ _ _ (fun _ _ => ?_)).trans ?_)
    | (with_reducible refine (foldl_boot_fst _ _ _ (fun _ _ => ?_)).trans ?_)
    | (with_reducible refine (foldl_boot_snd2 _ _ _ (fun _ _ => ?_)).trans ?_)
    | (with_reducible refine (foldl_boot_snd _ _ _ (fun _ _ => ?_)).trans ?_)
    | (simp_all; done)
    | (simp +zetaDelta [*]; done)
    | (simp_all +zetaDelta; done)
    | dsimp only
    | simp))

@[simp] theorem arrive_boot (s : State) (d : Nat) (be : Bool) (isStep : Bool) :
    (arrive s d be isStep).boot = s.boot := by
  unfold arrive
  all_goals (repeat' (first
    | with_reducible rfl
    | with_reducible assumption
    | (simp; done)
    | (with_reducible refine (congrArg (fun p => p.1.boot) ‹startFlood _ _ _ _  = (_, _)›.symm).trans ?_)
    | split
    | (with_reducible refine (foldl_boot _ _ _ (fun _ _ => ?_)).trans ?_)
    | (with_reducible refine (foldl_boot_fst _ _ _ (fun _ _ => ?_)).trans ?_)
    | (with_reducible refine (foldl_boot_snd2 _ _ _ (fun _ _ => ?_)).trans ?_)
    | (with_reducible refine (foldl_boot_snd _ _ _ (fun _ _ => ?_)).trans ?_)
    | (simp_all; done)
    | (simp +zetaDelta [*]; done)
    | (simp_all +zetaDelta; done)
    | dsimp only
    | simp))

@[simp] theorem openForStep_boot (s : State) (d : Nat) (e : StepEntry) :
    (openForStep s d e).boot = s.boot := by
  unfold openForStep
  all_goals (repeat' (first
    | with_reducible rfl
    | with_reducible assumption
    | (simp; done)
    | (with_reducible refine (openPage_boot _ _ _ _ _ _ _  _ ‹openPage _ _ _ _ _ _ _  = .some _›).trans ?_)
    | split
    | (with_reducible refine (foldl_boot _ _ _ (fun _ _ => ?_)).trans ?_)
    | (with_reducible refine (foldl_boot_fst _ _ _ (fun _ _ => ?_)).trans ?_)
    | (with_reducible refine (foldl_boot_snd2 _ _ _ (fun _ _ => ?_)).trans ?_)
    | (with_reducible refine (foldl_boot_snd _ _ _ (fun _ _ => ?_)).trans ?_)
    | (simp_all; done)
    | (simp +zetaDelta [*]; done)
    | (simp_all +zetaDelta; done)
    | dsimp only
    | simp))

@[simp] theorem keepRows_boot (s : State) (d : Nat) (x : Session) (e : StepEntry) (rows : List SlotRow) :
    (keepRows s d x e rows).boot = s.boot := by
  unfold keepRows
  all_goals (repeat' (first
    | with_reducible rfl
    | with_reducible assumption
    | (simp; done)
    | split
    | (with_reducible refine (foldl_boot _ _ _ (fun _ _ => ?_)).trans ?_)
    | (with_reducible refine (foldl_boot_fst _ _ _ (fun _ _ => ?_)).trans ?_)
    | (with_reducible refine (foldl_boot_snd2 _ _ _ (fun _ _ => ?_)).trans ?_)
    | (with_reducible refine (foldl_boot_snd _ _ _ (fun _ _ => ?_)).trans ?_)
    | (simp_all; done)
    | (simp +zetaDelta [*]; done)
    | (simp_all +zetaDelta; done)
    | dsimp only
    | simp))

@[simp] theorem dispatchStep_boot (s : State) (tag : Nat) (d : Nat) (q : StepRec) :
    (dispatchStep s tag d q).boot = s.boot := by
  unfold dispatchStep
  all_goals (repeat' (first
    | with_reducible rfl
    | with_reducible assumption
    | (simp; done)
    | split
    | (with_reducible refine (foldl_boot _ _ _ (fun _ _ => ?_)).trans ?_)
    | (with_reducible refine (foldl_boot_fst _ _ _ (fun _ _ => ?_)).trans ?_)
    | (with_reducible refine (foldl_boot_snd2 _ _ _ (fun _ _ => ?_)).trans ?_)
    | (with_reducible refine (foldl_boot_snd _ _ _ (fun _ _ => ?_)).trans ?_)
    | (simp_all; done)
    | (simp +zetaDelta [*]; done)
    | (simp_all +zetaDelta; done)
    | dsimp only
    | simp))

@[simp] theorem settleStep_boot (s : State) (tag : Nat) (q : StepRec) :
    (settleStep s tag q).boot = s.boot := by
  unfold settleStep
  all_goals (repeat' (first
    | with_reducible rfl
    | with_reducible assumption
    | (simp; done)
    | split
    | (with_reducible refine (foldl_boot _ _ _ (fun _ _ => ?_)).trans ?_)
    | (with_reducible refine (foldl_boot_fst _ _ _ (fun _ _ => ?_)).trans ?_)
    | (with_reducible refine (foldl_boot_snd2 _ _ _ (fun _ _ => ?_)).trans ?_)
    | (with_reducible refine (foldl_boot_snd _ _ _ (fun _ _ => ?_)).trans ?_)
    | (simp_all; done)
    | (simp +zetaDelta [*]; done)
    | (simp_all +zetaDelta; done)
    | dsimp only
    | simp))

@[simp] theorem admitStep_boot (s : State) (tag : Nat) (q : StepRec) :
    (admitStep s tag q).boot = s.boot := by
  unfold admitStep
  all_goals (repeat' (first
    | with_reducible rfl
    | with_reducible assumption
    | (simp; done)
    | split
    | (with_reducible refine (foldl_boot _ _ _ (fun _ _ => ?_)).trans ?_)
    | (with_reducible refine (foldl_boot_fst _ _ _ (fun _ _ => ?_)).trans ?_)
    | (with_reducible refine (foldl_boot_snd2 _ _ _ (fun _ _ => ?_)).trans ?_)
    | (with_reducible refine (foldl_boot_snd _ _ _ (fun _ _ => ?_)).trans ?_)
    | (simp_all; done)
    | (simp +zetaDelta [*]; done)
    | (simp_all +zetaDelta; done)
    | dsimp only
    | simp))

@[simp] theorem readmitStep_boot (fn : Nat) (s : State) (tag : Nat) :
    (readmitStep fn s tag).boot = s.boot := by
  unfold readmitStep
  repeat' split
  all_goals simp

@[simp] theorem admitHeldRound_boot (s : State) (d : Nat) :
    (admitHeldRound s d).boot = s.boot := by
  unfold admitHeldRound
  all_goals (repeat' (first
    | with_reducible rfl
    | with_reducible assumption
    | (simp; done)
    | split
    | (with_reducible refine (foldl_boot _ _ _ (fun _ _ => ?_)).trans ?_)
    | (with_reducible refine (foldl_boot_fst _ _ _ (fun _ _ => ?_)).trans ?_)
    | (with_reducible refine (foldl_boot_snd2 _ _ _ (fun _ _ => ?_)).trans ?_)
    | (with_reducible refine (foldl_boot_snd _ _ _ (fun _ _ => ?_)).trans ?_)
    | (simp_all; done)
    | (simp +zetaDelta [*]; done)
    | (simp_all +zetaDelta; done)
    | dsimp only
    | simp))

@[simp] theorem takeStep_boot (s : State) (tag : Nat) (d : Nat) (fn : Nat) (e : StepEntry) (be : Bool) (via : ResultVia) (o : Op) :
    (takeStep s tag d fn e be via o).boot = s.boot := by
  unfold takeStep
  repeat' split
  all_goals simp

@[simp] theorem execStep_boot (h : Hdr) (n : Nat) (e : StepEntry) (s : State) :
    KeepsBoot s (execStep h n e s) := by
  unfold execStep stepSpec
  refine ringCmd_boot _ _ _ _ (fun _ _ => ?_)
  dsimp only
  repeat' split
  all_goals simp

@[simp] theorem clearTrace_boot (s : State) (p : Nat) :
    (clearTrace s p).boot = s.boot := by
  unfold clearTrace
  split <;> simp

@[simp] theorem traceTask_boot (s : State) (region : Nat) (block : Nat) (x : Block) (t : Task) :
    (traceTask s region block x t).boot = s.boot := by
  unfold traceTask
  repeat' split
  all_goals simp

@[simp] theorem execPageTaskDone_boot (region : Nat) (block : Nat) (pm : Nat) (s : State) :
    KeepsBoot s (execPageTaskDone region block pm s) := by
  unfold execPageTaskDone
  dsimp only
  repeat' split
  all_goals simp

@[simp] theorem execStepMerge_boot (tag : Nat) (pm : Nat) (s : State) :
    KeepsBoot s (execStepMerge tag pm s) := by
  unfold execStepMerge
  dsimp only
  repeat' split
  all_goals simp

@[simp] theorem takeCommit_boot (s : State) (tag : Nat) (d : Nat) (round : Nat) (mask : Nat) (o : Op) :
    (takeCommit s tag d round mask o).boot = s.boot := by
  unfold takeCommit
  repeat' split
  all_goals simp

@[simp] theorem execCommit_boot (h : Hdr) (n : Nat) (handle : Nat) (descIndex : Nat) (round : Nat) (mask : Nat) (s : State) :
    KeepsBoot s (execCommit h n handle descIndex round mask s) := by
  unfold execCommit commitSpec
  refine ringCmd_boot _ _ _ _ (fun _ _ => ?_)
  dsimp only
  repeat' split
  all_goals simp

@[simp] theorem moveRows_boot (x : Session) (path : List Nat) (s : State) (l : Nat) :
    (moveRows x path s l).boot = s.boot := by
  unfold moveRows
  all_goals (repeat' (first
    | with_reducible rfl
    | with_reducible assumption
    | (simp; done)
    | split
    | (with_reducible refine (foldl_boot _ _ _ (fun _ _ => ?_)).trans ?_)
    | (with_reducible refine (foldl_boot_fst _ _ _ (fun _ _ => ?_)).trans ?_)
    | (with_reducible refine (foldl_boot_snd2 _ _ _ (fun _ _ => ?_)).trans ?_)
    | (with_reducible refine (foldl_boot_snd _ _ _ (fun _ _ => ?_)).trans ?_)
    | (simp_all; done)
    | (simp +zetaDelta [*]; done)
    | (simp_all +zetaDelta; done)
    | dsimp only
    | simp))

@[simp] theorem settleStream_boot (d : Nat) (n : Nat) (accept : Bool) (s : State) (l : Nat) :
    (settleStream d n accept s l).boot = s.boot := by
  unfold settleStream
  all_goals (repeat' (first
    | with_reducible rfl
    | with_reducible assumption
    | (simp; done)
    | split
    | (with_reducible refine (foldl_boot _ _ _ (fun _ _ => ?_)).trans ?_)
    | (with_reducible refine (foldl_boot_fst _ _ _ (fun _ _ => ?_)).trans ?_)
    | (with_reducible refine (foldl_boot_snd2 _ _ _ (fun _ _ => ?_)).trans ?_)
    | (with_reducible refine (foldl_boot_snd _ _ _ (fun _ _ => ?_)).trans ?_)
    | (simp_all; done)
    | (simp +zetaDelta [*]; done)
    | (simp_all +zetaDelta; done)
    | dsimp only
    | simp))

@[simp] theorem bumpGen_boot (s : State) (d : Nat) :
    (bumpGen s d).boot = s.boot := by
  unfold bumpGen
  all_goals (repeat' (first
    | with_reducible rfl
    | with_reducible assumption
    | (simp; done)
    | split
    | (with_reducible refine (foldl_boot _ _ _ (fun _ _ => ?_)).trans ?_)
    | (with_reducible refine (foldl_boot_fst _ _ _ (fun _ _ => ?_)).trans ?_)
    | (with_reducible refine (foldl_boot_snd2 _ _ _ (fun _ _ => ?_)).trans ?_)
    | (with_reducible refine (foldl_boot_snd _ _ _ (fun _ _ => ?_)).trans ?_)
    | (simp_all; done)
    | (simp +zetaDelta [*]; done)
    | (simp_all +zetaDelta; done)
    | dsimp only
    | simp))

@[simp] theorem applyCommit_boot (s : State) (d : Nat) (path : List Nat) (c : CommitRec) :
    (applyCommit s d path c).boot = s.boot := by
  unfold applyCommit
  all_goals (repeat' (first
    | with_reducible rfl
    | with_reducible assumption
    | (simp; done)
    | split
    | (with_reducible refine (foldl_boot _ _ _ (fun _ _ => ?_)).trans ?_)
    | (with_reducible refine (foldl_boot_fst _ _ _ (fun _ _ => ?_)).trans ?_)
    | (with_reducible refine (foldl_boot_snd2 _ _ _ (fun _ _ => ?_)).trans ?_)
    | (with_reducible refine (foldl_boot_snd _ _ _ (fun _ _ => ?_)).trans ?_)
    | (simp_all; done)
    | (simp +zetaDelta [*]; done)
    | (simp_all +zetaDelta; done)
    | dsimp only
    | simp))

@[simp] theorem execCommitApply_boot (d : Nat) (pm : Nat) (s : State) :
    KeepsBoot s (execCommitApply d pm s) := by
  unfold execCommitApply
  dsimp only
  repeat' split
  all_goals simp

@[simp] theorem resumeSteps_boot (s : State) (d : Nat) :
    (resumeSteps s d).boot = s.boot := by
  unfold resumeSteps
  all_goals (repeat' (first
    | with_reducible rfl
    | with_reducible assumption
    | (simp; done)
    | split
    | (with_reducible refine (foldl_boot _ _ _ (fun _ _ => ?_)).trans ?_)
    | (with_reducible refine (foldl_boot_fst _ _ _ (fun _ _ => ?_)).trans ?_)
    | (with_reducible refine (foldl_boot_snd2 _ _ _ (fun _ _ => ?_)).trans ?_)
    | (with_reducible refine (foldl_boot_snd _ _ _ (fun _ _ => ?_)).trans ?_)
    | (simp_all; done)
    | (simp +zetaDelta [*]; done)
    | (simp_all +zetaDelta; done)
    | dsimp only
    | simp))

@[simp] theorem closeSteps_boot (s : State) (d : Nat) :
    (closeSteps s d).boot = s.boot := by
  unfold closeSteps
  all_goals (repeat' (first
    | with_reducible rfl
    | with_reducible assumption
    | (simp; done)
    | split
    | (with_reducible refine (foldl_boot _ _ _ (fun _ _ => ?_)).trans ?_)
    | (with_reducible refine (foldl_boot_fst _ _ _ (fun _ _ => ?_)).trans ?_)
    | (with_reducible refine (foldl_boot_snd2 _ _ _ (fun _ _ => ?_)).trans ?_)
    | (with_reducible refine (foldl_boot_snd _ _ _ (fun _ _ => ?_)).trans ?_)
    | (simp_all; done)
    | (simp +zetaDelta [*]; done)
    | (simp_all +zetaDelta; done)
    | dsimp only
    | simp))

@[simp] theorem liftFence_boot (s : State) (d : Nat) :
    (liftFence s d).boot = s.boot := by
  unfold liftFence
  all_goals (repeat' (first
    | with_reducible rfl
    | with_reducible assumption
    | (simp; done)
    | split
    | (with_reducible refine (foldl_boot _ _ _ (fun _ _ => ?_)).trans ?_)
    | (with_reducible refine (foldl_boot_fst _ _ _ (fun _ _ => ?_)).trans ?_)
    | (with_reducible refine (foldl_boot_snd2 _ _ _ (fun _ _ => ?_)).trans ?_)
    | (with_reducible refine (foldl_boot_snd _ _ _ (fun _ _ => ?_)).trans ?_)
    | (simp_all; done)
    | (simp +zetaDelta [*]; done)
    | (simp_all +zetaDelta; done)
    | dsimp only
    | simp))

@[simp] theorem execLcLimit_boot (value : Word32) (s : State) :
    KeepsBoot s (execLcLimit value s) := by
  unfold execLcLimit
  split <;> simp

@[simp] theorem execLcShare_boot (partition : Nat) (value : Word32) (s : State) :
    KeepsBoot s (execLcShare partition value s) := by
  unfold execLcShare
  split <;> simp

end Sys2Proof.Machine
end

