-- ==== Sys2Proof/Laws/KeepPageWrites.lean ====
section
/-! SUPPORT. The operations of PageWrites leave the boot state as it is. -/

set_option Elab.async false
set_option linter.all false
set_option linter.unusedTactic false
set_option linter.unreachableTactic false

namespace Sys2Proof.Machine

@[simp] theorem storeWrite_boot (s : State) (d : Nat) (w : PageWriteMsg) :
    (storeWrite s d w).1.boot = s.boot := by
  unfold storeWrite
  split
  · rfl
  · extract_lets b a fmt key ids
    split
    · rfl
    · split
      · rfl
      · rename_i loc s1 h
        have h0 : s1.boot = s.boot := openPage_boot _ _ _ _ _ _ _ _ h
        extract_lets s2 s3 gen s4 s5 s6 s7
        have hs2 : s2.boot = s.boot := by
          dsimp only [s2]
          all_goals (repeat' (first | with_reducible rfl | with_reducible assumption | (simp [h0]; done) | (with_reducible refine (foldl_boot _ _ _ (fun _ _ => ?_)).trans ?_) | split | simp))
        have hs3 : s3.boot = s.boot := by
          dsimp only [s3]
          all_goals (repeat' (first | with_reducible rfl | with_reducible assumption | (simp [h0, hs2]; done) | (with_reducible refine (foldl_boot _ _ _ (fun _ _ => ?_)).trans ?_) | split | simp))
        have hs4 : s4.boot = s.boot := by
          dsimp only [s4]
          all_goals (repeat' (first | with_reducible rfl | with_reducible assumption | (simp [h0, hs2, hs3]; done) | (with_reducible refine (foldl_boot _ _ _ (fun _ _ => ?_)).trans ?_) | split | simp))
        have hs5 : s5.boot = s.boot := by
          dsimp only [s5]
          all_goals (repeat' (first | with_reducible rfl | with_reducible assumption | (simp [h0, hs2, hs3, hs4]; done) | (with_reducible refine (foldl_boot _ _ _ (fun _ _ => ?_)).trans ?_) | split | simp))
        have hs6 : s6.boot = s.boot := by
          dsimp only [s6]
          all_goals (repeat' (first | with_reducible rfl | with_reducible assumption | (simp [h0, hs2, hs3, hs4, hs5]; done) | (with_reducible refine (foldl_boot _ _ _ (fun _ _ => ?_)).trans ?_) | split | simp))
        have hs7 : s7.boot = s.boot := by
          dsimp only [s7]
          all_goals (repeat' (first | with_reducible rfl | with_reducible assumption | (simp [h0, hs2, hs3, hs4, hs5, hs6]; done) | (with_reducible refine (foldl_boot _ _ _ (fun _ _ => ?_)).trans ?_) | split | simp))
        dsimp only
        repeat' split
        all_goals simp [hs7]

@[simp] theorem takeWrite_boot (s : State) (tag : Nat) (d : Nat) (be : Bool) (w : PageWriteMsg) (o : Op) :
    (takeWrite s tag d be w o).boot = s.boot := by
  unfold takeWrite
  all_goals (repeat' (first
    | with_reducible rfl
    | with_reducible assumption
    | (simp; done)
    | (with_reducible refine (congrArg (fun p => p.1.boot) ‹storeWrite _ _ _  = (_, _)›.symm).trans ?_)
    | split
    | (with_reducible refine (foldl_boot _ _ _ (fun _ _ => ?_)).trans ?_)
    | (with_reducible refine (foldl_boot_fst _ _ _ (fun _ _ => ?_)).trans ?_)
    | (with_reducible refine (foldl_boot_snd2 _ _ _ (fun _ _ => ?_)).trans ?_)
    | (with_reducible refine (foldl_boot_snd _ _ _ (fun _ _ => ?_)).trans ?_)
    | (simp_all; done)
    | (simp +zetaDelta [*]; done)
    | (simp_all +zetaDelta; done)
    | dsimp only
    | simp))

@[simp] theorem retryWrite_boot (d : Nat) (s : State) (e : Nat × PageWriteMsg) :
    (retryWrite d s e).boot = s.boot := by
  unfold retryWrite
  all_goals (repeat' (first
    | with_reducible rfl
    | with_reducible assumption
    | (simp; done)
    | (with_reducible refine (congrArg (fun p => p.1.boot) ‹storeWrite _ _ _  = (_, _)›.symm).trans ?_)
    | split
    | (with_reducible refine (foldl_boot _ _ _ (fun _ _ => ?_)).trans ?_)
    | (with_reducible refine (foldl_boot_fst _ _ _ (fun _ _ => ?_)).trans ?_)
    | (with_reducible refine (foldl_boot_snd2 _ _ _ (fun _ _ => ?_)).trans ?_)
    | (with_reducible refine (foldl_boot_snd _ _ _ (fun _ _ => ?_)).trans ?_)
    | (simp_all; done)
    | (simp +zetaDelta [*]; done)
    | (simp_all +zetaDelta; done)
    | dsimp only
    | simp))

@[simp] theorem resumeWrites_boot (s : State) (d : Nat) :
    (resumeWrites s d).boot = s.boot := by
  unfold resumeWrites
  exact foldl_boot _ _ _ (fun _ _ => by simp)

end Sys2Proof.Machine
end

