-- ==== Sys2Proof/Laws/KeepAdminAccount.lean ====
section
/-! SUPPORT. The operations of AdminAccount leave the boot state as it is. -/

set_option Elab.async false
set_option linter.all false
set_option linter.unusedTactic false
set_option linter.unreachableTactic false

namespace Sys2Proof.Machine

@[simp] theorem execCreateAccount_boot (h : Hdr) (partition : Nat) (s : State) :
    KeepsBoot s (execCreateAccount h partition s) := by
  unfold execCreateAccount createAccountSpec
  refine adminCmd_boot _ _ _ (fun _ _ => ?_)
  simp

@[simp] theorem removeAccount_boot (s : State) (a : Nat) :
    (removeAccount s a).boot = s.boot := by
  unfold removeAccount
  all_goals (repeat' (first
    | with_reducible rfl
    | with_reducible assumption
    | (simp; done)
    | split
    | (with_reducible refine (foldl_boot _ _ _ (fun _ _ => ?_)).trans ?_)
    | (with_reducible refine (foldl_boot_fst _ _ _ (fun _ _ => ?_)).trans ?_)
    | (with_reducible refine (foldl_boot_snd2 _ _ _ (fun _ _ => ?_)).trans ?_)
    | (with_reducible refine (foldl_boot_snd _ _ _ (fun _ _ => ?_)).trans ?_)
    | (simp_all; done)
    | (simp +zetaDelta [*]; done)
    | (simp_all +zetaDelta; done)
    | dsimp only
    | simp))

@[simp] theorem execDeleteAccount_boot (h : Hdr) (s : State) :
    KeepsBoot s (execDeleteAccount h s) := by
  unfold execDeleteAccount deleteAccountSpec
  refine adminCmd_boot _ _ _ (fun _ _ => ?_)
  simp

@[simp] theorem execSetQuota_boot (h : Hdr) (tier : Nat) (bytes : Nat) (s : State) :
    KeepsBoot s (execSetQuota h tier bytes s) := by
  unfold execSetQuota setQuotaSpec
  refine adminCmd_boot _ _ _ (fun _ _ => ?_)
  simp

@[simp] theorem execSetCeiling_boot (h : Hdr) (tier : Nat) (bytes : Nat) (s : State) :
    KeepsBoot s (execSetCeiling h tier bytes s) := by
  unfold execSetCeiling setCeilingSpec
  refine adminCmd_boot _ _ _ (fun _ _ => ?_)
  simp

@[simp] theorem execQueryUsage_boot (h : Hdr) (s : State) :
    KeepsBoot s (execQueryUsage h s) := by
  unfold execQueryUsage queryUsageSpec
  refine adminCmd_boot _ _ _ (fun _ _ => ?_)
  simp

@[simp] theorem settlePartition_boot (s : State) (p : Nat) :
    (settlePartition s p).boot = s.boot := by
  unfold settlePartition
  all_goals (repeat' (first
    | with_reducible rfl
    | with_reducible assumption
    | (simp; done)
    | split
    | (with_reducible refine (foldl_boot _ _ _ (fun _ _ => ?_)).trans ?_)
    | (with_reducible refine (foldl_boot_fst _ _ _ (fun _ _ => ?_)).trans ?_)
    | (with_reducible refine (foldl_boot_snd2 _ _ _ (fun _ _ => ?_)).trans ?_)
    | (with_reducible refine (foldl_boot_snd _ _ _ (fun _ _ => ?_)).trans ?_)
    | (simp_all; done)
    | (simp +zetaDelta [*]; done)
    | (simp_all +zetaDelta; done)
    | dsimp only
    | simp))

end Sys2Proof.Machine
end

