-- ==== Sys2Proof/Laws/KeepText.lean ====
section
/-! SUPPORT. The operations of Text leave the boot state as it is. -/

set_option Elab.async false
set_option linter.all false
set_option linter.unusedTactic false
set_option linter.unreachableTactic false

namespace Sys2Proof.Machine

@[simp] theorem textCmd_boot (h : Hdr) (c : RingCmd) (s : State) (hr : ∀ s tag, (c.run s tag).boot = s.boot) :
    KeepsBoot s (textCmd h c s) := ringCmd_boot _ _ _ _ hr

@[simp] theorem tdone_boot (s : State) (h : Hdr) (tag : Nat) (r : Rcpt) :
    (tdone s h tag r).boot = s.boot := by
  simp [tdone]

@[simp] theorem execOpenStream_boot (h : Hdr) (direction : Nat) (flags : Nat) (vocab : Nat) (s : State) :
    KeepsBoot s (execOpenStream h direction flags vocab s) := by
  unfold execOpenStream openStreamSpec
  refine textCmd_boot _ _ _ (fun _ _ => ?_)
  dsimp only
  repeat' split
  all_goals simp

@[simp] theorem dropStream_boot (s : State) (k : Nat) :
    (dropStream s k).boot = s.boot := by
  unfold dropStream
  split <;> simp

@[simp] theorem tokFinish_boot (s : State) (h : Hdr) (tag : Nat) (outAddr : Nat) (b : List Byte) (st : Stream) (final : Bool) (input : List Byte) (o : TokOut) :
    (tokFinish s h tag outAddr b st final input o).boot = s.boot := by
  unfold tokFinish
  all_goals (repeat' (first
    | with_reducible rfl
    | with_reducible assumption
    | (simp; done)
    | (with_reducible refine (congrArg (fun p => p.1.boot) ‹hostWrite _ _ _ _  = (_, _)›.symm).trans ?_)
    | split
    | (with_reducible refine (foldl_boot _ _ _ (fun _ _ => ?_)).trans ?_)
    | (with_reducible refine (foldl_boot_fst _ _ _ (fun _ _ => ?_)).trans ?_)
    | (with_reducible refine (foldl_boot_snd2 _ _ _ (fun _ _ => ?_)).trans ?_)
    | (with_reducible refine (foldl_boot_snd _ _ _ (fun _ _ => ?_)).trans ?_)
    | (simp_all; done)
    | (simp +zetaDelta [*]; done)
    | (simp_all +zetaDelta; done)
    | dsimp only
    | simp))

@[simp] theorem execTokenize_boot (h : Hdr) (outAddr : Nat) (outCap : Nat) (final : Nat) (input : HostRead) (s : State) :
    KeepsBoot s (execTokenize h outAddr outCap final input s) := by
  unfold execTokenize tokenizeSpec
  refine textCmd_boot _ _ _ (fun _ _ => ?_)
  dsimp only
  repeat' split
  all_goals simp

@[simp] theorem execDetokenize_boot (h : Hdr) (outAddr : Nat) (outCap : Nat) (final : Nat) (input : HostRead) (s : State) :
    KeepsBoot s (execDetokenize h outAddr outCap final input s) := by
  unfold execDetokenize detokenizeSpec
  all_goals (repeat' (first
    | with_reducible rfl
    | with_reducible assumption
    | (simp; done)
    | (with_reducible refine (congrArg (fun p => p.1.boot) ‹hostWrite _ _ _ _  = (_, _)›.symm).trans ?_)
    | (refine textCmd_boot _ _ _ (fun _ _ => ?_))
    | (rw [KeepsBoot.next_iff])
    | split
    | (with_reducible refine (foldl_boot _ _ _ (fun _ _ => ?_)).trans ?_)
    | (with_reducible refine (foldl_boot_fst _ _ _ (fun _ _ => ?_)).trans ?_)
    | (with_reducible refine (foldl_boot_snd2 _ _ _ (fun _ _ => ?_)).trans ?_)
    | (with_reducible refine (foldl_boot_snd _ _ _ (fun _ _ => ?_)).trans ?_)
    | (simp_all; done)
    | (simp +zetaDelta [*]; done)
    | (simp_all +zetaDelta; done)
    | dsimp only
    | simp))

@[simp] theorem execCloseStream_boot (h : Hdr) (s : State) :
    KeepsBoot s (execCloseStream h s) := by
  unfold execCloseStream closeStreamSpec
  refine textCmd_boot _ _ _ (fun _ _ => ?_)
  simp

@[simp] theorem noteOp_boot (s : State) (d : Nat) :
    (noteOp s d).boot = s.boot := by
  simp [noteOp]

theorem textSpec_boot (h : Hdr) (handle : Nat) (hasBuffer : Bool) (bad : State → List (Nat × Bool))
    (refuse : State → List (Option Rcpt)) (run : State → Nat → Nat → State) (hr : ∀ s tag d, (run s tag d).boot = s.boot) (s : State) (tag : Nat) :
    ((textSpec h handle hasBuffer bad refuse run).run s tag).boot = s.boot := by
  unfold textSpec
  dsimp only
  split
  · exact (hr _ _ _).trans (noteOp_boot _ _)
  · exact tdone_boot _ _ _ _

@[simp] theorem takeReadText_boot (s : State) (tag : Nat) (d : Nat) (cursor : Nat) (waitMs : Nat) (flags : Nat) (len : Nat) (addr : Nat) (via : ResultVia) (o : Op) :
    (takeReadText s tag d cursor waitMs flags len addr via o).boot = s.boot := by
  unfold takeReadText
  all_goals (repeat' (first
    | with_reducible rfl
    | with_reducible assumption
    | (simp; done)
    | split
    | (with_reducible refine (foldl_boot _ _ _ (fun _ _ => ?_)).trans ?_)
    | (with_reducible refine (foldl_boot_fst _ _ _ (fun _ _ => ?_)).trans ?_)
    | (with_reducible refine (foldl_boot_snd2 _ _ _ (fun _ _ => ?_)).trans ?_)
    | (with_reducible refine (foldl_boot_snd _ _ _ (fun _ _ => ?_)).trans ?_)
    | (simp_all; done)
    | (simp +zetaDelta [*]; done)
    | (simp_all +zetaDelta; done)
    | dsimp only
    | simp))

@[simp] theorem execReadText_boot (h : Hdr) (handle : Nat) (cursor : Nat) (waitMs : Nat) (flags : Nat) (s : State) :
    KeepsBoot s (execReadText h handle cursor waitMs flags s) := by
  unfold execReadText readTextSpec
  refine textCmd_boot _ _ _ (fun _ _ => ?_)
  refine textSpec_boot _ _ _ _ _ _ (fun _ _ _ => ?_) _ _
  simp

@[simp] theorem execReadTextWaitExpiry_boot (tag : Nat) (pm : Nat) (s : State) :
    KeepsBoot s (execReadTextWaitExpiry tag pm s) := by
  unfold execReadTextWaitExpiry
  dsimp only
  repeat' split
  all_goals simp

@[simp] theorem takeReadMask_boot (s : State) (tag : Nat) (d : Nat) (round : Nat) (which : Nat) (len : Nat) (addr : Nat) (via : ResultVia) (o : Op) :
    (takeReadMask s tag d round which len addr via o).boot = s.boot := by
  simp [takeReadMask]

@[simp] theorem execReadMask_boot (h : Hdr) (handle : Nat) (round : Nat) (which : Nat) (s : State) :
    KeepsBoot s (execReadMask h handle round which s) := by
  unfold execReadMask readMaskSpec
  refine textCmd_boot _ _ _ (fun _ _ => ?_)
  refine textSpec_boot _ _ _ _ _ _ (fun _ _ _ => ?_) _ _
  simp

@[simp] theorem takeEdit_boot (s : State) (h : Hdr) (tag : Nat) (d : Nat) (e : TextEdit) :
    (takeEdit s h tag d e).boot = s.boot := by
  unfold takeEdit
  repeat' split
  all_goals simp

@[simp] theorem execSetRules_boot (h : Hdr) (handle : Nat) (body : HostRead) (s : State) :
    KeepsBoot s (execSetRules h handle body s) := by
  unfold execSetRules setRulesSpec
  refine textCmd_boot _ _ _ (fun _ _ => ?_)
  refine textSpec_boot _ _ _ _ _ _ (fun _ _ _ => ?_) _ _
  simp

@[simp] theorem execResetConstraint_boot (h : Hdr) (handle : Nat) (state : Nat) (s : State) :
    KeepsBoot s (execResetConstraint h handle state s) := by
  unfold execResetConstraint resetConstraintSpec
  refine textCmd_boot _ _ _ (fun _ _ => ?_)
  refine textSpec_boot _ _ _ _ _ _ (fun _ _ _ => ?_) _ _
  simp

@[simp] theorem execCommitNotice_boot (pm : Nat) (s : State) :
    KeepsBoot s (execCommitNotice pm s) := by
  unfold execCommitNotice
  dsimp only
  repeat' split
  all_goals simp

@[simp] theorem execMaskReady_boot (d : Nat) (m : Nat) (pm : Nat) (s : State) :
    KeepsBoot s (execMaskReady d m pm s) := by
  unfold execMaskReady
  dsimp only
  repeat' split
  all_goals simp

end Sys2Proof.Machine
end

