-- ==== Sys2Proof/Laws/KeepConfigCmds.lean ====
section
/-! SUPPORT. The operations of ConfigCmds leave the boot state as it is. -/

set_option Elab.async false
set_option linter.all false
set_option linter.unusedTactic false
set_option linter.unreachableTactic false

namespace Sys2Proof.Machine

@[simp] theorem storeVersion_boot (s : State) (kind : Nat) (num : Nat) (account : Nat) (b : List Byte) :
    (storeVersion s kind num account b).1.boot = s.boot := by
  unfold storeVersion
  all_goals (repeat' (first
    | with_reducible rfl
    | with_reducible assumption
    | (simp; done)
    | (with_reducible refine (takeAnywhere_boot _ _ _  _ ‹takeAnywhere _ _ _  = .some _›).trans ?_)
    | split
    | (with_reducible refine (foldl_boot _ _ _ (fun _ _ => ?_)).trans ?_)
    | (with_reducible refine (foldl_boot_fst _ _ _ (fun _ _ => ?_)).trans ?_)
    | (with_reducible refine (foldl_boot_snd2 _ _ _ (fun _ _ => ?_)).trans ?_)
    | (with_reducible refine (foldl_boot_snd _ _ _ (fun _ _ => ?_)).trans ?_)
    | (simp_all; done)
    | (simp +zetaDelta [*]; done)
    | (simp_all +zetaDelta; done)
    | dsimp only
    | simp))

@[simp] theorem execPublishConfig_boot (h : Hdr) (kind : Nat) (base : Nat) (account : Nat) (body : HostRead) (sv : SealVerdict) (s : State) :
    KeepsBoot s (execPublishConfig h kind base account body sv s) := by
  unfold execPublishConfig publishConfigSpec
  refine adminCmd_boot _ _ _ (fun _ _ => ?_)
  dsimp only
  repeat' split
  all_goals simp

@[simp] theorem execRetireConfig_boot (h : Hdr) (kind : Nat) (version : Nat) (s : State) :
    KeepsBoot s (execRetireConfig h kind version s) := by
  unfold execRetireConfig retireConfigSpec
  refine adminCmd_boot _ _ _ (fun _ _ => ?_)
  simp

@[simp] theorem execQueryConfig_boot (h : Hdr) (kind : Nat) (s : State) :
    KeepsBoot s (execQueryConfig h kind s) := by
  unfold execQueryConfig queryConfigSpec
  refine adminCmd_boot _ _ _ (fun _ _ => ?_)
  simp

end Sys2Proof.Machine
end

