-- ==== Sys2Proof/Laws/KeepIndexBase.lean ====
section
/-! SUPPORT. The operations of IndexBase leave the boot state as it is. -/

set_option Elab.async false
set_option linter.all false
set_option linter.unusedTactic false
set_option linter.unreachableTactic false

namespace Sys2Proof.Machine

@[simp] theorem newObject_boot (s : State) :
    (newObject s).2.boot = s.boot := by
  simp [newObject]

theorem takeAreas_boot (s : State) (region : Nat) (a : Nat) (x0 : List Nat) (x1 : List Nat) :
    ∀ t, takeAreas s region a x0 x1 = some t → t.2.boot = s.boot := by
  intro t h
  unfold takeAreas at h
  repeat' (first | split at h | (dsimp only at h; split at h))
  all_goals (try dsimp only at h)
  all_goals (try (rw [Option.map_eq_some_iff] at h; obtain ⟨r, h, rfl⟩ := h))
  all_goals (first | (cases h; done) | cases h | skip)
  all_goals (repeat' (first
    | with_reducible rfl
    | with_reducible assumption
    | (simp; done)
    | (with_reducible refine (takeAreas_boot _ _ _ _ _  _ ‹takeAreas _ _ _ _ _  = .some _›).trans ?_)
    | split
    | (with_reducible refine (foldl_boot _ _ _ (fun _ _ => ?_)).trans ?_)
    | (with_reducible refine (foldl_boot_fst _ _ _ (fun _ _ => ?_)).trans ?_)
    | (with_reducible refine (foldl_boot_snd2 _ _ _ (fun _ _ => ?_)).trans ?_)
    | (with_reducible refine (foldl_boot_snd _ _ _ (fun _ _ => ?_)).trans ?_)
    | (simp_all; done)
    | (simp +zetaDelta [*]; done)
    | (simp_all +zetaDelta; done)
    | dsimp only
    | simp))

theorem placeShards_boot (a : Nat) (b : List Byte) (inHbm : Bool) (mk : Nat → Shard) (l : List (Nat × Nat)) (s : State) (m : AMap Shard)
    (vs : List Nat) : ∀ t, placeShards a b inHbm mk l s m vs = some t → t.1.boot = s.boot := by
  induction l generalizing s m vs with
  | nil => intro t h; cases h; rfl
  | cons e r ih =>
    obtain ⟨sh, rg⟩ := e
    intro t h
    rw [placeShards] at h
    generalize graphAreas b = ga at h
    generalize (if inHbm = true then [vectorFrames b] else []) = va at h
    generalize List.replicate (postFrames (mk sh)) 1 = pa at h
    split at h
    · cases h
    · rename_i ha
      split at h
      · cases h
      · rename_i hb
        split at h
        · cases h
        · rename_i hc
          exact (ih _ _ _ _ h).trans ((takeAreas_boot _ _ _ _ _ _ hc).trans ((takeAreas_boot _ _ _ _ _ _ hb).trans (takeAreas_boot _ _ _ _ _ _ ha)))

theorem buildIndex_boot (s : State) (a : Nat) (cr : Ref) (b : List Byte) (cb : List Byte) (mk : Nat → Shard) :
    ∀ t, buildIndex s a cr b cb mk = .ok t → t.1.boot = s.boot := by
  intro t h
  unfold buildIndex at h
  repeat' (first | split at h | (dsimp only at h; split at h))
  all_goals (try dsimp only at h)
  all_goals (try (rw [Option.map_eq_some_iff] at h; obtain ⟨r, h, rfl⟩ := h))
  all_goals (first | (cases h; done) | cases h | skip)
  all_goals (repeat' (first
    | with_reducible rfl
    | with_reducible assumption
    | (simp; done)
    | (with_reducible refine (placeShards_boot _ _ _ _ _ _ _ _  _ ‹placeShards _ _ _ _ _ _ _ _  = .some _›).trans ?_)
    | split
    | (with_reducible refine (foldl_boot _ _ _ (fun _ _ => ?_)).trans ?_)
    | (with_reducible refine (foldl_boot_fst _ _ _ (fun _ _ => ?_)).trans ?_)
    | (with_reducible refine (foldl_boot_snd2 _ _ _ (fun _ _ => ?_)).trans ?_)
    | (with_reducible refine (foldl_boot_snd _ _ _ (fun _ _ => ?_)).trans ?_)
    | (simp_all; done)
    | (simp +zetaDelta [*]; done)
    | (simp_all +zetaDelta; done)
    | dsimp only
    | simp))

@[simp] theorem freeIndexObject_boot (s : State) (k : Nat) :
    (freeIndexObject s k).boot = s.boot := by
  unfold freeIndexObject
  all_goals (repeat' (first
    | with_reducible rfl
    | with_reducible assumption
    | (simp; done)
    | split
    | (with_reducible refine (foldl_boot _ _ _ (fun _ _ => ?_)).trans ?_)
    | (with_reducible refine (foldl_boot_fst _ _ _ (fun _ _ => ?_)).trans ?_)
    | (with_reducible refine (foldl_boot_snd2 _ _ _ (fun _ _ => ?_)).trans ?_)
    | (with_reducible refine (foldl_boot_snd _ _ _ (fun _ _ => ?_)).trans ?_)
    | (simp_all; done)
    | (simp +zetaDelta [*]; done)
    | (simp_all +zetaDelta; done)
    | dsimp only
    | simp))

@[simp] theorem modIndex_boot (s : State) (k : Nat) (f : Index → Index) :
    (modIndex s k f).boot = s.boot := by
  simp [modIndex]

@[simp] theorem setShard_boot (s : State) (k : Nat) (sh : Nat) (h : Shard) :
    (setShard s k sh h).boot = s.boot := by
  simp [setShard]

theorem growPostings_boot (s : State) (a : Nat) (h : Shard) :
    ∀ t, growPostings s a h = .ok t → t.1.boot = s.boot := by
  intro t h
  unfold growPostings at h
  repeat' (first | split at h | (dsimp only at h; split at h))
  all_goals (try dsimp only at h)
  all_goals (try (rw [Option.map_eq_some_iff] at h; obtain ⟨r, h, rfl⟩ := h))
  all_goals (first | (cases h; done) | cases h | skip)
  all_goals (repeat' (first
    | with_reducible rfl
    | with_reducible assumption
    | (simp; done)
    | (with_reducible refine (takeAreas_boot _ _ _ _ _  _ ‹takeAreas _ _ _ _ _  = .some _›).trans ?_)
    | split
    | (with_reducible refine (foldl_boot _ _ _ (fun _ _ => ?_)).trans ?_)
    | (with_reducible refine (foldl_boot_fst _ _ _ (fun _ _ => ?_)).trans ?_)
    | (with_reducible refine (foldl_boot_snd2 _ _ _ (fun _ _ => ?_)).trans ?_)
    | (with_reducible refine (foldl_boot_snd _ _ _ (fun _ _ => ?_)).trans ?_)
    | (simp_all; done)
    | (simp +zetaDelta [*]; done)
    | (simp_all +zetaDelta; done)
    | dsimp only
    | simp))

theorem applyChange_boot (s : State) (c : ChangeRec) :
    ∀ t, applyChange s c = some t → t.1.boot = s.boot := by
  intro t h
  unfold applyChange at h
  repeat' (first | split at h | (dsimp only at h; split at h))
  all_goals (try dsimp only at h)
  all_goals (try (rw [Option.map_eq_some_iff] at h; obtain ⟨r, h, rfl⟩ := h))
  all_goals (first | (cases h; done) | cases h | skip)
  all_goals (repeat' (first
    | with_reducible rfl
    | with_reducible assumption
    | (simp; done)
    | (with_reducible refine (growPostings_boot _ _ _  _ ‹growPostings _ _ _  = .ok _›).trans ?_)
    | split
    | (with_reducible refine (foldl_boot _ _ _ (fun _ _ => ?_)).trans ?_)
    | (with_reducible refine (foldl_boot_fst _ _ _ (fun _ _ => ?_)).trans ?_)
    | (with_reducible refine (foldl_boot_snd2 _ _ _ (fun _ _ => ?_)).trans ?_)
    | (with_reducible refine (foldl_boot_snd _ _ _ (fun _ _ => ?_)).trans ?_)
    | (simp_all; done)
    | (simp +zetaDelta [*]; done)
    | (simp_all +zetaDelta; done)
    | dsimp only
    | simp))

@[simp] theorem changesGo_boot (x0 : List ChangeRec) (x1 : State) :
    (changesGo x0 x1).boot = x1.boot := by
  fun_induction changesGo x0 x1
  case case4 =>
    rename_i h ih
    exact ih.trans ((resolveTag_boot _ _ _).trans (applyChange_boot _ _ _ h))
  all_goals simp_all

@[simp] theorem settleChanges_boot (s : State) :
    (settleChanges s).boot = s.boot := by
  simp [settleChanges]

@[simp] theorem takeChange_boot (s : State) (c : ChangeRec) (o : Op) :
    (takeChange s c o).boot = s.boot := by
  unfold takeChange
  all_goals (repeat' (first
    | with_reducible rfl
    | with_reducible assumption
    | (simp; done)
    | (with_reducible refine (applyChange_boot _ _  _ ‹applyChange _ _  = .some _›).trans ?_)
    | split
    | (with_reducible refine (foldl_boot _ _ _ (fun _ _ => ?_)).trans ?_)
    | (with_reducible refine (foldl_boot_fst _ _ _ (fun _ _ => ?_)).trans ?_)
    | (with_reducible refine (foldl_boot_snd2 _ _ _ (fun _ _ => ?_)).trans ?_)
    | (with_reducible refine (foldl_boot_snd _ _ _ (fun _ _ => ?_)).trans ?_)
    | (simp_all; done)
    | (simp +zetaDelta [*]; done)
    | (simp_all +zetaDelta; done)
    | dsimp only
    | simp))

@[simp] theorem settleIndex_boot (s : State) (k : Nat) :
    (settleIndex s k).boot = s.boot := by
  unfold settleIndex
  all_goals (repeat' (first
    | with_reducible rfl
    | with_reducible assumption
    | (simp; done)
    | split
    | (with_reducible refine (foldl_boot _ _ _ (fun _ _ => ?_)).trans ?_)
    | (with_reducible refine (foldl_boot_fst _ _ _ (fun _ _ => ?_)).trans ?_)
    | (with_reducible refine (foldl_boot_snd2 _ _ _ (fun _ _ => ?_)).trans ?_)
    | (with_reducible refine (foldl_boot_snd _ _ _ (fun _ _ => ?_)).trans ?_)
    | (simp_all; done)
    | (simp +zetaDelta [*]; done)
    | (simp_all +zetaDelta; done)
    | dsimp only
    | simp))

@[simp] theorem settleIndexes_boot (s : State) :
    (settleIndexes s).boot = s.boot := by
  unfold settleIndexes
  all_goals (repeat' (first
    | with_reducible rfl
    | with_reducible assumption
    | (simp; done)
    | split
    | (with_reducible refine (foldl_boot _ _ _ (fun _ _ => ?_)).trans ?_)
    | (with_reducible refine (foldl_boot_fst _ _ _ (fun _ _ => ?_)).trans ?_)
    | (with_reducible refine (foldl_boot_snd2 _ _ _ (fun _ _ => ?_)).trans ?_)
    | (with_reducible refine (foldl_boot_snd _ _ _ (fun _ _ => ?_)).trans ?_)
    | (simp_all; done)
    | (simp +zetaDelta [*]; done)
    | (simp_all +zetaDelta; done)
    | dsimp only
    | simp))

@[simp] theorem finishSearch_boot (s : State) (tag : Nat) (q : SearchRec) :
    (finishSearch s tag q).boot = s.boot := by
  unfold finishSearch
  all_goals (repeat' (first
    | with_reducible rfl
    | with_reducible assumption
    | (simp; done)
    | (with_reducible refine (congrArg (fun p => p.1.boot) ‹hostWrite _ _ _ _  = (_, _)›.symm).trans ?_)
    | split
    | (with_reducible refine (foldl_boot _ _ _ (fun _ _ => ?_)).trans ?_)
    | (with_reducible refine (foldl_boot_fst _ _ _ (fun _ _ => ?_)).trans ?_)
    | (with_reducible refine (foldl_boot_snd2 _ _ _ (fun _ _ => ?_)).trans ?_)
    | (with_reducible refine (foldl_boot_snd _ _ _ (fun _ _ => ?_)).trans ?_)
    | (simp_all; done)
    | (simp +zetaDelta [*]; done)
    | (simp_all +zetaDelta; done)
    | dsimp only
    | simp))

@[simp] theorem searchAnswered_boot (s : State) (tag : Nat) (dev : Nat) (a : Option SearchAnswer) :
    (searchAnswered s tag dev a).boot = s.boot := by
  unfold searchAnswered
  all_goals (repeat' (first
    | with_reducible rfl
    | with_reducible assumption
    | (simp; done)
    | split
    | (with_reducible refine (foldl_boot _ _ _ (fun _ _ => ?_)).trans ?_)
    | (with_reducible refine (foldl_boot_fst _ _ _ (fun _ _ => ?_)).trans ?_)
    | (with_reducible refine (foldl_boot_snd2 _ _ _ (fun _ _ => ?_)).trans ?_)
    | (with_reducible refine (foldl_boot_snd _ _ _ (fun _ _ => ?_)).trans ?_)
    | (simp_all; done)
    | (simp +zetaDelta [*]; done)
    | (simp_all +zetaDelta; done)
    | dsimp only
    | simp))

end Sys2Proof.Machine
end

