-- ==== Sys2Proof/Laws/KeepWindow.lean ====
section
/-! SUPPORT. The operations of Window leave the boot state as it is. -/

set_option Elab.async false
set_option linter.all false
set_option linter.unusedTactic false
set_option linter.unreachableTactic false

namespace Sys2Proof.Machine

@[simp] theorem modWin_boot (s : State) (f : Window → Window) :
    (modWin s f).boot = s.boot := by
  simp [modWin]

@[simp] theorem modExt_boot (s : State) (k : Nat) (f : Extent → Extent) :
    (modExt s k f).boot = s.boot := by
  simp [modExt]

theorem takeFrames_boot (x0 : Nat) (x1 : State) (x2 : Nat) (x3 : Nat) (x4 : List Nat) :
    ∀ t, takeFrames x0 x1 x2 x3 x4 = some t → t.2.boot = x1.boot := by
  intro t h
  unfold takeFrames at h
  repeat' (first | split at h | (dsimp only at h; split at h))
  all_goals (try dsimp only at h)
  all_goals (try (rw [Option.map_eq_some_iff] at h; obtain ⟨r, h, rfl⟩ := h))
  all_goals (first | (cases h; done) | cases h | skip)
  all_goals (repeat' (first
    | with_reducible rfl
    | with_reducible assumption
    | (simp; done)
    | (with_reducible refine (takeFrames_boot _ _ _ _ _  _ ‹takeFrames _ _ _ _ _  = .some _›).trans ?_)
    | split
    | (with_reducible refine (foldl_boot _ _ _ (fun _ _ => ?_)).trans ?_)
    | (with_reducible refine (foldl_boot_fst _ _ _ (fun _ _ => ?_)).trans ?_)
    | (with_reducible refine (foldl_boot_snd2 _ _ _ (fun _ _ => ?_)).trans ?_)
    | (with_reducible refine (foldl_boot_snd _ _ _ (fun _ _ => ?_)).trans ?_)
    | (simp_all; done)
    | (simp +zetaDelta [*]; done)
    | (simp_all +zetaDelta; done)
    | dsimp only
    | simp))

theorem takeStacks_boot (s : State) (x0 : List (Nat × Nat)) (x1 : List Nat) :
    ∀ t, takeStacks s x0 x1 = some t → t.2.boot = s.boot := by
  intro t h
  unfold takeStacks at h
  repeat' (first | split at h | (dsimp only at h; split at h))
  all_goals (try dsimp only at h)
  all_goals (try (rw [Option.map_eq_some_iff] at h; obtain ⟨r, h, rfl⟩ := h))
  all_goals (first | (cases h; done) | cases h | skip)
  all_goals (repeat' (first
    | with_reducible rfl
    | with_reducible assumption
    | (simp; done)
    | (with_reducible refine (takeFrames_boot _ _ _ _ _  _ ‹takeFrames _ _ _ _ _  = .some _›).trans ?_)
    | (with_reducible refine (takeStacks_boot _ _ _  _ ‹takeStacks _ _ _  = .some _›).trans ?_)
    | split
    | (with_reducible refine (foldl_boot _ _ _ (fun _ _ => ?_)).trans ?_)
    | (with_reducible refine (foldl_boot_fst _ _ _ (fun _ _ => ?_)).trans ?_)
    | (with_reducible refine (foldl_boot_snd2 _ _ _ (fun _ _ => ?_)).trans ?_)
    | (with_reducible refine (foldl_boot_snd _ _ _ (fun _ _ => ?_)).trans ?_)
    | (simp_all; done)
    | (simp +zetaDelta [*]; done)
    | (simp_all +zetaDelta; done)
    | dsimp only
    | simp))

theorem takeDirectory_boot (s : State) :
    ∀ t, takeDirectory s = some t → t.boot = s.boot := by
  intro t h
  unfold takeDirectory at h
  repeat' (first | split at h | (dsimp only at h; split at h))
  all_goals (try dsimp only at h)
  all_goals (try (rw [Option.map_eq_some_iff] at h; obtain ⟨r, h, rfl⟩ := h))
  all_goals (first | (cases h; done) | cases h | skip)
  all_goals (repeat' (first
    | with_reducible rfl
    | with_reducible assumption
    | (simp; done)
    | (with_reducible refine (takeStacks_boot _ _ _  _ ‹takeStacks _ _ _  = .some _›).trans ?_)
    | split
    | (with_reducible refine (foldl_boot _ _ _ (fun _ _ => ?_)).trans ?_)
    | (with_reducible refine (foldl_boot_fst _ _ _ (fun _ _ => ?_)).trans ?_)
    | (with_reducible refine (foldl_boot_snd2 _ _ _ (fun _ _ => ?_)).trans ?_)
    | (with_reducible refine (foldl_boot_snd _ _ _ (fun _ _ => ?_)).trans ?_)
    | (simp_all; done)
    | (simp +zetaDelta [*]; done)
    | (simp_all +zetaDelta; done)
    | dsimp only
    | simp))

@[simp] theorem freeDirectory_boot (s : State) :
    (freeDirectory s).boot = s.boot := by
  unfold freeDirectory
  exact foldl_boot _ _ _ (fun _ _ => by simp)

@[simp] theorem setLine_boot (s : State) (line : Nat) (bs : List Byte) (mask : Nat) :
    (setLine s line bs mask).boot = s.boot := by
  simp [setLine]

@[simp] theorem clearPoison_boot (s : State) (line : Nat) :
    (clearPoison s line).boot = s.boot := by
  simp [clearPoison]

@[simp] theorem poisonLine_boot (s : State) (line : Nat) (cause : Nat) (host : Nat) :
    (poisonLine s line cause host).boot = s.boot := by
  unfold poisonLine
  all_goals (repeat' (first
    | with_reducible rfl
    | with_reducible assumption
    | (simp; done)
    | split
    | (with_reducible refine (foldl_boot _ _ _ (fun _ _ => ?_)).trans ?_)
    | (with_reducible refine (foldl_boot_fst _ _ _ (fun _ _ => ?_)).trans ?_)
    | (with_reducible refine (foldl_boot_snd2 _ _ _ (fun _ _ => ?_)).trans ?_)
    | (with_reducible refine (foldl_boot_snd _ _ _ (fun _ _ => ?_)).trans ?_)
    | (simp_all; done)
    | (simp +zetaDelta [*]; done)
    | (simp_all +zetaDelta; done)
    | dsimp only
    | simp))

@[simp] theorem dropWrite_boot (s : State) (host : Nat) (line : Nat) :
    (dropWrite s host line).boot = s.boot := by
  unfold dropWrite
  all_goals (repeat' (first
    | with_reducible rfl
    | with_reducible assumption
    | (simp; done)
    | split
    | (with_reducible refine (foldl_boot _ _ _ (fun _ _ => ?_)).trans ?_)
    | (with_reducible refine (foldl_boot_fst _ _ _ (fun _ _ => ?_)).trans ?_)
    | (with_reducible refine (foldl_boot_snd2 _ _ _ (fun _ _ => ?_)).trans ?_)
    | (with_reducible refine (foldl_boot_snd _ _ _ (fun _ _ => ?_)).trans ?_)
    | (simp_all; done)
    | (simp +zetaDelta [*]; done)
    | (simp_all +zetaDelta; done)
    | dsimp only
    | simp))

@[simp] theorem xferLine_boot (s : State) (id : Nat) (line : Nat) (bs : List Byte) (poison : Bool) (fence : Bool) :
    (xferLine s id line bs poison fence).boot = s.boot := by
  unfold xferLine
  all_goals (repeat' (first
    | with_reducible rfl
    | with_reducible assumption
    | (simp; done)
    | split
    | (with_reducible refine (foldl_boot _ _ _ (fun _ _ => ?_)).trans ?_)
    | (with_reducible refine (foldl_boot_fst _ _ _ (fun _ _ => ?_)).trans ?_)
    | (with_reducible refine (foldl_boot_snd2 _ _ _ (fun _ _ => ?_)).trans ?_)
    | (with_reducible refine (foldl_boot_snd _ _ _ (fun _ _ => ?_)).trans ?_)
    | (simp_all; done)
    | (simp +zetaDelta [*]; done)
    | (simp_all +zetaDelta; done)
    | dsimp only
    | simp))

@[simp] theorem answerRead_boot (s : State) (q : LineReq) (bs : List Byte) (poison : Bool) (fence : Bool) :
    (answerRead s q bs poison fence).boot = s.boot := by
  unfold answerRead
  split <;> simp

@[simp] theorem answerWrite_boot (s : State) (q : LineReq) (ok : Bool) :
    (answerWrite s q ok).boot = s.boot := by
  unfold answerWrite
  split <;> simp

@[simp] theorem setDir_boot (s : State) (line : Nat) (holders : List Nat) (owned : Bool) :
    (setDir s line holders owned).boot = s.boot := by
  simp [setDir]

@[simp] theorem issueSnoops_boot (x0 : Nat) (x1 : State) (x2 : Nat) :
    (issueSnoops x0 x1 x2).boot = x1.boot := by
  fun_induction issueSnoops x0 x1 x2
  all_goals (repeat' (first
    | with_reducible rfl
    | with_reducible assumption
    | (simp; done)
    | split
    | (with_reducible refine (foldl_boot _ _ _ (fun _ _ => ?_)).trans ?_)
    | (with_reducible refine (foldl_boot_fst _ _ _ (fun _ _ => ?_)).trans ?_)
    | (with_reducible refine (foldl_boot_snd2 _ _ _ (fun _ _ => ?_)).trans ?_)
    | (with_reducible refine (foldl_boot_snd _ _ _ (fun _ _ => ?_)).trans ?_)
    | (simp_all; done)
    | (simp +zetaDelta [*]; done)
    | (simp_all +zetaDelta; done)
    | dsimp only
    | simp))

@[simp] theorem sendSnoops_boot (s : State) (line : Nat) (ps : List (Nat × Nat)) :
    (sendSnoops s line ps).boot = s.boot := by
  unfold sendSnoops
  exact foldl_boot _ _ _ (fun _ _ => by simp)

@[simp] theorem noteEvict_boot (s : State) (k : Nat) :
    (noteEvict s k).boot = s.boot := by
  unfold noteEvict
  split <;> simp

@[simp] theorem noteDirFree_boot (s : State) (k : Nat) :
    (noteDirFree s k).boot = s.boot := by
  unfold noteDirFree
  split <;> simp

@[simp] theorem countRecall_boot (s : State) (line : Nat) (host : Nat) (answered : Bool) :
    (countRecall s line host answered).boot = s.boot := by
  unfold countRecall
  split <;> simp

@[simp] theorem finishReq_boot (s : State) (q : LineReq) :
    (finishReq s q).boot = s.boot := by
  unfold finishReq
  all_goals (repeat' (first
    | with_reducible rfl
    | with_reducible assumption
    | (simp; done)
    | split
    | (with_reducible refine (foldl_boot _ _ _ (fun _ _ => ?_)).trans ?_)
    | (with_reducible refine (foldl_boot_fst _ _ _ (fun _ _ => ?_)).trans ?_)
    | (with_reducible refine (foldl_boot_snd2 _ _ _ (fun _ _ => ?_)).trans ?_)
    | (with_reducible refine (foldl_boot_snd _ _ _ (fun _ _ => ?_)).trans ?_)
    | (simp_all; done)
    | (simp +zetaDelta [*]; done)
    | (simp_all +zetaDelta; done)
    | dsimp only
    | simp))

@[simp] theorem dropReq_boot (s : State) (line : Nat) :
    (dropReq s line).boot = s.boot := by
  simp [dropReq]

@[simp] theorem modReq_boot (s : State) (line : Nat) (f : LineReq → LineReq) :
    (modReq s line f).boot = s.boot := by
  simp [modReq]

@[simp] theorem serveLine_boot (x0 : Nat) (x1 : State) (x2 : Nat) :
    (serveLine x0 x1 x2).boot = x1.boot := by
  fun_induction serveLine x0 x1 x2
  case case9 =>
    rename_i ih2 ih1
    exact ih1.trans ((foldl_boot _ _ _ (fun a b => ih2 a b)).trans (by simp +zetaDelta))
  all_goals simp_all +zetaDelta

@[simp] theorem serve_boot (s : State) (line : Nat) :
    (serve s line).boot = s.boot := by
  simp [serve]

@[simp] theorem endGrant_boot (s : State) (k : Nat) (host : Nat) :
    (endGrant s k host).boot = s.boot := by
  simp [endGrant]

@[simp] theorem settleRelease_boot (s : State) (r : ReleaseRun) :
    (settleRelease s r).boot = s.boot := by
  unfold settleRelease
  all_goals (repeat' (first
    | with_reducible rfl
    | with_reducible assumption
    | (simp; done)
    | split
    | (with_reducible refine (foldl_boot _ _ _ (fun _ _ => ?_)).trans ?_)
    | (with_reducible refine (foldl_boot_fst _ _ _ (fun _ _ => ?_)).trans ?_)
    | (with_reducible refine (foldl_boot_snd2 _ _ _ (fun _ _ => ?_)).trans ?_)
    | (with_reducible refine (foldl_boot_snd _ _ _ (fun _ _ => ?_)).trans ?_)
    | (simp_all; done)
    | (simp +zetaDelta [*]; done)
    | (simp_all +zetaDelta; done)
    | dsimp only
    | simp))

@[simp] theorem settleReleases_boot (s : State) :
    (settleReleases s).boot = s.boot := by
  unfold settleReleases
  all_goals (repeat' (first
    | with_reducible rfl
    | with_reducible assumption
    | (simp; done)
    | split
    | (with_reducible refine (foldl_boot _ _ _ (fun _ _ => ?_)).trans ?_)
    | (with_reducible refine (foldl_boot_fst _ _ _ (fun _ _ => ?_)).trans ?_)
    | (with_reducible refine (foldl_boot_snd2 _ _ _ (fun _ _ => ?_)).trans ?_)
    | (with_reducible refine (foldl_boot_snd _ _ _ (fun _ _ => ?_)).trans ?_)
    | (simp_all; done)
    | (simp +zetaDelta [*]; done)
    | (simp_all +zetaDelta; done)
    | dsimp only
    | simp))

@[simp] theorem startRelease_boot (s : State) (r : Nat) (e : Nat) (host : Nat) (byHost : Bool) (tags : List Nat) :
    (startRelease s r e host byHost tags).boot = s.boot := by
  unfold startRelease
  all_goals (repeat' (first
    | with_reducible rfl
    | with_reducible assumption
    | (simp; done)
    | split
    | (with_reducible refine (foldl_boot _ _ _ (fun _ _ => ?_)).trans ?_)
    | (with_reducible refine (foldl_boot_fst _ _ _ (fun _ _ => ?_)).trans ?_)
    | (with_reducible refine (foldl_boot_snd2 _ _ _ (fun _ _ => ?_)).trans ?_)
    | (with_reducible refine (foldl_boot_snd _ _ _ (fun _ _ => ?_)).trans ?_)
    | (simp_all; done)
    | (simp +zetaDelta [*]; done)
    | (simp_all +zetaDelta; done)
    | dsimp only
    | simp))

@[simp] theorem crashHost_boot (s : State) (host : Nat) (cause : Nat) :
    (crashHost s host cause).boot = s.boot := by
  unfold crashHost
  all_goals (repeat' (first
    | with_reducible rfl
    | with_reducible assumption
    | (simp; done)
    | split
    | (with_reducible refine (foldl_boot _ _ _ (fun _ _ => ?_)).trans ?_)
    | (with_reducible refine (foldl_boot_fst _ _ _ (fun _ _ => ?_)).trans ?_)
    | (with_reducible refine (foldl_boot_snd2 _ _ _ (fun _ _ => ?_)).trans ?_)
    | (with_reducible refine (foldl_boot_snd _ _ _ (fun _ _ => ?_)).trans ?_)
    | (simp_all; done)
    | (simp +zetaDelta [*]; done)
    | (simp_all +zetaDelta; done)
    | dsimp only
    | simp))

@[simp] theorem arriveLine_boot (s : State) (q : LineReq) :
    (arriveLine s q).boot = s.boot := by
  unfold arriveLine
  repeat' split
  all_goals simp

end Sys2Proof.Machine
end

