-- ==== Sys2Proof/Laws/KeepWindowCmds.lean ====
section
/-! SUPPORT. The operations of WindowCmds leave the boot state as it is. -/

set_option Elab.async false
set_option linter.all false
set_option linter.unusedTactic false
set_option linter.unreachableTactic false

namespace Sys2Proof.Machine

@[simp] theorem execSwRegion_boot (n : Nat) (value : Word64) (s : State) :
    KeepsBoot s (execSwRegion n value s) := by
  unfold execSwRegion
  all_goals (repeat' (first
    | with_reducible rfl
    | with_reducible assumption
    | (simp; done)
    | (with_reducible refine (takeDirectory_boot _  _ ‹takeDirectory _  = .some _›).trans ?_)
    | (rw [KeepsBoot.next_iff])
    | split
    | (with_reducible refine (foldl_boot _ _ _ (fun _ _ => ?_)).trans ?_)
    | (with_reducible refine (foldl_boot_fst _ _ _ (fun _ _ => ?_)).trans ?_)
    | (with_reducible refine (foldl_boot_snd2 _ _ _ (fun _ _ => ?_)).trans ?_)
    | (with_reducible refine (foldl_boot_snd _ _ _ (fun _ _ => ?_)).trans ?_)
    | (simp_all; done)
    | (simp +zetaDelta [*]; done)
    | (simp_all +zetaDelta; done)
    | dsimp only
    | simp))

@[simp] theorem endGrantWait_boot (s : State) (region : Nat) (extent : Nat) (host : Nat) (outcome : Nat) :
    (endGrantWait s region extent host outcome).boot = s.boot := by
  unfold endGrantWait
  all_goals (repeat' (first
    | with_reducible rfl
    | with_reducible assumption
    | (simp; done)
    | split
    | (with_reducible refine (foldl_boot _ _ _ (fun _ _ => ?_)).trans ?_)
    | (with_reducible refine (foldl_boot_fst _ _ _ (fun _ _ => ?_)).trans ?_)
    | (with_reducible refine (foldl_boot_snd2 _ _ _ (fun _ _ => ?_)).trans ?_)
    | (with_reducible refine (foldl_boot_snd _ _ _ (fun _ _ => ?_)).trans ?_)
    | (simp_all; done)
    | (simp +zetaDelta [*]; done)
    | (simp_all +zetaDelta; done)
    | dsimp only
    | simp))

@[simp] theorem offerGrant_boot (s : State) (region : Nat) (extent : Nat) (host : Nat) :
    (offerGrant s region extent host).boot = s.boot := by
  unfold offerGrant
  split <;> simp

theorem takeExtent_boot (s : State) (region : Nat) (k : Nat) :
    ∀ t, takeExtent s region k = some t → t.boot = s.boot := by
  intro t h
  unfold takeExtent at h
  repeat' (first | split at h | (dsimp only at h; split at h))
  all_goals (try dsimp only at h)
  all_goals (try (rw [Option.map_eq_some_iff] at h; obtain ⟨r, h, rfl⟩ := h))
  all_goals (first | (cases h; done) | cases h | skip)
  all_goals (repeat' (first
    | with_reducible rfl
    | with_reducible assumption
    | (simp; done)
    | (with_reducible refine (takeStacks_boot _ _ _  _ ‹takeStacks _ _ _  = .some _›).trans ?_)
    | split
    | (with_reducible refine (foldl_boot _ _ _ (fun _ _ => ?_)).trans ?_)
    | (with_reducible refine (foldl_boot_fst _ _ _ (fun _ _ => ?_)).trans ?_)
    | (with_reducible refine (foldl_boot_snd2 _ _ _ (fun _ _ => ?_)).trans ?_)
    | (with_reducible refine (foldl_boot_snd _ _ _ (fun _ _ => ?_)).trans ?_)
    | (simp_all; done)
    | (simp +zetaDelta [*]; done)
    | (simp_all +zetaDelta; done)
    | dsimp only
    | simp))

@[simp] theorem retryGrant_boot (s : State) (g : GrantWait) :
    (retryGrant s g).boot = s.boot := by
  unfold retryGrant
  all_goals (repeat' (first
    | with_reducible rfl
    | with_reducible assumption
    | (simp; done)
    | (with_reducible refine (takeExtent_boot _ _ _  _ ‹takeExtent _ _ _  = .some _›).trans ?_)
    | split
    | (with_reducible refine (foldl_boot _ _ _ (fun _ _ => ?_)).trans ?_)
    | (with_reducible refine (foldl_boot_fst _ _ _ (fun _ _ => ?_)).trans ?_)
    | (with_reducible refine (foldl_boot_snd2 _ _ _ (fun _ _ => ?_)).trans ?_)
    | (with_reducible refine (foldl_boot_snd _ _ _ (fun _ _ => ?_)).trans ?_)
    | (simp_all; done)
    | (simp +zetaDelta [*]; done)
    | (simp_all +zetaDelta; done)
    | dsimp only
    | simp))

@[simp] theorem retryGrants_boot (s : State) :
    (retryGrants s).boot = s.boot := by
  unfold retryGrants
  exact foldl_boot _ _ _ (fun _ _ => by simp)

@[simp] theorem execAddExtent_boot (h : Hdr) (extent : Nat) (host : Nat) (s : State) :
    KeepsBoot s (execAddExtent h extent host s) := by
  unfold execAddExtent addExtentSpec
  refine adminCmd_boot _ _ _ (fun _ _ => ?_)
  simp

@[simp] theorem execAddDynamicCapacityResponse_boot (host : Nat) (region : Nat) (extent : Nat) (accept : Bool) (s : State) :
    KeepsBoot s (execAddDynamicCapacityResponse host region extent accept s) := by
  unfold execAddDynamicCapacityResponse
  all_goals (repeat' (first
    | with_reducible rfl
    | with_reducible assumption
    | (simp; done)
    | (rw [KeepsBoot.next_iff])
    | split
    | (with_reducible refine (foldl_boot _ _ _ (fun _ _ => ?_)).trans ?_)
    | (with_reducible refine (foldl_boot_fst _ _ _ (fun _ _ => ?_)).trans ?_)
    | (with_reducible refine (foldl_boot_snd2 _ _ _ (fun _ _ => ?_)).trans ?_)
    | (with_reducible refine (foldl_boot_snd _ _ _ (fun _ _ => ?_)).trans ?_)
    | (simp_all; done)
    | (simp +zetaDelta [*]; done)
    | (simp_all +zetaDelta; done)
    | dsimp only
    | simp))

@[simp] theorem execAddExtentTimeout_boot (region : Nat) (extent : Nat) (host : Nat) (pm : Nat) (s : State) :
    KeepsBoot s (execAddExtentTimeout region extent host pm s) := by
  unfold execAddExtentTimeout
  dsimp only
  repeat' split
  all_goals simp

@[simp] theorem execReleaseExtent_boot (h : Hdr) (extent : Nat) (host : Nat) (s : State) :
    KeepsBoot s (execReleaseExtent h extent host s) := by
  unfold execReleaseExtent releaseExtentSpec
  refine adminCmd_boot _ _ _ (fun _ _ => ?_)
  dsimp only
  repeat' split
  all_goals simp

@[simp] theorem execReleaseDynamicCapacity_boot (host : Nat) (region : Nat) (extent : Nat) (s : State) :
    KeepsBoot s (execReleaseDynamicCapacity host region extent s) := by
  unfold execReleaseDynamicCapacity
  dsimp only
  repeat' split
  all_goals simp

@[simp] theorem execScrubComplete_boot (region : Nat) (extent : Nat) (s : State) :
    KeepsBoot s (execScrubComplete region extent s) := by
  unfold execScrubComplete
  all_goals (repeat' (first
    | with_reducible rfl
    | with_reducible assumption
    | (simp; done)
    | (rw [KeepsBoot.next_iff])
    | split
    | (with_reducible refine (foldl_boot _ _ _ (fun _ _ => ?_)).trans ?_)
    | (with_reducible refine (foldl_boot_fst _ _ _ (fun _ _ => ?_)).trans ?_)
    | (with_reducible refine (foldl_boot_snd2 _ _ _ (fun _ _ => ?_)).trans ?_)
    | (with_reducible refine (foldl_boot_snd _ _ _ (fun _ _ => ?_)).trans ?_)
    | (simp_all; done)
    | (simp +zetaDelta [*]; done)
    | (simp_all +zetaDelta; done)
    | dsimp only
    | simp))

@[simp] theorem execHostLost_boot (h : Hdr) (host : Nat) (s : State) :
    KeepsBoot s (execHostLost h host s) := by
  unfold execHostLost hostLostSpec
  refine adminCmd_boot _ _ _ (fun _ _ => ?_)
  simp

@[simp] theorem execAcceptLoss_boot (h : Hdr) (extent : Nat) (offset : Nat) (s : State) :
    KeepsBoot s (execAcceptLoss h extent offset s) := by
  unfold execAcceptLoss acceptLossSpec
  all_goals (repeat' (first
    | with_reducible rfl
    | with_reducible assumption
    | (simp; done)
    | (refine adminCmd_boot _ _ _ (fun _ _ => ?_))
    | (rw [KeepsBoot.next_iff])
    | split
    | (with_reducible refine (foldl_boot _ _ _ (fun _ _ => ?_)).trans ?_)
    | (with_reducible refine (foldl_boot_fst _ _ _ (fun _ _ => ?_)).trans ?_)
    | (with_reducible refine (foldl_boot_snd2 _ _ _ (fun _ _ => ?_)).trans ?_)
    | (with_reducible refine (foldl_boot_snd _ _ _ (fun _ _ => ?_)).trans ?_)
    | (simp_all; done)
    | (simp +zetaDelta [*]; done)
    | (simp_all +zetaDelta; done)
    | dsimp only
    | simp))

@[simp] theorem acceptWriteBack_boot (s : State) (host : Nat) (line : Nat) (hold : Nat) (bytes : List Byte) :
    (acceptWriteBack s host line hold bytes).boot = s.boot := by
  unfold acceptWriteBack
  split <;> simp

@[simp] theorem execMemRead_boot (host : Nat) (dpa : Nat) (hold : Nat) (s : State) :
    KeepsBoot s (execMemRead host dpa hold s) := by
  unfold execMemRead
  split <;> simp

@[simp] theorem execMemWrite_boot (host : Nat) (dpa : Nat) (hold : Nat) (bytes : List Byte) (mask : Nat) (s : State) :
    KeepsBoot s (execMemWrite host dpa hold bytes mask s) := by
  unfold execMemWrite
  dsimp only
  repeat' split
  all_goals simp

@[simp] theorem execWriteBack_boot (host : Nat) (dpa : Nat) (hold : Nat) (bytes : List Byte) (s : State) :
    KeepsBoot s (execWriteBack host dpa hold bytes s) := by
  unfold execWriteBack
  all_goals (repeat' (first
    | with_reducible rfl
    | with_reducible assumption
    | (simp; done)
    | (rw [KeepsBoot.next_iff])
    | split
    | (with_reducible refine (foldl_boot _ _ _ (fun _ _ => ?_)).trans ?_)
    | (with_reducible refine (foldl_boot_fst _ _ _ (fun _ _ => ?_)).trans ?_)
    | (with_reducible refine (foldl_boot_snd2 _ _ _ (fun _ _ => ?_)).trans ?_)
    | (with_reducible refine (foldl_boot_snd _ _ _ (fun _ _ => ?_)).trans ?_)
    | (simp_all; done)
    | (simp +zetaDelta [*]; done)
    | (simp_all +zetaDelta; done)
    | dsimp only
    | simp))

@[simp] theorem answerSnoop_boot (s : State) (p : Snoop) :
    (answerSnoop s p).boot = s.boot := by
  unfold answerSnoop
  repeat' split
  all_goals simp

@[simp] theorem execBirspi_boot (host : Nat) (dpa : Nat) (s : State) :
    KeepsBoot s (execBirspi host dpa s) := by
  unfold execBirspi
  split <;> simp

@[simp] theorem execSnoopTimeoutExpired_boot (host : Nat) (dpa : Nat) (pm : Nat) (s : State) :
    KeepsBoot s (execSnoopTimeoutExpired host dpa pm s) := by
  unfold execSnoopTimeoutExpired
  dsimp only
  repeat' split
  all_goals simp

@[simp] theorem execHmWindowAccess_boot (dpa : Nat) (acc : HmAccess) (s : State) :
    KeepsBoot s (execHmWindowAccess dpa acc s) := by
  unfold execHmWindowAccess
  dsimp only
  repeat' split
  all_goals simp

@[simp] theorem execClearPoison_boot (host : Nat) (dpa : Nat) (bytes : List Byte) (s : State) :
    KeepsBoot s (execClearPoison host dpa bytes s) := by
  unfold execClearPoison
  split <;> simp

@[simp] theorem execGetPoisonList_boot (host : Nat) (s : State) :
    KeepsBoot s (execGetPoisonList host s) := by
  simp [execGetPoisonList]

@[simp] theorem execIdentifyMemoryDevice_boot (host : Nat) (s : State) :
    KeepsBoot s (execIdentifyMemoryDevice host s) := by
  simp [execIdentifyMemoryDevice]

@[simp] theorem execGetDynamicCapacityConfiguration_boot (host : Nat) (s : State) :
    KeepsBoot s (execGetDynamicCapacityConfiguration host s) := by
  simp [execGetDynamicCapacityConfiguration]

@[simp] theorem execGetDynamicCapacityExtentList_boot (host : Nat) (s : State) :
    KeepsBoot s (execGetDynamicCapacityExtentList host s) := by
  simp [execGetDynamicCapacityExtentList]

@[simp] theorem execGetEventRecords_boot (host : Nat) (dynamic : Bool) (s : State) :
    KeepsBoot s (execGetEventRecords host dynamic s) := by
  simp [execGetEventRecords]

@[simp] theorem execClearEventRecords_boot (host : Nat) (dynamic : Bool) (n : Nat) (s : State) :
    KeepsBoot s (execClearEventRecords host dynamic n s) := by
  unfold execClearEventRecords
  dsimp only
  repeat' split
  all_goals simp

@[simp] theorem execBindLd_boot (port : Nat) (ld : Nat) (s : State) :
    KeepsBoot s (execBindLd port ld s) := by
  unfold execBindLd
  dsimp only
  repeat' split
  all_goals simp

@[simp] theorem execUnbindLd_boot (port : Nat) (ld : Nat) (s : State) :
    KeepsBoot s (execUnbindLd port ld s) := by
  unfold execUnbindLd
  split <;> simp

@[simp] theorem execGetLdInfo_boot (port : Nat) (s : State) :
    KeepsBoot s (execGetLdInfo port s) := by
  unfold execGetLdInfo
  split <;> simp

end Sys2Proof.Machine
end

