-- ==== Sys2Proof/Laws/KeepAdminSession.lean ====
section
/-! SUPPORT. The operations of AdminSession leave the boot state as it is. -/

set_option Elab.async false
set_option linter.all false
set_option linter.unusedTactic false
set_option linter.unreachableTactic false

namespace Sys2Proof.Machine

theorem sessionSpec_boot (h : Hdr) (handle : Nat) (hasBuffer : Bool) (bad : State → List (Nat × Bool))
    (refuse : State → List (Option Rcpt)) (run : State → Nat → Nat → State) (hr : ∀ s tag d, (run s tag d).boot = s.boot) (s : State) (tag : Nat) :
    ((sessionSpec h handle hasBuffer bad refuse run).run s tag).boot = s.boot := by
  unfold sessionSpec
  dsimp only
  split
  · exact (hr _ _ _).trans (modSession_boot _ _ _)
  · exact done_boot _ _ _ _

@[simp] theorem beginClose_boot (s : State) (d : Nat) :
    (beginClose s d).boot = s.boot := by
  unfold beginClose
  all_goals (repeat' (first
    | with_reducible rfl
    | with_reducible assumption
    | (simp; done)
    | split
    | (with_reducible refine (foldl_boot _ _ _ (fun _ _ => ?_)).trans ?_)
    | (with_reducible refine (foldl_boot_fst _ _ _ (fun _ _ => ?_)).trans ?_)
    | (with_reducible refine (foldl_boot_snd2 _ _ _ (fun _ _ => ?_)).trans ?_)
    | (with_reducible refine (foldl_boot_snd _ _ _ (fun _ _ => ?_)).trans ?_)
    | (simp_all; done)
    | (simp +zetaDelta [*]; done)
    | (simp_all +zetaDelta; done)
    | dsimp only
    | simp))

@[simp] theorem execCloseSession_boot (h : Hdr) (handle : Nat) (s : State) :
    KeepsBoot s (execCloseSession h handle s) := by
  unfold execCloseSession closeSessionSpec
  refine adminCmd_boot _ _ _ (fun _ _ => ?_)
  refine sessionSpec_boot _ _ _ _ _ _ (fun _ _ _ => ?_) _ _
  simp

@[simp] theorem execSetWaiting_boot (h : Hdr) (handle : Nat) (expectedMs : Nat) (s : State) :
    KeepsBoot s (execSetWaiting h handle expectedMs s) := by
  unfold execSetWaiting setWaitingSpec
  refine adminCmd_boot _ _ _ (fun _ _ => ?_)
  refine sessionSpec_boot _ _ _ _ _ _ (fun _ _ _ => ?_) _ _
  dsimp only
  repeat' split
  all_goals simp

@[simp] theorem execParkNow_boot (h : Hdr) (handle : Nat) (s : State) :
    KeepsBoot s (execParkNow h handle s) := by
  unfold execParkNow parkNowSpec
  refine adminCmd_boot _ _ _ (fun _ _ => ?_)
  refine sessionSpec_boot _ _ _ _ _ _ (fun _ _ _ => ?_) _ _
  dsimp only
  repeat' split
  all_goals simp

@[simp] theorem execFloodNow_boot (h : Hdr) (handle : Nat) (s : State) :
    KeepsBoot s (execFloodNow h handle s) := by
  unfold execFloodNow floodNowSpec
  refine adminCmd_boot _ _ _ (fun _ _ => ?_)
  refine sessionSpec_boot _ _ _ _ _ _ (fun _ _ _ => ?_) _ _
  dsimp only
  repeat' split
  all_goals simp

@[simp] theorem execQuerySession_boot (h : Hdr) (handle : Nat) (s : State) :
    KeepsBoot s (execQuerySession h handle s) := by
  unfold execQuerySession querySessionSpec
  refine adminCmd_boot _ _ _ (fun _ _ => ?_)
  refine sessionSpec_boot _ _ _ _ _ _ (fun _ _ _ => ?_) _ _
  dsimp only
  repeat' split
  all_goals simp

@[simp] theorem replacePage_boot (d : Nat) (s : State) (key : Nat) :
    (replacePage d s key).boot = s.boot := by
  unfold replacePage
  all_goals (repeat' (first
    | with_reducible rfl
    | with_reducible assumption
    | (simp; done)
    | split
    | (with_reducible refine (foldl_boot _ _ _ (fun _ _ => ?_)).trans ?_)
    | (with_reducible refine (foldl_boot_fst _ _ _ (fun _ _ => ?_)).trans ?_)
    | (with_reducible refine (foldl_boot_snd2 _ _ _ (fun _ _ => ?_)).trans ?_)
    | (with_reducible refine (foldl_boot_snd _ _ _ (fun _ _ => ?_)).trans ?_)
    | (simp_all; done)
    | (simp +zetaDelta [*]; done)
    | (simp_all +zetaDelta; done)
    | dsimp only
    | simp))

@[simp] theorem sendMove_boot (s : State) (d : Nat) (key : Nat) :
    (sendMove s d key).boot = s.boot := by
  unfold sendMove
  all_goals (repeat' (first
    | with_reducible rfl
    | with_reducible assumption
    | (simp; done)
    | (with_reducible refine (congrArg (fun p => p.2.boot) ‹sendCopy _ _ _ _ _ _  = (_, _)›.symm).trans ?_)
    | split
    | (with_reducible refine (foldl_boot _ _ _ (fun _ _ => ?_)).trans ?_)
    | (with_reducible refine (foldl_boot_fst _ _ _ (fun _ _ => ?_)).trans ?_)
    | (with_reducible refine (foldl_boot_snd2 _ _ _ (fun _ _ => ?_)).trans ?_)
    | (with_reducible refine (foldl_boot_snd _ _ _ (fun _ _ => ?_)).trans ?_)
    | (simp_all; done)
    | (simp +zetaDelta [*]; done)
    | (simp_all +zetaDelta; done)
    | dsimp only
    | simp))

@[simp] theorem execSetSessionClass_boot (h : Hdr) (handle cls : Nat) (s : State) : KeepsBoot s (execSetSessionClass h handle cls s) := by
  unfold execSetSessionClass setSessionClassSpec
  refine adminCmd_boot _ _ _ (fun s tag => ?_)
  refine sessionSpec_boot _ _ _ _ _ _ (fun s tag d => ?_) _ _
  split
  · extract_lets c keys mv s1 s2 s3 o4 s5 o6 s7
    have hs1 : s1.boot = s.boot := by
      dsimp only [s1]
      all_goals (repeat' (first | with_reducible rfl | with_reducible assumption | (simp ; done) | (with_reducible refine (foldl_boot _ _ _ (fun _ _ => ?_)).trans ?_) | split | simp))
    have hs2 : s2.boot = s.boot := by
      dsimp only [s2]
      all_goals (repeat' (first | with_reducible rfl | with_reducible assumption | (simp [hs1]; done) | (with_reducible refine (foldl_boot _ _ _ (fun _ _ => ?_)).trans ?_) | split | simp))
    have hs3 : s3.boot = s.boot := by
      dsimp only [s3]
      all_goals (repeat' (first | with_reducible rfl | with_reducible assumption | (simp [hs1, hs2]; done) | (with_reducible refine (foldl_boot _ _ _ (fun _ _ => ?_)).trans ?_) | split | simp))
    have hs5 : s5.boot = s.boot := by
      dsimp only [s5]
      all_goals (repeat' (first | with_reducible rfl | with_reducible assumption | (simp [hs1, hs2, hs3]; done) | (with_reducible refine (foldl_boot _ _ _ (fun _ _ => ?_)).trans ?_) | split | simp))
    have hs7 : s7.boot = s.boot := by
      dsimp only [s7]
      all_goals (repeat' (first | with_reducible rfl | with_reducible assumption | (simp [hs1, hs2, hs3, hs5]; done) | (with_reducible refine (foldl_boot _ _ _ (fun _ _ => ?_)).trans ?_) | split | simp))
    split
    · simp [hs3]
    · split
      · simp [hs7]
      · split
        · exact (foldl_boot _ _ _ (fun _ _ => sendMove_boot _ _ _)).trans (by simp [hs5])
        · exact hs5
  · exact done_boot _ _ _ _

@[simp] theorem execSessionFreed_boot (d : Nat) (s : State) :
    KeepsBoot s (execSessionFreed d s) := by
  unfold execSessionFreed
  dsimp only
  repeat' split
  all_goals simp

@[simp] theorem execIdleTimer_boot (d : Nat) (pm : Nat) (s : State) :
    KeepsBoot s (execIdleTimer d pm s) := by
  unfold execIdleTimer
  dsimp only
  repeat' split
  all_goals simp

@[simp] theorem execEbbStart_boot (d : Nat) (pm : Nat) (s : State) :
    KeepsBoot s (execEbbStart d pm s) := by
  unfold execEbbStart
  dsimp only
  repeat' split
  all_goals simp

@[simp] theorem storeEbb_boot (s : State) (d : Nat) (key : Nat) (x : Session) (j : EbbJob) (r : PRef) (p : PageRec) :
    (storeEbb s d key x j r p).boot = s.boot := by
  unfold storeEbb
  all_goals (repeat' (first
    | with_reducible rfl
    | with_reducible assumption
    | (simp; done)
    | split
    | (with_reducible refine (foldl_boot _ _ _ (fun _ _ => ?_)).trans ?_)
    | (with_reducible refine (foldl_boot_fst _ _ _ (fun _ _ => ?_)).trans ?_)
    | (with_reducible refine (foldl_boot_snd2 _ _ _ (fun _ _ => ?_)).trans ?_)
    | (with_reducible refine (foldl_boot_snd _ _ _ (fun _ _ => ?_)).trans ?_)
    | (simp_all; done)
    | (simp +zetaDelta [*]; done)
    | (simp_all +zetaDelta; done)
    | dsimp only
    | simp))

@[simp] theorem storeMove_boot (s : State) (d : Nat) (key : Nat) (x : Session) (j : MoveJob) (r : PRef) :
    (storeMove s d key x j r).boot = s.boot := by
  unfold storeMove
  all_goals (repeat' (first
    | with_reducible rfl
    | with_reducible assumption
    | (simp; done)
    | split
    | (with_reducible refine (foldl_boot _ _ _ (fun _ _ => ?_)).trans ?_)
    | (with_reducible refine (foldl_boot_fst _ _ _ (fun _ _ => ?_)).trans ?_)
    | (with_reducible refine (foldl_boot_snd2 _ _ _ (fun _ _ => ?_)).trans ?_)
    | (with_reducible refine (foldl_boot_snd _ _ _ (fun _ _ => ?_)).trans ?_)
    | (simp_all; done)
    | (simp +zetaDelta [*]; done)
    | (simp_all +zetaDelta; done)
    | dsimp only
    | simp))

@[simp] theorem execCopyStored_boot (d : Nat) (layer : Nat) (page : Nat) (s : State) :
    KeepsBoot s (execCopyStored d layer page s) := by
  unfold execCopyStored
  dsimp only
  repeat' split
  all_goals simp

@[simp] theorem execEbbComplete_boot (d : Nat) (s : State) : KeepsBoot s (execEbbComplete d s) := by
  unfold execEbbComplete
  split
  · exact KeepsBoot.next_iff.mpr rfl
  · split
    · exact KeepsBoot.next_iff.mpr rfl
    · split
      · extract_lets s1 s2 s3 s4 s5
        have hs1 : s1.boot = s.boot := by
          dsimp only [s1]
          all_goals (repeat' (first | with_reducible rfl | with_reducible assumption | (simp ; done) | (with_reducible refine (foldl_boot _ _ _ (fun _ _ => ?_)).trans ?_) | split | simp))
        have hs2 : s2.boot = s.boot := by
          dsimp only [s2]
          all_goals (repeat' (first | with_reducible rfl | with_reducible assumption | (simp [hs1]; done) | (with_reducible refine (foldl_boot _ _ _ (fun _ _ => ?_)).trans ?_) | split | simp))
        have hs3 : s3.boot = s.boot := by
          dsimp only [s3]
          all_goals (repeat' (first | with_reducible rfl | with_reducible assumption | (simp [hs1, hs2]; done) | (with_reducible refine (foldl_boot _ _ _ (fun _ _ => ?_)).trans ?_) | split | simp))
        have hs4 : s4.boot = s.boot := by
          dsimp only [s4]
          all_goals (repeat' (first | with_reducible rfl | with_reducible assumption | (simp [hs1, hs2, hs3]; done) | (with_reducible refine (foldl_boot _ _ _ (fun _ _ => ?_)).trans ?_) | split | simp))
        have hs5 : s5.boot = s.boot := by
          dsimp only [s5]
          all_goals (repeat' (first | with_reducible rfl | with_reducible assumption | (simp [hs1, hs2, hs3, hs4]; done) | (with_reducible refine (foldl_boot _ _ _ (fun _ _ => ?_)).trans ?_) | split | simp))
        split
        · split
          · rename_i h
            exact KeepsBoot.next_iff.mpr ((endFlood_boot _ _).trans ((congrArg (fun p => p.1.boot) h.symm).trans ((startFlood_boot _ _ _ _).trans hs5)))
          · rename_i h
            exact KeepsBoot.next_iff.mpr ((floodBlocked_boot _ _).trans ((congrArg (fun p => p.1.boot) h.symm).trans ((startFlood_boot _ _ _ _).trans hs5)))
        · exact KeepsBoot.next_iff.mpr hs5
      · exact KeepsBoot.next_iff.mpr rfl

@[simp] theorem execFloodStart_boot (d : Nat) (pm : Nat) (s : State) :
    KeepsBoot s (execFloodStart d pm s) := by
  unfold execFloodStart
  all_goals (repeat' (first
    | with_reducible rfl
    | with_reducible assumption
    | (simp; done)
    | (with_reducible refine (congrArg (fun p => p.1.boot) ‹startFlood _ _ _ _  = (_, _)›.symm).trans ?_)
    | (rw [KeepsBoot.next_iff])
    | split
    | (with_reducible refine (foldl_boot _ _ _ (fun _ _ => ?_)).trans ?_)
    | (with_reducible refine (foldl_boot_fst _ _ _ (fun _ _ => ?_)).trans ?_)
    | (with_reducible refine (foldl_boot_snd2 _ _ _ (fun _ _ => ?_)).trans ?_)
    | (with_reducible refine (foldl_boot_snd _ _ _ (fun _ _ => ?_)).trans ?_)
    | (simp_all; done)
    | (simp +zetaDelta [*]; done)
    | (simp_all +zetaDelta; done)
    | dsimp only
    | simp))

@[simp] theorem execFloodPageArrived_boot (d : Nat) (layer : Nat) (page : Nat) (pm : Nat) (s : State) :
    KeepsBoot s (execFloodPageArrived d layer page pm s) := by
  unfold execFloodPageArrived
  dsimp only
  repeat' split
  all_goals simp

@[simp] theorem execResumePmPassed_boot (d : Nat) (pm : Nat) (s : State) :
    KeepsBoot s (execResumePmPassed d pm s) := by
  unfold execResumePmPassed
  dsimp only
  repeat' split
  all_goals simp

@[simp] theorem execBlockedRetry_boot (d : Nat) (pm : Nat) (s : State) :
    KeepsBoot s (execBlockedRetry d pm s) := by
  unfold execBlockedRetry
  all_goals (repeat' (first
    | with_reducible rfl
    | with_reducible assumption
    | (simp; done)
    | (with_reducible refine (congrArg (fun p => p.1.boot) ‹startFlood _ _ _ _  = (_, _)›.symm).trans ?_)
    | (rw [KeepsBoot.next_iff])
    | split
    | (with_reducible refine (foldl_boot _ _ _ (fun _ _ => ?_)).trans ?_)
    | (with_reducible refine (foldl_boot_fst _ _ _ (fun _ _ => ?_)).trans ?_)
    | (with_reducible refine (foldl_boot_snd2 _ _ _ (fun _ _ => ?_)).trans ?_)
    | (with_reducible refine (foldl_boot_snd _ _ _ (fun _ _ => ?_)).trans ?_)
    | (simp_all; done)
    | (simp +zetaDelta [*]; done)
    | (simp_all +zetaDelta; done)
    | dsimp only
    | simp))

@[simp] theorem execBudgetDay_boot (pm : Nat) (s : State) :
    KeepsBoot s (execBudgetDay pm s) := by
  unfold execBudgetDay
  dsimp only
  split <;> exact KeepsBoot.next_iff.mpr rfl

@[simp] theorem execSoundingsAging_boot (pm : Nat) (s : State) :
    KeepsBoot s (execSoundingsAging pm s) := by
  unfold execSoundingsAging
  dsimp only
  split <;> exact KeepsBoot.next_iff.mpr rfl

@[simp] theorem execDescDirtyTimeout_boot (d : Nat) (pm : Nat) (s : State) :
    KeepsBoot s (execDescDirtyTimeout d pm s) := by
  unfold execDescDirtyTimeout
  dsimp only
  repeat' split
  all_goals simp

end Sys2Proof.Machine
end

