-- ==== Sys2Proof/Laws/KeepSessionCreate.lean ====
section
/-! SUPPORT. The operations of SessionCreate leave the boot state as it is. -/

set_option Elab.async false
set_option linter.all false
set_option linter.unusedTactic false
set_option linter.unreachableTactic false

namespace Sys2Proof.Machine

@[simp] theorem placeSession_boot (s : State) (d : Nat) (x : Session) :
    (placeSession s d x).boot = s.boot := by
  simp [placeSession]

@[simp] theorem execCreateSession_boot (h : Hdr) (handle : Nat) (profile : Nat) (vocab : Nat) (constr : Nat) (cls : Nat) (s : State) :
    KeepsBoot s (execCreateSession h handle profile vocab constr cls s) := by
  unfold execCreateSession createSessionSpec
  refine adminCmd_boot _ _ _ (fun _ _ => ?_)
  dsimp only
  repeat' split
  all_goals simp

end Sys2Proof.Machine
end

