-- ==== Sys2Proof/Laws/KeepSearch.lean ====
section
/-! SUPPORT. The operations of Search leave the boot state as it is. -/

set_option Elab.async false
set_option linter.all false
set_option linter.unusedTactic false
set_option linter.unreachableTactic false

namespace Sys2Proof.Machine

@[simp] theorem execCreateIndex_boot (h : Hdr) (cls : Nat) (params : HostRead) (s : State) :
    KeepsBoot s (execCreateIndex h cls params s) := by
  unfold execCreateIndex createIndexSpec
  refine adminCmd_boot _ _ _ (fun _ _ => ?_)
  dsimp only
  split
  · rename_i h
    split at h
    · have hb := buildIndex_boot _ _ _ _ _ _ _ h
      simpa using hb
    · cases h
  · simp

@[simp] theorem execCompactIndex_boot (h : Hdr) (s : State) :
    KeepsBoot s (execCompactIndex h s) := by
  unfold execCompactIndex compactIndexSpec
  refine adminCmd_boot _ _ _ (fun _ _ => ?_)
  simp

@[simp] theorem execDeleteIndex_boot (h : Hdr) (s : State) :
    KeepsBoot s (execDeleteIndex h s) := by
  unfold execDeleteIndex deleteIndexSpec
  refine adminCmd_boot _ _ _ (fun _ _ => ?_)
  simp

@[simp] theorem askShards_boot (tag : Nat) (ix : Index) (e : SearchEntry) (b : List Byte) (set3 : Bool) (be : Bool) (s : State) (q : Nat × List Nat) :
    (askShards tag ix e b set3 be s q).boot = s.boot := by
  unfold askShards
  split <;> simp

@[simp] theorem takeSearch_boot (s : State) (tag : Nat) (k : Nat) (ix : Index) (e : SearchEntry) (b : List Byte) (set3 : Bool) (be : Bool) (via : ResultVia) (o : Op) :
    (takeSearch s tag k ix e b set3 be via o).boot = s.boot := by
  unfold takeSearch
  all_goals (repeat' (first
    | with_reducible rfl
    | with_reducible assumption
    | (simp; done)
    | split
    | (with_reducible refine (foldl_boot _ _ _ (fun _ _ => ?_)).trans ?_)
    | (with_reducible refine (foldl_boot_fst _ _ _ (fun _ _ => ?_)).trans ?_)
    | (with_reducible refine (foldl_boot_snd2 _ _ _ (fun _ _ => ?_)).trans ?_)
    | (with_reducible refine (foldl_boot_snd _ _ _ (fun _ _ => ?_)).trans ?_)
    | (simp_all; done)
    | (simp +zetaDelta [*]; done)
    | (simp_all +zetaDelta; done)
    | dsimp only
    | simp))

@[simp] theorem execSearch_boot (h : Hdr) (e : SearchEntry) (operand : HostRead) (s : State) :
    KeepsBoot s (execSearch h e operand s) := by
  unfold execSearch searchSpec
  refine ringCmd_boot _ _ _ _ (fun _ _ => ?_)
  dsimp only
  repeat' split
  all_goals simp

@[simp] theorem execSearchDeadline_boot (tag : Nat) (pm : Nat) (s : State) :
    KeepsBoot s (execSearchDeadline tag pm s) := by
  unfold execSearchDeadline
  all_goals (repeat' (first
    | with_reducible rfl
    | with_reducible assumption
    | (simp; done)
    | (rw [KeepsBoot.next_iff])
    | split
    | (with_reducible refine (foldl_boot _ _ _ (fun _ _ => ?_)).trans ?_)
    | (with_reducible refine (foldl_boot_fst _ _ _ (fun _ _ => ?_)).trans ?_)
    | (with_reducible refine (foldl_boot_snd2 _ _ _ (fun _ _ => ?_)).trans ?_)
    | (with_reducible refine (foldl_boot_snd _ _ _ (fun _ _ => ?_)).trans ?_)
    | (simp_all; done)
    | (simp +zetaDelta [*]; done)
    | (simp_all +zetaDelta; done)
    | dsimp only
    | simp))

@[simp] theorem takeShardSearch_boot (s : State) (tag : Nat) (uid : Nat) (payload : List Byte) (be : Bool) (via : ResultVia) (o : Op) :
    (takeShardSearch s tag uid payload be via o).boot = s.boot := by
  unfold takeShardSearch
  all_goals (repeat' (first
    | with_reducible rfl
    | with_reducible assumption
    | (simp; done)
    | split
    | (with_reducible refine (foldl_boot _ _ _ (fun _ _ => ?_)).trans ?_)
    | (with_reducible refine (foldl_boot_fst _ _ _ (fun _ _ => ?_)).trans ?_)
    | (with_reducible refine (foldl_boot_snd2 _ _ _ (fun _ _ => ?_)).trans ?_)
    | (with_reducible refine (foldl_boot_snd _ _ _ (fun _ _ => ?_)).trans ?_)
    | (simp_all; done)
    | (simp +zetaDelta [*]; done)
    | (simp_all +zetaDelta; done)
    | dsimp only
    | simp))

@[simp] theorem execInsert_boot (h : Hdr) (shard : Nat) (gid : Nat) (body : HostRead) (s : State) :
    KeepsBoot s (execInsert h shard gid body s) := by
  unfold execInsert insertSpec
  refine ringCmd_boot _ _ _ _ (fun _ _ => ?_)
  dsimp only
  repeat' split
  all_goals simp

@[simp] theorem execDeleteNode_boot (h : Hdr) (shard : Nat) (slot : Nat) (gen : Nat) (s : State) :
    KeepsBoot s (execDeleteNode h shard slot gen s) := by
  unfold execDeleteNode deleteNodeSpec
  refine ringCmd_boot _ _ _ _ (fun _ _ => ?_)
  simp

@[simp] theorem execMapShards_boot (h : Hdr) (body : HostRead) (s : State) :
    KeepsBoot s (execMapShards h body s) := by
  unfold execMapShards mapShardsSpec
  refine ringCmd_boot _ _ _ _ (fun _ _ => ?_)
  dsimp only
  repeat' split
  all_goals simp

@[simp] theorem execQueryIndex_boot (h : Hdr) (s : State) :
    KeepsBoot s (execQueryIndex h s) := by
  unfold execQueryIndex queryIndexSpec
  all_goals (repeat' (first
    | with_reducible rfl
    | with_reducible assumption
    | (simp; done)
    | (with_reducible refine (congrArg (fun p => p.1.boot) ‹hostWrite _ _ _ _  = (_, _)›.symm).trans ?_)
    | (refine ringCmd_boot _ _ _ _ (fun _ _ => ?_))
    | (rw [KeepsBoot.next_iff])
    | split
    | (with_reducible refine (foldl_boot _ _ _ (fun _ _ => ?_)).trans ?_)
    | (with_reducible refine (foldl_boot_fst _ _ _ (fun _ _ => ?_)).trans ?_)
    | (with_reducible refine (foldl_boot_snd2 _ _ _ (fun _ _ => ?_)).trans ?_)
    | (with_reducible refine (foldl_boot_snd _ _ _ (fun _ _ => ?_)).trans ?_)
    | (simp_all; done)
    | (simp +zetaDelta [*]; done)
    | (simp_all +zetaDelta; done)
    | dsimp only
    | simp))

@[simp] theorem execMendingBatch_boot (index : Nat) (shard : Nat) (s : State) :
    KeepsBoot s (execMendingBatch index shard s) := by
  unfold execMendingBatch
  dsimp only
  repeat' split
  all_goals simp

@[simp] theorem execSlotRelease_boot (index : Nat) (shard : Nat) (slot : Nat) (s : State) :
    KeepsBoot s (execSlotRelease index shard slot s) := by
  unfold execSlotRelease
  dsimp only
  repeat' split
  all_goals simp

@[simp] theorem execShardVerified_boot (index : Nat) (shard : Nat) (s : State) :
    KeepsBoot s (execShardVerified index shard s) := by
  unfold execShardVerified
  all_goals (repeat' (first
    | with_reducible rfl
    | with_reducible assumption
    | (simp; done)
    | (rw [KeepsBoot.next_iff])
    | split
    | (with_reducible refine (foldl_boot _ _ _ (fun _ _ => ?_)).trans ?_)
    | (with_reducible refine (foldl_boot_fst _ _ _ (fun _ _ => ?_)).trans ?_)
    | (with_reducible refine (foldl_boot_snd2 _ _ _ (fun _ _ => ?_)).trans ?_)
    | (with_reducible refine (foldl_boot_snd _ _ _ (fun _ _ => ?_)).trans ?_)
    | (simp_all; done)
    | (simp +zetaDelta [*]; done)
    | (simp_all +zetaDelta; done)
    | dsimp only
    | simp))

end Sys2Proof.Machine
end

