-- ==== Sys2Proof/Laws/KeepBundles.lean ====
section
/-! SUPPORT. The operations of Bundles leave the boot state as it is. -/

set_option Elab.async false
set_option linter.all false
set_option linter.unusedTactic false
set_option linter.unreachableTactic false

namespace Sys2Proof.Machine

@[simp] theorem modBundle_boot (s : State) (o : Nat) (f : Bundle → Bundle) :
    (modBundle s o f).boot = s.boot := by
  simp [modBundle]

@[simp] theorem dropBundleRun_boot (s : State) (b : Bundle) :
    (dropBundleRun s b).boot = s.boot := by
  unfold dropBundleRun
  split <;> simp

@[simp] theorem lowerBundle_boot (s : State) (o : Nat) (b : Bundle) (tier : Nat) (cls : List Byte) :
    (lowerBundle s o b tier cls).boot = s.boot := by
  unfold lowerBundle
  split <;> simp

@[simp] theorem execLoadBundle_boot (h : Hdr) (bundleKind : Nat) (cls : Nat) (body : HostRead) (sv : SealVerdict) (shards : List ShardImg) (s : State) :
    KeepsBoot s (execLoadBundle h bundleKind cls body sv shards s) := by
  unfold execLoadBundle loadBundleSpec
  all_goals (repeat' (first
    | with_reducible rfl
    | with_reducible assumption
    | (simp; done)
    | (with_reducible refine (buildIndex_boot _ _ _ _ _ _  _ ‹buildIndex _ _ _ _ _ _  = .ok _›).trans ?_)
    | (with_reducible refine (congrArg (fun p => p.2.boot) ‹newObject _  = (_, _)›.symm).trans ?_)
    | (refine adminCmd_boot _ _ _ (fun _ _ => ?_))
    | (rw [KeepsBoot.next_iff])
    | split
    | (with_reducible refine (foldl_boot _ _ _ (fun _ _ => ?_)).trans ?_)
    | (with_reducible refine (foldl_boot_fst _ _ _ (fun _ _ => ?_)).trans ?_)
    | (with_reducible refine (foldl_boot_snd2 _ _ _ (fun _ _ => ?_)).trans ?_)
    | (with_reducible refine (foldl_boot_snd _ _ _ (fun _ _ => ?_)).trans ?_)
    | (simp_all; done)
    | (simp +zetaDelta [*]; done)
    | (simp_all +zetaDelta; done)
    | dsimp only
    | simp))

@[simp] theorem execDropBundle_boot (h : Hdr) (s : State) :
    KeepsBoot s (execDropBundle h s) := by
  unfold execDropBundle dropBundleSpec
  refine adminCmd_boot _ _ _ (fun _ _ => ?_)
  dsimp only
  repeat' split
  all_goals simp

@[simp] theorem lowerVectors_boot (s : State) (k : Nat) (ix : Index) (tier : Nat) (bytes : Nat) (cls : List Byte) :
    (lowerVectors s k ix tier bytes cls).boot = s.boot := by
  unfold lowerVectors
  all_goals (repeat' (first
    | with_reducible rfl
    | with_reducible assumption
    | (simp; done)
    | split
    | (with_reducible refine (foldl_boot _ _ _ (fun _ _ => ?_)).trans ?_)
    | (with_reducible refine (foldl_boot_fst _ _ _ (fun _ _ => ?_)).trans ?_)
    | (with_reducible refine (foldl_boot_snd2 _ _ _ (fun _ _ => ?_)).trans ?_)
    | (with_reducible refine (foldl_boot_snd _ _ _ (fun _ _ => ?_)).trans ?_)
    | (simp_all; done)
    | (simp +zetaDelta [*]; done)
    | (simp_all +zetaDelta; done)
    | dsimp only
    | simp))

theorem raiseGo_boot (l : List (Nat × Shard)) (a : Nat) (n : Nat) (acc : Option (State × List Nat)) (b : Boot)
    (h : ∀ t, acc = some t → t.1.boot = b) :
    ∀ t, l.foldl (fun acc e =>
      match acc with
      | none => none
      | some (s, vs) => (takeAreas s e.2.region a [n] []).map (fun t => (t.2, vs ++ t.1))) acc = some t → t.1.boot = b := by
  induction l generalizing acc with
  | nil => exact h
  | cons e l ih =>
    refine ih _ ?_
    intro t ht
    dsimp only at ht
    split at ht
    · cases ht
    · obtain ⟨r, hr, rfl⟩ := Option.map_eq_some_iff.mp ht
      exact (takeAreas_boot _ _ _ _ _ _ hr).trans (h _ rfl)

theorem raiseVectors_boot (s : State) (k : Nat) (ix : Index) :
    ∀ t, raiseVectors s k ix = some t → t.boot = s.boot := by
  intro t h
  obtain ⟨r, hr, rfl⟩ := Option.map_eq_some_iff.mp h
  exact raiseGo_boot _ _ _ _ _ (fun t e => by cases e; rfl) _ hr

@[simp] theorem execPlaceObject_boot (h : Hdr) (cls : Nat) (s : State) :
    KeepsBoot s (execPlaceObject h cls s) := by
  unfold execPlaceObject placeObjectSpec
  all_goals (repeat' (first
    | with_reducible rfl
    | with_reducible assumption
    | (simp; done)
    | (with_reducible refine (raiseVectors_boot _ _ _  _ ‹raiseVectors _ _ _  = .some _›).trans ?_)
    | (refine adminCmd_boot _ _ _ (fun _ _ => ?_))
    | (rw [KeepsBoot.next_iff])
    | split
    | (with_reducible refine (foldl_boot _ _ _ (fun _ _ => ?_)).trans ?_)
    | (with_reducible refine (foldl_boot_fst _ _ _ (fun _ _ => ?_)).trans ?_)
    | (with_reducible refine (foldl_boot_snd2 _ _ _ (fun _ _ => ?_)).trans ?_)
    | (with_reducible refine (foldl_boot_snd _ _ _ (fun _ _ => ?_)).trans ?_)
    | (simp_all; done)
    | (simp +zetaDelta [*]; done)
    | (simp_all +zetaDelta; done)
    | dsimp only
    | simp))

@[simp] theorem execBundleEbb_boot (object : Nat) (pm : Nat) (s : State) :
    KeepsBoot s (execBundleEbb object pm s) := by
  unfold execBundleEbb
  dsimp only
  repeat' split
  all_goals simp

@[simp] theorem takeBundleRead_boot (s : State) (tag : Nat) (c : Nat) (req : Nat) (object : Nat) (off : Nat) (n : Nat) (be : Bool) (o : Op) :
    (takeBundleRead s tag c req object off n be o).boot = s.boot := by
  unfold takeBundleRead
  repeat' split
  all_goals simp

end Sys2Proof.Machine
end

