-- ==== Sys2Proof/Laws/KeepMediaCmds.lean ====
section
/-! SUPPORT. The operations of MediaCmds leave the boot state as it is. -/

set_option Elab.async false
set_option linter.all false
set_option linter.unusedTactic false
set_option linter.unreachableTactic false

namespace Sys2Proof.Machine

@[simp] theorem execFlashCh_boot (n : Nat) (value : Word64) (s : State) :
    KeepsBoot s (execFlashCh n value s) := by
  unfold execFlashCh
  dsimp only
  repeat' split
  all_goals simp

@[simp] theorem trainOne_boot (p : MediaProfile) (found : List ChFound) (s : State) (n : Nat) :
    (trainOne p found s n).boot = s.boot := by
  unfold trainOne
  all_goals (repeat' (first
    | with_reducible rfl
    | with_reducible assumption
    | (simp; done)
    | split
    | (with_reducible refine (foldl_boot _ _ _ (fun _ _ => ?_)).trans ?_)
    | (with_reducible refine (foldl_boot_fst _ _ _ (fun _ _ => ?_)).trans ?_)
    | (with_reducible refine (foldl_boot_snd2 _ _ _ (fun _ _ => ?_)).trans ?_)
    | (with_reducible refine (foldl_boot_snd _ _ _ (fun _ _ => ?_)).trans ?_)
    | (simp_all; done)
    | (simp +zetaDelta [*]; done)
    | (simp_all +zetaDelta; done)
    | dsimp only
    | simp))

@[simp] theorem train_boot (p : MediaProfile) (found : List ChFound) (s : State) :
    (train p found s).boot = s.boot := by
  unfold train
  exact foldl_boot _ _ _ (fun _ _ => by simp)

@[simp] theorem formatMedia_boot (s : State) (lifeDays : Nat) (p : MediaProfile) (found : List ChFound) :
    (formatMedia s lifeDays p found).boot = s.boot := by
  simp [formatMedia]

@[simp] theorem execMediaFormat_boot (h : Hdr) (lifeDays : Nat) (profile : ProfileRead) (found : List ChFound) (s : State) :
    KeepsBoot s (execMediaFormat h lifeDays profile found s) := by
  unfold execMediaFormat mediaFormatSpec
  refine adminCmd_boot _ _ _ (fun _ _ => ?_)
  dsimp only
  repeat' split
  all_goals simp

@[simp] theorem failChannel_boot (s : State) (ch : Nat) :
    (failChannel s ch).boot = s.boot := by
  unfold failChannel
  split <;> simp

@[simp] theorem replaceCopy_boot (w : Nat) (n : Nat) (s : State) (e : Nat × MediaCopy) :
    (replaceCopy w n s e).boot = s.boot := by
  unfold replaceCopy
  all_goals (repeat' (first
    | with_reducible rfl
    | with_reducible assumption
    | (simp; done)
    | (with_reducible refine (congrArg (fun p => p.2.boot) ‹mediaPlace _ _ _  = (_, _)›.symm).trans ?_)
    | split
    | (with_reducible refine (foldl_boot _ _ _ (fun _ _ => ?_)).trans ?_)
    | (with_reducible refine (foldl_boot_fst _ _ _ (fun _ _ => ?_)).trans ?_)
    | (with_reducible refine (foldl_boot_snd2 _ _ _ (fun _ _ => ?_)).trans ?_)
    | (with_reducible refine (foldl_boot_snd _ _ _ (fun _ _ => ?_)).trans ?_)
    | (simp_all; done)
    | (simp +zetaDelta [*]; done)
    | (simp_all +zetaDelta; done)
    | dsimp only
    | simp))

@[simp] theorem cutShingle_boot (s : State) (n : Nat) :
    (cutShingle s n).boot = s.boot := by
  unfold cutShingle
  all_goals (repeat' (first
    | with_reducible rfl
    | with_reducible assumption
    | (simp; done)
    | split
    | (with_reducible refine (foldl_boot _ _ _ (fun _ _ => ?_)).trans ?_)
    | (with_reducible refine (foldl_boot_fst _ _ _ (fun _ _ => ?_)).trans ?_)
    | (with_reducible refine (foldl_boot_snd2 _ _ _ (fun _ _ => ?_)).trans ?_)
    | (with_reducible refine (foldl_boot_snd _ _ _ (fun _ _ => ?_)).trans ?_)
    | (simp_all; done)
    | (simp +zetaDelta [*]; done)
    | (simp_all +zetaDelta; done)
    | dsimp only
    | simp))

@[simp] theorem failLun_boot (s : State) (pos : Nat) :
    (failLun s pos).boot = s.boot := by
  unfold failLun
  split
  · rfl
  · split
    · extract_lets hit s1 s2 s3
      have hs1 : s1.boot = s.boot := by
        dsimp only [s1]
        all_goals (repeat' (first | with_reducible rfl | with_reducible assumption | (simp ; done) | (with_reducible refine (foldl_boot _ _ _ (fun _ _ => ?_)).trans ?_) | split | simp))
      have hs2 : s2.boot = s.boot := by
        dsimp only [s2]
        all_goals (repeat' (first | with_reducible rfl | with_reducible assumption | (simp [hs1]; done) | (with_reducible refine (foldl_boot _ _ _ (fun _ _ => ?_)).trans ?_) | split | simp))
      have hs3 : s3.boot = s.boot := by
        dsimp only [s3]
        all_goals (repeat' (first | with_reducible rfl | with_reducible assumption | (simp [hs1, hs2]; done) | (with_reducible refine (foldl_boot _ _ _ (fun _ _ => ?_)).trans ?_) | split | simp))
      rw [settleMedia_boot]
      split <;> simp [hs3]
    · rfl

@[simp] theorem retireUnit_boot (s : State) (u : Nat) :
    (retireUnit s u).boot = s.boot := by
  unfold retireUnit
  all_goals (repeat' (first
    | with_reducible rfl
    | with_reducible assumption
    | (simp; done)
    | split
    | (with_reducible refine (foldl_boot _ _ _ (fun _ _ => ?_)).trans ?_)
    | (with_reducible refine (foldl_boot_fst _ _ _ (fun _ _ => ?_)).trans ?_)
    | (with_reducible refine (foldl_boot_snd2 _ _ _ (fun _ _ => ?_)).trans ?_)
    | (with_reducible refine (foldl_boot_snd _ _ _ (fun _ _ => ?_)).trans ?_)
    | (simp_all; done)
    | (simp +zetaDelta [*]; done)
    | (simp_all +zetaDelta; done)
    | dsimp only
    | simp))

@[simp] theorem lunAnswered_boot (s : State) (pos : Nat) :
    (lunAnswered s pos).boot = s.boot := by
  simp [lunAnswered]

@[simp] theorem execFlashOperationTimeout_boot (ch : Nat) (place : Nat) (s : State) :
    KeepsBoot s (execFlashOperationTimeout ch place s) := by
  unfold execFlashOperationTimeout
  dsimp only
  repeat' split
  all_goals simp

@[simp] theorem attachMedia_boot (s : State) (lifeDays : Nat) (p : MediaProfile) (found : List ChFound) :
    (attachMedia s lifeDays p found).boot = s.boot := by
  unfold attachMedia
  extract_lets s1 s2 s3
  have hs1 : s1.boot = s.boot := by
    dsimp only [s1]
    all_goals (repeat' (first | with_reducible rfl | with_reducible assumption | (simp ; done) | (with_reducible refine (foldl_boot _ _ _ (fun _ _ => ?_)).trans ?_) | split | simp))
  have hs2 : s2.boot = s.boot := by
    dsimp only [s2]
    all_goals (repeat' (first | with_reducible rfl | with_reducible assumption | (simp [hs1]; done) | (with_reducible refine (foldl_boot _ _ _ (fun _ _ => ?_)).trans ?_) | split | simp))
  have hs3 : s3.boot = s.boot := by
    dsimp only [s3]
    all_goals (repeat' (first | with_reducible rfl | with_reducible assumption | (simp [hs1, hs2]; done) | (with_reducible refine (foldl_boot _ _ _ (fun _ _ => ?_)).trans ?_) | split | simp))
  split
  · simp [hs1]
  · extract_lets s4 s5
    have hs4 : s4.boot = s.boot := by
      dsimp only [s4]
      all_goals (repeat' (first | with_reducible rfl | with_reducible assumption | (simp [hs1, hs2, hs3]; done) | (with_reducible refine (foldl_boot _ _ _ (fun _ _ => ?_)).trans ?_) | split | simp))
    have hs5 : s5.boot = s.boot := by
      dsimp only [s5]
      all_goals (repeat' (first | with_reducible rfl | with_reducible assumption | (simp [hs1, hs2, hs3, hs4]; done) | (with_reducible refine (foldl_boot _ _ _ (fun _ _ => ?_)).trans ?_) | split | simp))
    simp [hs5]

@[simp] theorem execMediaAttach_boot (h : Hdr) (lifeDays : Nat) (profile : ProfileRead) (found : List ChFound) (s : State) :
    KeepsBoot s (execMediaAttach h lifeDays profile found s) := by
  unfold execMediaAttach mediaAttachSpec
  refine adminCmd_boot _ _ _ (fun _ _ => ?_)
  dsimp only
  repeat' split
  all_goals simp

@[simp] theorem execMediaReclaim_boot (h : Hdr) (s : State) :
    KeepsBoot s (execMediaReclaim h s) := by
  unfold execMediaReclaim mediaReclaimSpec
  all_goals (repeat' (first
    | with_reducible rfl
    | with_reducible assumption
    | (simp; done)
    | (refine adminCmd_boot _ _ _ (fun _ _ => ?_))
    | (rw [KeepsBoot.next_iff])
    | split
    | (with_reducible refine (foldl_boot _ _ _ (fun _ _ => ?_)).trans ?_)
    | (with_reducible refine (foldl_boot_fst _ _ _ (fun _ _ => ?_)).trans ?_)
    | (with_reducible refine (foldl_boot_snd2 _ _ _ (fun _ _ => ?_)).trans ?_)
    | (with_reducible refine (foldl_boot_snd _ _ _ (fun _ _ => ?_)).trans ?_)
    | (simp_all; done)
    | (simp +zetaDelta [*]; done)
    | (simp_all +zetaDelta; done)
    | dsimp only
    | simp))

@[simp] theorem execSetWallClock_boot (h : Hdr) (wallNs : Nat) (s : State) :
    KeepsBoot s (execSetWallClock h wallNs s) := by
  unfold execSetWallClock setWallClockSpec
  refine adminCmd_boot _ _ _ (fun _ _ => ?_)
  simp

@[simp] theorem execFormatRecordHourly_boot (pm : Nat) (s : State) :
    KeepsBoot s (execFormatRecordHourly pm s) := by
  unfold execFormatRecordHourly
  dsimp only
  repeat' split
  all_goals simp

@[simp] theorem loseCopy_boot (n : Nat) (t : State × Nat) (e : Nat × MediaCopy) :
    (loseCopy n t e).1.boot = t.1.boot := by
  unfold loseCopy
  all_goals (repeat' (first
    | with_reducible rfl
    | with_reducible assumption
    | (simp; done)
    | split
    | (with_reducible refine (foldl_boot _ _ _ (fun _ _ => ?_)).trans ?_)
    | (with_reducible refine (foldl_boot_fst _ _ _ (fun _ _ => ?_)).trans ?_)
    | (with_reducible refine (foldl_boot_snd2 _ _ _ (fun _ _ => ?_)).trans ?_)
    | (with_reducible refine (foldl_boot_snd _ _ _ (fun _ _ => ?_)).trans ?_)
    | (simp_all; done)
    | (simp +zetaDelta [*]; done)
    | (simp_all +zetaDelta; done)
    | dsimp only
    | simp))

@[simp] theorem loseRow_boot (s : State) (n : Nat) (row : Nat) (sh : Shingle) :
    (loseRow s n row sh).boot = s.boot := by
  unfold loseRow
  all_goals (repeat' (first
    | with_reducible rfl
    | with_reducible assumption
    | (simp; done)
    | (with_reducible refine (congrArg (fun p => p.1.boot) ‹loseCopy _ _ _  = (_, _)›.symm).trans ?_)
    | split
    | (with_reducible refine (foldl_boot _ _ _ (fun _ _ => ?_)).trans ?_)
    | (with_reducible refine (foldl_boot_fst _ _ _ (fun _ _ => ?_)).trans ?_)
    | (with_reducible refine (foldl_boot_snd2 _ _ _ (fun _ _ => ?_)).trans ?_)
    | (with_reducible refine (foldl_boot_snd _ _ _ (fun _ _ => ?_)).trans ?_)
    | (simp_all; done)
    | (simp +zetaDelta [*]; done)
    | (simp_all +zetaDelta; done)
    | dsimp only
    | simp))

@[simp] theorem noteRead_boot (s : State) (n : Nat) (unit : Nat) :
    (noteRead s n unit).boot = s.boot := by
  unfold noteRead
  all_goals (repeat' (first
    | with_reducible rfl
    | with_reducible assumption
    | (simp; done)
    | split
    | (with_reducible refine (foldl_boot _ _ _ (fun _ _ => ?_)).trans ?_)
    | (with_reducible refine (foldl_boot_fst _ _ _ (fun _ _ => ?_)).trans ?_)
    | (with_reducible refine (foldl_boot_snd2 _ _ _ (fun _ _ => ?_)).trans ?_)
    | (with_reducible refine (foldl_boot_snd _ _ _ (fun _ _ => ?_)).trans ?_)
    | (simp_all; done)
    | (simp +zetaDelta [*]; done)
    | (simp_all +zetaDelta; done)
    | dsimp only
    | simp))

@[simp] theorem noteDecode_boot (s : State) (pos : Nat) (o : UnitRead) :
    (noteDecode s pos o).boot = s.boot := by
  simp [noteDecode]

@[simp] theorem execFlashReadDone_boot (n : Nat) (row : Nat) (unit : Nat) (o : UnitRead) (s : State) :
    KeepsBoot s (execFlashReadDone n row unit o s) := by
  unfold execFlashReadDone
  dsimp only
  repeat' split
  all_goals simp

@[simp] theorem execRetentionScan_boot (n : Nat) (results : List (Nat × Bool)) (pm : Nat) (s : State) :
    KeepsBoot s (execRetentionScan n results pm s) := by
  unfold execRetentionScan
  all_goals (repeat' (first
    | with_reducible rfl
    | with_reducible assumption
    | (simp; done)
    | (rw [KeepsBoot.next_iff])
    | split
    | (with_reducible refine (foldl_boot _ _ _ (fun _ _ => ?_)).trans ?_)
    | (with_reducible refine (foldl_boot_fst _ _ _ (fun _ _ => ?_)).trans ?_)
    | (with_reducible refine (foldl_boot_snd2 _ _ _ (fun _ _ => ?_)).trans ?_)
    | (with_reducible refine (foldl_boot_snd _ _ _ (fun _ _ => ?_)).trans ?_)
    | (simp_all; done)
    | (simp +zetaDelta [*]; done)
    | (simp_all +zetaDelta; done)
    | dsimp only
    | simp))

@[simp] theorem execRefreshBehind_boot (pm : Nat) (s : State) :
    KeepsBoot s (execRefreshBehind pm s) := by
  unfold execRefreshBehind
  dsimp only
  repeat' split
  all_goals simp

@[simp] theorem execProgramDone_boot (n : Nat) (unit : Nat) (ok : Bool) (s : State) :
    KeepsBoot s (execProgramDone n unit ok s) := by
  unfold execProgramDone
  dsimp only
  repeat' split
  all_goals simp

@[simp] theorem execRowFillTimeout_boot (n : Nat) (pm : Nat) (s : State) :
    KeepsBoot s (execRowFillTimeout n pm s) := by
  unfold execRowFillTimeout
  dsimp only
  repeat' split
  all_goals simp

@[simp] theorem execEraseDone_boot (n : Nat) (unit : Nat) (ok : Bool) (s : State) :
    KeepsBoot s (execEraseDone n unit ok s) := by
  unfold execEraseDone
  dsimp only
  repeat' split
  all_goals simp

@[simp] theorem relocateCopy_boot (n : Nat) (s : State) (e : Nat × MediaCopy) :
    (relocateCopy n s e).boot = s.boot := by
  unfold relocateCopy
  all_goals (repeat' (first
    | with_reducible rfl
    | with_reducible assumption
    | (simp; done)
    | (with_reducible refine (congrArg (fun p => p.2.boot) ‹mediaPlace _ _ _  = (_, _)›.symm).trans ?_)
    | split
    | (with_reducible refine (foldl_boot _ _ _ (fun _ _ => ?_)).trans ?_)
    | (with_reducible refine (foldl_boot_fst _ _ _ (fun _ _ => ?_)).trans ?_)
    | (with_reducible refine (foldl_boot_snd2 _ _ _ (fun _ _ => ?_)).trans ?_)
    | (with_reducible refine (foldl_boot_snd _ _ _ (fun _ _ => ?_)).trans ?_)
    | (simp_all; done)
    | (simp +zetaDelta [*]; done)
    | (simp_all +zetaDelta; done)
    | dsimp only
    | simp))

@[simp] theorem noteRebuilt_boot (s : State) (n : Nat) :
    (noteRebuilt s n).boot = s.boot := by
  unfold noteRebuilt
  exact foldl_boot _ _ _ (fun _ _ => by simp)

@[simp] theorem relocate_boot (s : State) (n : Nat) (why : Nat) :
    (relocate s n why).boot = s.boot := by
  unfold relocate
  extract_lets before s1 used s2 s3 s4
  have hs1 : s1.boot = s.boot := by
    dsimp only [s1]
    all_goals (repeat' (first | with_reducible rfl | with_reducible assumption | (simp ; done) | (with_reducible refine (foldl_boot _ _ _ (fun _ _ => ?_)).trans ?_) | split | simp))
  have hs2 : s2.boot = s.boot := by
    dsimp only [s2]
    all_goals (repeat' (first | with_reducible rfl | with_reducible assumption | (simp [hs1]; done) | (with_reducible refine (foldl_boot _ _ _ (fun _ _ => ?_)).trans ?_) | split | simp))
  have hs3 : s3.boot = s.boot := by
    dsimp only [s3]
    all_goals (repeat' (first | with_reducible rfl | with_reducible assumption | (simp [hs1, hs2]; done) | (with_reducible refine (foldl_boot _ _ _ (fun _ _ => ?_)).trans ?_) | split | simp))
  have hs4 : s4.boot = s.boot := by
    dsimp only [s4]
    all_goals (repeat' (first | with_reducible rfl | with_reducible assumption | (simp [hs1, hs2, hs3]; done) | (with_reducible refine (foldl_boot _ _ _ (fun _ _ => ?_)).trans ?_) | split | simp))
  split
  · exact hs2
  · simp [hs4]

@[simp] theorem execRelocateShingle_boot (pm : Nat) (s : State) :
    KeepsBoot s (execRelocateShingle pm s) := by
  unfold execRelocateShingle
  dsimp only
  repeat' split
  all_goals simp

end Sys2Proof.Machine
end

