-- ==== Sys2Proof/Laws/KeepCheckpoint.lean ====
section
/-! SUPPORT. The operations of Checkpoint leave the boot state as it is. -/

set_option Elab.async false
set_option linter.all false
set_option linter.unusedTactic false
set_option linter.unreachableTactic false

namespace Sys2Proof.Machine

@[simp] theorem startEpoch_boot (s : State) : (startEpoch s).boot = s.boot := by
  unfold startEpoch
  extract_lets e gap s1 gone dirty w0 w t s2 src
  have hs1 : s1.boot = s.boot := by
    dsimp only [s1]
    all_goals (repeat' (first | with_reducible rfl | with_reducible assumption | (simp ; done) | (with_reducible refine (foldl_boot _ _ _ (fun _ _ => ?_)).trans ?_) | split | simp))
  have hs2 : s2.boot = s.boot := by
    dsimp only [s2]
    all_goals (repeat' (first | with_reducible rfl | with_reducible assumption | (simp [hs1]; done) | (with_reducible refine (foldl_boot _ _ _ (fun _ _ => ?_)).trans ?_) | split | simp))
  split
  rename_i k s3 h
  have h3 : s3.boot = s.boot := (congrArg (fun p => p.2.boot) h.symm).trans hs2
  dsimp only
  rw [isthmus_boot]
  refine (foldl_boot _ _ _ (fun _ _ => isthmus_boot _ _)).trans ?_
  exact h3

@[simp] theorem commitEpoch_boot (s : State) (run : EpochRun) :
    (commitEpoch s run).boot = s.boot := by
  unfold commitEpoch
  exact foldl_boot _ _ _ (fun _ _ => by simp)

@[simp] theorem tearEpoch_boot (s : State) :
    (tearEpoch s).boot = s.boot := by
  unfold tearEpoch
  split <;> simp

end Sys2Proof.Machine
end

