-- ==== Sys2Proof/Laws/KeepHarbourHost.lean ====
section
/-! SUPPORT. The operations of HarbourHost leave the boot state as it is. -/

set_option Elab.async false
set_option linter.all false
set_option linter.unusedTactic false
set_option linter.unreachableTactic false

namespace Sys2Proof.Machine

@[simp] theorem takeGaps_boot (st : Nat) (x0 : List (Nat × Nat)) (x1 : Nat) (x2 : List Nat) (x3 : State) :
    (takeGaps st x0 x1 x2 x3).2.2.boot = x3.boot := by
  fun_induction takeGaps st x0 x1 x2 x3
  all_goals (repeat' (first
    | with_reducible rfl
    | with_reducible assumption
    | (simp; done)
    | (with_reducible refine (congrArg (fun p => p.2.2.boot) ‹takeGaps _ _ _ _ _  = (_, _)›.symm).trans ?_)
    | split
    | (with_reducible refine (foldl_boot _ _ _ (fun _ _ => ?_)).trans ?_)
    | (with_reducible refine (foldl_boot_fst _ _ _ (fun _ _ => ?_)).trans ?_)
    | (with_reducible refine (foldl_boot_snd2 _ _ _ (fun _ _ => ?_)).trans ?_)
    | (with_reducible refine (foldl_boot_snd _ _ _ (fun _ _ => ?_)).trans ?_)
    | (simp_all; done)
    | (simp +zetaDelta [*]; done)
    | (simp_all +zetaDelta; done)
    | dsimp only
    | simp))

theorem takeReserve_boot (s : State) (n : Nat) :
    ∀ t, takeReserve s n = some t → t.2.boot = s.boot := by
  intro t h
  unfold takeReserve at h
  split at h
  · cases h
  · dsimp only at h
    split at h
    · rw [← Option.some.inj h]
      with_reducible refine (foldl_boot_snd2 _ _ _ (fun p st => ?_)).trans ?_
      · split
        · with_reducible rfl
        · with_reducible exact takeGaps_boot _ _ _ _ _
      · with_reducible rfl
    · cases h

@[simp] theorem pressEbbs_boot (s : State) :
    (pressEbbs s).boot = s.boot := by
  simp [pressEbbs]

@[simp] theorem freeHarbour_boot (s : State) (h : Harbour) :
    (freeHarbour s h).boot = s.boot := by
  unfold freeHarbour
  exact foldl_boot _ _ _ (fun _ _ => by simp)

@[simp] theorem setHarbour_boot (s : State) (h : Harbour) (frozen : Bool) :
    (setHarbour s h frozen).boot = s.boot := by
  simp [setHarbour]

@[simp] theorem harbourServe_boot (s : State) (source : Nat) (ask : HarbourAsk) :
    (harbourServe s source ask).1.boot = s.boot := by
  unfold harbourServe
  repeat' split
  all_goals simp

@[simp] theorem dropMirrors_boot (s : State) (p : MirrorKey → Bool) :
    (dropMirrors s p).boot = s.boot := by
  simp [dropMirrors]

end Sys2Proof.Machine
end

