-- ==== Sys2Proof/Laws/KeepPairCmds.lean ====
section
/-! SUPPORT. The operations of PairCmds leave the boot state as it is. -/

set_option Elab.async false
set_option linter.all false
set_option linter.unusedTactic false
set_option linter.unreachableTactic false

namespace Sys2Proof.Machine

@[simp] theorem setHalf_boot (s : State) (half : Nat) (f : Half → Half) :
    (setHalf s half f).boot = s.boot := by
  simp [setHalf]

@[simp] theorem execIsthmusHalfUp_boot (half : Nat) (lanes : Nat) (peerStrap : Bool) (pm : Nat) (s : State) :
    KeepsBoot s (execIsthmusHalfUp half lanes peerStrap pm s) := by
  unfold execIsthmusHalfUp
  dsimp only
  repeat' split
  all_goals simp

@[simp] theorem execLinkDegraded_boot (half : Nat) (lanes : Nat) (s : State) :
    KeepsBoot s (execLinkDegraded half lanes s) := by
  unfold execLinkDegraded
  dsimp only
  repeat' split
  all_goals simp

@[simp] theorem execIsthmusHeartbeat_boot (pm : Nat) (s : State) :
    KeepsBoot s (execIsthmusHeartbeat pm s) := by
  unfold execIsthmusHeartbeat
  dsimp only
  repeat' split
  all_goals simp

@[simp] theorem execBuddyHeartbeat_boot (pm : Nat) (s : State) :
    KeepsBoot s (execBuddyHeartbeat pm s) := by
  unfold execBuddyHeartbeat
  dsimp only
  repeat' split
  all_goals simp

@[simp] theorem execPairKeyUpdate_boot (half : Nat) (pm : Nat) (s : State) :
    KeepsBoot s (execPairKeyUpdate half pm s) := by
  unfold execPairKeyUpdate
  dsimp only
  repeat' split
  all_goals simp

@[simp] theorem dropReads_boot (s : State) :
    (dropReads s).boot = s.boot := by
  unfold dropReads
  all_goals (repeat' (first
    | with_reducible rfl
    | with_reducible assumption
    | (simp; done)
    | (with_reducible refine (congrArg (fun p => p.1.boot) ‹loseCopy _ _ _  = (_, _)›.symm).trans ?_)
    | split
    | (with_reducible refine (foldl_boot _ _ _ (fun _ _ => ?_)).trans ?_)
    | (with_reducible refine (foldl_boot_fst _ _ _ (fun _ _ => ?_)).trans ?_)
    | (with_reducible refine (foldl_boot_snd2 _ _ _ (fun _ _ => ?_)).trans ?_)
    | (with_reducible refine (foldl_boot_snd _ _ _ (fun _ _ => ?_)).trans ?_)
    | (simp_all; done)
    | (simp +zetaDelta [*]; done)
    | (simp_all +zetaDelta; done)
    | dsimp only
    | simp))

@[simp] theorem loseBuddy_boot (s : State) :
    (loseBuddy s).boot = s.boot := by
  unfold loseBuddy
  all_goals (repeat' (first
    | with_reducible rfl
    | with_reducible assumption
    | (simp; done)
    | split
    | (with_reducible refine (foldl_boot _ _ _ (fun _ _ => ?_)).trans ?_)
    | (with_reducible refine (foldl_boot_fst _ _ _ (fun _ _ => ?_)).trans ?_)
    | (with_reducible refine (foldl_boot_snd2 _ _ _ (fun _ _ => ?_)).trans ?_)
    | (with_reducible refine (foldl_boot_snd _ _ _ (fun _ _ => ?_)).trans ?_)
    | (simp_all; done)
    | (simp +zetaDelta [*]; done)
    | (simp_all +zetaDelta; done)
    | dsimp only
    | simp))

@[simp] theorem execBuddyLost_boot (pm : Nat) (s : State) :
    KeepsBoot s (execBuddyLost pm s) := by
  unfold execBuddyLost
  dsimp only
  repeat' split
  all_goals simp

@[simp] theorem execBuddyAnnounce_boot (restart : Bool) (pm : Nat) (s : State) :
    KeepsBoot s (execBuddyAnnounce restart pm s) := by
  unfold execBuddyAnnounce
  dsimp only
  repeat' split
  all_goals simp

@[simp] theorem execBuddyRestartTimeout_boot (pm : Nat) (s : State) :
    KeepsBoot s (execBuddyRestartTimeout pm s) := by
  unfold execBuddyRestartTimeout
  dsimp only
  repeat' split
  all_goals simp

@[simp] theorem tryBind_boot (s : State) :
    (tryBind s).boot = s.boot := by
  unfold tryBind
  all_goals (repeat' (first
    | with_reducible rfl
    | with_reducible assumption
    | (simp; done)
    | (with_reducible refine (takeReserve_boot _ _  _ ‹takeReserve _ _  = .some _›).trans ?_)
    | split
    | (with_reducible refine (foldl_boot _ _ _ (fun _ _ => ?_)).trans ?_)
    | (with_reducible refine (foldl_boot_fst _ _ _ (fun _ _ => ?_)).trans ?_)
    | (with_reducible refine (foldl_boot_snd2 _ _ _ (fun _ _ => ?_)).trans ?_)
    | (with_reducible refine (foldl_boot_snd _ _ _ (fun _ _ => ?_)).trans ?_)
    | (simp_all; done)
    | (simp +zetaDelta [*]; done)
    | (simp_all +zetaDelta; done)
    | dsimp only
    | simp))

@[simp] theorem execPairBind_boot (h : Hdr) (buddy : Nat) (reservePct : Nat) (s : State) :
    KeepsBoot s (execPairBind h buddy reservePct s) := by
  unfold execPairBind pairBindSpec
  refine adminCmd_boot _ _ _ (fun _ _ => ?_)
  dsimp only
  repeat' split
  all_goals simp

@[simp] theorem execBuddyPairBind_boot (dev : Nat) (names : Nat) (reservePct : Nat) (parkPct : Nat) (reserved : Bool) (s : State) :
    KeepsBoot s (execBuddyPairBind dev names reservePct parkPct reserved s) := by
  unfold execBuddyPairBind
  dsimp only
  repeat' split
  all_goals simp

@[simp] theorem execPairBindTimeout_boot (pm : Nat) (s : State) :
    KeepsBoot s (execPairBindTimeout pm s) := by
  unfold execPairBindTimeout
  dsimp only
  repeat' split
  all_goals simp

@[simp] theorem execPairUnbind_boot (h : Hdr) (s : State) :
    KeepsBoot s (execPairUnbind h s) := by
  unfold execPairUnbind pairUnbindSpec
  refine adminCmd_boot _ _ _ (fun _ _ => ?_)
  simp

@[simp] theorem execSetCheckpoint_boot (h : Hdr) (timerMs : Nat) (steps : Nat) (s : State) :
    KeepsBoot s (execSetCheckpoint h timerMs steps s) := by
  unfold execSetCheckpoint setCheckpointSpec
  refine adminCmd_boot _ _ _ (fun _ _ => ?_)
  simp

@[simp] theorem execParkCopy_boot (loc : Nat) (c : PageCopy) (s : State) :
    KeepsBoot s (execParkCopy loc c s) := by
  unfold execParkCopy
  dsimp only
  repeat' split
  all_goals simp

@[simp] theorem execMirrorCopy_boot (c : PageCopy) (s : State) :
    KeepsBoot s (execMirrorCopy c s) := by
  unfold execMirrorCopy
  all_goals (repeat' (first
    | with_reducible rfl
    | with_reducible assumption
    | (simp; done)
    | (with_reducible refine (congrArg (fun p => p.2.boot) ‹mediaPlace _ _ _  = (_, _)›.symm).trans ?_)
    | (rw [KeepsBoot.next_iff])
    | split
    | (with_reducible refine (foldl_boot _ _ _ (fun _ _ => ?_)).trans ?_)
    | (with_reducible refine (foldl_boot_fst _ _ _ (fun _ _ => ?_)).trans ?_)
    | (with_reducible refine (foldl_boot_snd2 _ _ _ (fun _ _ => ?_)).trans ?_)
    | (with_reducible refine (foldl_boot_snd _ _ _ (fun _ _ => ?_)).trans ?_)
    | (simp_all; done)
    | (simp +zetaDelta [*]; done)
    | (simp_all +zetaDelta; done)
    | dsimp only
    | simp))

@[simp] theorem releaseMirrorKey_boot (s : State) (k : MirrorKey) :
    (releaseMirrorKey s k).boot = s.boot := by
  unfold releaseMirrorKey
  repeat' split
  all_goals simp

@[simp] theorem execReleaseNotice_boot (w : ReleaseWhat) (s : State) :
    KeepsBoot s (execReleaseNotice w s) := by
  unfold execReleaseNotice
  dsimp only
  repeat' split
  all_goals simp

@[simp] theorem execEpochStart_boot (pm : Nat) (s : State) :
    KeepsBoot s (execEpochStart pm s) := by
  unfold execEpochStart
  dsimp only
  repeat' split
  all_goals simp

@[simp] theorem execCheckpointDelta_boot (epoch : Nat) (item : CkptItem) (bytes : List Byte) (s : State) :
    KeepsBoot s (execCheckpointDelta epoch item bytes s) := by
  unfold execCheckpointDelta
  dsimp only
  repeat' split
  all_goals simp

@[simp] theorem execCommitRecord_boot (r : CommitRecord) (s : State) :
    KeepsBoot s (execCommitRecord r s) := by
  unfold execCommitRecord
  dsimp only
  repeat' split
  all_goals simp

@[simp] theorem execEpochCommitted_boot (epoch : Nat) (s : State) :
    KeepsBoot s (execEpochCommitted epoch s) := by
  unfold execEpochCommitted
  dsimp only
  repeat' split
  all_goals simp

@[simp] theorem execRestoreDevice_boot (h : Hdr) (source : Nat) (holder : Nat) (s : State) :
    KeepsBoot s (execRestoreDevice h source holder s) := by
  unfold execRestoreDevice restoreDeviceSpec
  refine adminCmd_boot _ _ _ (fun _ _ => ?_)
  simp

@[simp] theorem execRestoreDone_boot (s : State) :
    KeepsBoot s (execRestoreDone s) := by
  unfold execRestoreDone
  dsimp only
  repeat' split
  all_goals simp

@[simp] theorem execRestoreSession_boot (h : Hdr) (handle : Nat) (s : State) :
    KeepsBoot s (execRestoreSession h handle s) := by
  unfold execRestoreSession restoreSessionSpec
  refine adminCmd_boot _ _ _ (fun _ _ => ?_)
  refine sessionSpec_boot _ _ _ _ _ _ (fun _ _ _ => ?_) _ _
  dsimp only
  split <;> simp

@[simp] theorem execSuccession_boot (h : Hdr) (failed : Nat) (successor : Nat) (s : State) :
    KeepsBoot s (execSuccession h failed successor s) := by
  unfold execSuccession successionSpec
  refine adminCmd_boot _ _ _ (fun _ _ => ?_)
  simp

@[simp] theorem execReleaseFrozen_boot (h : Hdr) (source : Nat) (s : State) :
    KeepsBoot s (execReleaseFrozen h source s) := by
  unfold execReleaseFrozen releaseFrozenSpec
  refine adminCmd_boot _ _ _ (fun _ _ => ?_)
  dsimp only
  repeat' split
  all_goals simp

@[simp] theorem execHarbourRead_boot (source : Nat) (req : Nat) (ask : HarbourAsk) (s : State) :
    KeepsBoot s (execHarbourRead source req ask s) := by
  simp [execHarbourRead]

@[simp] theorem arriveCopy_boot (s : State) (d : Nat) (key : Nat) (c : PageCopy) :
    (arriveCopy s d key c).boot = s.boot := by
  unfold arriveCopy
  repeat' split
  all_goals simp

@[simp] theorem execIsthmusReadData_boot (req : Nat) (data : HarbourData) (s : State) :
    KeepsBoot s (execIsthmusReadData req data s) := by
  unfold execIsthmusReadData
  dsimp only
  repeat' split
  all_goals simp

@[simp] theorem enterRole_boot (s : State) (role : Nat) (profile : Ref) :
    (enterRole s role profile).boot = s.boot := by
  simp [enterRole]

@[simp] theorem execSetRole_boot (h : Hdr) (role : Nat) (profile : Nat) (s : State) :
    KeepsBoot s (execSetRole h role profile s) := by
  unfold execSetRole setRoleSpec
  refine adminCmd_boot _ _ _ (fun _ _ => ?_)
  dsimp only
  repeat' split
  all_goals simp

@[simp] theorem execRoleDrainEnd_boot (s : State) :
    KeepsBoot s (execRoleDrainEnd s) := by
  unfold execRoleDrainEnd
  all_goals (repeat' (first
    | with_reducible rfl
    | with_reducible assumption
    | (simp; done)
    | (rw [KeepsBoot.next_iff])
    | split
    | (with_reducible refine (foldl_boot _ _ _ (fun _ _ => ?_)).trans ?_)
    | (with_reducible refine (foldl_boot_fst _ _ _ (fun _ _ => ?_)).trans ?_)
    | (with_reducible refine (foldl_boot_snd2 _ _ _ (fun _ _ => ?_)).trans ?_)
    | (with_reducible refine (foldl_boot_snd _ _ _ (fun _ _ => ?_)).trans ?_)
    | (simp_all; done)
    | (simp +zetaDelta [*]; done)
    | (simp_all +zetaDelta; done)
    | dsimp only
    | simp))

@[simp] theorem execRoleDrainTimeout_boot (pm : Nat) (s : State) :
    KeepsBoot s (execRoleDrainTimeout pm s) := by
  unfold execRoleDrainTimeout
  dsimp only
  repeat' split
  all_goals simp

end Sys2Proof.Machine
end

