-- ==== Sys2Proof/Laws/KeepMigrate.lean ====
section
/-! SUPPORT. The operations of Migrate leave the boot state as it is. -/

set_option Elab.async false
set_option linter.all false
set_option linter.unusedTactic false
set_option linter.unreachableTactic false

namespace Sys2Proof.Machine

@[simp] theorem modMigration_boot (s : State) (d : Nat) (f : Migration → Migration) :
    (modMigration s d f).boot = s.boot := by
  simp [modMigration]

@[simp] theorem dropMigration_boot (s : State) (d : Nat) :
    (dropMigration s d).boot = s.boot := by
  simp [dropMigration]

@[simp] theorem sendMigrate_boot (s : State) (d : Nat) (x : Session) (conn : Nat) (aux : Nat) (phase : Nat) (m : MigMsg) :
    (sendMigrate s d x conn aux phase m).boot = s.boot := by
  simp [sendMigrate]

@[simp] theorem execMigrateSession_boot (h : Hdr) (handle : Nat) (target : Nat) (s : State) :
    KeepsBoot s (execMigrateSession h handle target s) := by
  unfold execMigrateSession migrateSessionSpec
  refine adminCmd_boot _ _ _ (fun _ _ => ?_)
  dsimp only
  repeat' split
  all_goals simp

@[simp] theorem abortMigration_boot (s : State) (d : Nat) (code : Nat) :
    (abortMigration s d code).boot = s.boot := by
  unfold abortMigration
  all_goals (repeat' (first
    | with_reducible rfl
    | with_reducible assumption
    | (simp; done)
    | split
    | (with_reducible refine (foldl_boot _ _ _ (fun _ _ => ?_)).trans ?_)
    | (with_reducible refine (foldl_boot_fst _ _ _ (fun _ _ => ?_)).trans ?_)
    | (with_reducible refine (foldl_boot_snd2 _ _ _ (fun _ _ => ?_)).trans ?_)
    | (with_reducible refine (foldl_boot_snd _ _ _ (fun _ _ => ?_)).trans ?_)
    | (simp_all; done)
    | (simp +zetaDelta [*]; done)
    | (simp_all +zetaDelta; done)
    | dsimp only
    | simp))

@[simp] theorem prepareMigration_boot (s : State) (d : Nat) :
    (prepareMigration s d).boot = s.boot := by
  unfold prepareMigration
  repeat' split
  all_goals simp

@[simp] theorem migrateAnswered_boot (s : State) (d : Nat) (phase : Nat) (r : Rcpt) :
    (migrateAnswered s d phase r).boot = s.boot := by
  unfold migrateAnswered
  repeat' split
  all_goals simp

@[simp] theorem resendCommits_boot (s : State) (c : Nat) (dev : Nat) :
    (resendCommits s c dev).boot = s.boot := by
  unfold resendCommits
  all_goals (repeat' (first
    | with_reducible rfl
    | with_reducible assumption
    | (simp; done)
    | split
    | (with_reducible refine (foldl_boot _ _ _ (fun _ _ => ?_)).trans ?_)
    | (with_reducible refine (foldl_boot_fst _ _ _ (fun _ _ => ?_)).trans ?_)
    | (with_reducible refine (foldl_boot_snd2 _ _ _ (fun _ _ => ?_)).trans ?_)
    | (with_reducible refine (foldl_boot_snd _ _ _ (fun _ _ => ?_)).trans ?_)
    | (simp_all; done)
    | (simp +zetaDelta [*]; done)
    | (simp_all +zetaDelta; done)
    | dsimp only
    | simp))

@[simp] theorem handOver_boot (s : State) (d : Nat) :
    (handOver s d).boot = s.boot := by
  unfold handOver
  repeat' split
  all_goals simp

@[simp] theorem execStubRelease_boot (d : Nat) (pm : Nat) (s : State) :
    KeepsBoot s (execStubRelease d pm s) := by
  unfold execStubRelease
  dsimp only
  repeat' split
  all_goals simp

@[simp] theorem takeOffer_boot (s : State) (conn : Nat) (peer : Nat) (m : MigMsg) :
    (takeOffer s conn peer m).1.boot = s.boot := by
  unfold takeOffer
  split <;> simp

@[simp] theorem replaceIncoming_boot (s : State) (d : Nat) (key : Nat) :
    (replaceIncoming s d key).boot = s.boot := by
  unfold replaceIncoming
  repeat' split
  all_goals simp

theorem landIncoming_boot (s : State) (d : Nat) (x : Session) (c : PageCopy) :
    ∀ t, landIncoming s d x c = some t → t.boot = s.boot := by
  intro t h
  unfold landIncoming at h
  repeat' (first | split at h | (dsimp only at h; split at h))
  all_goals (try dsimp only at h)
  all_goals (try (rw [Option.map_eq_some_iff] at h; obtain ⟨r, h, rfl⟩ := h))
  all_goals (first | (cases h; done) | cases h | skip)
  all_goals (repeat' (first
    | with_reducible rfl
    | with_reducible assumption
    | (simp; done)
    | (with_reducible refine (landPage_boot _ _ _ _ _ _ _ _ _  _ ‹landPage _ _ _ _ _ _ _ _ _  = .some _›).trans ?_)
    | split
    | (with_reducible refine (foldl_boot _ _ _ (fun _ _ => ?_)).trans ?_)
    | (with_reducible refine (foldl_boot_fst _ _ _ (fun _ _ => ?_)).trans ?_)
    | (with_reducible refine (foldl_boot_snd2 _ _ _ (fun _ _ => ?_)).trans ?_)
    | (with_reducible refine (foldl_boot_snd _ _ _ (fun _ _ => ?_)).trans ?_)
    | (simp_all; done)
    | (simp +zetaDelta [*]; done)
    | (simp_all +zetaDelta; done)
    | dsimp only
    | simp))

theorem lowerIncoming_boot (s : State) (d : Nat) (x : Session) (c : PageCopy) :
    ∀ t, lowerIncoming s d x c = some t → t.boot = s.boot := by
  intro t h
  unfold lowerIncoming at h
  repeat' (first | split at h | (dsimp only at h; split at h))
  all_goals (try dsimp only at h)
  all_goals (try (rw [Option.map_eq_some_iff] at h; obtain ⟨r, h, rfl⟩ := h))
  all_goals (first | (cases h; done) | cases h | skip)
  all_goals (repeat' (first
    | with_reducible rfl
    | with_reducible assumption
    | (simp; done)
    | (with_reducible refine (congrArg (fun p => p.2.boot) ‹sendCopy _ _ _ _ _ _  = (_, _)›.symm).trans ?_)
    | split
    | (with_reducible refine (foldl_boot _ _ _ (fun _ _ => ?_)).trans ?_)
    | (with_reducible refine (foldl_boot_fst _ _ _ (fun _ _ => ?_)).trans ?_)
    | (with_reducible refine (foldl_boot_snd2 _ _ _ (fun _ _ => ?_)).trans ?_)
    | (with_reducible refine (foldl_boot_snd _ _ _ (fun _ _ => ?_)).trans ?_)
    | (simp_all; done)
    | (simp +zetaDelta [*]; done)
    | (simp_all +zetaDelta; done)
    | dsimp only
    | simp))

@[simp] theorem takePages_boot (s : State) (d : Nat) (cs : List PageCopy) :
    (takePages s d cs).1.boot = s.boot := by
  unfold takePages
  extract_lets t s1
  have ht : t.1.boot = s.boot := by
    refine (foldl_boot_fst _ _ _ (fun p c => ?_)).trans rfl
    dsimp only
    split
    · rfl
    · split
      · simp
      · split
        · rename_i h
          split at h
          · exact (lowerIncoming_boot _ _ _ _ _ h).trans (replaceIncoming_boot _ _ _)
          · exact (landIncoming_boot _ _ _ _ _ h).trans (replaceIncoming_boot _ _ _)
        · simp
  show s1.boot = s.boot
  dsimp only [s1]
  split <;> simp [ht]

@[simp] theorem takeOwnership_boot (s : State) (d : Nat) (epoch : Nat) :
    (takeOwnership s d epoch).boot = s.boot := by
  unfold takeOwnership
  all_goals (repeat' (first
    | with_reducible rfl
    | with_reducible assumption
    | (simp; done)
    | split
    | (with_reducible refine (foldl_boot _ _ _ (fun _ _ => ?_)).trans ?_)
    | (with_reducible refine (foldl_boot_fst _ _ _ (fun _ _ => ?_)).trans ?_)
    | (with_reducible refine (foldl_boot_snd2 _ _ _ (fun _ _ => ?_)).trans ?_)
    | (with_reducible refine (foldl_boot_snd _ _ _ (fun _ _ => ?_)).trans ?_)
    | (simp_all; done)
    | (simp +zetaDelta [*]; done)
    | (simp_all +zetaDelta; done)
    | dsimp only
    | simp))

@[simp] theorem dropIncoming_boot (s : State) (d : Nat) :
    (dropIncoming s d).boot = s.boot := by
  simp [dropIncoming]

end Sys2Proof.Machine
end

