-- ==== Sys2Proof/Laws/KeepTwAnswer.lean ====
section
/-! SUPPORT. The operations of TwAnswer leave the boot state as it is. -/

set_option Elab.async false
set_option linter.all false
set_option linter.unusedTactic false
set_option linter.unreachableTactic false

namespace Sys2Proof.Machine

@[simp] theorem answerPrepare_boot (s : State) (d : Nat) (r : Rcpt) :
    (answerPrepare s d r).boot = s.boot := by
  unfold answerPrepare
  repeat' split
  all_goals simp

@[simp] theorem landComing_boot (s : State) (d : Nat) (key : Nat) (c : PageCopy) (loc : Nat) :
    (landComing s d key c loc).boot = s.boot := by
  unfold landComing
  all_goals (repeat' (first
    | with_reducible rfl
    | with_reducible assumption
    | (simp; done)
    | split
    | (with_reducible refine (foldl_boot _ _ _ (fun _ _ => ?_)).trans ?_)
    | (with_reducible refine (foldl_boot_fst _ _ _ (fun _ _ => ?_)).trans ?_)
    | (with_reducible refine (foldl_boot_snd2 _ _ _ (fun _ _ => ?_)).trans ?_)
    | (with_reducible refine (foldl_boot_snd _ _ _ (fun _ _ => ?_)).trans ?_)
    | (simp_all; done)
    | (simp +zetaDelta [*]; done)
    | (simp_all +zetaDelta; done)
    | dsimp only
    | simp))

@[simp] theorem ebbElsewhere_boot (s : State) (d : Nat) :
    (ebbElsewhere s d).boot = s.boot := by
  simp [ebbElsewhere]

@[simp] theorem endMove_boot (s : State) (d : Nat) (x : Session) :
    (endMove s d x).boot = s.boot := by
  unfold endMove
  all_goals (repeat' (first
    | with_reducible rfl
    | with_reducible assumption
    | (simp; done)
    | split
    | (with_reducible refine (foldl_boot _ _ _ (fun _ _ => ?_)).trans ?_)
    | (with_reducible refine (foldl_boot_fst _ _ _ (fun _ _ => ?_)).trans ?_)
    | (with_reducible refine (foldl_boot_snd2 _ _ _ (fun _ _ => ?_)).trans ?_)
    | (with_reducible refine (foldl_boot_snd _ _ _ (fun _ _ => ?_)).trans ?_)
    | (simp_all; done)
    | (simp +zetaDelta [*]; done)
    | (simp_all +zetaDelta; done)
    | dsimp only
    | simp))

@[simp] theorem poolPutDone_boot (s : State) (live : Bool) (dev : Nat) (d : Nat) (key : Nat) (r : Rcpt) :
    (poolPutDone s live dev d key r).boot = s.boot := by
  unfold poolPutDone
  all_goals (repeat' (first
    | with_reducible rfl
    | with_reducible assumption
    | (simp; done)
    | (with_reducible refine (congrArg (fun p => p.2.boot) ‹sendCopy _ _ _ _ _ _  = (_, _)›.symm).trans ?_)
    | split
    | (with_reducible refine (foldl_boot _ _ _ (fun _ _ => ?_)).trans ?_)
    | (with_reducible refine (foldl_boot_fst _ _ _ (fun _ _ => ?_)).trans ?_)
    | (with_reducible refine (foldl_boot_snd2 _ _ _ (fun _ _ => ?_)).trans ?_)
    | (with_reducible refine (foldl_boot_snd _ _ _ (fun _ _ => ?_)).trans ?_)
    | (simp_all; done)
    | (simp +zetaDelta [*]; done)
    | (simp_all +zetaDelta; done)
    | dsimp only
    | simp))

@[simp] theorem poolGetDone_boot (s : State) (live : Bool) (dev : Nat) (d : Nat) (key : Nat) (data : List Byte) (r : Rcpt) :
    (poolGetDone s live dev d key data r).boot = s.boot := by
  unfold poolGetDone
  repeat' split
  all_goals simp

@[simp] theorem responseBytes_boot (s : State) (c : Nat) (msg : Nat) (bs : List Byte) :
    (responseBytes s c msg bs).boot = s.boot := by
  unfold responseBytes
  repeat' split
  all_goals simp

@[simp] theorem requestDone_boot (s : State) (live : Bool) (c : Nat) (msg : Nat) (r : Rcpt) :
    (requestDone s live c msg r).boot = s.boot := by
  unfold requestDone
  repeat' split
  all_goals simp

@[simp] theorem poolLost_boot (s : State) (num : Nat) :
    (poolLost s num).boot = s.boot := by
  unfold poolLost
  all_goals (repeat' (first
    | with_reducible rfl
    | with_reducible assumption
    | (simp; done)
    | split
    | (with_reducible refine (foldl_boot _ _ _ (fun _ _ => ?_)).trans ?_)
    | (with_reducible refine (foldl_boot_fst _ _ _ (fun _ _ => ?_)).trans ?_)
    | (with_reducible refine (foldl_boot_snd2 _ _ _ (fun _ _ => ?_)).trans ?_)
    | (with_reducible refine (foldl_boot_snd _ _ _ (fun _ _ => ?_)).trans ?_)
    | (simp_all; done)
    | (simp +zetaDelta [*]; done)
    | (simp_all +zetaDelta; done)
    | dsimp only
    | simp))

@[simp] theorem noteDevice_boot (s : State) (dev : Nat) :
    (noteDevice s dev).boot = s.boot := by
  unfold noteDevice
  repeat' split
  all_goals simp

@[simp] theorem cutConn_boot (s : State) (c : Nat) :
    (cutConn s c).boot = s.boot := by
  unfold cutConn
  all_goals (repeat' (first
    | with_reducible rfl
    | with_reducible assumption
    | (simp; done)
    | split
    | (with_reducible refine (foldl_boot _ _ _ (fun _ _ => ?_)).trans ?_)
    | (with_reducible refine (foldl_boot_fst _ _ _ (fun _ _ => ?_)).trans ?_)
    | (with_reducible refine (foldl_boot_snd2 _ _ _ (fun _ _ => ?_)).trans ?_)
    | (with_reducible refine (foldl_boot_snd _ _ _ (fun _ _ => ?_)).trans ?_)
    | (simp_all; done)
    | (simp +zetaDelta [*]; done)
    | (simp_all +zetaDelta; done)
    | dsimp only
    | simp))

@[simp] theorem failConn_boot (s : State) (c : Nat) (cause : Nat) :
    (failConn s c cause).boot = s.boot := by
  unfold failConn
  repeat' split
  all_goals simp

@[simp] theorem storeContext_boot (s : State) (c : Nat) (x : Conn) (state : Nat) :
    (storeContext s c x state).boot = s.boot := by
  simp [storeContext]

@[simp] theorem leaveConn_boot (s : State) (c : Nat) :
    (leaveConn s c).boot = s.boot := by
  simp [leaveConn]

@[simp] theorem closeConn_boot (s : State) (c : Nat) :
    (closeConn s c).boot = s.boot := by
  unfold closeConn
  all_goals (repeat' (first
    | with_reducible rfl
    | with_reducible assumption
    | (simp; done)
    | split
    | (with_reducible refine (foldl_boot _ _ _ (fun _ _ => ?_)).trans ?_)
    | (with_reducible refine (foldl_boot_fst _ _ _ (fun _ _ => ?_)).trans ?_)
    | (with_reducible refine (foldl_boot_snd2 _ _ _ (fun _ _ => ?_)).trans ?_)
    | (with_reducible refine (foldl_boot_snd _ _ _ (fun _ _ => ?_)).trans ?_)
    | (simp_all; done)
    | (simp +zetaDelta [*]; done)
    | (simp_all +zetaDelta; done)
    | dsimp only
    | simp))

end Sys2Proof.Machine
end

