-- ==== Sys2Proof/Laws/KeepTwAdmit.lean ====
section
/-! SUPPORT. The operations of TwAdmit leave the boot state as it is. -/

set_option Elab.async false
set_option linter.all false
set_option linter.unusedTactic false
set_option linter.unreachableTactic false

namespace Sys2Proof.Machine

@[simp] theorem takePoolPut_boot (s : State) (x : Conn) (m : TwMsg) :
    (takePoolPut s x m).1.boot = s.boot := by
  unfold takePoolPut
  all_goals (repeat' (first
    | with_reducible rfl
    | with_reducible assumption
    | (simp; done)
    | (with_reducible refine (takeAnywhere_boot _ _ _  _ ‹takeAnywhere _ _ _  = .some _›).trans ?_)
    | split
    | (with_reducible refine (foldl_boot _ _ _ (fun _ _ => ?_)).trans ?_)
    | (with_reducible refine (foldl_boot_fst _ _ _ (fun _ _ => ?_)).trans ?_)
    | (with_reducible refine (foldl_boot_snd2 _ _ _ (fun _ _ => ?_)).trans ?_)
    | (with_reducible refine (foldl_boot_snd _ _ _ (fun _ _ => ?_)).trans ?_)
    | (simp_all; done)
    | (simp +zetaDelta [*]; done)
    | (simp_all +zetaDelta; done)
    | dsimp only
    | simp))

@[simp] theorem takePoolFree_boot (s : State) (dev : Nat) (n : Nat) :
    (takePoolFree s dev n).1.boot = s.boot := by
  unfold takePoolFree
  repeat' split
  all_goals simp

@[simp] theorem takePrepare_boot (s : State) (tag : Nat) (d : Nat) (m : MigMsg) (o : Op) :
    (takePrepare s tag d m o).boot = s.boot := by
  unfold takePrepare
  all_goals (repeat' (first
    | with_reducible rfl
    | with_reducible assumption
    | (simp; done)
    | (with_reducible refine (congrArg (fun p => p.1.boot) ‹takePages _ _ _  = (_, _)›.symm).trans ?_)
    | split
    | (with_reducible refine (foldl_boot _ _ _ (fun _ _ => ?_)).trans ?_)
    | (with_reducible refine (foldl_boot_fst _ _ _ (fun _ _ => ?_)).trans ?_)
    | (with_reducible refine (foldl_boot_snd2 _ _ _ (fun _ _ => ?_)).trans ?_)
    | (with_reducible refine (foldl_boot_snd _ _ _ (fun _ _ => ?_)).trans ?_)
    | (simp_all; done)
    | (simp +zetaDelta [*]; done)
    | (simp_all +zetaDelta; done)
    | dsimp only
    | simp))

@[simp] theorem takeMigrate_boot (s : State) (tag : Nat) (c : Nat) (x : Conn) (m : TwMsg) (o : Op) :
    (takeMigrate s tag c x m o).boot = s.boot := by
  unfold takeMigrate
  repeat' split
  all_goals simp

@[simp] theorem takeStepEntry_boot (s : State) (tag : Nat) (c : Nat) (x : Conn) (m : TwMsg) (d : Nat) (o : Op) :
    (takeStepEntry s tag c x m d o).boot = s.boot := by
  unfold takeStepEntry
  all_goals (repeat' (first
    | with_reducible rfl
    | with_reducible assumption
    | (simp; done)
    | split
    | (with_reducible refine (foldl_boot _ _ _ (fun _ _ => ?_)).trans ?_)
    | (with_reducible refine (foldl_boot_fst _ _ _ (fun _ _ => ?_)).trans ?_)
    | (with_reducible refine (foldl_boot_snd2 _ _ _ (fun _ _ => ?_)).trans ?_)
    | (with_reducible refine (foldl_boot_snd _ _ _ (fun _ _ => ?_)).trans ?_)
    | (simp_all; done)
    | (simp +zetaDelta [*]; done)
    | (simp_all +zetaDelta; done)
    | dsimp only
    | simp))

@[simp] theorem takeTextRead_boot (s : State) (tag : Nat) (c : Nat) (x : Conn) (m : TwMsg) (d : Nat) (o : Op) :
    (takeTextRead s tag c x m d o).boot = s.boot := by
  unfold takeTextRead
  all_goals (repeat' (first
    | with_reducible rfl
    | with_reducible assumption
    | (simp; done)
    | split
    | (with_reducible refine (foldl_boot _ _ _ (fun _ _ => ?_)).trans ?_)
    | (with_reducible refine (foldl_boot_fst _ _ _ (fun _ _ => ?_)).trans ?_)
    | (with_reducible refine (foldl_boot_snd2 _ _ _ (fun _ _ => ?_)).trans ?_)
    | (with_reducible refine (foldl_boot_snd _ _ _ (fun _ _ => ?_)).trans ?_)
    | (simp_all; done)
    | (simp +zetaDelta [*]; done)
    | (simp_all +zetaDelta; done)
    | dsimp only
    | simp))

@[simp] theorem forwardMsg_boot (s : State) (tag : Nat) (d : Nat) (k : Nat) (m : TwMsg) (o : Op) :
    (forwardMsg s tag d k m o).boot = s.boot := by
  unfold forwardMsg
  split <;> simp

@[simp] theorem noteAhead_boot (s : State) (epoch : Nat) :
    (noteAhead s epoch).boot = s.boot := by
  unfold noteAhead
  split <;> simp

@[simp] theorem runMsg_boot (s : State) (tag : Nat) (c : Nat) (x : Conn) (m : TwMsg) (o : Op) :
    (runMsg s tag c x m o).boot = s.boot := by
  unfold runMsg
  all_goals (repeat' (first
    | with_reducible rfl
    | with_reducible assumption
    | (simp; done)
    | (with_reducible refine (congrArg (fun p => p.1.boot) ‹takePoolPut _ _ _  = (_, _)›.symm).trans ?_)
    | (with_reducible refine (congrArg (fun p => p.1.boot) ‹takePoolFree _ _ _  = (_, _)›.symm).trans ?_)
    | split
    | (with_reducible refine (foldl_boot _ _ _ (fun _ _ => ?_)).trans ?_)
    | (with_reducible refine (foldl_boot_fst _ _ _ (fun _ _ => ?_)).trans ?_)
    | (with_reducible refine (foldl_boot_snd2 _ _ _ (fun _ _ => ?_)).trans ?_)
    | (with_reducible refine (foldl_boot_snd _ _ _ (fun _ _ => ?_)).trans ?_)
    | (simp_all; done)
    | (simp +zetaDelta [*]; done)
    | (simp_all +zetaDelta; done)
    | dsimp only
    | simp))

@[simp] theorem admitMsg_boot (s : State) (c : Nat) (x : Conn) (m : TwMsg) :
    (admitMsg s c x m).boot = s.boot := by
  unfold admitMsg
  all_goals (repeat' (first
    | with_reducible rfl
    | with_reducible assumption
    | (simp; done)
    | split
    | (with_reducible refine (foldl_boot _ _ _ (fun _ _ => ?_)).trans ?_)
    | (with_reducible refine (foldl_boot_fst _ _ _ (fun _ _ => ?_)).trans ?_)
    | (with_reducible refine (foldl_boot_snd2 _ _ _ (fun _ _ => ?_)).trans ?_)
    | (with_reducible refine (foldl_boot_snd _ _ _ (fun _ _ => ?_)).trans ?_)
    | (simp_all; done)
    | (simp +zetaDelta [*]; done)
    | (simp_all +zetaDelta; done)
    | dsimp only
    | simp))

@[simp] theorem admitGo_boot (x0 : Nat) (x1 : State) (x2 : Nat) :
    (admitGo x0 x1 x2).boot = x1.boot := by
  fun_induction admitGo x0 x1 x2
  all_goals (repeat' (first
    | with_reducible rfl
    | with_reducible assumption
    | (simp; done)
    | split
    | (with_reducible refine (foldl_boot _ _ _ (fun _ _ => ?_)).trans ?_)
    | (with_reducible refine (foldl_boot_fst _ _ _ (fun _ _ => ?_)).trans ?_)
    | (with_reducible refine (foldl_boot_snd2 _ _ _ (fun _ _ => ?_)).trans ?_)
    | (with_reducible refine (foldl_boot_snd _ _ _ (fun _ _ => ?_)).trans ?_)
    | (simp_all; done)
    | (simp +zetaDelta [*]; done)
    | (simp_all +zetaDelta; done)
    | dsimp only
    | simp))

@[simp] theorem admitConn_boot (s : State) (c : Nat) :
    (admitConn s c).boot = s.boot := by
  unfold admitConn
  split <;> simp

@[simp] theorem admitAll_boot (s : State) :
    (admitAll s).boot = s.boot := by
  unfold admitAll
  exact foldl_boot _ _ _ (fun _ _ => by simp)

end Sys2Proof.Machine
end

