-- ==== Sys2Proof/Laws/KeepTwPorts.lean ====
section
/-! SUPPORT. The operations of TwPorts leave the boot state as it is. -/

set_option Elab.async false
set_option linter.all false
set_option linter.unusedTactic false
set_option linter.unreachableTactic false

namespace Sys2Proof.Machine

@[simp] theorem execPortCfg_boot (n : Nat) (value : Word64) (s : State) :
    KeepsBoot s (execPortCfg n value s) := by
  unfold execPortCfg
  dsimp only
  repeat' split
  all_goals simp

@[simp] theorem execPortUp_boot (n : Nat) (lanes : Nat) (s : State) :
    KeepsBoot s (execPortUp n lanes s) := by
  unfold execPortUp
  all_goals (repeat' (first
    | with_reducible rfl
    | with_reducible assumption
    | (simp; done)
    | (rw [KeepsBoot.next_iff])
    | split
    | (with_reducible refine (foldl_boot _ _ _ (fun _ _ => ?_)).trans ?_)
    | (with_reducible refine (foldl_boot_fst _ _ _ (fun _ _ => ?_)).trans ?_)
    | (with_reducible refine (foldl_boot_snd2 _ _ _ (fun _ _ => ?_)).trans ?_)
    | (with_reducible refine (foldl_boot_snd _ _ _ (fun _ _ => ?_)).trans ?_)
    | (simp_all; done)
    | (simp +zetaDelta [*]; done)
    | (simp_all +zetaDelta; done)
    | dsimp only
    | simp))

@[simp] theorem execPortDown_boot (n : Nat) (s : State) :
    KeepsBoot s (execPortDown n s) := by
  unfold execPortDown
  all_goals (repeat' (first
    | with_reducible rfl
    | with_reducible assumption
    | (simp; done)
    | (rw [KeepsBoot.next_iff])
    | split
    | (with_reducible refine (foldl_boot _ _ _ (fun _ _ => ?_)).trans ?_)
    | (with_reducible refine (foldl_boot_fst _ _ _ (fun _ _ => ?_)).trans ?_)
    | (with_reducible refine (foldl_boot_snd2 _ _ _ (fun _ _ => ?_)).trans ?_)
    | (with_reducible refine (foldl_boot_snd _ _ _ (fun _ _ => ?_)).trans ?_)
    | (simp_all; done)
    | (simp +zetaDelta [*]; done)
    | (simp_all +zetaDelta; done)
    | dsimp only
    | simp))

@[simp] theorem execFecDegraded_boot (n : Nat) (codewords : Nat) (s : State) :
    KeepsBoot s (execFecDegraded n codewords s) := by
  unfold execFecDegraded
  dsimp only
  repeat' split
  all_goals simp

@[simp] theorem frameIn_boot (s : State) (n : Nat) (bytes : Nat) :
    (frameIn s n bytes).boot = s.boot := by
  simp [frameIn]

@[simp] theorem neighbourAnswer_boot (s : State) (n : Nat) (ip : Nat) (bytes : Nat) :
    (neighbourAnswer s n ip bytes).boot = s.boot := by
  unfold neighbourAnswer
  all_goals (repeat' (first
    | with_reducible rfl
    | with_reducible assumption
    | (simp; done)
    | split
    | (with_reducible refine (foldl_boot _ _ _ (fun _ _ => ?_)).trans ?_)
    | (with_reducible refine (foldl_boot_fst _ _ _ (fun _ _ => ?_)).trans ?_)
    | (with_reducible refine (foldl_boot_snd2 _ _ _ (fun _ _ => ?_)).trans ?_)
    | (with_reducible refine (foldl_boot_snd _ _ _ (fun _ _ => ?_)).trans ?_)
    | (simp_all; done)
    | (simp +zetaDelta [*]; done)
    | (simp_all +zetaDelta; done)
    | dsimp only
    | simp))

@[simp] theorem execArpRequest_boot (n : Nat) (ip : Nat) (bytes : Nat) (s : State) :
    KeepsBoot s (execArpRequest n ip bytes s) := by
  unfold execArpRequest
  split <;> simp

@[simp] theorem execNeighborSolicitation_boot (n : Nat) (ip : Nat) (bytes : Nat) (s : State) :
    KeepsBoot s (execNeighborSolicitation n ip bytes s) := by
  unfold execNeighborSolicitation
  split <;> simp

@[simp] theorem execMacControlFrame_boot (n : Nat) (bytes : Nat) (s : State) :
    KeepsBoot s (execMacControlFrame n bytes s) := by
  unfold execMacControlFrame
  split <;> simp

@[simp] theorem execFrameDropped_boot (n : Nat) (bytes : Nat) (packet : Bool) (s : State) :
    KeepsBoot s (execFrameDropped n bytes packet s) := by
  unfold execFrameDropped
  split <;> simp

@[simp] theorem execTwRto_boot (value : Word64) (s : State) :
    KeepsBoot s (execTwRto value s) := by
  unfold execTwRto
  split <;> simp

@[simp] theorem execTwCc_boot (value : Word64) (s : State) :
    KeepsBoot s (execTwCc value s) := by
  unfold execTwCc
  split <;> simp

@[simp] theorem execTwAck_boot (value : Word32) (s : State) :
    KeepsBoot s (execTwAck value s) := by
  unfold execTwAck
  split <;> simp

@[simp] theorem execRegisterAs_boot (h : Hdr) (pasid : Nat) (account : Nat) (perms : Nat) (s : State) :
    KeepsBoot s (execRegisterAs h pasid account perms s) := by
  unfold execRegisterAs registerAsSpec
  refine adminCmd_boot _ _ _ (fun _ _ => ?_)
  simp

@[simp] theorem execDeregisterAs_boot (h : Hdr) (s : State) :
    KeepsBoot s (execDeregisterAs h s) := by
  unfold execDeregisterAs deregisterAsSpec
  refine adminCmd_boot _ _ _ (fun _ _ => ?_)
  simp

end Sys2Proof.Machine
end

