-- ==== Sys2Proof/Laws/KeepTwRecv.lean ====
section
/-! SUPPORT. The operations of TwRecv leave the boot state as it is. -/

set_option Elab.async false
set_option linter.all false
set_option linter.unusedTactic false
set_option linter.unreachableTactic false

namespace Sys2Proof.Machine

theorem cacheTake_boot (s : State) (c : Nat) (fetching : Bool) :
    ∀ t, cacheTake s c fetching = some t → t.boot = s.boot := by
  intro t h
  unfold cacheTake at h
  repeat' (first | split at h | (dsimp only at h; split at h))
  all_goals (try dsimp only at h)
  all_goals (try (rw [Option.map_eq_some_iff] at h; obtain ⟨r, h, rfl⟩ := h))
  all_goals (first | (cases h; done) | cases h | skip)
  all_goals (repeat' (first
    | with_reducible rfl
    | with_reducible assumption
    | (simp; done)
    | split
    | (with_reducible refine (foldl_boot _ _ _ (fun _ _ => ?_)).trans ?_)
    | (with_reducible refine (foldl_boot_fst _ _ _ (fun _ _ => ?_)).trans ?_)
    | (with_reducible refine (foldl_boot_snd2 _ _ _ (fun _ _ => ?_)).trans ?_)
    | (with_reducible refine (foldl_boot_snd _ _ _ (fun _ _ => ?_)).trans ?_)
    | (simp_all; done)
    | (simp +zetaDelta [*]; done)
    | (simp_all +zetaDelta; done)
    | dsimp only
    | simp))

@[simp] theorem cacheTake_getD_boot (s : State) (c : Nat) (b : Bool) : ((cacheTake s c b).getD s).boot = s.boot := by
  cases h : cacheTake s c b with
  | none => rfl
  | some t => exact cacheTake_boot _ _ _ _ h

@[simp] theorem holdMissed_boot (s : State) (m : Missed) :
    (holdMissed s m).boot = s.boot := by
  unfold holdMissed
  all_goals (repeat' (first
    | with_reducible rfl
    | with_reducible assumption
    | (simp; done)
    | split
    | (with_reducible refine (foldl_boot _ _ _ (fun _ _ => ?_)).trans ?_)
    | (with_reducible refine (foldl_boot_fst _ _ _ (fun _ _ => ?_)).trans ?_)
    | (with_reducible refine (foldl_boot_snd2 _ _ _ (fun _ _ => ?_)).trans ?_)
    | (with_reducible refine (foldl_boot_snd _ _ _ (fun _ _ => ?_)).trans ?_)
    | (simp_all; done)
    | (simp +zetaDelta [*]; done)
    | (simp_all +zetaDelta; done)
    | dsimp only
    | simp))

@[simp] theorem noteMissEmpty_boot (s : State) :
    (noteMissEmpty s).boot = s.boot := by
  simp [noteMissEmpty]

@[simp] theorem startFetches_boot (s : State) :
    (startFetches s).boot = s.boot := by
  unfold startFetches
  all_goals (repeat' (first
    | with_reducible rfl
    | with_reducible assumption
    | (simp; done)
    | (with_reducible refine (cacheTake_boot _ _ _  _ ‹cacheTake _ _ _  = .some _›).trans ?_)
    | split
    | (with_reducible refine (foldl_boot _ _ _ (fun _ _ => ?_)).trans ?_)
    | (with_reducible refine (foldl_boot_fst _ _ _ (fun _ _ => ?_)).trans ?_)
    | (with_reducible refine (foldl_boot_snd2 _ _ _ (fun _ _ => ?_)).trans ?_)
    | (with_reducible refine (foldl_boot_snd _ _ _ (fun _ _ => ?_)).trans ?_)
    | (simp_all; done)
    | (simp +zetaDelta [*]; done)
    | (simp_all +zetaDelta; done)
    | dsimp only
    | simp))

@[simp] theorem xlatTake_boot (s : State) (r : Nat) (fn : Nat) (pasid : Nat) (page : Nat) :
    (xlatTake s r fn pasid page).boot = s.boot := by
  simp [xlatTake]

@[simp] theorem placeHost_boot (s : State) (c : Nat) (k : AsKey) (p : Placing) :
    (placeHost s c k p).boot = s.boot := by
  unfold placeHost
  all_goals (repeat' (first
    | with_reducible rfl
    | with_reducible assumption
    | (simp; done)
    | split
    | (with_reducible refine (foldl_boot _ _ _ (fun _ _ => ?_)).trans ?_)
    | (with_reducible refine (foldl_boot_fst _ _ _ (fun _ _ => ?_)).trans ?_)
    | (with_reducible refine (foldl_boot_snd2 _ _ _ (fun _ _ => ?_)).trans ?_)
    | (with_reducible refine (foldl_boot_snd _ _ _ (fun _ _ => ?_)).trans ?_)
    | (simp_all; done)
    | (simp +zetaDelta [*]; done)
    | (simp_all +zetaDelta; done)
    | dsimp only
    | simp))

@[simp] theorem placeFail_boot (s : State) (c : Nat) (p : Placing) (addr : Nat) :
    (placeFail s c p addr).boot = s.boot := by
  unfold placeFail
  split <;> simp

@[simp] theorem placeWindow_boot (s : State) (c : Nat) (p : Placing) :
    (placeWindow s c p).boot = s.boot := by
  unfold placeWindow
  all_goals (repeat' (first
    | with_reducible rfl
    | with_reducible assumption
    | (simp; done)
    | split
    | (with_reducible refine (foldl_boot _ _ _ (fun _ _ => ?_)).trans ?_)
    | (with_reducible refine (foldl_boot_fst _ _ _ (fun _ _ => ?_)).trans ?_)
    | (with_reducible refine (foldl_boot_snd2 _ _ _ (fun _ _ => ?_)).trans ?_)
    | (with_reducible refine (foldl_boot_snd _ _ _ (fun _ _ => ?_)).trans ?_)
    | (simp_all; done)
    | (simp +zetaDelta [*]; done)
    | (simp_all +zetaDelta; done)
    | dsimp only
    | simp))

@[simp] theorem place_boot (s : State) (c : Nat) (p : Placing) :
    (place s c p).boot = s.boot := by
  unfold place
  repeat' split
  all_goals simp

@[simp] theorem takeWritePkt_boot (s : State) (c : Nat) (x : Conn) (m : TwMsg) (p : TwPkt) :
    (takeWritePkt s c x m p).boot = s.boot := by
  unfold takeWritePkt
  all_goals (repeat' (first
    | with_reducible rfl
    | with_reducible assumption
    | (simp; done)
    | split
    | (with_reducible refine (foldl_boot _ _ _ (fun _ _ => ?_)).trans ?_)
    | (with_reducible refine (foldl_boot_fst _ _ _ (fun _ _ => ?_)).trans ?_)
    | (with_reducible refine (foldl_boot_snd2 _ _ _ (fun _ _ => ?_)).trans ?_)
    | (with_reducible refine (foldl_boot_snd _ _ _ (fun _ _ => ?_)).trans ?_)
    | (simp_all; done)
    | (simp +zetaDelta [*]; done)
    | (simp_all +zetaDelta; done)
    | dsimp only
    | simp))

@[simp] theorem takeRead_boot (s : State) (c : Nat) (x : Conn) (m : TwMsg) (p : TwPkt) (data : Option HostRead) :
    (takeRead s c x m p data).boot = s.boot := by
  unfold takeRead
  all_goals (repeat' (first
    | with_reducible rfl
    | with_reducible assumption
    | (simp; done)
    | split
    | (with_reducible refine (foldl_boot _ _ _ (fun _ _ => ?_)).trans ?_)
    | (with_reducible refine (foldl_boot_fst _ _ _ (fun _ _ => ?_)).trans ?_)
    | (with_reducible refine (foldl_boot_snd2 _ _ _ (fun _ _ => ?_)).trans ?_)
    | (with_reducible refine (foldl_boot_snd _ _ _ (fun _ _ => ?_)).trans ?_)
    | (simp_all; done)
    | (simp +zetaDelta [*]; done)
    | (simp_all +zetaDelta; done)
    | dsimp only
    | simp))

@[simp] theorem resultRefused_boot (s : State) (c : Nat) (req : Nat) (r : Rcpt) :
    (resultRefused s c req r).boot = s.boot := by
  simp [resultRefused]

@[simp] theorem takeCompletion_boot (s : State) (c : Nat) (x : Conn) (msg : Nat) (r : Rcpt) :
    (takeCompletion s c x msg r).boot = s.boot := by
  unfold takeCompletion
  repeat' split
  all_goals simp

@[simp] theorem wholeMsg_boot (s : State) (c : Nat) (x : Conn) (q : Part) :
    (wholeMsg s c x q).boot = s.boot := by
  unfold wholeMsg
  all_goals (repeat' (first
    | with_reducible rfl
    | with_reducible assumption
    | (simp; done)
    | split
    | (with_reducible refine (foldl_boot _ _ _ (fun _ _ => ?_)).trans ?_)
    | (with_reducible refine (foldl_boot_fst _ _ _ (fun _ _ => ?_)).trans ?_)
    | (with_reducible refine (foldl_boot_snd2 _ _ _ (fun _ _ => ?_)).trans ?_)
    | (with_reducible refine (foldl_boot_snd _ _ _ (fun _ _ => ?_)).trans ?_)
    | (simp_all; done)
    | (simp +zetaDelta [*]; done)
    | (simp_all +zetaDelta; done)
    | dsimp only
    | simp))

@[simp] theorem takePart_boot (s : State) (c : Nat) (x : Conn) (m : TwMsg) (p : TwPkt) :
    (takePart s c x m p).boot = s.boot := by
  unfold takePart
  all_goals (repeat' (first
    | with_reducible rfl
    | with_reducible assumption
    | (simp; done)
    | split
    | (with_reducible refine (foldl_boot _ _ _ (fun _ _ => ?_)).trans ?_)
    | (with_reducible refine (foldl_boot_fst _ _ _ (fun _ _ => ?_)).trans ?_)
    | (with_reducible refine (foldl_boot_snd2 _ _ _ (fun _ _ => ?_)).trans ?_)
    | (with_reducible refine (foldl_boot_snd _ _ _ (fun _ _ => ?_)).trans ?_)
    | (simp_all; done)
    | (simp +zetaDelta [*]; done)
    | (simp_all +zetaDelta; done)
    | dsimp only
    | simp))

@[simp] theorem takeContents_boot (s : State) (c : Nat) (op : Nat) (p : TwPkt) (data : Option HostRead) (mig : Option MigMsg) :
    (takeContents s c op p data mig).boot = s.boot := by
  unfold takeContents
  repeat' split
  all_goals simp

@[simp] theorem takePacket_boot (s : State) (op : Nat) (p : TwPkt) (data : Option HostRead) (mig : Option MigMsg) :
    (takePacket s op p data mig).boot = s.boot := by
  unfold takePacket
  extract_lets c s0
  have hs0 : s0.boot = s.boot := by
    dsimp only [s0]
    all_goals (repeat' (first | with_reducible rfl | with_reducible assumption | (simp ; done) | (with_reducible refine (foldl_boot _ _ _ (fun _ _ => ?_)).trans ?_) | split | simp))
  split
  · rfl
  · split
    · simp
    · extract_lets s1 held s2 s3 s4
      have hs1 : s1.boot = s.boot := by
        dsimp only [s1]
        all_goals (repeat' (first | with_reducible rfl | with_reducible assumption | (simp [hs0]; done) | (with_reducible refine (foldl_boot _ _ _ (fun _ _ => ?_)).trans ?_) | split | simp))
      have hs2 : s2.boot = s.boot := by
        dsimp only [s2]
        all_goals (repeat' (first | with_reducible rfl | with_reducible assumption | (simp [hs0, hs1]; done) | (with_reducible refine (foldl_boot _ _ _ (fun _ _ => ?_)).trans ?_) | split | simp))
      have hs3 : s3.boot = s.boot := by
        dsimp only [s3]
        all_goals (repeat' (first | with_reducible rfl | with_reducible assumption | (simp [hs0, hs1, hs2]; done) | (with_reducible refine (foldl_boot _ _ _ (fun _ _ => ?_)).trans ?_) | split | simp))
      have hs4 : s4.boot = s.boot := by
        dsimp only [s4]
        all_goals (repeat' (first | with_reducible rfl | with_reducible assumption | (simp [hs0, hs1, hs2, hs3]; done) | (with_reducible refine (foldl_boot _ _ _ (fun _ _ => ?_)).trans ?_) | split | simp))
      split
      · exact hs4
      · dsimp only
        split
        · simp [hs4]
        · split <;> simp [hs4]

@[simp] theorem resend_boot (s : State) (c : Nat) (p : OutPkt) :
    (resend s c p).boot = s.boot := by
  unfold resend
  split <;> simp

@[simp] theorem fastResend_boot (s : State) (c : Nat) :
    (fastResend s c).boot = s.boot := by
  unfold fastResend
  all_goals (repeat' (first
    | with_reducible rfl
    | with_reducible assumption
    | (simp; done)
    | split
    | (with_reducible refine (foldl_boot _ _ _ (fun _ _ => ?_)).trans ?_)
    | (with_reducible refine (foldl_boot_fst _ _ _ (fun _ _ => ?_)).trans ?_)
    | (with_reducible refine (foldl_boot_snd2 _ _ _ (fun _ _ => ?_)).trans ?_)
    | (with_reducible refine (foldl_boot_snd _ _ _ (fun _ _ => ?_)).trans ?_)
    | (simp_all; done)
    | (simp +zetaDelta [*]; done)
    | (simp_all +zetaDelta; done)
    | dsimp only
    | simp))

@[simp] theorem takeAck_boot (s : State) (a : TwAck) :
    (takeAck s a).boot = s.boot := by
  unfold takeAck
  all_goals (repeat' (first
    | with_reducible rfl
    | with_reducible assumption
    | (simp; done)
    | split
    | (with_reducible refine (foldl_boot _ _ _ (fun _ _ => ?_)).trans ?_)
    | (with_reducible refine (foldl_boot_fst _ _ _ (fun _ _ => ?_)).trans ?_)
    | (with_reducible refine (foldl_boot_snd2 _ _ _ (fun _ _ => ?_)).trans ?_)
    | (with_reducible refine (foldl_boot_snd _ _ _ (fun _ _ => ?_)).trans ?_)
    | (simp_all; done)
    | (simp +zetaDelta [*]; done)
    | (simp_all +zetaDelta; done)
    | dsimp only
    | simp))

@[simp] theorem toCell_boot (s : State) (m : Missed) :
    (toCell s m).boot = s.boot := by
  unfold toCell
  all_goals (repeat' (first
    | with_reducible rfl
    | with_reducible assumption
    | (simp; done)
    | (with_reducible refine (cacheTake_boot _ _ _  _ ‹cacheTake _ _ _  = .some _›).trans ?_)
    | split
    | (with_reducible refine (foldl_boot _ _ _ (fun _ _ => ?_)).trans ?_)
    | (with_reducible refine (foldl_boot_fst _ _ _ (fun _ _ => ?_)).trans ?_)
    | (with_reducible refine (foldl_boot_snd2 _ _ _ (fun _ _ => ?_)).trans ?_)
    | (with_reducible refine (foldl_boot_snd _ _ _ (fun _ _ => ?_)).trans ?_)
    | (simp_all; done)
    | (simp +zetaDelta [*]; done)
    | (simp_all +zetaDelta; done)
    | dsimp only
    | simp))

@[simp] theorem receive_boot (op : Nat) (p : TwPkt) (data : Option HostRead) (mig : Option MigMsg) (s : State) :
    (receive op p data mig s).boot = s.boot := by
  unfold receive
  all_goals (repeat' (first
    | with_reducible rfl
    | with_reducible assumption
    | (simp; done)
    | split
    | (with_reducible refine (foldl_boot _ _ _ (fun _ _ => ?_)).trans ?_)
    | (with_reducible refine (foldl_boot_fst _ _ _ (fun _ _ => ?_)).trans ?_)
    | (with_reducible refine (foldl_boot_snd2 _ _ _ (fun _ _ => ?_)).trans ?_)
    | (with_reducible refine (foldl_boot_snd _ _ _ (fun _ _ => ?_)).trans ?_)
    | (simp_all; done)
    | (simp +zetaDelta [*]; done)
    | (simp_all +zetaDelta; done)
    | dsimp only
    | simp))

@[simp] theorem execAck_boot (a : TwAck) (s : State) :
    KeepsBoot s (execAck a s) := by
  unfold execAck
  dsimp only
  repeat' split
  all_goals simp

@[simp] theorem execContextFetched_boot (c : Nat) (s : State) :
    KeepsBoot s (execContextFetched c s) := by
  unfold execContextFetched
  all_goals (repeat' (first
    | with_reducible rfl
    | with_reducible assumption
    | (simp; done)
    | (rw [KeepsBoot.next_iff])
    | split
    | (with_reducible refine (foldl_boot _ _ _ (fun _ _ => ?_)).trans ?_)
    | (with_reducible refine (foldl_boot_fst _ _ _ (fun _ _ => ?_)).trans ?_)
    | (with_reducible refine (foldl_boot_snd2 _ _ _ (fun _ _ => ?_)).trans ?_)
    | (with_reducible refine (foldl_boot_snd _ _ _ (fun _ _ => ?_)).trans ?_)
    | (simp_all; done)
    | (simp +zetaDelta [*]; done)
    | (simp_all +zetaDelta; done)
    | dsimp only
    | simp))

@[simp] theorem execPageWrite_boot (p : TwPkt) (s : State) :
    KeepsBoot s (execPageWrite p s) := by
  simp [execPageWrite]

@[simp] theorem execStepEntry_boot (p : TwPkt) (s : State) :
    KeepsBoot s (execStepEntry p s) := by
  simp [execStepEntry]

@[simp] theorem execTextRead_boot (p : TwPkt) (s : State) :
    KeepsBoot s (execTextRead p s) := by
  simp [execTextRead]

@[simp] theorem execBundleRead_boot (p : TwPkt) (s : State) :
    KeepsBoot s (execBundleRead p s) := by
  simp [execBundleRead]

@[simp] theorem execWrite_boot (p : TwPkt) (s : State) :
    KeepsBoot s (execWrite p s) := by
  simp [execWrite]

@[simp] theorem execRead_boot (p : TwPkt) (data : HostRead) (s : State) :
    KeepsBoot s (execRead p data s) := by
  simp [execRead]

@[simp] theorem execRespData_boot (p : TwPkt) (s : State) :
    KeepsBoot s (execRespData p s) := by
  simp [execRespData]

@[simp] theorem execCompletion_boot (p : TwPkt) (s : State) :
    KeepsBoot s (execCompletion p s) := by
  simp [execCompletion]

@[simp] theorem execShardSearch_boot (p : TwPkt) (s : State) :
    KeepsBoot s (execShardSearch p s) := by
  simp [execShardSearch]

@[simp] theorem execPoolPut_boot (p : TwPkt) (s : State) :
    KeepsBoot s (execPoolPut p s) := by
  simp [execPoolPut]

@[simp] theorem execPoolGet_boot (p : TwPkt) (s : State) :
    KeepsBoot s (execPoolGet p s) := by
  simp [execPoolGet]

@[simp] theorem execPoolFree_boot (p : TwPkt) (s : State) :
    KeepsBoot s (execPoolFree p s) := by
  simp [execPoolFree]

@[simp] theorem execMigrateOffer_boot (p : TwPkt) (m : MigMsg) (s : State) :
    KeepsBoot s (execMigrateOffer p m s) := by
  simp [execMigrateOffer]

@[simp] theorem execMigratePages_boot (p : TwPkt) (m : MigMsg) (s : State) :
    KeepsBoot s (execMigratePages p m s) := by
  simp [execMigratePages]

@[simp] theorem execMigratePrepare_boot (p : TwPkt) (m : MigMsg) (s : State) :
    KeepsBoot s (execMigratePrepare p m s) := by
  simp [execMigratePrepare]

@[simp] theorem execMigrateCommit_boot (p : TwPkt) (s : State) :
    KeepsBoot s (execMigrateCommit p s) := by
  simp [execMigrateCommit]

@[simp] theorem execMigrateAbort_boot (p : TwPkt) (s : State) :
    KeepsBoot s (execMigrateAbort p s) := by
  simp [execMigrateAbort]

@[simp] theorem retryPlacings_boot (fn : Nat) (pasid : Nat) (page : Nat) (s : State) :
    (retryPlacings fn pasid page s).boot = s.boot := by
  unfold retryPlacings
  all_goals (repeat' (first
    | with_reducible rfl
    | with_reducible assumption
    | (simp; done)
    | split
    | (with_reducible refine (foldl_boot _ _ _ (fun _ _ => ?_)).trans ?_)
    | (with_reducible refine (foldl_boot_fst _ _ _ (fun _ _ => ?_)).trans ?_)
    | (with_reducible refine (foldl_boot_snd2 _ _ _ (fun _ _ => ?_)).trans ?_)
    | (with_reducible refine (foldl_boot_snd _ _ _ (fun _ _ => ?_)).trans ?_)
    | (simp_all; done)
    | (simp +zetaDelta [*]; done)
    | (simp_all +zetaDelta; done)
    | dsimp only
    | simp))

@[simp] theorem failPlacings_boot (fn : Nat) (pasid : Nat) (page : Nat) (s : State) :
    (failPlacings fn pasid page s).boot = s.boot := by
  unfold failPlacings
  all_goals (repeat' (first
    | with_reducible rfl
    | with_reducible assumption
    | (simp; done)
    | split
    | (with_reducible refine (foldl_boot _ _ _ (fun _ _ => ?_)).trans ?_)
    | (with_reducible refine (foldl_boot_fst _ _ _ (fun _ _ => ?_)).trans ?_)
    | (with_reducible refine (foldl_boot_snd2 _ _ _ (fun _ _ => ?_)).trans ?_)
    | (with_reducible refine (foldl_boot_snd _ _ _ (fun _ _ => ?_)).trans ?_)
    | (simp_all; done)
    | (simp +zetaDelta [*]; done)
    | (simp_all +zetaDelta; done)
    | dsimp only
    | simp))

@[simp] theorem askPage_boot (fn : Nat) (pasid : Nat) (page : Nat) (s : State) :
    (askPage fn pasid page s).boot = s.boot := by
  unfold askPage
  all_goals (repeat' (first
    | with_reducible rfl
    | with_reducible assumption
    | (simp; done)
    | split
    | (with_reducible refine (foldl_boot _ _ _ (fun _ _ => ?_)).trans ?_)
    | (with_reducible refine (foldl_boot_fst _ _ _ (fun _ _ => ?_)).trans ?_)
    | (with_reducible refine (foldl_boot_snd2 _ _ _ (fun _ _ => ?_)).trans ?_)
    | (with_reducible refine (foldl_boot_snd _ _ _ (fun _ _ => ?_)).trans ?_)
    | (simp_all; done)
    | (simp +zetaDelta [*]; done)
    | (simp_all +zetaDelta; done)
    | dsimp only
    | simp))

@[simp] theorem execTranslationResponse_boot (fn : Nat) (pasid : Option Nat) (addr : Nat) (len : Nat) (answer : XlatAnswer) (s : State) :
    KeepsBoot s (execTranslationResponse fn pasid addr len answer s) := by
  unfold execTranslationResponse
  all_goals (repeat' (first
    | with_reducible rfl
    | with_reducible assumption
    | (simp; done)
    | (rw [KeepsBoot.next_iff])
    | split
    | (with_reducible refine (foldl_boot _ _ _ (fun _ _ => ?_)).trans ?_)
    | (with_reducible refine (foldl_boot_fst _ _ _ (fun _ _ => ?_)).trans ?_)
    | (with_reducible refine (foldl_boot_snd2 _ _ _ (fun _ _ => ?_)).trans ?_)
    | (with_reducible refine (foldl_boot_snd _ _ _ (fun _ _ => ?_)).trans ?_)
    | (simp_all; done)
    | (simp +zetaDelta [*]; done)
    | (simp_all +zetaDelta; done)
    | dsimp only
    | simp))

@[simp] theorem execPriTimeout_boot (c : Nat) (pm : Nat) (s : State) :
    KeepsBoot s (execPriTimeout c pm s) := by
  unfold execPriTimeout
  all_goals (repeat' (first
    | with_reducible rfl
    | with_reducible assumption
    | (simp; done)
    | (rw [KeepsBoot.next_iff])
    | split
    | (with_reducible refine (foldl_boot _ _ _ (fun _ _ => ?_)).trans ?_)
    | (with_reducible refine (foldl_boot_fst _ _ _ (fun _ _ => ?_)).trans ?_)
    | (with_reducible refine (foldl_boot_snd2 _ _ _ (fun _ _ => ?_)).trans ?_)
    | (with_reducible refine (foldl_boot_snd _ _ _ (fun _ _ => ?_)).trans ?_)
    | (simp_all; done)
    | (simp +zetaDelta [*]; done)
    | (simp_all +zetaDelta; done)
    | dsimp only
    | simp))

@[simp] theorem execRtoExpiry_boot (c : Nat) (pm : Nat) (s : State) :
    KeepsBoot s (execRtoExpiry c pm s) := by
  unfold execRtoExpiry
  dsimp only
  repeat' split
  all_goals simp

@[simp] theorem execAckDelayExpiry_boot (c : Nat) (pm : Nat) (s : State) :
    KeepsBoot s (execAckDelayExpiry c pm s) := by
  unfold execAckDelayExpiry
  dsimp only
  repeat' split
  all_goals simp

@[simp] theorem execAiInterval_boot (c : Nat) (pm : Nat) (s : State) :
    KeepsBoot s (execAiInterval c pm s) := by
  unfold execAiInterval
  dsimp only
  repeat' split
  all_goals simp

@[simp] theorem execHandover_boot (d : Nat) (pm : Nat) (s : State) :
    KeepsBoot s (execHandover d pm s) := by
  simp [execHandover]

end Sys2Proof.Machine
end

