-- ==== Sys2Proof/Laws/KeepComplete.lean ====
section
/-! SUPPORT. The operations of Complete leave the boot state as it is. -/

set_option Elab.async false
set_option linter.all false
set_option linter.unusedTactic false
set_option linter.unreachableTactic false

namespace Sys2Proof.Machine

@[simp] theorem execOperationComplete_boot (tag : Nat) (pm : Nat) (s : State) :
    KeepsBoot s (execOperationComplete tag pm s) := by
  unfold execOperationComplete
  dsimp only
  repeat' split
  all_goals simp

@[simp] theorem execLiveApplied_boot (field : LiveField) (pm : Nat) (s : State) :
    KeepsBoot s (execLiveApplied field pm s) := by
  unfold execLiveApplied
  all_goals (repeat' (first
    | with_reducible rfl
    | with_reducible assumption
    | (simp; done)
    | (rw [KeepsBoot.next_iff])
    | split
    | (with_reducible refine (foldl_boot _ _ _ (fun _ _ => ?_)).trans ?_)
    | (with_reducible refine (foldl_boot_fst _ _ _ (fun _ _ => ?_)).trans ?_)
    | (with_reducible refine (foldl_boot_snd2 _ _ _ (fun _ _ => ?_)).trans ?_)
    | (with_reducible refine (foldl_boot_snd _ _ _ (fun _ _ => ?_)).trans ?_)
    | (simp_all; done)
    | (simp +zetaDelta [*]; done)
    | (simp_all +zetaDelta; done)
    | dsimp only
    | simp))

@[simp] theorem execLiveApplyDeadline_boot (field : LiveField) (pm : Nat) (s : State) :
    KeepsBoot s (execLiveApplyDeadline field pm s) := by
  unfold execLiveApplyDeadline
  dsimp only
  repeat' split
  all_goals simp

end Sys2Proof.Machine
end

