-- ==== Sys2Proof/Laws/KeepAbort.lean ====
section
/-! SUPPORT. The operations of Abort leave the boot state as it is. -/

set_option Elab.async false
set_option linter.all false
set_option linter.unusedTactic false
set_option linter.unreachableTactic false

namespace Sys2Proof.Machine

@[simp] theorem dropTasks_boot (s : State) (tag : Nat) :
    (dropTasks s tag).boot = s.boot := by
  unfold dropTasks
  all_goals (repeat' (first
    | with_reducible rfl
    | with_reducible assumption
    | (simp; done)
    | split
    | (with_reducible refine (foldl_boot _ _ _ (fun _ _ => ?_)).trans ?_)
    | (with_reducible refine (foldl_boot_fst _ _ _ (fun _ _ => ?_)).trans ?_)
    | (with_reducible refine (foldl_boot_snd2 _ _ _ (fun _ _ => ?_)).trans ?_)
    | (with_reducible refine (foldl_boot_snd _ _ _ (fun _ _ => ?_)).trans ?_)
    | (simp_all; done)
    | (simp +zetaDelta [*]; done)
    | (simp_all +zetaDelta; done)
    | dsimp only
    | simp))

@[simp] theorem discardRows_boot (s : State) (d : Nat) (layer : Nat) :
    (discardRows s d layer).boot = s.boot := by
  unfold discardRows
  split <;> simp

@[simp] theorem orphanTag_boot (s : State) (tag : Nat) :
    (orphanTag s tag).boot = s.boot := by
  simp [orphanTag]

@[simp] theorem dropCommit_boot (s : State) (tag : Nat) :
    (dropCommit s tag).boot = s.boot := by
  unfold dropCommit
  split <;> simp

@[simp] theorem endOp_boot (discard : Bool) (r : Rcpt) (s : State) (tag : Nat) :
    (endOp discard r s tag).boot = s.boot := by
  unfold endOp
  all_goals (repeat' (first
    | with_reducible rfl
    | with_reducible assumption
    | (simp; done)
    | split
    | (with_reducible refine (foldl_boot _ _ _ (fun _ _ => ?_)).trans ?_)
    | (with_reducible refine (foldl_boot_fst _ _ _ (fun _ _ => ?_)).trans ?_)
    | (with_reducible refine (foldl_boot_snd2 _ _ _ (fun _ _ => ?_)).trans ?_)
    | (with_reducible refine (foldl_boot_snd _ _ _ (fun _ _ => ?_)).trans ?_)
    | (simp_all; done)
    | (simp +zetaDelta [*]; done)
    | (simp_all +zetaDelta; done)
    | dsimp only
    | simp))

@[simp] theorem endOps_boot (discard : Bool) (r : Rcpt) (tags : List Nat) (s : State) :
    (endOps discard r tags s).boot = s.boot := by
  unfold endOps
  all_goals (repeat' (first
    | with_reducible rfl
    | with_reducible assumption
    | (simp; done)
    | split
    | (with_reducible refine (foldl_boot _ _ _ (fun _ _ => ?_)).trans ?_)
    | (with_reducible refine (foldl_boot_fst _ _ _ (fun _ _ => ?_)).trans ?_)
    | (with_reducible refine (foldl_boot_snd2 _ _ _ (fun _ _ => ?_)).trans ?_)
    | (with_reducible refine (foldl_boot_snd _ _ _ (fun _ _ => ?_)).trans ?_)
    | (simp_all; done)
    | (simp +zetaDelta [*]; done)
    | (simp_all +zetaDelta; done)
    | dsimp only
    | simp))

end Sys2Proof.Machine
end

