-- ==== Sys2Proof/Laws/KeepHarbour.lean ====
section
/-! SUPPORT. The operations of Harbour leave the boot state as it is. -/

set_option Elab.async false
set_option linter.all false
set_option linter.unusedTactic false
set_option linter.unreachableTactic false

namespace Sys2Proof.Machine

theorem hmTake_boot (s : State) (n : Nat) :
    ∀ t, hmTake s n = some t → t.2.boot = s.boot := by
  intro t h
  unfold hmTake at h
  repeat' (first | split at h | (dsimp only at h; split at h))
  all_goals (try dsimp only at h)
  all_goals (try (rw [Option.map_eq_some_iff] at h; obtain ⟨r, h, rfl⟩ := h))
  all_goals (first | (cases h; done) | cases h | skip)
  all_goals (repeat' (first
    | with_reducible rfl
    | with_reducible assumption
    | (simp; done)
    | (with_reducible refine (takeAnywhere_boot _ _ _  _ ‹takeAnywhere _ _ _  = .some _›).trans ?_)
    | split
    | (with_reducible refine (foldl_boot _ _ _ (fun _ _ => ?_)).trans ?_)
    | (with_reducible refine (foldl_boot_fst _ _ _ (fun _ _ => ?_)).trans ?_)
    | (with_reducible refine (foldl_boot_snd2 _ _ _ (fun _ _ => ?_)).trans ?_)
    | (with_reducible refine (foldl_boot_snd _ _ _ (fun _ _ => ?_)).trans ?_)
    | (simp_all; done)
    | (simp +zetaDelta [*]; done)
    | (simp_all +zetaDelta; done)
    | dsimp only
    | simp))

@[simp] theorem hmFree_boot (s : State) :
    (hmFree s).boot = s.boot := by
  unfold hmFree
  exact foldl_boot _ _ _ (fun _ _ => by simp)

@[simp] theorem execHmAssign_boot (h : Hdr) (mask : Nat) (memFrames : Nat) (s : State) :
    KeepsBoot s (execHmAssign h mask memFrames s) := by
  unfold execHmAssign hmAssignSpec
  all_goals (repeat' (first
    | with_reducible rfl
    | with_reducible assumption
    | (simp; done)
    | (with_reducible refine (hmTake_boot _ _  _ ‹hmTake _ _  = .some _›).trans ?_)
    | (refine adminCmd_boot _ _ _ (fun _ _ => ?_))
    | (rw [KeepsBoot.next_iff])
    | split
    | (with_reducible refine (foldl_boot _ _ _ (fun _ _ => ?_)).trans ?_)
    | (with_reducible refine (foldl_boot_fst _ _ _ (fun _ _ => ?_)).trans ?_)
    | (with_reducible refine (foldl_boot_snd2 _ _ _ (fun _ _ => ?_)).trans ?_)
    | (with_reducible refine (foldl_boot_snd _ _ _ (fun _ _ => ?_)).trans ?_)
    | (simp_all; done)
    | (simp +zetaDelta [*]; done)
    | (simp_all +zetaDelta; done)
    | dsimp only
    | simp))

@[simp] theorem execHmLoad_boot (h : Hdr) (offset : Nat) (body : HostRead) (s : State) :
    KeepsBoot s (execHmLoad h offset body s) := by
  unfold execHmLoad hmLoadSpec
  refine adminCmd_boot _ _ _ (fun _ _ => ?_)
  simp

@[simp] theorem execHmStart_boot (h : Hdr) (mask : Nat) (entry : Nat) (s : State) :
    KeepsBoot s (execHmStart h mask entry s) := by
  unfold execHmStart hmStartSpec
  refine adminCmd_boot _ _ _ (fun _ _ => ?_)
  simp

@[simp] theorem hmHold_boot (s : State) (mask : Nat) :
    (hmHold s mask).boot = s.boot := by
  simp [hmHold]

@[simp] theorem execHmStop_boot (h : Hdr) (mask : Nat) (s : State) :
    KeepsBoot s (execHmStop h mask s) := by
  unfold execHmStop hmStopSpec
  refine adminCmd_boot _ _ _ (fun _ _ => ?_)
  simp

@[simp] theorem hmInterrupt_boot (s : State) :
    (hmInterrupt s).boot = s.boot := by
  unfold hmInterrupt
  all_goals (repeat' (first
    | with_reducible rfl
    | with_reducible assumption
    | (simp; done)
    | split
    | (with_reducible refine (foldl_boot _ _ _ (fun _ _ => ?_)).trans ?_)
    | (with_reducible refine (foldl_boot_fst _ _ _ (fun _ _ => ?_)).trans ?_)
    | (with_reducible refine (foldl_boot_snd2 _ _ _ (fun _ _ => ?_)).trans ?_)
    | (with_reducible refine (foldl_boot_snd _ _ _ (fun _ _ => ?_)).trans ?_)
    | (simp_all; done)
    | (simp +zetaDelta [*]; done)
    | (simp_all +zetaDelta; done)
    | dsimp only
    | simp))

@[simp] theorem execPolicyProducerIndex_boot (value : Word32) (entries : List PolicyEntry) (s : State) :
    KeepsBoot s (execPolicyProducerIndex value entries s) := by
  unfold execPolicyProducerIndex
  dsimp only
  repeat' split
  all_goals simp

@[simp] theorem policyApply_boot (s : State) (d : Nat) (x : Session) (e : PolicyEntry) :
    (policyApply s d x e).boot = s.boot := by
  simp [policyApply]

@[simp] theorem execPolicyEntry_boot (s : State) :
    KeepsBoot s (execPolicyEntry s) := by
  unfold execPolicyEntry
  dsimp only
  repeat' split
  all_goals simp

end Sys2Proof.Machine
end

