-- ==== Sys2Proof/Laws/KeepResets.lean ====
section
/-! SUPPORT. The operations of Resets leave the boot state as it is. -/

set_option Elab.async false
set_option linter.all false
set_option linter.unusedTactic false
set_option linter.unreachableTactic false

namespace Sys2Proof.Machine

@[simp] theorem noteConsent_boot (s : State) (p : Nat) :
    (noteConsent s p).boot = s.boot := by
  simp [noteConsent]

@[simp] theorem endConsent_boot (s : State) (p : Nat) :
    (endConsent s p).boot = s.boot := by
  unfold endConsent
  split <;> simp

@[simp] theorem emptyRings_boot (s : State) (fn : Nat) :
    (emptyRings s fn).boot = s.boot := by
  unfold emptyRings
  all_goals (repeat' (first
    | with_reducible rfl
    | with_reducible assumption
    | (simp; done)
    | split
    | (with_reducible refine (foldl_boot _ _ _ (fun _ _ => ?_)).trans ?_)
    | (with_reducible refine (foldl_boot_fst _ _ _ (fun _ _ => ?_)).trans ?_)
    | (with_reducible refine (foldl_boot_snd2 _ _ _ (fun _ _ => ?_)).trans ?_)
    | (with_reducible refine (foldl_boot_snd _ _ _ (fun _ _ => ?_)).trans ?_)
    | (simp_all; done)
    | (simp +zetaDelta [*]; done)
    | (simp_all +zetaDelta; done)
    | dsimp only
    | simp))

@[simp] theorem stripVf_boot (s : State) (fn : Nat) :
    (stripVf s fn).boot = s.boot := by
  unfold stripVf
  all_goals (repeat' (first
    | with_reducible rfl
    | with_reducible assumption
    | (simp; done)
    | split
    | (with_reducible refine (foldl_boot _ _ _ (fun _ _ => ?_)).trans ?_)
    | (with_reducible refine (foldl_boot_fst _ _ _ (fun _ _ => ?_)).trans ?_)
    | (with_reducible refine (foldl_boot_snd2 _ _ _ (fun _ _ => ?_)).trans ?_)
    | (with_reducible refine (foldl_boot_snd _ _ _ (fun _ _ => ?_)).trans ?_)
    | (simp_all; done)
    | (simp +zetaDelta [*]; done)
    | (simp_all +zetaDelta; done)
    | dsimp only
    | simp))

@[simp] theorem clearFn_boot (s : State) (fn : Nat) :
    (clearFn s fn).boot = s.boot := by
  simp [clearFn]

@[simp] theorem beginFlr_boot (s : State) (fn : Nat) :
    (beginFlr s fn).boot = s.boot := by
  unfold beginFlr
  split <;> simp

@[simp] theorem resetFn_boot (s : State) (fn : Nat) :
    (resetFn s fn).boot = s.boot := by
  simp [resetFn]

@[simp] theorem goOn_boot (s : State) :
    (goOn s).boot = s.boot := by
  simp [goOn]

@[simp] theorem execPerFunctionReset_boot (fn : Nat) (s : State) :
    KeepsBoot s (execPerFunctionReset fn s) := by
  unfold execPerFunctionReset
  split <;> simp

@[simp] theorem execPf0Reset_boot (s : State) :
    KeepsBoot s (execPf0Reset s) := by
  unfold execPf0Reset
  split <;> simp

@[simp] theorem execFlrDone_boot (fn : Nat) (s : State) :
    KeepsBoot s (execFlrDone fn s) := by
  unfold execFlrDone
  split <;> simp

@[simp] theorem execVfEnableClear_boot (s : State) :
    KeepsBoot s (execVfEnableClear s) := by
  unfold execVfEnableClear
  all_goals (repeat' (first
    | with_reducible rfl
    | with_reducible assumption
    | (simp; done)
    | (rw [KeepsBoot.next_iff])
    | split
    | (with_reducible refine (foldl_boot _ _ _ (fun _ _ => ?_)).trans ?_)
    | (with_reducible refine (foldl_boot_fst _ _ _ (fun _ _ => ?_)).trans ?_)
    | (with_reducible refine (foldl_boot_snd2 _ _ _ (fun _ _ => ?_)).trans ?_)
    | (with_reducible refine (foldl_boot_snd _ _ _ (fun _ _ => ?_)).trans ?_)
    | (simp_all; done)
    | (simp +zetaDelta [*]; done)
    | (simp_all +zetaDelta; done)
    | dsimp only
    | simp))

@[simp] theorem execVfEnableSet_boot (n : Nat) (s : State) :
    KeepsBoot s (execVfEnableSet n s) := by
  unfold execVfEnableSet
  split <;> simp

end Sys2Proof.Machine
end

