-- ==== Sys2Proof/Laws/KeepTwConn.lean ====
section
/-! SUPPORT. The operations of TwConn leave the boot state as it is. -/

set_option Elab.async false
set_option linter.all false
set_option linter.unusedTactic false
set_option linter.unreachableTactic false

namespace Sys2Proof.Machine

@[simp] theorem execSetChart_boot (h : Hdr) (epoch : Nat) (body : HostRead) (s : State) :
    KeepsBoot s (execSetChart h epoch body s) := by
  unfold execSetChart setChartSpec
  all_goals (repeat' (first
    | with_reducible rfl
    | with_reducible assumption
    | (simp; done)
    | (refine adminCmd_boot _ _ _ (fun _ _ => ?_))
    | (rw [KeepsBoot.next_iff])
    | split
    | (with_reducible refine (foldl_boot _ _ _ (fun _ _ => ?_)).trans ?_)
    | (with_reducible refine (foldl_boot_fst _ _ _ (fun _ _ => ?_)).trans ?_)
    | (with_reducible refine (foldl_boot_snd2 _ _ _ (fun _ _ => ?_)).trans ?_)
    | (with_reducible refine (foldl_boot_snd _ _ _ (fun _ _ => ?_)).trans ?_)
    | (simp_all; done)
    | (simp +zetaDelta [*]; done)
    | (simp_all +zetaDelta; done)
    | dsimp only
    | simp))

@[simp] theorem execOpenConnection_boot (h : Hdr) (peerIp peerMac peerUdp peerConn peerDevice port mtu flags dscp : Nat) (s : State) :
    KeepsBoot s (execOpenConnection h peerIp peerMac peerUdp peerConn peerDevice port mtu flags dscp s) := by
  unfold execOpenConnection openConnectionSpec
  extract_lets resident
  refine adminCmd_boot _ _ _ (fun s tag => ?_)
  dsimp only
  split
  · exact done_boot _ _ _ _
  · have hc : ∀ (b : Bool) (u : State) (c : Nat), (if b = true then (cacheTake u c false).getD u else u).boot = u.boot := by
      intro b u c
      split
      · exact cacheTake_getD_boot _ _ _
      · rfl
    rw [done_boot]
    split
    · rw [resendCommits_boot, hc]; rfl
    · rw [hc]; rfl

@[simp] theorem execCloseConnection_boot (h : Hdr) (s : State) :
    KeepsBoot s (execCloseConnection h s) := by
  unfold execCloseConnection closeConnectionSpec
  refine adminCmd_boot _ _ _ (fun _ _ => ?_)
  simp

@[simp] theorem execQueryConnection_boot (h : Hdr) (s : State) :
    KeepsBoot s (execQueryConnection h s) := by
  unfold execQueryConnection queryConnectionSpec
  refine adminCmd_boot _ _ _ (fun _ _ => ?_)
  dsimp only
  repeat' split
  all_goals simp

@[simp] theorem execTwCtrlEnable_boot (value : Word32) (s : State) :
    KeepsBoot s (execTwCtrlEnable value s) := by
  unfold execTwCtrlEnable
  all_goals (repeat' (first
    | with_reducible rfl
    | with_reducible assumption
    | (simp; done)
    | (rw [KeepsBoot.next_iff])
    | split
    | (with_reducible refine (foldl_boot _ _ _ (fun _ _ => ?_)).trans ?_)
    | (with_reducible refine (foldl_boot_fst _ _ _ (fun _ _ => ?_)).trans ?_)
    | (with_reducible refine (foldl_boot_snd2 _ _ _ (fun _ _ => ?_)).trans ?_)
    | (with_reducible refine (foldl_boot_snd _ _ _ (fun _ _ => ?_)).trans ?_)
    | (simp_all; done)
    | (simp +zetaDelta [*]; done)
    | (simp_all +zetaDelta; done)
    | dsimp only
    | simp))

end Sys2Proof.Machine
end

