-- ==== Sys2Proof/Laws/KeepFaults.lean ====
section
/-! SUPPORT. The operations of Faults leave the boot state as it is. -/

set_option Elab.async false
set_option linter.all false
set_option linter.unusedTactic false
set_option linter.unreachableTactic false

namespace Sys2Proof.Machine

@[simp] theorem modFaults_boot (s : State) (f : Faults → Faults) :
    (modFaults s f).boot = s.boot := by
  simp [modFaults]

theorem nextOr_boot (s : State) (o : Out) (h : KeepsBoot s o) : (nextOr s o).boot = s.boot := by
  unfold nextOr
  split
  · exact h _ rfl
  · rfl

@[simp] theorem noteAlert_boot (before s : State) : (noteAlert before s).boot = s.boot := by
  simp only [noteAlert, apply_ite State.boot, modFaults_boot, ite_self]

@[simp] theorem logError_boot (s : State) (e : ErrRec) (outcome : Nat) :
    (logError s e outcome).boot = s.boot := by
  simp [logError]

@[simp] theorem retireFrame_boot (s : State) (stack : Nat) (frame : Nat) :
    (retireFrame s stack frame).boot = s.boot := by
  unfold retireFrame
  all_goals (repeat' (first
    | with_reducible rfl
    | with_reducible assumption
    | (simp; done)
    | split
    | (with_reducible refine (foldl_boot _ _ _ (fun _ _ => ?_)).trans ?_)
    | (with_reducible refine (foldl_boot_fst _ _ _ (fun _ _ => ?_)).trans ?_)
    | (with_reducible refine (foldl_boot_snd2 _ _ _ (fun _ _ => ?_)).trans ?_)
    | (with_reducible refine (foldl_boot_snd _ _ _ (fun _ _ => ?_)).trans ?_)
    | (simp_all; done)
    | (simp +zetaDelta [*]; done)
    | (simp_all +zetaDelta; done)
    | dsimp only
    | simp))

@[simp] theorem renamePage_boot (s : State) (loc : Nat) (new : Nat) :
    (renamePage s loc new).boot = s.boot := by
  unfold renamePage
  split <;> simp

@[simp] theorem renameRun_boot (s : State) (old : Nat) (new : Nat) :
    (renameRun s old new).boot = s.boot := by
  simp [renameRun]

@[simp] theorem moveFrame_boot (s : State) (stack : Nat) (frame : Nat) :
    (moveFrame s stack frame).boot = s.boot := by
  unfold moveFrame
  all_goals (repeat' (first
    | with_reducible rfl
    | with_reducible assumption
    | (simp; done)
    | split
    | (with_reducible refine (foldl_boot _ _ _ (fun _ _ => ?_)).trans ?_)
    | (with_reducible refine (foldl_boot_fst _ _ _ (fun _ _ => ?_)).trans ?_)
    | (with_reducible refine (foldl_boot_snd2 _ _ _ (fun _ _ => ?_)).trans ?_)
    | (with_reducible refine (foldl_boot_snd _ _ _ (fun _ _ => ?_)).trans ?_)
    | (simp_all; done)
    | (simp +zetaDelta [*]; done)
    | (simp_all +zetaDelta; done)
    | dsimp only
    | simp))

@[simp] theorem noteObjectLost_boot (s : State) (o : HbmObject) (account : Nat) (num : Nat) (slot : Nat) :
    (noteObjectLost s o account num slot).boot = s.boot := by
  unfold noteObjectLost
  split <;> simp

@[simp] theorem losePage_boot (s : State) (loc : Nat) :
    (losePage s loc).boot = s.boot := by
  unfold losePage
  all_goals (repeat' (first
    | with_reducible rfl
    | with_reducible assumption
    | (simp; done)
    | split
    | (with_reducible refine (foldl_boot _ _ _ (fun _ _ => ?_)).trans ?_)
    | (with_reducible refine (foldl_boot_fst _ _ _ (fun _ _ => ?_)).trans ?_)
    | (with_reducible refine (foldl_boot_snd2 _ _ _ (fun _ _ => ?_)).trans ?_)
    | (with_reducible refine (foldl_boot_snd _ _ _ (fun _ _ => ?_)).trans ?_)
    | (simp_all; done)
    | (simp +zetaDelta [*]; done)
    | (simp_all +zetaDelta; done)
    | dsimp only
    | simp))

@[simp] theorem loseScoutPage_boot (s : State) (d : Nat) (key : Nat) :
    (loseScoutPage s d key).boot = s.boot := by
  simp [loseScoutPage]

@[simp] theorem faultObject_boot (s : State) (o : Nat) :
    (faultObject s o).boot = s.boot := by
  simp [faultObject]

@[simp] theorem loseObject_boot (s : State) (o : HbmObject) (n : Nat) :
    (loseObject s o n).boot = s.boot := by
  unfold loseObject
  all_goals (repeat' (first
    | with_reducible rfl
    | with_reducible assumption
    | (simp; done)
    | split
    | (with_reducible refine (foldl_boot _ _ _ (fun _ _ => ?_)).trans ?_)
    | (with_reducible refine (foldl_boot_fst _ _ _ (fun _ _ => ?_)).trans ?_)
    | (with_reducible refine (foldl_boot_snd2 _ _ _ (fun _ _ => ?_)).trans ?_)
    | (with_reducible refine (foldl_boot_snd _ _ _ (fun _ _ => ?_)).trans ?_)
    | (simp_all; done)
    | (simp +zetaDelta [*]; done)
    | (simp_all +zetaDelta; done)
    | dsimp only
    | simp))

@[simp] theorem loseInHbm_boot (s : State) (o : HbmObject) :
    (loseInHbm s o).boot = s.boot := by
  unfold loseInHbm
  all_goals (repeat' (first
    | with_reducible rfl
    | with_reducible assumption
    | (simp; done)
    | (with_reducible refine (applyChange_boot _ _  _ ‹applyChange _ _  = .some _›).trans ?_)
    | split
    | (with_reducible refine (foldl_boot _ _ _ (fun _ _ => ?_)).trans ?_)
    | (with_reducible refine (foldl_boot_fst _ _ _ (fun _ _ => ?_)).trans ?_)
    | (with_reducible refine (foldl_boot_snd2 _ _ _ (fun _ _ => ?_)).trans ?_)
    | (with_reducible refine (foldl_boot_snd _ _ _ (fun _ _ => ?_)).trans ?_)
    | (simp_all; done)
    | (simp +zetaDelta [*]; done)
    | (simp_all +zetaDelta; done)
    | dsimp only
    | simp))

@[simp] theorem revertDesc_boot (s : State) (d : Nat) :
    (revertDesc s d).boot = s.boot := by
  unfold revertDesc
  repeat' split
  all_goals simp

@[simp] theorem redispatch_boot (s : State) (region : Nat) (b : Nat) :
    (redispatch s region b).boot = s.boot := by
  unfold redispatch
  all_goals (repeat' (first
    | with_reducible rfl
    | with_reducible assumption
    | (simp; done)
    | split
    | (with_reducible refine (foldl_boot _ _ _ (fun _ _ => ?_)).trans ?_)
    | (with_reducible refine (foldl_boot_fst _ _ _ (fun _ _ => ?_)).trans ?_)
    | (with_reducible refine (foldl_boot_snd2 _ _ _ (fun _ _ => ?_)).trans ?_)
    | (with_reducible refine (foldl_boot_snd _ _ _ (fun _ _ => ?_)).trans ?_)
    | (simp_all; done)
    | (simp +zetaDelta [*]; done)
    | (simp_all +zetaDelta; done)
    | dsimp only
    | simp))

@[simp] theorem retireBlock_boot (s : State) (e : ErrRec) :
    (retireBlock s e).boot = s.boot := by
  unfold retireBlock
  all_goals (repeat' (first
    | with_reducible rfl
    | with_reducible assumption
    | (simp; done)
    | split
    | (with_reducible refine (foldl_boot _ _ _ (fun _ _ => ?_)).trans ?_)
    | (with_reducible refine (foldl_boot_fst _ _ _ (fun _ _ => ?_)).trans ?_)
    | (with_reducible refine (foldl_boot_snd2 _ _ _ (fun _ _ => ?_)).trans ?_)
    | (with_reducible refine (foldl_boot_snd _ _ _ (fun _ _ => ?_)).trans ?_)
    | (simp_all; done)
    | (simp +zetaDelta [*]; done)
    | (simp_all +zetaDelta; done)
    | dsimp only
    | simp))

@[simp] theorem missShards_boot (s : State) (k : Nat) :
    (missShards s k).boot = s.boot := by
  simp [missShards]

@[simp] theorem clearBlocks_boot (s : State) (k : Nat) :
    (clearBlocks s k).boot = s.boot := by
  simp [clearBlocks]

@[simp] theorem dropPorts_boot (s : State) (p : Nat) :
    (dropPorts s p).boot = s.boot := by
  unfold dropPorts
  all_goals (repeat' (first
    | with_reducible rfl
    | with_reducible assumption
    | (simp; done)
    | (refine (nextOr_boot _ _ ?_).trans ?_)
    | split
    | (with_reducible refine (foldl_boot _ _ _ (fun _ _ => ?_)).trans ?_)
    | (with_reducible refine (foldl_boot_fst _ _ _ (fun _ _ => ?_)).trans ?_)
    | (with_reducible refine (foldl_boot_snd2 _ _ _ (fun _ _ => ?_)).trans ?_)
    | (with_reducible refine (foldl_boot_snd _ _ _ (fun _ _ => ?_)).trans ?_)
    | (simp_all; done)
    | (simp +zetaDelta [*]; done)
    | (simp_all +zetaDelta; done)
    | dsimp only
    | simp))

@[simp] theorem startRegion_boot (s : State) (e : ErrRec) :
    (startRegion s e).boot = s.boot := by
  unfold startRegion
  all_goals (repeat' (first
    | with_reducible rfl
    | with_reducible assumption
    | (simp; done)
    | split
    | (with_reducible refine (foldl_boot _ _ _ (fun _ _ => ?_)).trans ?_)
    | (with_reducible refine (foldl_boot_fst _ _ _ (fun _ _ => ?_)).trans ?_)
    | (with_reducible refine (foldl_boot_snd2 _ _ _ (fun _ _ => ?_)).trans ?_)
    | (with_reducible refine (foldl_boot_snd _ _ _ (fun _ _ => ?_)).trans ?_)
    | (simp_all; done)
    | (simp +zetaDelta [*]; done)
    | (simp_all +zetaDelta; done)
    | dsimp only
    | simp))

@[simp] theorem stopChip_boot (s : State) :
    (stopChip s).boot = s.boot := by
  unfold stopChip
  all_goals (repeat' (first
    | with_reducible rfl
    | with_reducible assumption
    | (simp; done)
    | split
    | (with_reducible refine (foldl_boot _ _ _ (fun _ _ => ?_)).trans ?_)
    | (with_reducible refine (foldl_boot_fst _ _ _ (fun _ _ => ?_)).trans ?_)
    | (with_reducible refine (foldl_boot_snd2 _ _ _ (fun _ _ => ?_)).trans ?_)
    | (with_reducible refine (foldl_boot_snd _ _ _ (fun _ _ => ?_)).trans ?_)
    | (simp_all; done)
    | (simp +zetaDelta [*]; done)
    | (simp_all +zetaDelta; done)
    | dsimp only
    | simp))

@[simp] theorem enterBeached_boot (s : State) (e : ErrRec) :
    (enterBeached s e).boot = s.boot := by
  simp [enterBeached]

@[simp] theorem startChip_boot (s : State) :
    (startChip s).boot = s.boot := by
  unfold startChip
  all_goals (repeat' (first
    | with_reducible rfl
    | with_reducible assumption
    | (simp; done)
    | split
    | (with_reducible refine (foldl_boot _ _ _ (fun _ _ => ?_)).trans ?_)
    | (with_reducible refine (foldl_boot_fst _ _ _ (fun _ _ => ?_)).trans ?_)
    | (with_reducible refine (foldl_boot_snd2 _ _ _ (fun _ _ => ?_)).trans ?_)
    | (with_reducible refine (foldl_boot_snd _ _ _ (fun _ _ => ?_)).trans ?_)
    | (simp_all; done)
    | (simp +zetaDelta [*]; done)
    | (simp_all +zetaDelta; done)
    | dsimp only
    | simp))

@[simp] theorem stopHandlings_boot (s : State) (hs : List ErrRec) (outcome : Nat) :
    (stopHandlings s hs outcome).boot = s.boot := by
  unfold stopHandlings
  exact foldl_boot _ _ _ (fun _ _ => by simp)

@[simp] theorem deferError_boot (s : State) (e : ErrRec) :
    (deferError s e).boot = s.boot := by
  unfold deferError
  split <;> simp

@[simp] theorem startCell_boot (s : State) (e : ErrRec) :
    (startCell s e).boot = s.boot := by
  unfold startCell
  all_goals (repeat' (first
    | with_reducible rfl
    | with_reducible assumption
    | (simp; done)
    | split
    | (with_reducible refine (foldl_boot _ _ _ (fun _ _ => ?_)).trans ?_)
    | (with_reducible refine (foldl_boot_fst _ _ _ (fun _ _ => ?_)).trans ?_)
    | (with_reducible refine (foldl_boot_snd2 _ _ _ (fun _ _ => ?_)).trans ?_)
    | (with_reducible refine (foldl_boot_snd _ _ _ (fun _ _ => ?_)).trans ?_)
    | (simp_all; done)
    | (simp +zetaDelta [*]; done)
    | (simp_all +zetaDelta; done)
    | dsimp only
    | simp))

@[simp] theorem startHandling_boot (s : State) (e : ErrRec) :
    (startHandling s e).boot = s.boot := by
  unfold startHandling
  all_goals (repeat' (first
    | with_reducible rfl
    | with_reducible assumption
    | (simp; done)
    | split
    | (with_reducible refine (foldl_boot _ _ _ (fun _ _ => ?_)).trans ?_)
    | (with_reducible refine (foldl_boot_fst _ _ _ (fun _ _ => ?_)).trans ?_)
    | (with_reducible refine (foldl_boot_snd2 _ _ _ (fun _ _ => ?_)).trans ?_)
    | (with_reducible refine (foldl_boot_snd _ _ _ (fun _ _ => ?_)).trans ?_)
    | (simp_all; done)
    | (simp +zetaDelta [*]; done)
    | (simp_all +zetaDelta; done)
    | dsimp only
    | simp))

@[simp] theorem raiseError_boot (x0 : Nat) (x1 : State) (x2 : ErrRec) :
    (raiseError x0 x1 x2).boot = x1.boot := by
  fun_induction raiseError x0 x1 x2
  all_goals (repeat' (first
    | with_reducible rfl
    | with_reducible assumption
    | (simp; done)
    | split
    | (with_reducible refine (foldl_boot _ _ _ (fun _ _ => ?_)).trans ?_)
    | (with_reducible refine (foldl_boot_fst _ _ _ (fun _ _ => ?_)).trans ?_)
    | (with_reducible refine (foldl_boot_snd2 _ _ _ (fun _ _ => ?_)).trans ?_)
    | (with_reducible refine (foldl_boot_snd _ _ _ (fun _ _ => ?_)).trans ?_)
    | (simp_all; done)
    | (simp +zetaDelta [*]; done)
    | (simp_all +zetaDelta; done)
    | dsimp only
    | simp))

@[simp] theorem detect_boot (s : State) (e : ErrRec) :
    (detect s e).boot = s.boot := by
  simp [detect]

@[simp] theorem endHandling_boot (s : State) (h : ErrRec) (again : List Nat) :
    (endHandling s h again).boot = s.boot := by
  unfold endHandling
  exact foldl_boot _ _ _ (fun _ _ => by simp)

@[simp] theorem settleContained_boot (s : State) :
    (settleContained s).boot = s.boot := by
  unfold settleContained
  exact foldl_boot _ _ _ (fun _ _ => by simp)

@[simp] theorem faultRow_boot (pm : Nat) (f : State → State) (s : State) (hf : ∀ s, (f s).boot = s.boot) :
    KeepsBoot s (faultRow pm f s) := by
  unfold faultRow
  dsimp only
  split
  · rw [KeepsBoot.next_iff, noteAlert_boot, hf, settleContained_boot, advance_boot]
  · exact KeepsBoot.next_iff.mpr rfl

@[simp] theorem execAttentionCellError_boot (region : Nat) (block : Nat) (cell : Nat) (info : Nat) (pm : Nat) (s : State) :
    KeepsBoot s (execAttentionCellError region block cell info pm s) := by
  unfold execAttentionCellError
  exact faultRow_boot _ _ _ (fun _ => by simp)

@[simp] theorem execCellError_boot (region : Nat) (kind : Nat) (index : Nat) (cell : Nat) (info : Nat) (pm : Nat) (s : State) :
    KeepsBoot s (execCellError region kind index cell info pm s) := by
  unfold execCellError
  exact faultRow_boot _ _ _ (fun _ => by simp)

@[simp] theorem execConnectionCacheError_boot (region : Nat) (cell : Nat) (info : Nat) (dur : Nat) (pm : Nat) (s : State) :
    KeepsBoot s (execConnectionCacheError region cell info dur pm s) := by
  unfold execConnectionCacheError
  exact faultRow_boot _ _ _ (fun _ => by simp)

@[simp] theorem execCoreError_boot (block : Nat) (core : Nat) (info : Nat) (pm : Nat) (s : State) :
    KeepsBoot s (execCoreError block core info pm s) := by
  unfold execCoreError
  exact faultRow_boot _ _ _ (fun _ => by simp)

@[simp] theorem retireCell_boot (s : State) (h : ErrRec) :
    (retireCell s h).boot = s.boot := by
  unfold retireCell
  all_goals (repeat' (first
    | with_reducible rfl
    | with_reducible assumption
    | (simp; done)
    | split
    | (with_reducible refine (foldl_boot _ _ _ (fun _ _ => ?_)).trans ?_)
    | (with_reducible refine (foldl_boot_fst _ _ _ (fun _ _ => ?_)).trans ?_)
    | (with_reducible refine (foldl_boot_snd2 _ _ _ (fun _ _ => ?_)).trans ?_)
    | (with_reducible refine (foldl_boot_snd _ _ _ (fun _ _ => ?_)).trans ?_)
    | (simp_all; done)
    | (simp +zetaDelta [*]; done)
    | (simp_all +zetaDelta; done)
    | dsimp only
    | simp))

@[simp] theorem cellCount_boot (s : State) (u : ErrUnit) :
    (cellCount s u).2.boot = s.boot := by
  simp [cellCount]

@[simp] theorem execCellSelfTestDone_boot (region : Nat) (kind : Nat) (index : Nat) (cell : Nat) (pass : Bool) (again : List Nat) (pm : Nat) (s : State) :
    KeepsBoot s (execCellSelfTestDone region kind index cell pass again pm s) := by
  unfold execCellSelfTestDone
  refine faultRow_boot _ _ _ (fun _ => ?_)
  dsimp only
  repeat' split
  all_goals simp

@[simp] theorem execBlockError_boot (region : Nat) (kind : Nat) (index : Nat) (info : Nat) (dur : Nat) (pm : Nat) (s : State) :
    KeepsBoot s (execBlockError region kind index info dur pm s) := by
  unfold execBlockError
  exact faultRow_boot _ _ _ (fun _ => by simp)

@[simp] theorem execDescriptorCacheError_boot (d : Nat) (info : Nat) (dur : Nat) (pm : Nat) (s : State) :
    KeepsBoot s (execDescriptorCacheError d info dur pm s) := by
  unfold execDescriptorCacheError
  exact faultRow_boot _ _ _ (fun _ => by simp)

@[simp] theorem execHbmUncorrectable_boot (stack : Nat) (frame : Nat) (object : HbmObject) (info : Nat) (dur : Nat) (pm : Nat) (s : State) :
    KeepsBoot s (execHbmUncorrectable stack frame object info dur pm s) := by
  unfold execHbmUncorrectable
  exact faultRow_boot _ _ _ (fun _ => by simp)

@[simp] theorem execCorrectedError_boot (cls : Nat) (frame : Option Nat) (pm : Nat) (s : State) :
    KeepsBoot s (execCorrectedError cls frame pm s) := by
  unfold execCorrectedError
  refine faultRow_boot _ _ _ (fun _ => ?_)
  dsimp only
  repeat' split
  all_goals simp

@[simp] theorem execRegionError_boot (region : Nat) (info : Nat) (pm : Nat) (s : State) :
    KeepsBoot s (execRegionError region info pm s) := by
  unfold execRegionError
  exact faultRow_boot _ _ _ (fun _ => by simp)

@[simp] theorem restoreAll_boot (s : State) (ds : List Nat) (cause : Nat) :
    (restoreAll s ds cause).2.2.boot = s.boot := by
  unfold restoreAll
  exact foldl_boot _ _ _ (fun _ _ => by simp)

@[simp] theorem crashPort_boot (s : State) (p : Nat) :
    (crashPort s p).boot = s.boot := by
  unfold crashPort
  exact foldl_boot _ _ _ (fun _ _ => by simp)

@[simp] theorem failHalf_boot (s : State) (p : Nat) :
    (failHalf s p).boot = s.boot := by
  unfold failHalf
  exact foldl_boot _ _ _ (fun _ _ => by simp)

@[simp] theorem snoopAgain_boot (s : State) (k : Nat) :
    (snoopAgain s k).boot = s.boot := by
  simp [snoopAgain]

@[simp] theorem reopenRegion_boot (s : State) (k : Nat) :
    (reopenRegion s k).boot = s.boot := by
  simp [reopenRegion]

@[simp] theorem regionBack_boot (s : State) (q : RegionRun) :
    (regionBack s q).boot = s.boot := by
  unfold regionBack
  all_goals (repeat' (first
    | with_reducible rfl
    | with_reducible assumption
    | (simp; done)
    | (with_reducible refine (congrArg (fun p => p.2.2.boot) ‹restoreAll _ _ _  = (_, _)›.symm).trans ?_)
    | split
    | (with_reducible refine (foldl_boot _ _ _ (fun _ _ => ?_)).trans ?_)
    | (with_reducible refine (foldl_boot_fst _ _ _ (fun _ _ => ?_)).trans ?_)
    | (with_reducible refine (foldl_boot_snd2 _ _ _ (fun _ _ => ?_)).trans ?_)
    | (with_reducible refine (foldl_boot_snd _ _ _ (fun _ _ => ?_)).trans ?_)
    | (simp_all; done)
    | (simp +zetaDelta [*]; done)
    | (simp_all +zetaDelta; done)
    | dsimp only
    | simp))

@[simp] theorem rehome_boot (s : State) (d : Nat) (new : Nat) :
    (rehome s d new).boot = s.boot := by
  unfold rehome
  split <;> simp

@[simp] theorem leaveRegion_boot (k : Nat) (t : Nat × Nat × State) (d : Nat) :
    (leaveRegion k t d).2.2.boot = t.2.2.boot := by
  unfold leaveRegion
  all_goals (repeat' (first
    | with_reducible rfl
    | with_reducible assumption
    | (simp; done)
    | split
    | (with_reducible refine (foldl_boot _ _ _ (fun _ _ => ?_)).trans ?_)
    | (with_reducible refine (foldl_boot_fst _ _ _ (fun _ _ => ?_)).trans ?_)
    | (with_reducible refine (foldl_boot_snd2 _ _ _ (fun _ _ => ?_)).trans ?_)
    | (with_reducible refine (foldl_boot_snd _ _ _ (fun _ _ => ?_)).trans ?_)
    | (simp_all; done)
    | (simp +zetaDelta [*]; done)
    | (simp_all +zetaDelta; done)
    | dsimp only
    | simp))

@[simp] theorem stateOut_boot (s : State) (k : Nat) :
    (stateOut s k).2.2.boot = s.boot := by
  unfold stateOut
  all_goals (repeat' (first
    | with_reducible rfl
    | with_reducible assumption
    | (simp; done)
    | (with_reducible refine (congrArg (fun p => p.2.2.boot) ‹leaveRegion _ _ _  = (_, _)›.symm).trans ?_)
    | split
    | (with_reducible refine (foldl_boot _ _ _ (fun _ _ => ?_)).trans ?_)
    | (with_reducible refine (foldl_boot_fst _ _ _ (fun _ _ => ?_)).trans ?_)
    | (with_reducible refine (foldl_boot_snd2 _ _ _ (fun _ _ => ?_)).trans ?_)
    | (with_reducible refine (foldl_boot_snd _ _ _ (fun _ _ => ?_)).trans ?_)
    | (simp_all; done)
    | (simp +zetaDelta [*]; done)
    | (simp_all +zetaDelta; done)
    | dsimp only
    | simp))

@[simp] theorem regionOut_boot (s : State) (r : Nat) :
    (regionOut s r).boot = s.boot := by
  unfold regionOut
  all_goals (repeat' (first
    | with_reducible rfl
    | with_reducible assumption
    | (simp; done)
    | (with_reducible refine (congrArg (fun p => p.1.boot) ‹loseCopy _ _ _  = (_, _)›.symm).trans ?_)
    | (with_reducible refine (congrArg (fun p => p.2.2.boot) ‹stateOut _ _  = (_, _)›.symm).trans ?_)
    | split
    | (with_reducible refine (foldl_boot _ _ _ (fun _ _ => ?_)).trans ?_)
    | (with_reducible refine (foldl_boot_fst _ _ _ (fun _ _ => ?_)).trans ?_)
    | (with_reducible refine (foldl_boot_snd2 _ _ _ (fun _ _ => ?_)).trans ?_)
    | (with_reducible refine (foldl_boot_snd _ _ _ (fun _ _ => ?_)).trans ?_)
    | (simp_all; done)
    | (simp +zetaDelta [*]; done)
    | (simp_all +zetaDelta; done)
    | dsimp only
    | simp))

@[simp] theorem execRegionReturn_boot (region : Nat) (pass : Bool) (again : List Nat) (pm : Nat) (s : State) :
    KeepsBoot s (execRegionReturn region pass again pm s) := by
  unfold execRegionReturn
  refine faultRow_boot _ _ _ (fun _ => ?_)
  dsimp only
  repeat' split
  all_goals simp

@[simp] theorem execChipError_boot (info : Nat) (pm : Nat) (s : State) :
    KeepsBoot s (execChipError info pm s) := by
  unfold execChipError
  exact faultRow_boot _ _ _ (fun _ => by simp)

@[simp] theorem closeTideway_boot (s : State) :
    (closeTideway s).boot = s.boot := by
  unfold closeTideway
  exact foldl_boot _ _ _ (fun _ _ => by simp)

@[simp] theorem reopened_boot (s : State) : (reopened s).boot = s.boot := by
  unfold reopened
  all_goals (repeat' (first
    | with_reducible rfl
    | with_reducible assumption
    | (simp; done)
    | (with_reducible refine (congrArg (fun p => p.2.2.boot) ‹restoreAll _ _ _  = (_, _)›.symm).trans ?_)
    | (refine faultRow_boot _ _ _ (fun _ => ?_))
    | (rw [KeepsBoot.next_iff])
    | split
    | (with_reducible refine (foldl_boot _ _ _ (fun _ _ => ?_)).trans ?_)
    | (with_reducible refine (foldl_boot_fst _ _ _ (fun _ _ => ?_)).trans ?_)
    | (with_reducible refine (foldl_boot_snd2 _ _ _ (fun _ _ => ?_)).trans ?_)
    | (with_reducible refine (foldl_boot_snd _ _ _ (fun _ _ => ?_)).trans ?_)
    | (simp_all; done)
    | (simp +zetaDelta [*]; done)
    | (simp_all +zetaDelta; done)
    | dsimp only
    | simp))

@[simp] theorem rebooted_boot (s : State) : (rebooted s).boot = s.boot := by
  unfold rebooted
  all_goals (repeat' (first
    | with_reducible rfl
    | with_reducible assumption
    | (simp; done)
    | (with_reducible refine (congrArg (fun p => p.2.2.boot) ‹restoreAll _ _ _  = (_, _)›.symm).trans ?_)
    | (refine faultRow_boot _ _ _ (fun _ => ?_))
    | (rw [KeepsBoot.next_iff])
    | split
    | (with_reducible refine (foldl_boot _ _ _ (fun _ _ => ?_)).trans ?_)
    | (with_reducible refine (foldl_boot_fst _ _ _ (fun _ _ => ?_)).trans ?_)
    | (with_reducible refine (foldl_boot_snd2 _ _ _ (fun _ _ => ?_)).trans ?_)
    | (with_reducible refine (foldl_boot_snd _ _ _ (fun _ _ => ?_)).trans ?_)
    | (simp_all; done)
    | (simp +zetaDelta [*]; done)
    | (simp_all +zetaDelta; done)
    | dsimp only
    | simp))

@[simp] theorem execChipRestartDone_boot (again : List Nat) (pm : Nat) (s : State) :
    KeepsBoot s (execChipRestartDone again pm s) := by
  unfold execChipRestartDone
  all_goals (repeat' (first
    | with_reducible rfl
    | with_reducible assumption
    | (simp; done)
    | (with_reducible refine (congrArg (fun p => p.2.2.boot) ‹restoreAll _ _ _  = (_, _)›.symm).trans ?_)
    | (refine faultRow_boot _ _ _ (fun _ => ?_))
    | (rw [KeepsBoot.next_iff])
    | split
    | (with_reducible refine (foldl_boot _ _ _ (fun _ _ => ?_)).trans ?_)
    | (with_reducible refine (foldl_boot_fst _ _ _ (fun _ _ => ?_)).trans ?_)
    | (with_reducible refine (foldl_boot_snd2 _ _ _ (fun _ _ => ?_)).trans ?_)
    | (with_reducible refine (foldl_boot_snd _ _ _ (fun _ _ => ?_)).trans ?_)
    | (simp_all; done)
    | (simp +zetaDelta [*]; done)
    | (simp_all +zetaDelta; done)
    | dsimp only
    | simp))

end Sys2Proof.Machine
end

