-- ==== Sys2Proof/Laws/KeepPower.lean ====
section
/-! SUPPORT. The operations of Power leave the boot state as it is. -/

set_option Elab.async false
set_option linter.all false
set_option linter.unusedTactic false
set_option linter.unreachableTactic false

namespace Sys2Proof.Machine

@[simp] theorem execPwrCtrl_boot (value : Word32) (s : State) :
    KeepsBoot s (execPwrCtrl value s) := by
  unfold execPwrCtrl
  split <;> simp

@[simp] theorem execWarmReserve_boot (value : Word32) (s : State) :
    KeepsBoot s (execWarmReserve value s) := by
  unfold execWarmReserve
  split <;> simp

@[simp] theorem execThermalCfg_boot (value : Word32) (s : State) :
    KeepsBoot s (execThermalCfg value s) := by
  unfold execThermalCfg
  split <;> simp

@[simp] theorem execPowerCap_boot (value : Word32) (s : State) :
    KeepsBoot s (execPowerCap value s) := by
  unfold execPowerCap
  split <;> simp

@[simp] theorem execWakeAdmit_boot (dom : Nat) (pm : Nat) (s : State) :
    KeepsBoot s (execWakeAdmit dom pm s) := by
  unfold execWakeAdmit
  dsimp only
  repeat' split
  all_goals simp

@[simp] theorem restoreHalves_boot (s : State) :
    (restoreHalves s).boot = s.boot := by
  unfold restoreHalves
  repeat' split
  all_goals simp

@[simp] theorem clearShort_boot (s : State) :
    (clearShort s).boot = s.boot := by
  simp [clearShort]

@[simp] theorem moveTasks_boot (region : Nat) (b : Nat) (be : Bool) (x0 : Nat) (x1 : State) :
    (moveTasks region b be x0 x1).boot = x1.boot := by
  fun_induction moveTasks region b be x0 x1
  all_goals (repeat' (first
    | with_reducible rfl
    | with_reducible assumption
    | (simp; done)
    | split
    | (with_reducible refine (foldl_boot _ _ _ (fun _ _ => ?_)).trans ?_)
    | (with_reducible refine (foldl_boot_fst _ _ _ (fun _ _ => ?_)).trans ?_)
    | (with_reducible refine (foldl_boot_snd2 _ _ _ (fun _ _ => ?_)).trans ?_)
    | (with_reducible refine (foldl_boot_snd _ _ _ (fun _ _ => ?_)).trans ?_)
    | (simp_all; done)
    | (simp +zetaDelta [*]; done)
    | (simp_all +zetaDelta; done)
    | dsimp only
    | simp))

@[simp] theorem execWakeReady_boot (dom : Nat) (pm : Nat) (s : State) :
    KeepsBoot s (execWakeReady dom pm s) := by
  unfold execWakeReady
  all_goals (repeat' (first
    | with_reducible rfl
    | with_reducible assumption
    | (simp; done)
    | (rw [KeepsBoot.next_iff])
    | split
    | (with_reducible refine (foldl_boot _ _ _ (fun _ _ => ?_)).trans ?_)
    | (with_reducible refine (foldl_boot_fst _ _ _ (fun _ _ => ?_)).trans ?_)
    | (with_reducible refine (foldl_boot_snd2 _ _ _ (fun _ _ => ?_)).trans ?_)
    | (with_reducible refine (foldl_boot_snd _ _ _ (fun _ _ => ?_)).trans ?_)
    | (simp_all; done)
    | (simp +zetaDelta [*]; done)
    | (simp_all +zetaDelta; done)
    | dsimp only
    | simp))

@[simp] theorem execBlockIdleGate_boot (dom : Nat) (pm : Nat) (s : State) :
    KeepsBoot s (execBlockIdleGate dom pm s) := by
  unfold execBlockIdleGate
  dsimp only
  repeat' split
  all_goals simp

@[simp] theorem execSlackEnter_boot (hmWaiting : Bool) (pm : Nat) (s : State) :
    KeepsBoot s (execSlackEnter hmWaiting pm s) := by
  unfold execSlackEnter
  dsimp only
  repeat' split
  all_goals simp

@[simp] theorem execSlackEntered_boot (pm : Nat) (s : State) :
    KeepsBoot s (execSlackEntered pm s) := by
  unfold execSlackEntered
  all_goals (repeat' (first
    | with_reducible rfl
    | with_reducible assumption
    | (simp; done)
    | (rw [KeepsBoot.next_iff])
    | split
    | (with_reducible refine (foldl_boot _ _ _ (fun _ _ => ?_)).trans ?_)
    | (with_reducible refine (foldl_boot_fst _ _ _ (fun _ _ => ?_)).trans ?_)
    | (with_reducible refine (foldl_boot_snd2 _ _ _ (fun _ _ => ?_)).trans ?_)
    | (with_reducible refine (foldl_boot_snd _ _ _ (fun _ _ => ?_)).trans ?_)
    | (simp_all; done)
    | (simp +zetaDelta [*]; done)
    | (simp_all +zetaDelta; done)
    | dsimp only
    | simp))

@[simp] theorem execLeavingScheduled_boot (pm : Nat) (s : State) :
    KeepsBoot s (execLeavingScheduled pm s) := by
  unfold execLeavingScheduled
  dsimp only
  repeat' split
  all_goals simp

@[simp] theorem lowerClock_boot (s : State) (r : Nat) (cause : Nat) (least : Nat) (every : Nat) :
    (lowerClock s r cause least every).boot = s.boot := by
  unfold lowerClock
  repeat' split
  all_goals simp

@[simp] theorem raiseClock_boot (s : State) (r : Nat) (cause : Nat) (every : Nat) :
    (raiseClock s r cause every).boot = s.boot := by
  unfold raiseClock
  repeat' split
  all_goals simp

@[simp] theorem correct_boot (s : State) (a : Nat) (b : Nat) (quantity : Nat) (va : Nat) (vb : Nat) :
    (correct s a b quantity va vb).2.boot = s.boot := by
  unfold correct
  all_goals (repeat' (first
    | with_reducible rfl
    | with_reducible assumption
    | (simp; done)
    | split
    | (with_reducible refine (foldl_boot _ _ _ (fun _ _ => ?_)).trans ?_)
    | (with_reducible refine (foldl_boot_fst _ _ _ (fun _ _ => ?_)).trans ?_)
    | (with_reducible refine (foldl_boot_snd2 _ _ _ (fun _ _ => ?_)).trans ?_)
    | (with_reducible refine (foldl_boot_snd _ _ _ (fun _ _ => ?_)).trans ?_)
    | (simp_all; done)
    | (simp +zetaDelta [*]; done)
    | (simp_all +zetaDelta; done)
    | dsimp only
    | simp))

@[simp] theorem execNeighbourCheck_boot (a : Nat) (b : Nat) (quantity : Nat) (va : Nat) (vb : Nat) (pm : Nat) (s : State) :
    KeepsBoot s (execNeighbourCheck a b quantity va vb pm s) := by
  unfold execNeighbourCheck
  all_goals (repeat' (first
    | with_reducible rfl
    | with_reducible assumption
    | (simp; done)
    | (with_reducible refine (congrArg (fun p => p.2.boot) ‹correct _ _ _ _ _ _  = (_, _)›.symm).trans ?_)
    | (rw [KeepsBoot.next_iff])
    | split
    | (with_reducible refine (foldl_boot _ _ _ (fun _ _ => ?_)).trans ?_)
    | (with_reducible refine (foldl_boot_fst _ _ _ (fun _ _ => ?_)).trans ?_)
    | (with_reducible refine (foldl_boot_snd2 _ _ _ (fun _ _ => ?_)).trans ?_)
    | (with_reducible refine (foldl_boot_snd _ _ _ (fun _ _ => ?_)).trans ?_)
    | (simp_all; done)
    | (simp +zetaDelta [*]; done)
    | (simp_all +zetaDelta; done)
    | dsimp only
    | simp))

@[simp] theorem execNeighbourLimitTimeout_boot (a : Nat) (b : Nat) (quantity : Nat) (exceeded : Bool) (pm : Nat) (s : State) :
    KeepsBoot s (execNeighbourLimitTimeout a b quantity exceeded pm s) := by
  unfold execNeighbourLimitTimeout
  split
  · exact KeepsBoot.next_iff.mpr rfl
  · split
    · exact faultRow_boot _ _ _ (fun _ => (detect_boot _ _).trans rfl)
    · exact KeepsBoot.next_iff.mpr rfl

@[simp] theorem holdBy_boot (s : State) (r : Nat) (cause : Nat) (temp : Nat) (stack : Bool) (on : Bool) (off : Bool) :
    (holdBy s r cause temp stack on off).boot = s.boot := by
  unfold holdBy
  all_goals (repeat' (first
    | with_reducible rfl
    | with_reducible assumption
    | (simp; done)
    | split
    | (with_reducible refine (foldl_boot _ _ _ (fun _ _ => ?_)).trans ?_)
    | (with_reducible refine (foldl_boot_fst _ _ _ (fun _ _ => ?_)).trans ?_)
    | (with_reducible refine (foldl_boot_snd2 _ _ _ (fun _ _ => ?_)).trans ?_)
    | (with_reducible refine (foldl_boot_snd _ _ _ (fun _ _ => ?_)).trans ?_)
    | (simp_all; done)
    | (simp +zetaDelta [*]; done)
    | (simp_all +zetaDelta; done)
    | dsimp only
    | simp))

@[simp] theorem thermalRegion_boot (s : State) (r : Nat) (t : Nat) :
    (thermalRegion s r t).boot = s.boot := by
  unfold thermalRegion
  all_goals (repeat' (first
    | with_reducible rfl
    | with_reducible assumption
    | (simp; done)
    | split
    | (with_reducible refine (foldl_boot _ _ _ (fun _ _ => ?_)).trans ?_)
    | (with_reducible refine (foldl_boot_fst _ _ _ (fun _ _ => ?_)).trans ?_)
    | (with_reducible refine (foldl_boot_snd2 _ _ _ (fun _ _ => ?_)).trans ?_)
    | (with_reducible refine (foldl_boot_snd _ _ _ (fun _ _ => ?_)).trans ?_)
    | (simp_all; done)
    | (simp +zetaDelta [*]; done)
    | (simp_all +zetaDelta; done)
    | dsimp only
    | simp))

@[simp] theorem thermalStack_boot (s : State) (i : Nat) (t : Nat) :
    (thermalStack s i t).boot = s.boot := by
  unfold thermalStack
  repeat' split
  all_goals simp

@[simp] theorem thermalPair_boot (s : State) (k : Nat) (t : Nat) :
    (thermalPair s k t).boot = s.boot := by
  unfold thermalPair
  repeat' split
  all_goals simp

@[simp] theorem thermSignal_boot (s : State) (js : List Nat) (ts : List Nat) :
    (thermSignal s js ts).boot = s.boot := by
  simp [thermSignal]

@[simp] theorem thermalActs_boot (junctions stackTemps : List Nat) (s : State) : (thermalActs junctions stackTemps s).boot = s.boot := by
  unfold thermalActs
  dsimp only
  exact (foldl_boot _ _ _ (fun _ _ => by simp)).trans ((foldl_boot _ _ _ (fun _ _ => by simp)).trans (foldl_boot _ _ _ (fun _ _ => by simp)))

@[simp] theorem execThermalCheck_boot (junctions stackTemps : List Nat) (pm : Nat) (s : State) :
    KeepsBoot s (execThermalCheck junctions stackTemps pm s) := by
  unfold execThermalCheck
  dsimp only
  split
  · exact KeepsBoot.next_iff.mpr (by simp)
  · split
    · exact KeepsBoot.next_iff.mpr (by simp)
    · split
      · intro t ht
        exact (faultRow_boot _ _ _ (fun _ => detect_boot _ _) t ht).trans (by simp)
      · exact KeepsBoot.next_iff.mpr (by simp)

@[simp] theorem execPowerCapCheck_boot (pm : Nat) (s : State) :
    KeepsBoot s (execPowerCapCheck pm s) := by
  unfold execPowerCapCheck
  dsimp only
  repeat' split
  all_goals simp

@[simp] theorem execReserveShort_boot (region : Nat) (pm : Nat) (s : State) :
    KeepsBoot s (execReserveShort region pm s) := by
  unfold execReserveShort
  dsimp only
  repeat' split
  all_goals simp

end Sys2Proof.Machine
end

