-- ==== Sys2Proof/Laws/KeepTelemetry.lean ====
section
/-! SUPPORT. The operations of Telemetry leave the boot state as it is. -/

set_option Elab.async false
set_option linter.all false
set_option linter.unusedTactic false
set_option linter.unreachableTactic false

namespace Sys2Proof.Machine

@[simp] theorem execReadLog_boot (h : Hdr) (log : Nat) (s : State) :
    KeepsBoot s (execReadLog h log s) := by
  unfold execReadLog readLogSpec
  refine adminCmd_boot _ _ _ (fun _ _ => ?_)
  dsimp only
  repeat' split
  all_goals simp

@[simp] theorem execLighthouseSounding_boot (meters : Meters) (pm : Nat) (s : State) :
    KeepsBoot s (execLighthouseSounding meters pm s) := by
  unfold execLighthouseSounding
  dsimp only
  repeat' split
  all_goals simp

@[simp] theorem execLighthouseRecord_boot (pm : Nat) (s : State) :
    KeepsBoot s (execLighthouseRecord pm s) := by
  unfold execLighthouseRecord
  dsimp only
  repeat' split
  all_goals simp

@[simp] theorem execPldmSensorRead_boot (id : Nat) (s : State) :
    KeepsBoot s (execPldmSensorRead id s) := by
  unfold execPldmSensorRead
  split <;> simp

@[simp] theorem execVendorStatus_boot (s : State) :
    KeepsBoot s (execVendorStatus s) := by
  unfold execVendorStatus
  split <;> simp

@[simp] theorem execVendorLog_boot (log : Nat) (off : Nat) (s : State) :
    KeepsBoot s (execVendorLog log off s) := by
  unfold execVendorLog
  split <;> simp

@[simp] theorem execAlertResponse_boot (s : State) :
    KeepsBoot s (execAlertResponse s) := by
  unfold execAlertResponse
  split <;> simp

end Sys2Proof.Machine
end

