-- ==== Sys2Proof/Laws/KeepSecurity.lean ====
section
/-! SUPPORT. The operations of Security leave the boot state as it is. -/

set_option Elab.async false
set_option linter.all false
set_option linter.unusedTactic false
set_option linter.unreachableTactic false

namespace Sys2Proof.Machine

@[simp] theorem modSec_boot (s : State) (f : Security → Security) :
    (modSec s f).boot = s.boot := by
  simp [modSec]

@[simp] theorem execReleasePartition_boot (h : Hdr) (s : State) :
    KeepsBoot s (execReleasePartition h s) := by
  unfold execReleasePartition releasePartitionSpec
  all_goals (repeat' (first
    | with_reducible rfl
    | with_reducible assumption
    | (simp; done)
    | (refine adminCmd_boot _ _ _ (fun _ _ => ?_))
    | (rw [KeepsBoot.next_iff])
    | split
    | (with_reducible refine (foldl_boot _ _ _ (fun _ _ => ?_)).trans ?_)
    | (with_reducible refine (foldl_boot_fst _ _ _ (fun _ _ => ?_)).trans ?_)
    | (with_reducible refine (foldl_boot_snd2 _ _ _ (fun _ _ => ?_)).trans ?_)
    | (with_reducible refine (foldl_boot_snd _ _ _ (fun _ _ => ?_)).trans ?_)
    | (simp_all; done)
    | (simp +zetaDelta [*]; done)
    | (simp_all +zetaDelta; done)
    | dsimp only
    | simp))

@[simp] theorem execSetConsent_boot (h : Hdr) (token : HostRead) (signed : Bool) (s : State) :
    KeepsBoot s (execSetConsent h token signed s) := by
  unfold execSetConsent setConsentSpec
  refine adminCmd_boot _ _ _ (fun _ _ => ?_)
  dsimp only
  repeat' split
  all_goals simp

@[simp] theorem execWithdrawConsent_boot (h : Hdr) (s : State) :
    KeepsBoot s (execWithdrawConsent h s) := by
  unfold execWithdrawConsent withdrawConsentSpec
  refine adminCmd_boot _ _ _ (fun _ _ => ?_)
  simp

@[simp] theorem execConsentExpiry_boot (partition : Nat) (pm : Nat) (s : State) :
    KeepsBoot s (execConsentExpiry partition pm s) := by
  unfold execConsentExpiry
  dsimp only
  repeat' split
  all_goals simp

@[simp] theorem execSetConsentKey_boot (h : Hdr) (key : HostRead) (proved : Bool) (s : State) :
    KeepsBoot s (execSetConsentKey h key proved s) := by
  unfold execSetConsentKey setConsentKeySpec
  refine adminCmd_boot _ _ _ (fun _ _ => ?_)
  simp

@[simp] theorem execSetDeviceSet_boot (h : Hdr) (body : HostRead) (s : State) :
    KeepsBoot s (execSetDeviceSet h body s) := by
  unfold execSetDeviceSet setDeviceSetSpec
  refine adminCmd_boot _ _ _ (fun _ _ => ?_)
  simp

@[simp] theorem setPeer_boot (s : State) (via : SpdmVia) (p : SpdmPeer) :
    (setPeer s via p).boot = s.boot := by
  simp [setPeer]

@[simp] theorem spdmCmd_boot (via : SpdmVia) (f : State → SpdmPeer → State × SpdmReply) (s : State) (hf : ∀ s p, (f s p).1.boot = s.boot) :
    KeepsBoot s (spdmCmd via f s) := by
  unfold spdmCmd
  split
  · rw [KeepsBoot.next_iff, emit_boot, hf, leaveSlack_boot]
  · exact KeepsBoot.next_iff.mpr rfl

@[simp] theorem fromPhase_boot (n : Nat) (r : SpdmReply) (s : State) (p : SpdmPeer) :
    (fromPhase n r s p).1.boot = s.boot := by
  unfold fromPhase
  split <;> simp

@[simp] theorem execGetVersion_boot (via : SpdmVia) (s : State) :
    KeepsBoot s (execGetVersion via s) := by
  unfold execGetVersion
  exact spdmCmd_boot _ _ _ (fun _ _ => by simp)

@[simp] theorem execGetCapabilities_boot (via : SpdmVia) (s : State) :
    KeepsBoot s (execGetCapabilities via s) := by
  unfold execGetCapabilities
  all_goals (repeat' (first
    | with_reducible rfl
    | with_reducible assumption
    | (simp; done)
    | (refine spdmCmd_boot _ _ _ (fun _ _ => ?_))
    | (rw [KeepsBoot.next_iff])
    | split
    | (with_reducible refine (foldl_boot _ _ _ (fun _ _ => ?_)).trans ?_)
    | (with_reducible refine (foldl_boot_fst _ _ _ (fun _ _ => ?_)).trans ?_)
    | (with_reducible refine (foldl_boot_snd2 _ _ _ (fun _ _ => ?_)).trans ?_)
    | (with_reducible refine (foldl_boot_snd _ _ _ (fun _ _ => ?_)).trans ?_)
    | (simp_all; done)
    | (simp +zetaDelta [*]; done)
    | (simp_all +zetaDelta; done)
    | dsimp only
    | simp))

@[simp] theorem execNegotiateAlgorithms_boot (via : SpdmVia) (supported : Bool) (s : State) :
    KeepsBoot s (execNegotiateAlgorithms via supported s) := by
  unfold execNegotiateAlgorithms
  all_goals (repeat' (first
    | with_reducible rfl
    | with_reducible assumption
    | (simp; done)
    | (refine spdmCmd_boot _ _ _ (fun _ _ => ?_))
    | (rw [KeepsBoot.next_iff])
    | split
    | (with_reducible refine (foldl_boot _ _ _ (fun _ _ => ?_)).trans ?_)
    | (with_reducible refine (foldl_boot_fst _ _ _ (fun _ _ => ?_)).trans ?_)
    | (with_reducible refine (foldl_boot_snd2 _ _ _ (fun _ _ => ?_)).trans ?_)
    | (with_reducible refine (foldl_boot_snd _ _ _ (fun _ _ => ?_)).trans ?_)
    | (simp_all; done)
    | (simp +zetaDelta [*]; done)
    | (simp_all +zetaDelta; done)
    | dsimp only
    | simp))

@[simp] theorem execGetDigests_boot (via : SpdmVia) (s : State) :
    KeepsBoot s (execGetDigests via s) := by
  unfold execGetDigests
  exact spdmCmd_boot _ _ _ (fun _ _ => by simp)

@[simp] theorem execGetCertificate_boot (via : SpdmVia) (slot : Nat) (s : State) :
    KeepsBoot s (execGetCertificate via slot s) := by
  unfold execGetCertificate
  all_goals (repeat' (first
    | with_reducible rfl
    | with_reducible assumption
    | (simp; done)
    | (with_reducible refine (congrArg (fun p => p.1.boot) ‹fromPhase _ _ _ _  = (_, _)›.symm).trans ?_)
    | (refine spdmCmd_boot _ _ _ (fun _ _ => ?_))
    | (rw [KeepsBoot.next_iff])
    | split
    | (with_reducible refine (foldl_boot _ _ _ (fun _ _ => ?_)).trans ?_)
    | (with_reducible refine (foldl_boot_fst _ _ _ (fun _ _ => ?_)).trans ?_)
    | (with_reducible refine (foldl_boot_snd2 _ _ _ (fun _ _ => ?_)).trans ?_)
    | (with_reducible refine (foldl_boot_snd _ _ _ (fun _ _ => ?_)).trans ?_)
    | (simp_all; done)
    | (simp +zetaDelta [*]; done)
    | (simp_all +zetaDelta; done)
    | dsimp only
    | simp))

@[simp] theorem execChallenge_boot (via : SpdmVia) (slot : Nat) (s : State) :
    KeepsBoot s (execChallenge via slot s) := by
  unfold execChallenge
  all_goals (repeat' (first
    | with_reducible rfl
    | with_reducible assumption
    | (simp; done)
    | (with_reducible refine (congrArg (fun p => p.1.boot) ‹fromPhase _ _ _ _  = (_, _)›.symm).trans ?_)
    | (refine spdmCmd_boot _ _ _ (fun _ _ => ?_))
    | (rw [KeepsBoot.next_iff])
    | split
    | (with_reducible refine (foldl_boot _ _ _ (fun _ _ => ?_)).trans ?_)
    | (with_reducible refine (foldl_boot_fst _ _ _ (fun _ _ => ?_)).trans ?_)
    | (with_reducible refine (foldl_boot_snd2 _ _ _ (fun _ _ => ?_)).trans ?_)
    | (with_reducible refine (foldl_boot_snd _ _ _ (fun _ _ => ?_)).trans ?_)
    | (simp_all; done)
    | (simp +zetaDelta [*]; done)
    | (simp_all +zetaDelta; done)
    | dsimp only
    | simp))

@[simp] theorem execGetMeasurements_boot (via : SpdmVia) (index : Nat) (s : State) :
    KeepsBoot s (execGetMeasurements via index s) := by
  unfold execGetMeasurements
  refine spdmCmd_boot _ _ _ (fun _ _ => ?_)
  dsimp only
  repeat' split
  all_goals simp

@[simp] theorem execKeyExchange_boot (via : SpdmVia) (slot : Nat) (s : State) :
    KeepsBoot s (execKeyExchange via slot s) := by
  unfold execKeyExchange
  refine spdmCmd_boot _ _ _ (fun _ _ => ?_)
  dsimp only
  repeat' split
  all_goals simp

@[simp] theorem execFinish_boot (via : SpdmVia) (session : Nat) (verified : Bool) (s : State) :
    KeepsBoot s (execFinish via session verified s) := by
  unfold execFinish
  all_goals (repeat' (first
    | with_reducible rfl
    | with_reducible assumption
    | (simp; done)
    | (refine spdmCmd_boot _ _ _ (fun _ _ => ?_))
    | (rw [KeepsBoot.next_iff])
    | split
    | (with_reducible refine (foldl_boot _ _ _ (fun _ _ => ?_)).trans ?_)
    | (with_reducible refine (foldl_boot_fst _ _ _ (fun _ _ => ?_)).trans ?_)
    | (with_reducible refine (foldl_boot_snd2 _ _ _ (fun _ _ => ?_)).trans ?_)
    | (with_reducible refine (foldl_boot_snd _ _ _ (fun _ _ => ?_)).trans ?_)
    | (simp_all; done)
    | (simp +zetaDelta [*]; done)
    | (simp_all +zetaDelta; done)
    | dsimp only
    | simp))

@[simp] theorem inSession_boot (via : SpdmVia) (session : Nat) (f : State → SpdmPeer → State × SpdmReply) (s : State)
    (hf : ∀ s p, (f s p).1.boot = s.boot) : KeepsBoot s (inSession via session f s) := by
  refine spdmCmd_boot _ _ _ (fun s p => ?_)
  split
  · exact hf s p
  · rfl

@[simp] theorem execSpdmHeartbeat_boot (via : SpdmVia) (session : Nat) (s : State) :
    KeepsBoot s (execSpdmHeartbeat via session s) := by
  unfold execSpdmHeartbeat
  exact inSession_boot _ _ _ _ (fun _ _ => by simp)

@[simp] theorem execSpdmKeyUpdate_boot (via : SpdmVia) (session : Nat) (s : State) :
    KeepsBoot s (execSpdmKeyUpdate via session s) := by
  unfold execSpdmKeyUpdate
  exact inSession_boot _ _ _ _ (fun _ _ => by simp)

@[simp] theorem execEndSession_boot (via : SpdmVia) (session : Nat) (s : State) :
    KeepsBoot s (execEndSession via session s) := by
  unfold execEndSession
  exact inSession_boot _ _ _ _ (fun _ _ => by simp)

@[simp] theorem setTdisp_boot (s : State) (n : Nat) (v : Nat) :
    (setTdisp s n v).boot = s.boot := by
  simp [setTdisp]

@[simp] theorem vendorStep_boot (s : State) (req : VendorReq) :
    (vendorStep s req).1.boot = s.boot := by
  unfold vendorStep
  all_goals (repeat' (first
    | with_reducible rfl
    | with_reducible assumption
    | (simp; done)
    | split
    | (with_reducible refine (foldl_boot _ _ _ (fun _ _ => ?_)).trans ?_)
    | (with_reducible refine (foldl_boot_fst _ _ _ (fun _ _ => ?_)).trans ?_)
    | (with_reducible refine (foldl_boot_snd2 _ _ _ (fun _ _ => ?_)).trans ?_)
    | (with_reducible refine (foldl_boot_snd _ _ _ (fun _ _ => ?_)).trans ?_)
    | (simp_all; done)
    | (simp +zetaDelta [*]; done)
    | (simp_all +zetaDelta; done)
    | dsimp only
    | simp))

@[simp] theorem execVendorDefinedRequest_boot (via : SpdmVia) (session : Option Nat) (req : VendorReq) (s : State) :
    KeepsBoot s (execVendorDefinedRequest via session req s) := by
  unfold execVendorDefinedRequest
  split <;> simp

@[simp] theorem execDebugUnlock_boot (tokenOk : Bool) (pm : Nat) (s : State) :
    KeepsBoot s (execDebugUnlock tokenOk pm s) := by
  unfold execDebugUnlock
  dsimp only
  repeat' split
  all_goals simp

@[simp] theorem execDebugPortAccess_boot (reach : DebugReach) (s : State) :
    KeepsBoot s (execDebugPortAccess reach s) := by
  unfold execDebugPortAccess
  all_goals (repeat' (first
    | with_reducible rfl
    | with_reducible assumption
    | (simp; done)
    | (rw [KeepsBoot.next_iff])
    | split
    | (with_reducible refine (foldl_boot _ _ _ (fun _ _ => ?_)).trans ?_)
    | (with_reducible refine (foldl_boot_fst _ _ _ (fun _ _ => ?_)).trans ?_)
    | (with_reducible refine (foldl_boot_snd2 _ _ _ (fun _ _ => ?_)).trans ?_)
    | (with_reducible refine (foldl_boot_snd _ _ _ (fun _ _ => ?_)).trans ?_)
    | (simp_all; done)
    | (simp +zetaDelta [*]; done)
    | (simp_all +zetaDelta; done)
    | dsimp only
    | simp))

end Sys2Proof.Machine
end

