-- ==== Sys2Proof/Laws/KeepBoot.lean ====
section
/-! SUPPORT. The operations of Boot leave the boot state as it is. -/

set_option Elab.async false
set_option linter.all false
set_option linter.unusedTactic false
set_option linter.unreachableTactic false

namespace Sys2Proof.Machine

@[simp] theorem setHost_boot (s : State) (p : Nat) (x : HostPort) :
    (setHost s p x).boot = s.boot := by
  simp [setHost]

@[simp] theorem bothReset_boot (s : State) :
    (bothReset s).boot = s.boot := by
  unfold bothReset
  all_goals (repeat' (first
    | with_reducible rfl
    | with_reducible assumption
    | (simp; done)
    | split
    | (with_reducible refine (foldl_boot _ _ _ (fun _ _ => ?_)).trans ?_)
    | (with_reducible refine (foldl_boot_fst _ _ _ (fun _ _ => ?_)).trans ?_)
    | (with_reducible refine (foldl_boot_snd2 _ _ _ (fun _ _ => ?_)).trans ?_)
    | (with_reducible refine (foldl_boot_snd _ _ _ (fun _ _ => ?_)).trans ?_)
    | (simp_all; done)
    | (simp +zetaDelta [*]; done)
    | (simp_all +zetaDelta; done)
    | dsimp only
    | simp))

@[simp] theorem execPerstNFall_boot (p : Nat) (pm : Nat) (s : State) :
    KeepsBoot s (execPerstNFall p pm s) := by
  unfold execPerstNFall
  dsimp only
  repeat' split
  all_goals simp

@[simp] theorem execPerstNRise_boot (p : Nat) (version : Nat) (switched : Bool) (s : State) :
    KeepsBoot s (execPerstNRise p version switched s) := by
  unfold execPerstNRise
  all_goals (repeat' (first
    | with_reducible rfl
    | with_reducible assumption
    | (simp; done)
    | (rw [KeepsBoot.next_iff])
    | split
    | (with_reducible refine (foldl_boot _ _ _ (fun _ _ => ?_)).trans ?_)
    | (with_reducible refine (foldl_boot_fst _ _ _ (fun _ _ => ?_)).trans ?_)
    | (with_reducible refine (foldl_boot_snd2 _ _ _ (fun _ _ => ?_)).trans ?_)
    | (with_reducible refine (foldl_boot_snd _ _ _ (fun _ _ => ?_)).trans ?_)
    | (simp_all; done)
    | (simp +zetaDelta [*]; done)
    | (simp_all +zetaDelta; done)
    | dsimp only
    | simp))

@[simp] theorem execHostLinkDown_boot (p : Nat) (s : State) :
    KeepsBoot s (execHostLinkDown p s) := by
  unfold execHostLinkDown
  split <;> simp

@[simp] theorem railFault_boot (s : State) (r : Nat) :
    (railFault s r).boot = s.boot := by
  simp [railFault]

@[simp] theorem execRailOutOfRange_boot (rail : Rail) (pm : Nat) (s : State) :
    KeepsBoot s (execRailOutOfRange rail pm s) := by
  unfold execRailOutOfRange
  exact faultRow_boot _ _ _ (fun _ => foldl_boot _ _ _ (fun _ _ => railFault_boot _ _))

@[simp] theorem execPmbAlertN_boot (region : Nat) (pm : Nat) (s : State) :
    KeepsBoot s (execPmbAlertN region pm s) := by
  unfold execPmbAlertN
  exact faultRow_boot _ _ _ (fun _ => railFault_boot _ _)

@[simp] theorem execPmbusPoll_boot (reads : List RailRead) (pm : Nat) (s : State) :
    KeepsBoot s (execPmbusPoll reads pm s) := by
  unfold execPmbusPoll
  dsimp only
  repeat' split
  all_goals simp

end Sys2Proof.Machine
end

