-- ==== Sys2Proof/Laws/KeepRegisterWrite.lean ====
section
/-! SUPPORT. The operations of RegisterWrite leave the boot state as it is. -/

set_option Elab.async false
set_option linter.all false
set_option linter.unusedTactic false
set_option linter.unreachableTactic false

namespace Sys2Proof.Machine

@[simp] theorem writeMsix_boot (s : State) (fn : Nat) (vec : Nat) (g : Msix → Msix) :
    (writeMsix s fn vec g).boot = s.boot := by
  unfold writeMsix
  all_goals (repeat' (first
    | with_reducible rfl
    | with_reducible assumption
    | (simp; done)
    | split
    | (with_reducible refine (foldl_boot _ _ _ (fun _ _ => ?_)).trans ?_)
    | (with_reducible refine (foldl_boot_fst _ _ _ (fun _ _ => ?_)).trans ?_)
    | (with_reducible refine (foldl_boot_snd2 _ _ _ (fun _ _ => ?_)).trans ?_)
    | (with_reducible refine (foldl_boot_snd _ _ _ (fun _ _ => ?_)).trans ?_)
    | (simp_all; done)
    | (simp +zetaDelta [*]; done)
    | (simp_all +zetaDelta; done)
    | dsimp only
    | simp))

@[simp] theorem writeReg_boot (s : State) (fn : Nat) (port : Nat) (reg : PlainReg) (v : Nat) :
    (writeReg s fn port reg v).boot = s.boot := by
  unfold writeReg
  all_goals (repeat' (first
    | with_reducible rfl
    | with_reducible assumption
    | (simp; done)
    | split
    | (with_reducible refine (foldl_boot _ _ _ (fun _ _ => ?_)).trans ?_)
    | (with_reducible refine (foldl_boot_fst _ _ _ (fun _ _ => ?_)).trans ?_)
    | (with_reducible refine (foldl_boot_snd2 _ _ _ (fun _ _ => ?_)).trans ?_)
    | (with_reducible refine (foldl_boot_snd _ _ _ (fun _ _ => ?_)).trans ?_)
    | (simp_all; done)
    | (simp +zetaDelta [*]; done)
    | (simp_all +zetaDelta; done)
    | dsimp only
    | simp))

@[simp] theorem execRegisterWrite_boot (fn : Nat) (port : Nat) (reg : PlainReg) (value : Nat) (s : State) :
    KeepsBoot s (execRegisterWrite fn port reg value s) := by
  unfold execRegisterWrite
  split <;> simp

end Sys2Proof.Machine
end

