-- ==== Sys2Proof/Laws/Memory.lean ====
section
/-! SUPPORT. The byte memories keep their one form, a byte written is the byte read, and every other byte stays. -/

namespace Sys2Proof.Machine

theorem wf_cons {c : Host.Cell} {m : List Host.Cell} (h : Memory.wf (c :: m) = true) : Memory.wf m = true := by
  cases m with
  | nil => rfl
  | cons d r => simp only [Memory.wf, Bool.and_eq_true] at h; exact h.2

theorem wf_head {c : Host.Cell} {m : List Host.Cell} (h : Memory.wf (c :: m) = true) : c.2 ≠ 0#8 := by
  cases m with
  | nil => simpa [Memory.wf] using h
  | cons d r => simp only [Memory.wf, Bool.and_eq_true] at h; simpa using h.1.1

/-- A cell before every cell of a memory in its one form. -/
theorem wf_push {c : Host.Cell} {m : List Host.Cell} (hm : Memory.wf m = true) (hc : c.2 ≠ 0#8) (h : ∀ d, m.head? = some d → c.1 < d.1) :
    Memory.wf (c :: m) = true := by
  cases m with
  | nil => simpa [Memory.wf] using hc
  | cons d r => simp only [Memory.wf, Bool.and_eq_true]; exact ⟨⟨by simpa using hc, by simpa using h d rfl⟩, hm⟩

theorem wf_lt {c d : Host.Cell} {m : List Host.Cell} (h : Memory.wf (c :: m) = true) (hd : d ∈ m) : c.1 < d.1 := by
  induction m generalizing c with
  | nil => cases hd
  | cons e r ih =>
    simp only [Memory.wf, Bool.and_eq_true, decide_eq_true_eq] at h
    cases hd with
    | head => exact h.1.2
    | tail _ hd => exact lt_trans h.1.2 (ih h.2 hd)

theorem wf_of_lt {c : Host.Cell} {m : List Host.Cell} (hm : Memory.wf m = true) (hc : c.2 ≠ 0#8) (h : ∀ d ∈ m, c.1 < d.1) :
    Memory.wf (c :: m) = true :=
  wf_push hm hc (fun d hd => h d (List.mem_of_mem_head? hd))

theorem cellSet_mem {m : List Host.Cell} {a : Nat} {b : Byte} {d : Host.Cell} (h : d ∈ cellSet m a b) : d.1 = a ∨ d ∈ m := by
  induction m with
  | nil => simp only [cellSet] at h; split at h <;> simp_all
  | cons c r ih =>
    simp only [cellSet] at h
    split at h
    · split at h
      · exact .inr h
      · cases h with
        | head => exact .inl rfl
        | tail _ h => exact .inr h
    · split at h
      · split at h
        · exact .inr (List.mem_cons_of_mem _ h)
        · cases h with
          | head => exact .inl rfl
          | tail _ h => exact .inr (List.mem_cons_of_mem _ h)
      · cases h with
        | head => exact .inr (List.mem_cons_self)
        | tail _ h => exact (ih h).imp id (List.mem_cons_of_mem _)

/-- Writing a byte keeps the one form. -/
theorem cellSet_wf (m : List Host.Cell) (a : Nat) (b : Byte) (h : Memory.wf m = true) : Memory.wf (cellSet m a b) = true := by
  induction m with
  | nil =>
    simp only [cellSet]
    split
    · rfl
    · rename_i hb; simpa [Memory.wf] using hb
  | cons c r ih =>
    simp only [cellSet]
    split
    · rename_i ha
      split
      · exact h
      · rename_i hb; exact wf_push h hb (fun d hd => by cases hd; exact ha)
    · split
      · rename_i ha
        split
        · exact wf_cons h
        · rename_i hb; exact wf_of_lt (wf_cons h) hb (fun d hd => by have := wf_lt h hd; simp only; omega)
      · refine wf_of_lt (ih (wf_cons h)) (wf_head h) (fun d hd => ?_)
        rcases cellSet_mem hd with hd | hd
        · omega
        · exact wf_lt h hd

/-- Writing bytes keeps the one form. -/
theorem cellsWrite_wf (m : List Host.Cell) (a : Nat) (bs : List Byte) (h : Memory.wf m = true) : Memory.wf (cellsWrite m a bs) = true := by
  induction bs generalizing m a with
  | nil => exact h
  | cons b r ih => exact ih _ _ (cellSet_wf m a b h)

theorem filter_wf (p : Host.Cell → Bool) (m : List Host.Cell) (h : Memory.wf m = true) : Memory.wf (m.filter p) = true := by
  induction m with
  | nil => rfl
  | cons c r ih =>
    simp only [List.filter_cons]
    split
    · exact wf_of_lt (ih (wf_cons h)) (wf_head h) (fun d hd => wf_lt h (List.mem_of_mem_filter hd))
    · exact ih (wf_cons h)

/-- Clearing a range of bytes keeps the one form. -/
theorem cellsZero_wf (m : List Host.Cell) (lo hi : Nat) (h : Memory.wf m = true) : Memory.wf (cellsZero m lo hi) = true := filter_wf _ _ h

theorem cellGet_of_lt {m : List Host.Cell} {a : Nat} (h : ∀ d ∈ m, a < d.1) : cellGet m a = 0#8 := by
  induction m with
  | nil => rfl
  | cons c r ih =>
    have h1 := h c (List.mem_cons_self)
    simp only [cellGet]
    rw [if_neg (by omega)]
    exact ih (fun d hd => h d (List.mem_cons_of_mem _ hd))

/-- The byte written is the byte read. -/
theorem cellGet_cellSet_self (m : List Host.Cell) (a : Nat) (b : Byte) (h : Memory.wf m = true) : cellGet (cellSet m a b) a = b := by
  induction m with
  | nil => simp only [cellSet]; split <;> simp_all [cellGet]
  | cons c r ih =>
    simp only [cellSet]
    split
    · rename_i ha
      split
      · rename_i hb
        subst hb
        refine cellGet_of_lt (fun d hd => ?_)
        cases hd with
        | head => exact ha
        | tail _ hd => exact lt_trans ha (wf_lt h hd)
      · simp [cellGet]
    · split
      · rename_i ha
        split
        · rename_i hb; subst hb; exact cellGet_of_lt (fun d hd => ha ▸ wf_lt h hd)
        · simp [cellGet]
      · rename_i ha; simp only [cellGet]; rw [if_neg ha]; exact ih (wf_cons h)

/-- Every other byte reads as before. -/
theorem cellGet_cellSet_ne (m : List Host.Cell) {a a' : Nat} (b : Byte) (h : a' ≠ a) : cellGet (cellSet m a b) a' = cellGet m a' := by
  induction m with
  | nil => simp only [cellSet]; split <;> simp [cellGet, h]
  | cons c r ih =>
    simp only [cellSet]
    split
    · split
      · rfl
      · simp [cellGet, h]
    · split
      · rename_i ha
        split
        · simp only [cellGet]; rw [if_neg (by omega)]
        · simp only [cellGet]; rw [if_neg h, if_neg (by omega)]
      · simp only [cellGet, ih]

/-- Bytes outside a write read as before. -/
theorem cellGet_cellsWrite_out (m : List Host.Cell) (a : Nat) (bs : List Byte) {x : Nat} (h : x < a ∨ a + bs.length ≤ x) :
    cellGet (cellsWrite m a bs) x = cellGet m x := by
  induction bs generalizing m a with
  | nil => rfl
  | cons b r ih =>
    simp only [List.length_cons] at h
    refine (ih (cellSet m a b) (a + 1) (by omega)).trans (cellGet_cellSet_ne m b (by omega))

/-- Memory is in its one form right after reset. -/
theorem reset_memory_wf : Memory.wf State.reset.hm.mem = true ∧ Memory.wf State.reset.win.mem = true
    ∧ Memory.wf State.reset.boot.slotA = true ∧ Memory.wf State.reset.boot.slotB = true := by decide

end Sys2Proof.Machine
end

