-- ==== Sys2Proof/WellFormed.lean ====
section
/-! DEFINITION. Well-formed commands: every operand fits the field that carries it (Tables 2.13, 7.1, 9.9, 11.6), and a list or a body is no
longer than 32-bit lengths allow. What a field's values mean is for the command's own checks. -/

namespace Sys2Proof

/-- A value fits a field of w bits. -/
def fits (w v : Nat) : Bool := decide (v < 2 ^ w)

/-- A function number: PF_0 or one of 64 VFs (R739). -/
def fnOk (fn : Nat) : Bool := decide (fn ≤ 64)

/-- The common fields of a ring command (Table 2.13). -/
def hdrOk (h : Hdr) : Bool :=
  fnOk h.fn && fits 8 h.set && fits 16 h.cmdId && fits 32 h.target && fits 32 h.len && fits 64 h.addr
    && (match h.rsvBad with
      | some o => decide (o < 64)
      | none => true)

/-- A body or a payload. -/
def bytesOk (bs : List Byte) : Bool := fits 32 bs.length

/-- A read of host memory. -/
def readOk : HostRead → Bool
  | .ok bs => bytesOk bs
  | .fail a => fits 64 a

/-- The slots that a doorbell announces. -/
def slotsOk (l : List SlotRead) : Bool :=
  fits 12 l.length && l.all (fun e => match e with
    | .undefinedOp c => fits 16 c
    | _ => true)

/-- A STEP entry (Table 7.1). -/
def stepOk (e : StepEntry) : Bool :=
  fits 64 e.handle && fits 32 e.descIndex && fits 8 e.mode && fits 8 e.candsM1 && fits 8 e.layer && fits 8 e.rowFormat && fits 64 e.operandAddr
    && fits 64 e.resultAddr && fits 64 e.missingAddr && fits 16 e.round && fits 16 e.firstPage && fits 16 e.lastPage && fits 16 e.treePages
    && e.parents.all (fun p => decide (p < 16)) && readOk e.operand

/-- A SEARCH entry (Table 9.9). -/
def searchOk (e : SearchEntry) : Bool :=
  fits 64 e.resultAddr && fits 16 e.k && fits 16 e.queue && fits 32 e.visits && fits 16 e.rerank && fits 16 e.width && fits 16 e.oversample
    && fits 8 e.queryFormat && fits 8 e.flags && fits 32 e.deadlineUs

/-- A Tideway packet (Tables 11.6 and 11.7). -/
def pktOk (p : TwPkt) : Bool :=
  decide (p.port < 16) && fits 128 p.srcIp && fits 24 p.srcConn && fits 24 p.dstConn && fits 32 p.psn && fits 32 p.msgId && fits 32 p.off
    && fits 32 p.len && fits 32 p.epoch && fits 64 p.addr && fits 64 p.key && fits 64 p.replyKey && fits 64 p.handle && fits 64 p.descIndex
    && fits 64 p.aux && bytesOk p.payload

/-- A ring's name (R65). -/
def ringIdOk : RingId → Bool
  | .step n => decide (n < 64)
  | _ => true

/-- An SPDM transport. -/
def viaOk : SpdmVia → Bool
  | .doe fn => fnOk fn
  | _ => true

/-- The meters of a sounding: ten junctions and twelve stacks. -/
def metersOk (m : Meters) : Bool := m.junctions.length == 10 && m.stackTemps.length == 12

/-- A list of numbers. -/
def natsOk (l : List Nat) : Bool := l.all (fun n => fits 32 n)

/-- A command is well formed. -/
def Instr.wellFormed : Instr → Bool
  | .powerUp => true
  | .porNRise sel _ mgmt _ _ _ pm => fits 8 sel && fits 8 mgmt && fits 64 pm
  | .selfTestDone failedRegions _ pm => natsOk failedRegions && fits 64 pm
  | .porNFall pm => fits 64 pm
  | .perstNFall p pm => fits 8 p && fits 64 pm
  | .perstNRise p version _ => fits 8 p && fits 16 version
  | .railOutOfRange _ pm => fits 64 pm
  | .pmbAlertN region pm => fits 8 region && fits 64 pm
  | .regulatorTimeout region => fits 8 region
  | .pmbusPoll _ pm => fits 64 pm
  | .identify h => hdrOk h
  | .createStepRing h sqBase rqBase depth vector => hdrOk h && fits 64 sqBase && fits 64 rqBase && fits 16 depth && fits 16 vector
  | .deleteStepRing h => hdrOk h
  | .readLog h log => hdrOk h && fits 32 log
  | .readDeadLetters h => hdrOk h
  | .createAccount h partition => hdrOk h && fits 8 partition
  | .deleteAccount h => hdrOk h
  | .setQuota h tier bytes => hdrOk h && fits 8 tier && fits 64 bytes
  | .setCeiling h tier bytes => hdrOk h && fits 8 tier && fits 64 bytes
  | .queryUsage h => hdrOk h
  | .releasePartition h => hdrOk h
  | .publishConfig h kind base account body _ => hdrOk h && fits 16 kind && fits 16 base && fits 16 account && readOk body
  | .retireConfig h kind version => hdrOk h && fits 16 kind && fits 16 version
  | .queryConfig h kind => hdrOk h && fits 16 kind
  | .loadBundle h bundleKind cls body _ _ => hdrOk h && fits 8 bundleKind && fits 16 cls && readOk body
  | .dropBundle h => hdrOk h
  | .placeObject h cls => hdrOk h && fits 16 cls
  | .registerAs h pasid account perms => hdrOk h && fits 32 pasid && fits 16 account && fits 8 perms
  | .deregisterAs h => hdrOk h
  | .createIndex h cls params => hdrOk h && fits 16 cls && readOk params
  | .compactIndex h => hdrOk h
  | .deleteIndex h => hdrOk h
  | .createSession h handle profile vocab constr cls => hdrOk h && fits 64 handle && fits 32 profile && fits 32 vocab && fits 32 constr && fits 16 cls
  | .closeSession h handle => hdrOk h && fits 64 handle
  | .sessionFreed d => fits 64 d
  | .setWaiting h handle expectedMs => hdrOk h && fits 64 handle && fits 32 expectedMs
  | .parkNow h handle => hdrOk h && fits 64 handle
  | .floodNow h handle => hdrOk h && fits 64 handle
  | .querySession h handle => hdrOk h && fits 64 handle
  | .setSessionClass h handle cls => hdrOk h && fits 64 handle && fits 16 cls
  | .migrateSession h handle target => hdrOk h && fits 64 handle && fits 64 target
  | .addExtent h extent host => hdrOk h && fits 16 extent && fits 8 host
  | .releaseExtent h extent host => hdrOk h && fits 16 extent && fits 8 host
  | .hostLost h host => hdrOk h && fits 8 host
  | .acceptLoss h extent offset => hdrOk h && fits 16 extent && fits 32 offset
  | .setChart h epoch body => hdrOk h && fits 32 epoch && readOk body
  | .setRole h role profile => hdrOk h && fits 8 role && fits 32 profile
  | .roleDrainEnd => true
  | .roleDrainTimeout pm => fits 64 pm
  | .pairBind h buddy reservePct => hdrOk h && fits 64 buddy && fits 8 reservePct
  | .pairBindTimeout pm => fits 64 pm
  | .setCheckpoint h timerMs steps => hdrOk h && fits 32 timerMs && fits 32 steps
  | .setConsent h token _ => hdrOk h && readOk token
  | .withdrawConsent h => hdrOk h
  | .setConsentKey h key _ => hdrOk h && readOk key
  | .setDeviceSet h body => hdrOk h && readOk body
  | .fwDownload h offset body => hdrOk h && fits 32 offset && readOk body
  | .fwActivate h slot _ => hdrOk h && fits 8 slot
  | .fwCommit h => hdrOk h
  | .trialCommitTimer pm => fits 64 pm
  | .hmAssign h mask memFrames => hdrOk h && fits 16 mask && fits 32 memFrames
  | .hmLoad h offset body => hdrOk h && fits 32 offset && readOk body
  | .hmStart h mask entry => hdrOk h && fits 16 mask && fits 64 entry
  | .hmStop h mask => hdrOk h && fits 16 mask
  | .openConnection h peerIp peerMac peerUdp peerConn peerDevice port mtu flags dscp => hdrOk h && fits 128 peerIp && fits 64 peerMac && fits 64 peerUdp && fits 64 peerConn && fits 64 peerDevice && fits 8 port && fits 16 mtu && fits 16 flags && fits 64 dscp
  | .closeConnection h => hdrOk h
  | .queryConnection h => hdrOk h
  | .mediaFormat h lifeDays _ _ => hdrOk h && fits 32 lifeDays
  | .mediaAttach h lifeDays _ _ => hdrOk h && fits 32 lifeDays
  | .mediaReclaim h => hdrOk h
  | .setWallClock h wallNs => hdrOk h && fits 64 wallNs
  | .pairUnbind h => hdrOk h
  | .restoreDevice h source holder => hdrOk h && fits 64 source && fits 64 holder
  | .restoreDone => true
  | .restoreSession h handle => hdrOk h && fits 64 handle
  | .succession h failed successor => hdrOk h && fits 64 failed && fits 64 successor
  | .releaseFrozen h source => hdrOk h && fits 64 source
  | .adminSqTail fn value entries => fnOk fn && fits 32 value && slotsOk entries
  | .adminRqHead fn value => fnOk fn && fits 32 value
  | .eventHead fn value => fnOk fn && fits 32 value
  | .stepSqTail fn n value entries => fnOk fn && fits 16 n && fits 32 value && slotsOk entries
  | .stepRqHead fn n value => fnOk fn && fits 16 n && fits 32 value
  | .textSqTail fn value entries => fnOk fn && fits 32 value && slotsOk entries
  | .textRqHead fn value => fnOk fn && fits 32 value
  | .searchSqTail fn value entries => fnOk fn && fits 32 value && slotsOk entries
  | .searchRqHead fn value => fnOk fn && fits 32 value
  | .enable fn _ => fnOk fn
  | .adminEn fn _ => fnOk fn
  | .eventEn fn _ => fnOk fn
  | .textEn fn _ => fnOk fn
  | .searchEn fn _ => fnOk fn
  | .postmarkLo fn pm => fnOk fn && fits 64 pm
  | .vfCompat _ => true
  | .receiptHold fn _ => fnOk fn
  | .coalesce fn _ => fnOk fn
  | .fwdGrace _ => true
  | .snoopTimeout _ => true
  | .lcLimit _ => true
  | .lcShare partition _ => fits 8 partition
  | .twRto _ => true
  | .twCc _ => true
  | .twAck _ => true
  | .pwrCtrl _ => true
  | .warmReserve _ => true
  | .thermalCfg _ => true
  | .powerCap _ => true
  | .liveApplied _ pm => fits 64 pm
  | .liveApplyDeadline _ pm => fits 64 pm
  | .swRegion n _ => fits 16 n
  | .portCfg n _ => fits 16 n
  | .twCtrlEnable _ => true
  | .flashCh n _ => fits 16 n
  | .registerWrite fn port _ value => fnOk fn && fits 8 port && fits 32 value
  | .vfEnableClear => true
  | .perFunctionReset fn => fnOk fn
  | .pf0Reset => true
  | .flrDone fn => fnOk fn
  | .operationComplete tag pm => fits 32 tag && fits 64 pm
  | .receiptHoldExpiry fn ring pm => fnOk fn && ringIdOk ring && fits 64 pm
  | .coalesceTimeout fn ring pm => fnOk fn && ringIdOk ring && fits 64 pm
  | .step h n e => hdrOk h && fits 16 n && stepOk e
  | .pageTaskDone region block pm => fits 8 region && fits 8 block && fits 64 pm
  | .stepMerge tag pm => fits 32 tag && fits 64 pm
  | .commit h n handle descIndex round mask => hdrOk h && fits 16 n && fits 64 handle && fits 32 descIndex && fits 16 round && fits 16 mask
  | .commitApply d pm => fits 64 d && fits 64 pm
  | .commitNotice pm => fits 64 pm
  | .maskReady d mask pm => fits 64 d && fits 16 mask && fits 64 pm
  | .openStream h direction flags vocab => hdrOk h && fits 8 direction && fits 16 flags && fits 32 vocab
  | .tokenize h outAddr outCap final input => hdrOk h && fits 64 outAddr && fits 64 outCap && fits 8 final && readOk input
  | .detokenize h outAddr outCap final input => hdrOk h && fits 64 outAddr && fits 64 outCap && fits 8 final && readOk input
  | .closeStream h => hdrOk h
  | .readText h handle cursor waitMs flags => hdrOk h && fits 64 handle && fits 32 cursor && fits 32 waitMs && fits 16 flags
  | .readTextWaitExpiry tag pm => fits 32 tag && fits 64 pm
  | .readMask h handle round which => hdrOk h && fits 64 handle && fits 16 round && fits 16 which
  | .setRules h handle body => hdrOk h && fits 64 handle && readOk body
  | .resetConstraint h handle state => hdrOk h && fits 64 handle && fits 32 state
  | .search h e operand => hdrOk h && searchOk e && readOk operand
  | .searchDeadline tag pm => fits 32 tag && fits 64 pm
  | .insert h shard gid body => hdrOk h && fits 16 shard && fits 64 gid && readOk body
  | .deleteNode h shard slot gen => hdrOk h && fits 16 shard && fits 8 slot && fits 64 gen
  | .mapShards h body => hdrOk h && readOk body
  | .queryIndex h => hdrOk h
  | .mendingBatch index shard => fits 16 index && fits 16 shard
  | .slotRelease index shard slot => fits 16 index && fits 16 shard && fits 8 slot
  | .shardVerified index shard => fits 16 index && fits 16 shard
  | .idleTimer d pm => fits 64 d && fits 64 pm
  | .ebbStart d pm => fits 64 d && fits 64 pm
  | .copyStored d layer page => fits 64 d && fits 8 layer && fits 16 page
  | .ebbComplete d => fits 64 d
  | .floodStart d pm => fits 64 d && fits 64 pm
  | .floodPageArrived d layer page pm => fits 64 d && fits 8 layer && fits 16 page && fits 64 pm
  | .resumePmPassed d pm => fits 64 d && fits 64 pm
  | .bundleEbb object pm => fits 64 object && fits 64 pm
  | .blockedRetry d pm => fits 64 d && fits 64 pm
  | .budgetDay pm => fits 64 pm
  | .soundingsAging pm => fits 64 pm
  | .policyProducerIndex _ _ => true
  | .policyEntry => true
  | .descDirtyTimeout d pm => fits 64 d && fits 64 pm
  | .pageWrite p => pktOk p
  | .stepEntry p => pktOk p
  | .textRead p => pktOk p
  | .bundleRead p => pktOk p
  | .write p => pktOk p
  | .read p data => pktOk p && readOk data
  | .respData p => pktOk p
  | .ack _ => true
  | .completion p => pktOk p
  | .shardSearch p => pktOk p
  | .poolPut p => pktOk p
  | .poolGet p => pktOk p
  | .poolFree p => pktOk p
  | .migrateOffer p _ => pktOk p
  | .migratePages p _ => pktOk p
  | .migratePrepare p _ => pktOk p
  | .handover d pm => fits 64 d && fits 64 pm
  | .migrateCommit p => pktOk p
  | .migrateAbort p => pktOk p
  | .stubRelease d pm => fits 64 d && fits 64 pm
  | .rtoExpiry c pm => fits 32 c && fits 64 pm
  | .ackDelayExpiry c pm => fits 32 c && fits 64 pm
  | .aiInterval c pm => fits 32 c && fits 64 pm
  | .priTimeout c pm => fits 32 c && fits 64 pm
  | .contextFetched c => fits 32 c
  | .arpRequest n ip bytes => fits 16 n && fits 128 ip && fits 64 bytes
  | .neighborSolicitation n ip bytes => fits 16 n && fits 128 ip && fits 64 bytes
  | .macControlFrame n bytes => fits 16 n && fits 64 bytes
  | .frameDropped n bytes _ => fits 16 n && fits 64 bytes
  | .portUp n lanes => fits 16 n && fits 8 lanes
  | .portDown n => fits 16 n
  | .fecDegraded n codewords => fits 16 n && fits 32 codewords
  | .memRead host dpa hold => fits 8 host && fits 64 dpa && fits 8 hold
  | .memWrite host dpa hold bytes mask => fits 8 host && fits 64 dpa && fits 8 hold && bytesOk bytes && fits 16 mask
  | .writeBack host dpa hold bytes => fits 8 host && fits 64 dpa && fits 8 hold && bytesOk bytes
  | .birspi host dpa => fits 8 host && fits 64 dpa
  | .snoopTimeoutExpired host dpa pm => fits 8 host && fits 64 dpa && fits 64 pm
  | .hmWindowAccess dpa _ => fits 64 dpa
  | .addDynamicCapacityResponse host region extent _ => fits 8 host && fits 8 region && fits 16 extent
  | .addExtentTimeout region extent host pm => fits 8 region && fits 16 extent && fits 8 host && fits 64 pm
  | .releaseDynamicCapacity host region extent => fits 8 host && fits 8 region && fits 16 extent
  | .scrubComplete region extent => fits 8 region && fits 16 extent
  | .clearPoison host dpa bytes => fits 8 host && fits 64 dpa && bytesOk bytes
  | .getPoisonList host => fits 8 host
  | .identifyMemoryDevice host => fits 8 host
  | .getDynamicCapacityConfiguration host => fits 8 host
  | .getDynamicCapacityExtentList host => fits 8 host
  | .getEventRecords host _ => fits 8 host
  | .clearEventRecords host _ n => fits 8 host && fits 16 n
  | .bindLd port ld => fits 8 port && fits 8 ld
  | .unbindLd port ld => fits 8 port && fits 8 ld
  | .getLdInfo port => fits 8 port
  | .flashReadDone shingle row unit _ => fits 32 shingle && fits 16 row && fits 16 unit
  | .programDone shingle unit _ => fits 32 shingle && fits 16 unit
  | .eraseDone shingle unit _ => fits 32 shingle && fits 16 unit
  | .rowFillTimeout shingle pm => fits 32 shingle && fits 64 pm
  | .relocateShingle pm => fits 64 pm
  | .retentionScan shingle _ pm => fits 32 shingle && fits 64 pm
  | .refreshBehind pm => fits 64 pm
  | .formatRecordHourly pm => fits 64 pm
  | .isthmusHeartbeat pm => fits 64 pm
  | .buddyLost pm => fits 64 pm
  | .buddyAnnounce _ pm => fits 64 pm
  | .buddyRestartTimeout pm => fits 64 pm
  | .linkDegraded half lanes => fits 8 half && fits 8 lanes
  | .parkCopy loc _ => fits 64 loc
  | .mirrorCopy _ => true
  | .releaseNotice _ => true
  | .epochStart pm => fits 64 pm
  | .checkpointDelta epoch _ bytes => fits 32 epoch && bytesOk bytes
  | .commitRecord _ => true
  | .epochCommitted epoch => fits 32 epoch
  | .pairKeyUpdate half pm => fits 8 half && fits 64 pm
  | .attentionCellError region block cell info pm => fits 8 region && fits 8 block && fits 8 cell && fits 32 info && fits 64 pm
  | .cellError region kind index cell info pm => fits 8 region && fits 16 kind && fits 16 index && fits 8 cell && fits 32 info && fits 64 pm
  | .connectionCacheError region cell info dur pm => fits 8 region && fits 8 cell && fits 32 info && fits 64 dur && fits 64 pm
  | .coreError block core info pm => fits 8 block && fits 8 core && fits 32 info && fits 64 pm
  | .cellSelfTestDone region kind index cell _ again pm => fits 8 region && fits 16 kind && fits 16 index && fits 8 cell && natsOk again && fits 64 pm
  | .blockError region kind index info dur pm => fits 8 region && fits 16 kind && fits 16 index && fits 32 info && fits 64 dur && fits 64 pm
  | .descriptorCacheError d info dur pm => fits 64 d && fits 32 info && fits 64 dur && fits 64 pm
  | .hbmUncorrectable stack frame _ info dur pm => fits 32 stack && fits 32 frame && fits 32 info && fits 64 dur && fits 64 pm
  | .correctedError cls _ pm => fits 16 cls && fits 64 pm
  | .regionError region info pm => fits 8 region && fits 32 info && fits 64 pm
  | .regionReturn region _ again pm => fits 8 region && natsOk again && fits 64 pm
  | .chipError info pm => fits 32 info && fits 64 pm
  | .chipRestartDone again pm => natsOk again && fits 64 pm
  | .lighthouseSounding meters pm => metersOk meters && fits 64 pm
  | .lighthouseRecord pm => fits 64 pm
  | .pldmSensorRead id => fits 16 id
  | .pldmFirmwareUpdate _ => true
  | .vendorStatus => true
  | .vendorLog log off => fits 32 log && fits 32 off
  | .alertResponse => true
  | .getVersion via => viaOk via
  | .getCapabilities via => viaOk via
  | .negotiateAlgorithms via _ => viaOk via
  | .getDigests via => viaOk via
  | .getCertificate via slot => viaOk via && fits 8 slot
  | .challenge via slot => viaOk via && fits 8 slot
  | .getMeasurements via index => viaOk via && fits 16 index
  | .keyExchange via slot => viaOk via && fits 8 slot
  | .finish via session _ => viaOk via && fits 32 session
  | .spdmHeartbeat via session => viaOk via && fits 32 session
  | .spdmKeyUpdate via session => viaOk via && fits 32 session
  | .endSession via session => viaOk via && fits 32 session
  | .vendorDefinedRequest via _ _ => viaOk via
  | .debugUnlock _ pm => fits 64 pm
  | .consentExpiry partition pm => fits 8 partition && fits 64 pm
  | .wakeAdmit dom pm => fits 32 dom && fits 64 pm
  | .wakeReady dom pm => fits 32 dom && fits 64 pm
  | .blockIdleGate dom pm => fits 32 dom && fits 64 pm
  | .slackEnter _ pm => fits 64 pm
  | .slackEntered pm => fits 64 pm
  | .leavingScheduled pm => fits 64 pm
  | .neighbourCheck a b quantity va vb pm => fits 8 a && fits 8 b && fits 8 quantity && fits 64 va && fits 64 vb && fits 64 pm
  | .neighbourLimitTimeout a b quantity _ pm => fits 8 a && fits 8 b && fits 8 quantity && fits 64 pm
  | .thermalCheck junctions stackTemps pm => natsOk junctions && natsOk stackTemps && fits 64 pm
  | .powerCapCheck pm => fits 64 pm
  | .reserveShort region pm => fits 8 region && fits 64 pm
  | .hostLinkDown p => fits 8 p
  | .isthmusHalfUp half lanes _ pm => fits 8 half && fits 8 lanes && fits 64 pm
  | .buddyHeartbeat pm => fits 64 pm
  | .buddyPairBind dev names reservePct parkPct _ => fits 64 dev && fits 64 names && fits 8 reservePct && fits 8 parkPct
  | .harbourRead source req _ => fits 64 source && fits 64 req
  | .isthmusReadData req _ => fits 64 req
  | .translationResponse fn _ addr len _ => fnOk fn && fits 64 addr && fits 64 len
  | .flashOperationTimeout ch place => fits 16 ch && fits 16 place
  | .powerRemoved => true
  | .debugPortAccess _ => true
  | .vfEnableSet n => fits 16 n
end Sys2Proof
end

