-- ==== Sys2Proof/Laws/PerInstr.lean ====
section
/-! SUPPORT. Claims made for every command, one lemma per constructor. Shape: the function a well-formed ring command or register write
names is PF_0 or one of 64 VFs. -/

namespace Sys2Proof.Laws.Shape

/-- The function that a command names, where it names one. -/
def fnOf : Instr → Option Nat
  | .powerUp => none
  | .porNRise _ _ _ _ _ _ _ => none
  | .selfTestDone _ _ _ => none
  | .porNFall _ => none
  | .perstNFall _ _ => none
  | .perstNRise _ _ _ => none
  | .railOutOfRange _ _ => none
  | .pmbAlertN _ _ => none
  | .regulatorTimeout _ => none
  | .pmbusPoll _ _ => none
  | .identify h => some h.fn
  | .createStepRing h _ _ _ _ => some h.fn
  | .deleteStepRing h => some h.fn
  | .readLog h _ => some h.fn
  | .readDeadLetters h => some h.fn
  | .createAccount h _ => some h.fn
  | .deleteAccount h => some h.fn
  | .setQuota h _ _ => some h.fn
  | .setCeiling h _ _ => some h.fn
  | .queryUsage h => some h.fn
  | .releasePartition h => some h.fn
  | .publishConfig h _ _ _ _ _ => some h.fn
  | .retireConfig h _ _ => some h.fn
  | .queryConfig h _ => some h.fn
  | .loadBundle h _ _ _ _ _ => some h.fn
  | .dropBundle h => some h.fn
  | .placeObject h _ => some h.fn
  | .registerAs h _ _ _ => some h.fn
  | .deregisterAs h => some h.fn
  | .createIndex h _ _ => some h.fn
  | .compactIndex h => some h.fn
  | .deleteIndex h => some h.fn
  | .createSession h _ _ _ _ _ => some h.fn
  | .closeSession h _ => some h.fn
  | .sessionFreed _ => none
  | .setWaiting h _ _ => some h.fn
  | .parkNow h _ => some h.fn
  | .floodNow h _ => some h.fn
  | .querySession h _ => some h.fn
  | .setSessionClass h _ _ => some h.fn
  | .migrateSession h _ _ => some h.fn
  | .addExtent h _ _ => some h.fn
  | .releaseExtent h _ _ => some h.fn
  | .hostLost h _ => some h.fn
  | .acceptLoss h _ _ => some h.fn
  | .setChart h _ _ => some h.fn
  | .setRole h _ _ => some h.fn
  | .roleDrainEnd => none
  | .roleDrainTimeout _ => none
  | .pairBind h _ _ => some h.fn
  | .pairBindTimeout _ => none
  | .setCheckpoint h _ _ => some h.fn
  | .setConsent h _ _ => some h.fn
  | .withdrawConsent h => some h.fn
  | .setConsentKey h _ _ => some h.fn
  | .setDeviceSet h _ => some h.fn
  | .fwDownload h _ _ => some h.fn
  | .fwActivate h _ _ => some h.fn
  | .fwCommit h => some h.fn
  | .trialCommitTimer _ => none
  | .hmAssign h _ _ => some h.fn
  | .hmLoad h _ _ => some h.fn
  | .hmStart h _ _ => some h.fn
  | .hmStop h _ => some h.fn
  | .openConnection h _ _ _ _ _ _ _ _ _ => some h.fn
  | .closeConnection h => some h.fn
  | .queryConnection h => some h.fn
  | .mediaFormat h _ _ _ => some h.fn
  | .mediaAttach h _ _ _ => some h.fn
  | .mediaReclaim h => some h.fn
  | .setWallClock h _ => some h.fn
  | .pairUnbind h => some h.fn
  | .restoreDevice h _ _ => some h.fn
  | .restoreDone => none
  | .restoreSession h _ => some h.fn
  | .succession h _ _ => some h.fn
  | .releaseFrozen h _ => some h.fn
  | .adminSqTail fn _ _ => some fn
  | .adminRqHead fn _ => some fn
  | .eventHead fn _ => some fn
  | .stepSqTail fn _ _ _ => some fn
  | .stepRqHead fn _ _ => some fn
  | .textSqTail fn _ _ => some fn
  | .textRqHead fn _ => some fn
  | .searchSqTail fn _ _ => some fn
  | .searchRqHead fn _ => some fn
  | .enable fn _ => some fn
  | .adminEn fn _ => some fn
  | .eventEn fn _ => some fn
  | .textEn fn _ => some fn
  | .searchEn fn _ => some fn
  | .postmarkLo fn _ => some fn
  | .vfCompat _ => none
  | .receiptHold fn _ => some fn
  | .coalesce fn _ => some fn
  | .fwdGrace _ => none
  | .snoopTimeout _ => none
  | .lcLimit _ => none
  | .lcShare _ _ => none
  | .twRto _ => none
  | .twCc _ => none
  | .twAck _ => none
  | .pwrCtrl _ => none
  | .warmReserve _ => none
  | .thermalCfg _ => none
  | .powerCap _ => none
  | .liveApplied _ _ => none
  | .liveApplyDeadline _ _ => none
  | .swRegion _ _ => none
  | .portCfg _ _ => none
  | .twCtrlEnable _ => none
  | .flashCh _ _ => none
  | .registerWrite fn _ _ _ => some fn
  | .vfEnableClear => none
  | .perFunctionReset fn => some fn
  | .pf0Reset => none
  | .flrDone fn => some fn
  | .operationComplete _ _ => none
  | .receiptHoldExpiry fn _ _ => some fn
  | .coalesceTimeout fn _ _ => some fn
  | .step h _ _ => some h.fn
  | .pageTaskDone _ _ _ => none
  | .stepMerge _ _ => none
  | .commit h _ _ _ _ _ => some h.fn
  | .commitApply _ _ => none
  | .commitNotice _ => none
  | .maskReady _ _ _ => none
  | .openStream h _ _ _ => some h.fn
  | .tokenize h _ _ _ _ => some h.fn
  | .detokenize h _ _ _ _ => some h.fn
  | .closeStream h => some h.fn
  | .readText h _ _ _ _ => some h.fn
  | .readTextWaitExpiry _ _ => none
  | .readMask h _ _ _ => some h.fn
  | .setRules h _ _ => some h.fn
  | .resetConstraint h _ _ => some h.fn
  | .search h _ _ => some h.fn
  | .searchDeadline _ _ => none
  | .insert h _ _ _ => some h.fn
  | .deleteNode h _ _ _ => some h.fn
  | .mapShards h _ => some h.fn
  | .queryIndex h => some h.fn
  | .mendingBatch _ _ => none
  | .slotRelease _ _ _ => none
  | .shardVerified _ _ => none
  | .idleTimer _ _ => none
  | .ebbStart _ _ => none
  | .copyStored _ _ _ => none
  | .ebbComplete _ => none
  | .floodStart _ _ => none
  | .floodPageArrived _ _ _ _ => none
  | .resumePmPassed _ _ => none
  | .bundleEbb _ _ => none
  | .blockedRetry _ _ => none
  | .budgetDay _ => none
  | .soundingsAging _ => none
  | .policyProducerIndex _ _ => none
  | .policyEntry => none
  | .descDirtyTimeout _ _ => none
  | .pageWrite _ => none
  | .stepEntry _ => none
  | .textRead _ => none
  | .bundleRead _ => none
  | .write _ => none
  | .read _ _ => none
  | .respData _ => none
  | .ack _ => none
  | .completion _ => none
  | .shardSearch _ => none
  | .poolPut _ => none
  | .poolGet _ => none
  | .poolFree _ => none
  | .migrateOffer _ _ => none
  | .migratePages _ _ => none
  | .migratePrepare _ _ => none
  | .handover _ _ => none
  | .migrateCommit _ => none
  | .migrateAbort _ => none
  | .stubRelease _ _ => none
  | .rtoExpiry _ _ => none
  | .ackDelayExpiry _ _ => none
  | .aiInterval _ _ => none
  | .priTimeout _ _ => none
  | .contextFetched _ => none
  | .arpRequest _ _ _ => none
  | .neighborSolicitation _ _ _ => none
  | .macControlFrame _ _ => none
  | .frameDropped _ _ _ => none
  | .portUp _ _ => none
  | .portDown _ => none
  | .fecDegraded _ _ => none
  | .memRead _ _ _ => none
  | .memWrite _ _ _ _ _ => none
  | .writeBack _ _ _ _ => none
  | .birspi _ _ => none
  | .snoopTimeoutExpired _ _ _ => none
  | .hmWindowAccess _ _ => none
  | .addDynamicCapacityResponse _ _ _ _ => none
  | .addExtentTimeout _ _ _ _ => none
  | .releaseDynamicCapacity _ _ _ => none
  | .scrubComplete _ _ => none
  | .clearPoison _ _ _ => none
  | .getPoisonList _ => none
  | .identifyMemoryDevice _ => none
  | .getDynamicCapacityConfiguration _ => none
  | .getDynamicCapacityExtentList _ => none
  | .getEventRecords _ _ => none
  | .clearEventRecords _ _ _ => none
  | .bindLd _ _ => none
  | .unbindLd _ _ => none
  | .getLdInfo _ => none
  | .flashReadDone _ _ _ _ => none
  | .programDone _ _ _ => none
  | .eraseDone _ _ _ => none
  | .rowFillTimeout _ _ => none
  | .relocateShingle _ => none
  | .retentionScan _ _ _ => none
  | .refreshBehind _ => none
  | .formatRecordHourly _ => none
  | .isthmusHeartbeat _ => none
  | .buddyLost _ => none
  | .buddyAnnounce _ _ => none
  | .buddyRestartTimeout _ => none
  | .linkDegraded _ _ => none
  | .parkCopy _ _ => none
  | .mirrorCopy _ => none
  | .releaseNotice _ => none
  | .epochStart _ => none
  | .checkpointDelta _ _ _ => none
  | .commitRecord _ => none
  | .epochCommitted _ => none
  | .pairKeyUpdate _ _ => none
  | .attentionCellError _ _ _ _ _ => none
  | .cellError _ _ _ _ _ _ => none
  | .connectionCacheError _ _ _ _ _ => none
  | .coreError _ _ _ _ => none
  | .cellSelfTestDone _ _ _ _ _ _ _ => none
  | .blockError _ _ _ _ _ _ => none
  | .descriptorCacheError _ _ _ _ => none
  | .hbmUncorrectable _ _ _ _ _ _ => none
  | .correctedError _ _ _ => none
  | .regionError _ _ _ => none
  | .regionReturn _ _ _ _ => none
  | .chipError _ _ => none
  | .chipRestartDone _ _ => none
  | .lighthouseSounding _ _ => none
  | .lighthouseRecord _ => none
  | .pldmSensorRead _ => none
  | .pldmFirmwareUpdate _ => none
  | .vendorStatus => none
  | .vendorLog _ _ => none
  | .alertResponse => none
  | .getVersion _ => none
  | .getCapabilities _ => none
  | .negotiateAlgorithms _ _ => none
  | .getDigests _ => none
  | .getCertificate _ _ => none
  | .challenge _ _ => none
  | .getMeasurements _ _ => none
  | .keyExchange _ _ => none
  | .finish _ _ _ => none
  | .spdmHeartbeat _ _ => none
  | .spdmKeyUpdate _ _ => none
  | .endSession _ _ => none
  | .vendorDefinedRequest _ _ _ => none
  | .debugUnlock _ _ => none
  | .consentExpiry _ _ => none
  | .wakeAdmit _ _ => none
  | .wakeReady _ _ => none
  | .blockIdleGate _ _ => none
  | .slackEnter _ _ => none
  | .slackEntered _ => none
  | .leavingScheduled _ => none
  | .neighbourCheck _ _ _ _ _ _ => none
  | .neighbourLimitTimeout _ _ _ _ _ => none
  | .thermalCheck _ _ _ => none
  | .powerCapCheck _ => none
  | .reserveShort _ _ => none
  | .hostLinkDown _ => none
  | .isthmusHalfUp _ _ _ _ => none
  | .buddyHeartbeat _ => none
  | .buddyPairBind _ _ _ _ _ => none
  | .harbourRead _ _ _ => none
  | .isthmusReadData _ _ => none
  | .translationResponse fn _ _ _ _ => some fn
  | .flashOperationTimeout _ _ => none
  | .powerRemoved => none
  | .debugPortAccess _ => none
  | .vfEnableSet _ => none

theorem band {a b : Bool} (h : (a && b) = true) : a = true := (Bool.and_eq_true_iff.mp h).1

theorem hdrFn {h : Hdr} (w : hdrOk h = true) : h.fn ≤ 64 := of_decide_eq_true (band (band (band (band (band (band w))))))

/-- The claim of the family. -/
def Statement (i : Instr) : Prop := i.wellFormed = true → ∀ fn, fnOf i = some fn → fn ≤ 64

theorem powerUp : Statement (.powerUp) := fun _ _ h => nomatch h

theorem porNRise (sel : Nat) (pairId : Bool) (mgmt : Nat) (slotA : SlotFound) (slotB : SlotFound) (norAnswers : Bool) (pm : Nat) : Statement (.porNRise sel pairId mgmt slotA slotB norAnswers pm) := fun _ _ h => nomatch h

theorem selfTestDone (failedRegions : List Nat) (failedCells : List (Nat × Nat × Nat × Nat)) (pm : Nat) : Statement (.selfTestDone failedRegions failedCells pm) := fun _ _ h => nomatch h

theorem porNFall (pm : Nat) : Statement (.porNFall pm) := fun _ _ h => nomatch h

theorem perstNFall (p : Nat) (pm : Nat) : Statement (.perstNFall p pm) := fun _ _ h => nomatch h

theorem perstNRise (p : Nat) (version : Nat) (switched : Bool) : Statement (.perstNRise p version switched) := fun _ _ h => nomatch h

theorem railOutOfRange (rail : Rail) (pm : Nat) : Statement (.railOutOfRange rail pm) := fun _ _ h => nomatch h

theorem pmbAlertN (region : Nat) (pm : Nat) : Statement (.pmbAlertN region pm) := fun _ _ h => nomatch h

theorem regulatorTimeout (region : Nat) : Statement (.regulatorTimeout region) := fun _ _ h => nomatch h

theorem pmbusPoll (reads : List RailRead) (pm : Nat) : Statement (.pmbusPoll reads pm) := fun _ _ h => nomatch h

theorem identify (h : Hdr) : Statement (.identify h) := fun w _ h => Option.some.inj h ▸ hdrFn w

theorem createStepRing (h : Hdr) (sqBase : Nat) (rqBase : Nat) (depth : Nat) (vector : Nat) : Statement (.createStepRing h sqBase rqBase depth vector) := fun w _ h => Option.some.inj h ▸ hdrFn (band (band (band (band w))))

theorem deleteStepRing (h : Hdr) : Statement (.deleteStepRing h) := fun w _ h => Option.some.inj h ▸ hdrFn w

theorem readLog (h : Hdr) (log : Nat) : Statement (.readLog h log) := fun w _ h => Option.some.inj h ▸ hdrFn (band w)

theorem readDeadLetters (h : Hdr) : Statement (.readDeadLetters h) := fun w _ h => Option.some.inj h ▸ hdrFn w

theorem createAccount (h : Hdr) (partition : Nat) : Statement (.createAccount h partition) := fun w _ h => Option.some.inj h ▸ hdrFn (band w)

theorem deleteAccount (h : Hdr) : Statement (.deleteAccount h) := fun w _ h => Option.some.inj h ▸ hdrFn w

theorem setQuota (h : Hdr) (tier : Nat) (bytes : Nat) : Statement (.setQuota h tier bytes) := fun w _ h => Option.some.inj h ▸ hdrFn (band (band w))

theorem setCeiling (h : Hdr) (tier : Nat) (bytes : Nat) : Statement (.setCeiling h tier bytes) := fun w _ h => Option.some.inj h ▸ hdrFn (band (band w))

theorem queryUsage (h : Hdr) : Statement (.queryUsage h) := fun w _ h => Option.some.inj h ▸ hdrFn w

theorem releasePartition (h : Hdr) : Statement (.releasePartition h) := fun w _ h => Option.some.inj h ▸ hdrFn w

theorem publishConfig (h : Hdr) (kind : Nat) (base : Nat) (account : Nat) (body : HostRead) (sv : SealVerdict) : Statement (.publishConfig h kind base account body sv) := fun w _ h => Option.some.inj h ▸ hdrFn (band (band (band (band w))))

theorem retireConfig (h : Hdr) (kind : Nat) (version : Nat) : Statement (.retireConfig h kind version) := fun w _ h => Option.some.inj h ▸ hdrFn (band (band w))

theorem queryConfig (h : Hdr) (kind : Nat) : Statement (.queryConfig h kind) := fun w _ h => Option.some.inj h ▸ hdrFn (band w)

theorem loadBundle (h : Hdr) (bundleKind : Nat) (cls : Nat) (body : HostRead) (sv : SealVerdict) (shards : List ShardImg) : Statement (.loadBundle h bundleKind cls body sv shards) := fun w _ h => Option.some.inj h ▸ hdrFn (band (band (band w)))

theorem dropBundle (h : Hdr) : Statement (.dropBundle h) := fun w _ h => Option.some.inj h ▸ hdrFn w

theorem placeObject (h : Hdr) (cls : Nat) : Statement (.placeObject h cls) := fun w _ h => Option.some.inj h ▸ hdrFn (band w)

theorem registerAs (h : Hdr) (pasid : Nat) (account : Nat) (perms : Nat) : Statement (.registerAs h pasid account perms) := fun w _ h => Option.some.inj h ▸ hdrFn (band (band (band w)))

theorem deregisterAs (h : Hdr) : Statement (.deregisterAs h) := fun w _ h => Option.some.inj h ▸ hdrFn w

theorem createIndex (h : Hdr) (cls : Nat) (params : HostRead) : Statement (.createIndex h cls params) := fun w _ h => Option.some.inj h ▸ hdrFn (band (band w))

theorem compactIndex (h : Hdr) : Statement (.compactIndex h) := fun w _ h => Option.some.inj h ▸ hdrFn w

theorem deleteIndex (h : Hdr) : Statement (.deleteIndex h) := fun w _ h => Option.some.inj h ▸ hdrFn w

theorem createSession (h : Hdr) (handle : Nat) (profile : Nat) (vocab : Nat) (constr : Nat) (cls : Nat) : Statement (.createSession h handle profile vocab constr cls) := fun w _ h => Option.some.inj h ▸ hdrFn (band (band (band (band (band w)))))

theorem closeSession (h : Hdr) (handle : Nat) : Statement (.closeSession h handle) := fun w _ h => Option.some.inj h ▸ hdrFn (band w)

theorem sessionFreed (d : Nat) : Statement (.sessionFreed d) := fun _ _ h => nomatch h

theorem setWaiting (h : Hdr) (handle : Nat) (expectedMs : Nat) : Statement (.setWaiting h handle expectedMs) := fun w _ h => Option.some.inj h ▸ hdrFn (band (band w))

theorem parkNow (h : Hdr) (handle : Nat) : Statement (.parkNow h handle) := fun w _ h => Option.some.inj h ▸ hdrFn (band w)

theorem floodNow (h : Hdr) (handle : Nat) : Statement (.floodNow h handle) := fun w _ h => Option.some.inj h ▸ hdrFn (band w)

theorem querySession (h : Hdr) (handle : Nat) : Statement (.querySession h handle) := fun w _ h => Option.some.inj h ▸ hdrFn (band w)

theorem setSessionClass (h : Hdr) (handle : Nat) (cls : Nat) : Statement (.setSessionClass h handle cls) := fun w _ h => Option.some.inj h ▸ hdrFn (band (band w))

theorem migrateSession (h : Hdr) (handle : Nat) (target : Nat) : Statement (.migrateSession h handle target) := fun w _ h => Option.some.inj h ▸ hdrFn (band (band w))

theorem addExtent (h : Hdr) (extent : Nat) (host : Nat) : Statement (.addExtent h extent host) := fun w _ h => Option.some.inj h ▸ hdrFn (band (band w))

theorem releaseExtent (h : Hdr) (extent : Nat) (host : Nat) : Statement (.releaseExtent h extent host) := fun w _ h => Option.some.inj h ▸ hdrFn (band (band w))

theorem hostLost (h : Hdr) (host : Nat) : Statement (.hostLost h host) := fun w _ h => Option.some.inj h ▸ hdrFn (band w)

theorem acceptLoss (h : Hdr) (extent : Nat) (offset : Nat) : Statement (.acceptLoss h extent offset) := fun w _ h => Option.some.inj h ▸ hdrFn (band (band w))

theorem setChart (h : Hdr) (epoch : Nat) (body : HostRead) : Statement (.setChart h epoch body) := fun w _ h => Option.some.inj h ▸ hdrFn (band (band w))

theorem setRole (h : Hdr) (role : Nat) (profile : Nat) : Statement (.setRole h role profile) := fun w _ h => Option.some.inj h ▸ hdrFn (band (band w))

theorem roleDrainEnd : Statement (.roleDrainEnd) := fun _ _ h => nomatch h

theorem roleDrainTimeout (pm : Nat) : Statement (.roleDrainTimeout pm) := fun _ _ h => nomatch h

theorem pairBind (h : Hdr) (buddy : Nat) (reservePct : Nat) : Statement (.pairBind h buddy reservePct) := fun w _ h => Option.some.inj h ▸ hdrFn (band (band w))

theorem pairBindTimeout (pm : Nat) : Statement (.pairBindTimeout pm) := fun _ _ h => nomatch h

theorem setCheckpoint (h : Hdr) (timerMs : Nat) (steps : Nat) : Statement (.setCheckpoint h timerMs steps) := fun w _ h => Option.some.inj h ▸ hdrFn (band (band w))

theorem setConsent (h : Hdr) (token : HostRead) (signed : Bool) : Statement (.setConsent h token signed) := fun w _ h => Option.some.inj h ▸ hdrFn (band w)

theorem withdrawConsent (h : Hdr) : Statement (.withdrawConsent h) := fun w _ h => Option.some.inj h ▸ hdrFn w

theorem setConsentKey (h : Hdr) (key : HostRead) (proved : Bool) : Statement (.setConsentKey h key proved) := fun w _ h => Option.some.inj h ▸ hdrFn (band w)

theorem setDeviceSet (h : Hdr) (body : HostRead) : Statement (.setDeviceSet h body) := fun w _ h => Option.some.inj h ▸ hdrFn (band w)

theorem fwDownload (h : Hdr) (offset : Nat) (body : HostRead) : Statement (.fwDownload h offset body) := fun w _ h => Option.some.inj h ▸ hdrFn (band (band w))

theorem fwActivate (h : Hdr) (slot : Nat) (found : SlotFound) : Statement (.fwActivate h slot found) := fun w _ h => Option.some.inj h ▸ hdrFn (band w)

theorem fwCommit (h : Hdr) : Statement (.fwCommit h) := fun w _ h => Option.some.inj h ▸ hdrFn w

theorem trialCommitTimer (pm : Nat) : Statement (.trialCommitTimer pm) := fun _ _ h => nomatch h

theorem hmAssign (h : Hdr) (mask : Nat) (memFrames : Nat) : Statement (.hmAssign h mask memFrames) := fun w _ h => Option.some.inj h ▸ hdrFn (band (band w))

theorem hmLoad (h : Hdr) (offset : Nat) (body : HostRead) : Statement (.hmLoad h offset body) := fun w _ h => Option.some.inj h ▸ hdrFn (band (band w))

theorem hmStart (h : Hdr) (mask : Nat) (entry : Nat) : Statement (.hmStart h mask entry) := fun w _ h => Option.some.inj h ▸ hdrFn (band (band w))

theorem hmStop (h : Hdr) (mask : Nat) : Statement (.hmStop h mask) := fun w _ h => Option.some.inj h ▸ hdrFn (band w)

theorem openConnection (h : Hdr) (peerIp : Nat) (peerMac : Nat) (peerUdp : Nat) (peerConn : Nat) (peerDevice : Nat) (port : Nat) (mtu : Nat) (flags : Nat) (dscp : Nat) : Statement (.openConnection h peerIp peerMac peerUdp peerConn peerDevice port mtu flags dscp) := fun w _ h => Option.some.inj h ▸ hdrFn (band (band (band (band (band (band (band (band (band w)))))))))

theorem closeConnection (h : Hdr) : Statement (.closeConnection h) := fun w _ h => Option.some.inj h ▸ hdrFn w

theorem queryConnection (h : Hdr) : Statement (.queryConnection h) := fun w _ h => Option.some.inj h ▸ hdrFn w

theorem mediaFormat (h : Hdr) (lifeDays : Nat) (profile : ProfileRead) (found : List ChFound) : Statement (.mediaFormat h lifeDays profile found) := fun w _ h => Option.some.inj h ▸ hdrFn (band w)

theorem mediaAttach (h : Hdr) (lifeDays : Nat) (profile : ProfileRead) (found : List ChFound) : Statement (.mediaAttach h lifeDays profile found) := fun w _ h => Option.some.inj h ▸ hdrFn (band w)

theorem mediaReclaim (h : Hdr) : Statement (.mediaReclaim h) := fun w _ h => Option.some.inj h ▸ hdrFn w

theorem setWallClock (h : Hdr) (wallNs : Nat) : Statement (.setWallClock h wallNs) := fun w _ h => Option.some.inj h ▸ hdrFn (band w)

theorem pairUnbind (h : Hdr) : Statement (.pairUnbind h) := fun w _ h => Option.some.inj h ▸ hdrFn w

theorem restoreDevice (h : Hdr) (source : Nat) (holder : Nat) : Statement (.restoreDevice h source holder) := fun w _ h => Option.some.inj h ▸ hdrFn (band (band w))

theorem restoreDone : Statement (.restoreDone) := fun _ _ h => nomatch h

theorem restoreSession (h : Hdr) (handle : Nat) : Statement (.restoreSession h handle) := fun w _ h => Option.some.inj h ▸ hdrFn (band w)

theorem succession (h : Hdr) (failed : Nat) (successor : Nat) : Statement (.succession h failed successor) := fun w _ h => Option.some.inj h ▸ hdrFn (band (band w))

theorem releaseFrozen (h : Hdr) (source : Nat) : Statement (.releaseFrozen h source) := fun w _ h => Option.some.inj h ▸ hdrFn (band w)

theorem adminSqTail (fn : Nat) (value : Nat) (entries : List SlotRead) : Statement (.adminSqTail fn value entries) := fun w _ h => Option.some.inj h ▸ of_decide_eq_true (band (band w))

theorem adminRqHead (fn : Nat) (value : Nat) : Statement (.adminRqHead fn value) := fun w _ h => Option.some.inj h ▸ of_decide_eq_true (band w)

theorem eventHead (fn : Nat) (value : Nat) : Statement (.eventHead fn value) := fun w _ h => Option.some.inj h ▸ of_decide_eq_true (band w)

theorem stepSqTail (fn : Nat) (n : Nat) (value : Nat) (entries : List SlotRead) : Statement (.stepSqTail fn n value entries) := fun w _ h => Option.some.inj h ▸ of_decide_eq_true (band (band (band w)))

theorem stepRqHead (fn : Nat) (n : Nat) (value : Nat) : Statement (.stepRqHead fn n value) := fun w _ h => Option.some.inj h ▸ of_decide_eq_true (band (band w))

theorem textSqTail (fn : Nat) (value : Nat) (entries : List SlotRead) : Statement (.textSqTail fn value entries) := fun w _ h => Option.some.inj h ▸ of_decide_eq_true (band (band w))

theorem textRqHead (fn : Nat) (value : Nat) : Statement (.textRqHead fn value) := fun w _ h => Option.some.inj h ▸ of_decide_eq_true (band w)

theorem searchSqTail (fn : Nat) (value : Nat) (entries : List SlotRead) : Statement (.searchSqTail fn value entries) := fun w _ h => Option.some.inj h ▸ of_decide_eq_true (band (band w))

theorem searchRqHead (fn : Nat) (value : Nat) : Statement (.searchRqHead fn value) := fun w _ h => Option.some.inj h ▸ of_decide_eq_true (band w)

theorem enable (fn : Nat) (on : Bool) : Statement (.enable fn on) := fun w _ h => Option.some.inj h ▸ of_decide_eq_true w

theorem adminEn (fn : Nat) (on : Bool) : Statement (.adminEn fn on) := fun w _ h => Option.some.inj h ▸ of_decide_eq_true w

theorem eventEn (fn : Nat) (on : Bool) : Statement (.eventEn fn on) := fun w _ h => Option.some.inj h ▸ of_decide_eq_true w

theorem textEn (fn : Nat) (on : Bool) : Statement (.textEn fn on) := fun w _ h => Option.some.inj h ▸ of_decide_eq_true w

theorem searchEn (fn : Nat) (on : Bool) : Statement (.searchEn fn on) := fun w _ h => Option.some.inj h ▸ of_decide_eq_true w

theorem postmarkLo (fn : Nat) (pm : Nat) : Statement (.postmarkLo fn pm) := fun w _ h => Option.some.inj h ▸ of_decide_eq_true (band w)

theorem vfCompat (value : Word64) : Statement (.vfCompat value) := fun _ _ h => nomatch h

theorem receiptHold (fn : Nat) (value : Word32) : Statement (.receiptHold fn value) := fun w _ h => Option.some.inj h ▸ of_decide_eq_true w

theorem coalesce (fn : Nat) (value : Word32) : Statement (.coalesce fn value) := fun w _ h => Option.some.inj h ▸ of_decide_eq_true w

theorem fwdGrace (value : Word32) : Statement (.fwdGrace value) := fun _ _ h => nomatch h

theorem snoopTimeout (value : Word32) : Statement (.snoopTimeout value) := fun _ _ h => nomatch h

theorem lcLimit (value : Word32) : Statement (.lcLimit value) := fun _ _ h => nomatch h

theorem lcShare (partition : Nat) (value : Word32) : Statement (.lcShare partition value) := fun _ _ h => nomatch h

theorem twRto (value : Word64) : Statement (.twRto value) := fun _ _ h => nomatch h

theorem twCc (value : Word64) : Statement (.twCc value) := fun _ _ h => nomatch h

theorem twAck (value : Word32) : Statement (.twAck value) := fun _ _ h => nomatch h

theorem pwrCtrl (value : Word32) : Statement (.pwrCtrl value) := fun _ _ h => nomatch h

theorem warmReserve (value : Word32) : Statement (.warmReserve value) := fun _ _ h => nomatch h

theorem thermalCfg (value : Word32) : Statement (.thermalCfg value) := fun _ _ h => nomatch h

theorem powerCap (value : Word32) : Statement (.powerCap value) := fun _ _ h => nomatch h

theorem liveApplied (field : LiveField) (pm : Nat) : Statement (.liveApplied field pm) := fun _ _ h => nomatch h

theorem liveApplyDeadline (field : LiveField) (pm : Nat) : Statement (.liveApplyDeadline field pm) := fun _ _ h => nomatch h

theorem swRegion (n : Nat) (value : Word64) : Statement (.swRegion n value) := fun _ _ h => nomatch h

theorem portCfg (n : Nat) (value : Word64) : Statement (.portCfg n value) := fun _ _ h => nomatch h

theorem twCtrlEnable (value : Word32) : Statement (.twCtrlEnable value) := fun _ _ h => nomatch h

theorem flashCh (n : Nat) (value : Word64) : Statement (.flashCh n value) := fun _ _ h => nomatch h

theorem registerWrite (fn : Nat) (port : Nat) (reg : PlainReg) (value : Nat) : Statement (.registerWrite fn port reg value) := fun w _ h => Option.some.inj h ▸ of_decide_eq_true (band (band w))

theorem vfEnableClear : Statement (.vfEnableClear) := fun _ _ h => nomatch h

theorem perFunctionReset (fn : Nat) : Statement (.perFunctionReset fn) := fun w _ h => Option.some.inj h ▸ of_decide_eq_true w

theorem pf0Reset : Statement (.pf0Reset) := fun _ _ h => nomatch h

theorem flrDone (fn : Nat) : Statement (.flrDone fn) := fun w _ h => Option.some.inj h ▸ of_decide_eq_true w

theorem operationComplete (tag : Nat) (pm : Nat) : Statement (.operationComplete tag pm) := fun _ _ h => nomatch h

theorem receiptHoldExpiry (fn : Nat) (ring : RingId) (pm : Nat) : Statement (.receiptHoldExpiry fn ring pm) := fun w _ h => Option.some.inj h ▸ of_decide_eq_true (band (band w))

theorem coalesceTimeout (fn : Nat) (ring : RingId) (pm : Nat) : Statement (.coalesceTimeout fn ring pm) := fun w _ h => Option.some.inj h ▸ of_decide_eq_true (band (band w))

theorem step (h : Hdr) (n : Nat) (e : StepEntry) : Statement (.step h n e) := fun w _ h => Option.some.inj h ▸ hdrFn (band (band w))

theorem pageTaskDone (region : Nat) (block : Nat) (pm : Nat) : Statement (.pageTaskDone region block pm) := fun _ _ h => nomatch h

theorem stepMerge (tag : Nat) (pm : Nat) : Statement (.stepMerge tag pm) := fun _ _ h => nomatch h

theorem commit (h : Hdr) (n : Nat) (handle : Nat) (descIndex : Nat) (round : Nat) (mask : Nat) : Statement (.commit h n handle descIndex round mask) := fun w _ h => Option.some.inj h ▸ hdrFn (band (band (band (band (band w)))))

theorem commitApply (d : Nat) (pm : Nat) : Statement (.commitApply d pm) := fun _ _ h => nomatch h

theorem commitNotice (pm : Nat) : Statement (.commitNotice pm) := fun _ _ h => nomatch h

theorem maskReady (d : Nat) (mask : Nat) (pm : Nat) : Statement (.maskReady d mask pm) := fun _ _ h => nomatch h

theorem openStream (h : Hdr) (direction : Nat) (flags : Nat) (vocab : Nat) : Statement (.openStream h direction flags vocab) := fun w _ h => Option.some.inj h ▸ hdrFn (band (band (band w)))

theorem tokenize (h : Hdr) (outAddr : Nat) (outCap : Nat) (final : Nat) (input : HostRead) : Statement (.tokenize h outAddr outCap final input) := fun w _ h => Option.some.inj h ▸ hdrFn (band (band (band (band w))))

theorem detokenize (h : Hdr) (outAddr : Nat) (outCap : Nat) (final : Nat) (input : HostRead) : Statement (.detokenize h outAddr outCap final input) := fun w _ h => Option.some.inj h ▸ hdrFn (band (band (band (band w))))

theorem closeStream (h : Hdr) : Statement (.closeStream h) := fun w _ h => Option.some.inj h ▸ hdrFn w

theorem readText (h : Hdr) (handle : Nat) (cursor : Nat) (waitMs : Nat) (flags : Nat) : Statement (.readText h handle cursor waitMs flags) := fun w _ h => Option.some.inj h ▸ hdrFn (band (band (band (band w))))

theorem readTextWaitExpiry (tag : Nat) (pm : Nat) : Statement (.readTextWaitExpiry tag pm) := fun _ _ h => nomatch h

theorem readMask (h : Hdr) (handle : Nat) (round : Nat) (which : Nat) : Statement (.readMask h handle round which) := fun w _ h => Option.some.inj h ▸ hdrFn (band (band (band w)))

theorem setRules (h : Hdr) (handle : Nat) (body : HostRead) : Statement (.setRules h handle body) := fun w _ h => Option.some.inj h ▸ hdrFn (band (band w))

theorem resetConstraint (h : Hdr) (handle : Nat) (state : Nat) : Statement (.resetConstraint h handle state) := fun w _ h => Option.some.inj h ▸ hdrFn (band (band w))

theorem search (h : Hdr) (e : SearchEntry) (operand : HostRead) : Statement (.search h e operand) := fun w _ h => Option.some.inj h ▸ hdrFn (band (band w))

theorem searchDeadline (tag : Nat) (pm : Nat) : Statement (.searchDeadline tag pm) := fun _ _ h => nomatch h

theorem insert (h : Hdr) (shard : Nat) (gid : Nat) (body : HostRead) : Statement (.insert h shard gid body) := fun w _ h => Option.some.inj h ▸ hdrFn (band (band (band w)))

theorem deleteNode (h : Hdr) (shard : Nat) (slot : Nat) (gen : Nat) : Statement (.deleteNode h shard slot gen) := fun w _ h => Option.some.inj h ▸ hdrFn (band (band (band w)))

theorem mapShards (h : Hdr) (body : HostRead) : Statement (.mapShards h body) := fun w _ h => Option.some.inj h ▸ hdrFn (band w)

theorem queryIndex (h : Hdr) : Statement (.queryIndex h) := fun w _ h => Option.some.inj h ▸ hdrFn w

theorem mendingBatch (index : Nat) (shard : Nat) : Statement (.mendingBatch index shard) := fun _ _ h => nomatch h

theorem slotRelease (index : Nat) (shard : Nat) (slot : Nat) : Statement (.slotRelease index shard slot) := fun _ _ h => nomatch h

theorem shardVerified (index : Nat) (shard : Nat) : Statement (.shardVerified index shard) := fun _ _ h => nomatch h

theorem idleTimer (d : Nat) (pm : Nat) : Statement (.idleTimer d pm) := fun _ _ h => nomatch h

theorem ebbStart (d : Nat) (pm : Nat) : Statement (.ebbStart d pm) := fun _ _ h => nomatch h

theorem copyStored (d : Nat) (layer : Nat) (page : Nat) : Statement (.copyStored d layer page) := fun _ _ h => nomatch h

theorem ebbComplete (d : Nat) : Statement (.ebbComplete d) := fun _ _ h => nomatch h

theorem floodStart (d : Nat) (pm : Nat) : Statement (.floodStart d pm) := fun _ _ h => nomatch h

theorem floodPageArrived (d : Nat) (layer : Nat) (page : Nat) (pm : Nat) : Statement (.floodPageArrived d layer page pm) := fun _ _ h => nomatch h

theorem resumePmPassed (d : Nat) (pm : Nat) : Statement (.resumePmPassed d pm) := fun _ _ h => nomatch h

theorem bundleEbb (object : Nat) (pm : Nat) : Statement (.bundleEbb object pm) := fun _ _ h => nomatch h

theorem blockedRetry (d : Nat) (pm : Nat) : Statement (.blockedRetry d pm) := fun _ _ h => nomatch h

theorem budgetDay (pm : Nat) : Statement (.budgetDay pm) := fun _ _ h => nomatch h

theorem soundingsAging (pm : Nat) : Statement (.soundingsAging pm) := fun _ _ h => nomatch h

theorem policyProducerIndex (value : Word32) (entries : List PolicyEntry) : Statement (.policyProducerIndex value entries) := fun _ _ h => nomatch h

theorem policyEntry : Statement (.policyEntry) := fun _ _ h => nomatch h

theorem descDirtyTimeout (d : Nat) (pm : Nat) : Statement (.descDirtyTimeout d pm) := fun _ _ h => nomatch h

theorem pageWrite (p : TwPkt) : Statement (.pageWrite p) := fun _ _ h => nomatch h

theorem stepEntry (p : TwPkt) : Statement (.stepEntry p) := fun _ _ h => nomatch h

theorem textRead (p : TwPkt) : Statement (.textRead p) := fun _ _ h => nomatch h

theorem bundleRead (p : TwPkt) : Statement (.bundleRead p) := fun _ _ h => nomatch h

theorem write (p : TwPkt) : Statement (.write p) := fun _ _ h => nomatch h

theorem read (p : TwPkt) (data : HostRead) : Statement (.read p data) := fun _ _ h => nomatch h

theorem respData (p : TwPkt) : Statement (.respData p) := fun _ _ h => nomatch h

theorem ack (a : TwAck) : Statement (.ack a) := fun _ _ h => nomatch h

theorem completion (p : TwPkt) : Statement (.completion p) := fun _ _ h => nomatch h

theorem shardSearch (p : TwPkt) : Statement (.shardSearch p) := fun _ _ h => nomatch h

theorem poolPut (p : TwPkt) : Statement (.poolPut p) := fun _ _ h => nomatch h

theorem poolGet (p : TwPkt) : Statement (.poolGet p) := fun _ _ h => nomatch h

theorem poolFree (p : TwPkt) : Statement (.poolFree p) := fun _ _ h => nomatch h

theorem migrateOffer (p : TwPkt) (m : MigMsg) : Statement (.migrateOffer p m) := fun _ _ h => nomatch h

theorem migratePages (p : TwPkt) (m : MigMsg) : Statement (.migratePages p m) := fun _ _ h => nomatch h

theorem migratePrepare (p : TwPkt) (m : MigMsg) : Statement (.migratePrepare p m) := fun _ _ h => nomatch h

theorem handover (d : Nat) (pm : Nat) : Statement (.handover d pm) := fun _ _ h => nomatch h

theorem migrateCommit (p : TwPkt) : Statement (.migrateCommit p) := fun _ _ h => nomatch h

theorem migrateAbort (p : TwPkt) : Statement (.migrateAbort p) := fun _ _ h => nomatch h

theorem stubRelease (d : Nat) (pm : Nat) : Statement (.stubRelease d pm) := fun _ _ h => nomatch h

theorem rtoExpiry (c : Nat) (pm : Nat) : Statement (.rtoExpiry c pm) := fun _ _ h => nomatch h

theorem ackDelayExpiry (c : Nat) (pm : Nat) : Statement (.ackDelayExpiry c pm) := fun _ _ h => nomatch h

theorem aiInterval (c : Nat) (pm : Nat) : Statement (.aiInterval c pm) := fun _ _ h => nomatch h

theorem priTimeout (c : Nat) (pm : Nat) : Statement (.priTimeout c pm) := fun _ _ h => nomatch h

theorem contextFetched (c : Nat) : Statement (.contextFetched c) := fun _ _ h => nomatch h

theorem arpRequest (n : Nat) (ip : Nat) (bytes : Nat) : Statement (.arpRequest n ip bytes) := fun _ _ h => nomatch h

theorem neighborSolicitation (n : Nat) (ip : Nat) (bytes : Nat) : Statement (.neighborSolicitation n ip bytes) := fun _ _ h => nomatch h

theorem macControlFrame (n : Nat) (bytes : Nat) : Statement (.macControlFrame n bytes) := fun _ _ h => nomatch h

theorem frameDropped (n : Nat) (bytes : Nat) (packet : Bool) : Statement (.frameDropped n bytes packet) := fun _ _ h => nomatch h

theorem portUp (n : Nat) (lanes : Nat) : Statement (.portUp n lanes) := fun _ _ h => nomatch h

theorem portDown (n : Nat) : Statement (.portDown n) := fun _ _ h => nomatch h

theorem fecDegraded (n : Nat) (codewords : Nat) : Statement (.fecDegraded n codewords) := fun _ _ h => nomatch h

theorem memRead (host : Nat) (dpa : Nat) (hold : Nat) : Statement (.memRead host dpa hold) := fun _ _ h => nomatch h

theorem memWrite (host : Nat) (dpa : Nat) (hold : Nat) (bytes : List Byte) (mask : Nat) : Statement (.memWrite host dpa hold bytes mask) := fun _ _ h => nomatch h

theorem writeBack (host : Nat) (dpa : Nat) (hold : Nat) (bytes : List Byte) : Statement (.writeBack host dpa hold bytes) := fun _ _ h => nomatch h

theorem birspi (host : Nat) (dpa : Nat) : Statement (.birspi host dpa) := fun _ _ h => nomatch h

theorem snoopTimeoutExpired (host : Nat) (dpa : Nat) (pm : Nat) : Statement (.snoopTimeoutExpired host dpa pm) := fun _ _ h => nomatch h

theorem hmWindowAccess (dpa : Nat) (acc : HmAccess) : Statement (.hmWindowAccess dpa acc) := fun _ _ h => nomatch h

theorem addDynamicCapacityResponse (host : Nat) (region : Nat) (extent : Nat) (accept : Bool) : Statement (.addDynamicCapacityResponse host region extent accept) := fun _ _ h => nomatch h

theorem addExtentTimeout (region : Nat) (extent : Nat) (host : Nat) (pm : Nat) : Statement (.addExtentTimeout region extent host pm) := fun _ _ h => nomatch h

theorem releaseDynamicCapacity (host : Nat) (region : Nat) (extent : Nat) : Statement (.releaseDynamicCapacity host region extent) := fun _ _ h => nomatch h

theorem scrubComplete (region : Nat) (extent : Nat) : Statement (.scrubComplete region extent) := fun _ _ h => nomatch h

theorem clearPoison (host : Nat) (dpa : Nat) (bytes : List Byte) : Statement (.clearPoison host dpa bytes) := fun _ _ h => nomatch h

theorem getPoisonList (host : Nat) : Statement (.getPoisonList host) := fun _ _ h => nomatch h

theorem identifyMemoryDevice (host : Nat) : Statement (.identifyMemoryDevice host) := fun _ _ h => nomatch h

theorem getDynamicCapacityConfiguration (host : Nat) : Statement (.getDynamicCapacityConfiguration host) := fun _ _ h => nomatch h

theorem getDynamicCapacityExtentList (host : Nat) : Statement (.getDynamicCapacityExtentList host) := fun _ _ h => nomatch h

theorem getEventRecords (host : Nat) (dynamic : Bool) : Statement (.getEventRecords host dynamic) := fun _ _ h => nomatch h

theorem clearEventRecords (host : Nat) (dynamic : Bool) (n : Nat) : Statement (.clearEventRecords host dynamic n) := fun _ _ h => nomatch h

theorem bindLd (port : Nat) (ld : Nat) : Statement (.bindLd port ld) := fun _ _ h => nomatch h

theorem unbindLd (port : Nat) (ld : Nat) : Statement (.unbindLd port ld) := fun _ _ h => nomatch h

theorem getLdInfo (port : Nat) : Statement (.getLdInfo port) := fun _ _ h => nomatch h

theorem flashReadDone (shingle : Nat) (row : Nat) (unit : Nat) (outcome : UnitRead) : Statement (.flashReadDone shingle row unit outcome) := fun _ _ h => nomatch h

theorem programDone (shingle : Nat) (unit : Nat) (ok : Bool) : Statement (.programDone shingle unit ok) := fun _ _ h => nomatch h

theorem eraseDone (shingle : Nat) (unit : Nat) (ok : Bool) : Statement (.eraseDone shingle unit ok) := fun _ _ h => nomatch h

theorem rowFillTimeout (shingle : Nat) (pm : Nat) : Statement (.rowFillTimeout shingle pm) := fun _ _ h => nomatch h

theorem relocateShingle (pm : Nat) : Statement (.relocateShingle pm) := fun _ _ h => nomatch h

theorem retentionScan (shingle : Nat) (results : List (Nat × Bool)) (pm : Nat) : Statement (.retentionScan shingle results pm) := fun _ _ h => nomatch h

theorem refreshBehind (pm : Nat) : Statement (.refreshBehind pm) := fun _ _ h => nomatch h

theorem formatRecordHourly (pm : Nat) : Statement (.formatRecordHourly pm) := fun _ _ h => nomatch h

theorem isthmusHeartbeat (pm : Nat) : Statement (.isthmusHeartbeat pm) := fun _ _ h => nomatch h

theorem buddyLost (pm : Nat) : Statement (.buddyLost pm) := fun _ _ h => nomatch h

theorem buddyAnnounce (restart : Bool) (pm : Nat) : Statement (.buddyAnnounce restart pm) := fun _ _ h => nomatch h

theorem buddyRestartTimeout (pm : Nat) : Statement (.buddyRestartTimeout pm) := fun _ _ h => nomatch h

theorem linkDegraded (half : Nat) (lanes : Nat) : Statement (.linkDegraded half lanes) := fun _ _ h => nomatch h

theorem parkCopy (loc : Nat) (c : PageCopy) : Statement (.parkCopy loc c) := fun _ _ h => nomatch h

theorem mirrorCopy (c : PageCopy) : Statement (.mirrorCopy c) := fun _ _ h => nomatch h

theorem releaseNotice (w : ReleaseWhat) : Statement (.releaseNotice w) := fun _ _ h => nomatch h

theorem epochStart (pm : Nat) : Statement (.epochStart pm) := fun _ _ h => nomatch h

theorem checkpointDelta (epoch : Nat) (item : CkptItem) (bytes : List Byte) : Statement (.checkpointDelta epoch item bytes) := fun _ _ h => nomatch h

theorem commitRecord (r : CommitRecord) : Statement (.commitRecord r) := fun _ _ h => nomatch h

theorem epochCommitted (epoch : Nat) : Statement (.epochCommitted epoch) := fun _ _ h => nomatch h

theorem pairKeyUpdate (half : Nat) (pm : Nat) : Statement (.pairKeyUpdate half pm) := fun _ _ h => nomatch h

theorem attentionCellError (region : Nat) (block : Nat) (cell : Nat) (info : Nat) (pm : Nat) : Statement (.attentionCellError region block cell info pm) := fun _ _ h => nomatch h

theorem cellError (region : Nat) (kind : Nat) (index : Nat) (cell : Nat) (info : Nat) (pm : Nat) : Statement (.cellError region kind index cell info pm) := fun _ _ h => nomatch h

theorem connectionCacheError (region : Nat) (cell : Nat) (info : Nat) (dur : Nat) (pm : Nat) : Statement (.connectionCacheError region cell info dur pm) := fun _ _ h => nomatch h

theorem coreError (block : Nat) (core : Nat) (info : Nat) (pm : Nat) : Statement (.coreError block core info pm) := fun _ _ h => nomatch h

theorem cellSelfTestDone (region : Nat) (kind : Nat) (index : Nat) (cell : Nat) (pass : Bool) (again : List Nat) (pm : Nat) : Statement (.cellSelfTestDone region kind index cell pass again pm) := fun _ _ h => nomatch h

theorem blockError (region : Nat) (kind : Nat) (index : Nat) (info : Nat) (dur : Nat) (pm : Nat) : Statement (.blockError region kind index info dur pm) := fun _ _ h => nomatch h

theorem descriptorCacheError (d : Nat) (info : Nat) (dur : Nat) (pm : Nat) : Statement (.descriptorCacheError d info dur pm) := fun _ _ h => nomatch h

theorem hbmUncorrectable (stack : Nat) (frame : Nat) (object : HbmObject) (info : Nat) (dur : Nat) (pm : Nat) : Statement (.hbmUncorrectable stack frame object info dur pm) := fun _ _ h => nomatch h

theorem correctedError (cls : Nat) (frame : Option Nat) (pm : Nat) : Statement (.correctedError cls frame pm) := fun _ _ h => nomatch h

theorem regionError (region : Nat) (info : Nat) (pm : Nat) : Statement (.regionError region info pm) := fun _ _ h => nomatch h

theorem regionReturn (region : Nat) (pass : Bool) (again : List Nat) (pm : Nat) : Statement (.regionReturn region pass again pm) := fun _ _ h => nomatch h

theorem chipError (info : Nat) (pm : Nat) : Statement (.chipError info pm) := fun _ _ h => nomatch h

theorem chipRestartDone (again : List Nat) (pm : Nat) : Statement (.chipRestartDone again pm) := fun _ _ h => nomatch h

theorem lighthouseSounding (meters : Meters) (pm : Nat) : Statement (.lighthouseSounding meters pm) := fun _ _ h => nomatch h

theorem lighthouseRecord (pm : Nat) : Statement (.lighthouseRecord pm) := fun _ _ h => nomatch h

theorem pldmSensorRead (id : Nat) : Statement (.pldmSensorRead id) := fun _ _ h => nomatch h

theorem pldmFirmwareUpdate (op : PldmFw) : Statement (.pldmFirmwareUpdate op) := fun _ _ h => nomatch h

theorem vendorStatus : Statement (.vendorStatus) := fun _ _ h => nomatch h

theorem vendorLog (log : Nat) (off : Nat) : Statement (.vendorLog log off) := fun _ _ h => nomatch h

theorem alertResponse : Statement (.alertResponse) := fun _ _ h => nomatch h

theorem getVersion (via : SpdmVia) : Statement (.getVersion via) := fun _ _ h => nomatch h

theorem getCapabilities (via : SpdmVia) : Statement (.getCapabilities via) := fun _ _ h => nomatch h

theorem negotiateAlgorithms (via : SpdmVia) (supported : Bool) : Statement (.negotiateAlgorithms via supported) := fun _ _ h => nomatch h

theorem getDigests (via : SpdmVia) : Statement (.getDigests via) := fun _ _ h => nomatch h

theorem getCertificate (via : SpdmVia) (slot : Nat) : Statement (.getCertificate via slot) := fun _ _ h => nomatch h

theorem challenge (via : SpdmVia) (slot : Nat) : Statement (.challenge via slot) := fun _ _ h => nomatch h

theorem getMeasurements (via : SpdmVia) (index : Nat) : Statement (.getMeasurements via index) := fun _ _ h => nomatch h

theorem keyExchange (via : SpdmVia) (slot : Nat) : Statement (.keyExchange via slot) := fun _ _ h => nomatch h

theorem finish (via : SpdmVia) (session : Nat) (verified : Bool) : Statement (.finish via session verified) := fun _ _ h => nomatch h

theorem spdmHeartbeat (via : SpdmVia) (session : Nat) : Statement (.spdmHeartbeat via session) := fun _ _ h => nomatch h

theorem spdmKeyUpdate (via : SpdmVia) (session : Nat) : Statement (.spdmKeyUpdate via session) := fun _ _ h => nomatch h

theorem endSession (via : SpdmVia) (session : Nat) : Statement (.endSession via session) := fun _ _ h => nomatch h

theorem vendorDefinedRequest (via : SpdmVia) (session : Option Nat) (req : VendorReq) : Statement (.vendorDefinedRequest via session req) := fun _ _ h => nomatch h

theorem debugUnlock (tokenOk : Bool) (pm : Nat) : Statement (.debugUnlock tokenOk pm) := fun _ _ h => nomatch h

theorem consentExpiry (partition : Nat) (pm : Nat) : Statement (.consentExpiry partition pm) := fun _ _ h => nomatch h

theorem wakeAdmit (dom : Nat) (pm : Nat) : Statement (.wakeAdmit dom pm) := fun _ _ h => nomatch h

theorem wakeReady (dom : Nat) (pm : Nat) : Statement (.wakeReady dom pm) := fun _ _ h => nomatch h

theorem blockIdleGate (dom : Nat) (pm : Nat) : Statement (.blockIdleGate dom pm) := fun _ _ h => nomatch h

theorem slackEnter (hmWaiting : Bool) (pm : Nat) : Statement (.slackEnter hmWaiting pm) := fun _ _ h => nomatch h

theorem slackEntered (pm : Nat) : Statement (.slackEntered pm) := fun _ _ h => nomatch h

theorem leavingScheduled (pm : Nat) : Statement (.leavingScheduled pm) := fun _ _ h => nomatch h

theorem neighbourCheck (a : Nat) (b : Nat) (quantity : Nat) (va : Nat) (vb : Nat) (pm : Nat) : Statement (.neighbourCheck a b quantity va vb pm) := fun _ _ h => nomatch h

theorem neighbourLimitTimeout (a : Nat) (b : Nat) (quantity : Nat) (exceeded : Bool) (pm : Nat) : Statement (.neighbourLimitTimeout a b quantity exceeded pm) := fun _ _ h => nomatch h

theorem thermalCheck (junctions : List Nat) (stackTemps : List Nat) (pm : Nat) : Statement (.thermalCheck junctions stackTemps pm) := fun _ _ h => nomatch h

theorem powerCapCheck (pm : Nat) : Statement (.powerCapCheck pm) := fun _ _ h => nomatch h

theorem reserveShort (region : Nat) (pm : Nat) : Statement (.reserveShort region pm) := fun _ _ h => nomatch h

theorem hostLinkDown (p : Nat) : Statement (.hostLinkDown p) := fun _ _ h => nomatch h

theorem isthmusHalfUp (half : Nat) (lanes : Nat) (peerStrap : Bool) (pm : Nat) : Statement (.isthmusHalfUp half lanes peerStrap pm) := fun _ _ h => nomatch h

theorem buddyHeartbeat (pm : Nat) : Statement (.buddyHeartbeat pm) := fun _ _ h => nomatch h

theorem buddyPairBind (dev : Nat) (names : Nat) (reservePct : Nat) (parkPct : Nat) (reserved : Bool) : Statement (.buddyPairBind dev names reservePct parkPct reserved) := fun _ _ h => nomatch h

theorem harbourRead (source : Nat) (req : Nat) (ask : HarbourAsk) : Statement (.harbourRead source req ask) := fun _ _ h => nomatch h

theorem isthmusReadData (req : Nat) (data : HarbourData) : Statement (.isthmusReadData req data) := fun _ _ h => nomatch h

theorem translationResponse (fn : Nat) (pasid : Option Nat) (addr : Nat) (len : Nat) (answer : XlatAnswer) : Statement (.translationResponse fn pasid addr len answer) := fun w _ h => Option.some.inj h ▸ of_decide_eq_true (band (band w))

theorem flashOperationTimeout (ch : Nat) (place : Nat) : Statement (.flashOperationTimeout ch place) := fun _ _ h => nomatch h

theorem powerRemoved : Statement (.powerRemoved) := fun _ _ h => nomatch h

theorem debugPortAccess (reach : DebugReach) : Statement (.debugPortAccess reach) := fun _ _ h => nomatch h

theorem vfEnableSet (n : Nat) : Statement (.vfEnableSet n) := fun _ _ h => nomatch h

end Sys2Proof.Laws.Shape
end

