-- ==== Sys2Proof/Laws/Ring.lean ====
section
/-! SUPPORT. What starting a ring command and settling its ring can change: registers and rings, operations, and output; an operation
under its tag stays. -/

namespace Sys2Proof.Machine

theorem RingOnly.refl (s : State) : RingOnly s s := rfl

theorem RingOnly.trans {s t u : State} (h : RingOnly s t) (g : RingOnly t u) : RingOnly s u := by
  unfold RingOnly at *
  rw [← h, ← g]

/-- What a reading of the state gives where the three it allows are put back. -/
theorem RingOnly.read {β : Type} (g : State → β) {s t : State} (h : RingOnly s t) :
    g { t with fns := s.fns, ops := s.ops, out := s.out } = g s := congrArg g h

theorem RingOnly.pending {s t : State} (h : RingOnly s t) : t.pending = s.pending := RingOnly.read State.pending h
theorem RingOnly.postmark {s t : State} (h : RingOnly s t) : t.postmark = s.postmark := RingOnly.read State.postmark h
theorem RingOnly.fresh {s t : State} (h : RingOnly s t) : t.fresh = s.fresh := RingOnly.read State.fresh h
theorem RingOnly.vfEnable {s t : State} (h : RingOnly s t) : t.vfEnable = s.vfEnable := RingOnly.read State.vfEnable h
theorem RingOnly.numVfs {s t : State} (h : RingOnly s t) : t.numVfs = s.numVfs := RingOnly.read State.numVfs h
theorem RingOnly.vfCompat {s t : State} (h : RingOnly s t) : t.vfCompat = s.vfCompat := RingOnly.read State.vfCompat h
theorem RingOnly.live {s t : State} (h : RingOnly s t) : t.live = s.live := RingOnly.read State.live h
theorem RingOnly.accounts {s t : State} (h : RingOnly s t) : t.accounts = s.accounts := RingOnly.read State.accounts h
theorem RingOnly.ceilings {s t : State} (h : RingOnly s t) : t.ceilings = s.ceilings := RingOnly.read State.ceilings h
theorem RingOnly.configs {s t : State} (h : RingOnly s t) : t.configs = s.configs := RingOnly.read State.configs h
theorem RingOnly.asKeys {s t : State} (h : RingOnly s t) : t.asKeys = s.asKeys := RingOnly.read State.asKeys h
theorem RingOnly.sessions {s t : State} (h : RingOnly s t) : t.sessions = s.sessions := RingOnly.read State.sessions h
theorem RingOnly.dcache {s t : State} (h : RingOnly s t) : t.dcache = s.dcache := RingOnly.read State.dcache h
theorem RingOnly.tableHigh {s t : State} (h : RingOnly s t) : t.tableHigh = s.tableHigh := RingOnly.read State.tableHigh h
theorem RingOnly.pages {s t : State} (h : RingOnly s t) : t.pages = s.pages := RingOnly.read State.pages h
theorem RingOnly.recGen {s t : State} (h : RingOnly s t) : t.recGen = s.recGen := RingOnly.read State.recGen h
theorem RingOnly.idents {s t : State} (h : RingOnly s t) : t.idents = s.idents := RingOnly.read State.idents h
theorem RingOnly.copies {s t : State} (h : RingOnly s t) : t.copies = s.copies := RingOnly.read State.copies h
theorem RingOnly.runs {s t : State} (h : RingOnly s t) : t.runs = s.runs := RingOnly.read State.runs h
theorem RingOnly.bundles {s t : State} (h : RingOnly s t) : t.bundles = s.bundles := RingOnly.read State.bundles h
theorem RingOnly.streams {s t : State} (h : RingOnly s t) : t.streams = s.streams := RingOnly.read State.streams h
theorem RingOnly.maskReads {s t : State} (h : RingOnly s t) : t.maskReads = s.maskReads := RingOnly.read State.maskReads h
theorem RingOnly.textReads {s t : State} (h : RingOnly s t) : t.textReads = s.textReads := RingOnly.read State.textReads h
theorem RingOnly.textDefers {s t : State} (h : RingOnly s t) : t.textDefers = s.textDefers := RingOnly.read State.textDefers h
theorem RingOnly.txLoads {s t : State} (h : RingOnly s t) : t.txLoads = s.txLoads := RingOnly.read State.txLoads h
theorem RingOnly.indexes {s t : State} (h : RingOnly s t) : t.indexes = s.indexes := RingOnly.read State.indexes h
theorem RingOnly.changes {s t : State} (h : RingOnly s t) : t.changes = s.changes := RingOnly.read State.changes h
theorem RingOnly.searches {s t : State} (h : RingOnly s t) : t.searches = s.searches := RingOnly.read State.searches h
theorem RingOnly.regionsOut {s t : State} (h : RingOnly s t) : t.regionsOut = s.regionsOut := RingOnly.read State.regionsOut h
theorem RingOnly.mediaKeys {s t : State} (h : RingOnly s t) : t.mediaKeys = s.mediaKeys := RingOnly.read State.mediaKeys h
theorem RingOnly.roleProfile {s t : State} (h : RingOnly s t) : t.roleProfile = s.roleProfile := RingOnly.read State.roleProfile h
theorem RingOnly.pair {s t : State} (h : RingOnly s t) : t.pair = s.pair := RingOnly.read State.pair h
theorem RingOnly.sec {s t : State} (h : RingOnly s t) : t.sec = s.sec := RingOnly.read State.sec h
theorem RingOnly.boot {s t : State} (h : RingOnly s t) : t.boot = s.boot := RingOnly.read State.boot h
theorem RingOnly.faults {s t : State} (h : RingOnly s t) : t.faults = s.faults := RingOnly.read State.faults h
theorem RingOnly.pow {s t : State} (h : RingOnly s t) : t.pow = s.pow := RingOnly.read State.pow h
theorem RingOnly.media {s t : State} (h : RingOnly s t) : t.media = s.media := RingOnly.read State.media h
theorem RingOnly.steps {s t : State} (h : RingOnly s t) : t.steps = s.steps := RingOnly.read State.steps h
theorem RingOnly.commits {s t : State} (h : RingOnly s t) : t.commits = s.commits := RingOnly.read State.commits h
theorem RingOnly.blocks {s t : State} (h : RingOnly s t) : t.blocks = s.blocks := RingOnly.read State.blocks h
theorem RingOnly.lcLoads {s t : State} (h : RingOnly s t) : t.lcLoads = s.lcLoads := RingOnly.read State.lcLoads h
theorem RingOnly.notices {s t : State} (h : RingOnly s t) : t.notices = s.notices := RingOnly.read State.notices h
theorem RingOnly.heldWrites {s t : State} (h : RingOnly s t) : t.heldWrites = s.heldWrites := RingOnly.read State.heldWrites h
theorem RingOnly.role {s t : State} (h : RingOnly s t) : t.role = s.role := RingOnly.read State.role h
theorem RingOnly.roleNext {s t : State} (h : RingOnly s t) : t.roleNext = s.roleNext := RingOnly.read State.roleNext h
theorem RingOnly.hm {s t : State} (h : RingOnly s t) : t.hm = s.hm := RingOnly.read State.hm h
theorem RingOnly.hbmPressure {s t : State} (h : RingOnly s t) : t.hbmPressure = s.hbmPressure := RingOnly.read State.hbmPressure h
theorem RingOnly.chartEpoch {s t : State} (h : RingOnly s t) : t.chartEpoch = s.chartEpoch := RingOnly.read State.chartEpoch h
theorem RingOnly.redirects {s t : State} (h : RingOnly s t) : t.redirects = s.redirects := RingOnly.read State.redirects h
theorem RingOnly.win {s t : State} (h : RingOnly s t) : t.win = s.win := RingOnly.read State.win h
theorem RingOnly.tw {s t : State} (h : RingOnly s t) : t.tw = s.tw := RingOnly.read State.tw h
theorem RingOnly.beached {s t : State} (h : RingOnly s t) : t.beached = s.beached := RingOnly.read State.beached h
theorem RingOnly.aon {s t : State} (h : RingOnly s t) : t.aon = s.aon := RingOnly.read State.aon h
theorem RingOnly.ready {s t : State} (h : RingOnly s t) : t.ready = s.ready := RingOnly.read State.ready h

theorem setFn_ringOnly (s : State) (n : Nat) (f : Fn) : RingOnly s (setFn s n f) := rfl
theorem modFn_ringOnly (s : State) (n : Nat) (f : Fn → Fn) : RingOnly s (modFn s n f) := rfl
theorem modRing_ringOnly (s : State) (n : Nat) (r : RingId) (f : Ring → Ring) : RingOnly s (modRing s n r f) := rfl
theorem emit_ringOnly (s : State) (o : Output) : RingOnly s (emit o s) := rfl
theorem putOp_ringOnly (s : State) (tag : Nat) (o : Op) : RingOnly s (putOp s tag o) := rfl
theorem consume_ringOnly (s : State) (n : Nat) (r : RingId) : RingOnly s (consume s n r) := rfl

theorem raise_ringOnly (s : State) (fn vec : Nat) : RingOnly s (raise s fn vec) := by
  unfold raise
  dsimp only
  split <;> rfl

/-- Posting an event changes registers and output alone. -/
theorem postEvent_ringOnly (s : State) (fn code source data : Nat) : RingOnly s (postEvent s fn code source data) := by
  unfold postEvent
  dsimp only
  split
  · rfl
  · split
    · rfl
    · split
      · rfl
      · exact (emit_ringOnly _ _).trans ((setFn_ringOnly _ _ _).trans (raise_ringOnly _ _ _))

theorem raise_ops (s : State) (fn vec : Nat) : (raise s fn vec).ops = s.ops := by
  unfold raise
  dsimp only
  split <;> rfl

theorem postEvent_ops (s : State) (fn code source data : Nat) : (postEvent s fn code source data).ops = s.ops := by
  unfold postEvent
  dsimp only
  split
  · rfl
  · split
    · rfl
    · split
      · rfl
      · exact raise_ops _ _ _

theorem settleSlots_ringOnly (l : List SlotRead) (s : State) (fn : Nat) (rid : RingId) : RingOnly s (settleSlots l s fn rid) := by
  induction l generalizing s with
  | nil => rfl
  | cons e r ih =>
    cases e with
    | entry => rfl
    | unreadable =>
      simp only [settleSlots]
      split
      · rfl
      · exact (modRing_ringOnly _ _ _ _).trans (postEvent_ringOnly _ _ _ _ _)
    | undefinedOp c =>
      simp only [settleSlots]
      split
      · rfl
      · exact (consume_ringOnly _ _ _).trans ((putOp_ringOnly _ _ _).trans (ih _))

/-- Settling a ring changes registers and rings, operations and output alone. -/
theorem settleRing_ringOnly (s : State) (fn : Nat) (rid : RingId) : RingOnly s (settleRing s fn rid) := by
  unfold settleRing
  dsimp only
  split
  · split
    · exact (modRing_ringOnly _ _ _ _).trans (postEvent_ringOnly _ _ _ _ _)
    · exact settleSlots_ringOnly _ _ _ _
  · rfl

theorem settleSlots_op (l : List SlotRead) (s : State) (fn : Nat) (rid : RingId) {tag : Nat} {o : Op} (h : amGet s.ops tag = some o) :
    amGet (settleSlots l s fn rid).ops tag = some o := by
  induction l generalizing s with
  | nil => exact h
  | cons e r ih =>
    cases e with
    | entry => exact h
    | unreadable =>
      simp only [settleSlots]
      split
      · exact h
      · rw [postEvent_ops]; exact h
    | undefinedOp c =>
      simp only [settleSlots]
      split
      · exact h
      · refine ih _ ?_
        have hf : amHas s.ops (freeTag s) = false := amLowestFree_free _ _
        have hne : tag ≠ freeTag s := by
          intro e
          rw [← e, amHas, h] at hf
          cases hf
        exact (amGet_amSet_ne _ _ hne).trans h

/-- An operation under its tag stays when a ring is settled. -/
theorem settleRing_op (s : State) (fn : Nat) (rid : RingId) {tag : Nat} {o : Op} (h : amGet s.ops tag = some o) :
    amGet (settleRing s fn rid).ops tag = some o := by
  unfold settleRing
  dsimp only
  split
  · split
    · rw [postEvent_ops]; exact h
    · exact settleSlots_op _ _ _ _ h
  · exact h

/-- A ring command that is taken runs, and its ring is settled. -/
theorem ringCmd_takes {s : State} {h : Hdr} {rid : RingId} {c : RingCmd} (t : Takes s h rid c) :
    ringCmd rid h c s = .next (settleRing (c.run (begun s h rid) (freeTag s)) h.fn rid) := by
  unfold ringCmd startRing
  rw [t.2.1, t.1]
  simp only [Bool.false_eq_true, if_false, if_true, t.2.2]
  rfl

theorem adminCmd_takes {s : State} {h : Hdr} {c : RingCmd} (t : Takes s h .admin c) :
    adminCmd h c s = .next (settleRing (c.run (begun s h .admin) (freeTag s)) h.fn .admin) := ringCmd_takes t

/-- A command finished under its tag has its operation there once its ring is settled. -/
theorem opAt_finish (s u : State) (h : Hdr) (rid : RingId) (r : Rcpt) :
    OpAt s (settleRing (finish u h rid (freeTag s) r) h.fn rid) h rid (.ready r) :=
  ⟨_, settleRing_op _ _ _ (amGet_amSet_self _ _ _), rfl, rfl, rfl⟩

theorem opAt_park (s u : State) (h : Hdr) (w : Wait) :
    OpAt s (settleRing (park u h (freeTag s) w) h.fn .admin) h .admin (.waiting w) :=
  ⟨_, settleRing_op _ _ _ (amGet_amSet_self _ _ _), rfl, rfl, rfl⟩

theorem getFn_setFn_ne (s : State) {n m : Nat} (f : Fn) (h : m ≠ n) : getFn (setFn s n f) m = getFn s m := by
  simp only [getFn, setFn, amGetD, amGet_amSet_ne _ _ h]

theorem getFn_modFn_ne (s : State) {n m : Nat} (g : Fn → Fn) (h : m ≠ n) : getFn (modFn s n g) m = getFn s m := getFn_setFn_ne _ _ h

theorem getFn_modRing_ne (s : State) {n m : Nat} (r : RingId) (g : Ring → Ring) (h : m ≠ n) : getFn (modRing s n r g) m = getFn s m :=
  getFn_modFn_ne _ _ h

theorem getFn_begun_ne (s : State) (h : Hdr) (rid : RingId) {m : Nat} (e : m ≠ h.fn) : getFn (begun s h rid) m = getFn s m :=
  getFn_modRing_ne _ _ _ e

theorem raise_getFn_ne (s : State) (fn vec : Nat) {m : Nat} (h : m ≠ fn) : getFn (raise s fn vec) m = getFn s m := by
  unfold raise
  dsimp only
  split
  · exact getFn_setFn_ne _ _ h
  · rfl

/-- Posting an event changes the registers of the function it is posted to alone. -/
theorem postEvent_getFn_ne (s : State) (fn code source data : Nat) {m : Nat} (h : m ≠ fn) :
    getFn (postEvent s fn code source data) m = getFn s m := by
  unfold postEvent
  dsimp only
  split
  · rfl
  · split
    · exact getFn_modFn_ne _ _ h
    · split
      · exact (getFn_modFn_ne _ _ h).trans (getFn_setFn_ne _ _ h)
      · exact (raise_getFn_ne _ _ _ h).trans (getFn_setFn_ne _ _ h)

theorem raise_out (s : State) (fn vec : Nat) : ∃ l, (raise s fn vec).out = l ++ s.out := by
  unfold raise
  dsimp only
  split
  · exact ⟨[], rfl⟩
  · exact ⟨[_], rfl⟩

/-- Posting an event adds output and takes none back. -/
theorem postEvent_out (s : State) (fn code source data : Nat) : ∃ l, (postEvent s fn code source data).out = l ++ s.out := by
  unfold postEvent
  dsimp only
  split
  · exact ⟨[], rfl⟩
  · split
    · exact ⟨[], rfl⟩
    · split
      · exact ⟨[], rfl⟩
      · obtain ⟨l, e⟩ := raise_out (setFn (emit (.hostWrite fn ((getFn s fn).evBase + 32 * (getFn s fn).evProd)
          (eventBytes (getFn s fn).evPhase source code data s.postmark)) s) fn { getFn s fn with
            evProd := ((getFn s fn).evProd + 1) % (getFn s fn).evDepth
            evPhase := if ((getFn s fn).evProd + 1) % (getFn s fn).evDepth = 0 then !(getFn s fn).evPhase else (getFn s fn).evPhase }) fn
            (getFn s fn).evVector
        exact ⟨l ++ [_], by rw [e, List.append_assoc]; rfl⟩

theorem settleSlots_getFn_ne (l : List SlotRead) (s : State) (fn : Nat) (rid : RingId) {m : Nat} (h : m ≠ fn) :
    getFn (settleSlots l s fn rid) m = getFn s m := by
  induction l generalizing s with
  | nil => rfl
  | cons e r ih =>
    cases e with
    | entry => rfl
    | unreadable =>
      simp only [settleSlots]
      split
      · rfl
      · exact (postEvent_getFn_ne _ _ _ _ _ h).trans (getFn_modRing_ne _ _ _ h)
    | undefinedOp c =>
      simp only [settleSlots]
      split
      · rfl
      · exact (ih _).trans (show getFn (consume s fn rid) m = getFn s m from getFn_modRing_ne _ _ _ h)

theorem settleSlots_out (l : List SlotRead) (s : State) (fn : Nat) (rid : RingId) : ∃ o, (settleSlots l s fn rid).out = o ++ s.out := by
  induction l generalizing s with
  | nil => exact ⟨[], rfl⟩
  | cons e r ih =>
    cases e with
    | entry => exact ⟨[], rfl⟩
    | unreadable =>
      simp only [settleSlots]
      split
      · exact ⟨[], rfl⟩
      · exact postEvent_out _ _ _ _ _
    | undefinedOp c =>
      simp only [settleSlots]
      split
      · exact ⟨[], rfl⟩
      · exact ih _

/-- Settling a ring changes no other function's registers. -/
theorem settleRing_getFn_ne (s : State) (fn : Nat) (rid : RingId) {m : Nat} (h : m ≠ fn) : getFn (settleRing s fn rid) m = getFn s m := by
  unfold settleRing
  dsimp only
  split
  · split
    · exact (postEvent_getFn_ne _ _ _ _ _ h).trans (getFn_modRing_ne _ _ _ h)
    · exact settleSlots_getFn_ne _ _ _ _ h
  · rfl

theorem settleRing_out (s : State) (fn : Nat) (rid : RingId) : ∃ o, (settleRing s fn rid).out = o ++ s.out := by
  unfold settleRing
  dsimp only
  split
  · split
    · exact postEvent_out _ _ _ _ _
    · exact settleSlots_out _ _ _ _
  · exact ⟨[], rfl⟩

/-- A command whose run is `x` with its operation put under its tag, but for registers of its own function and output that it adds: settled,
its state is otherwise `x`. -/
theorem otherwise_settle {s x u : State} {h : Hdr} (rid : RingId) (hx : RingOnly x u) (hf : ∀ n, n ≠ h.fn → getFn u n = getFn x n)
    (ho : ∀ k o, k ≠ freeTag s → amGet x.ops k = some o → amGet u.ops k = some o) (hl : ∃ l, u.out = l ++ x.out) :
    Otherwise s h x (settleRing u h.fn rid) := by
  refine ⟨hx.trans (settleRing_ringOnly _ _ _), fun n e => (settleRing_getFn_ne _ _ _ e).trans (hf n e),
    fun k o e g => settleRing_op _ _ _ (ho k o e g), ?_⟩
  obtain ⟨l, e⟩ := hl
  obtain ⟨l', e'⟩ := settleRing_out u h.fn rid
  exact ⟨l' ++ l, by rw [e', e, List.append_assoc]⟩

/-- The run puts the command's operation under its tag in `u`, which is `x` but for the command's own ring. -/
theorem otherwise_putOp {s x u : State} {h : Hdr} (rid : RingId) (o : Op) (hx : RingOnly x u) (hf : ∀ n, n ≠ h.fn → getFn u n = getFn x n)
    (ho : u.ops = x.ops) (hl : u.out = x.out) : Otherwise s h x (settleRing (putOp u (freeTag s) o) h.fn rid) :=
  otherwise_settle rid (hx.trans rfl) hf (fun _ _ e g => (amGet_amSet_ne _ _ e).trans (ho ▸ g)) ⟨[], hl⟩

/-- A command that is taken and whose run is `x` with its operation put under its tag. -/
theorem ring_done {s : State} {h : Hdr} {rid : RingId} {c : RingCmd} (tk : Takes s h rid c) {o : Out} (hi : o = ringCmd rid h c s) {x : State}
    {op : Op} {st : OpState} (e : c.run (begun s h rid) (freeTag s) = putOp x (freeTag s) op)
    (ho : op.origin = .ring h.fn rid ∧ op.cmdId = h.cmdId ∧ op.state = st) :
    ∃ t, o = .next t ∧ OpAt s t h rid st ∧ Otherwise s h x t := by
  refine ⟨_, hi.trans (ringCmd_takes tk), ?_, ?_⟩
  · rw [e]
    exact ⟨op, settleRing_op _ _ _ (amGet_amSet_self _ _ _), ho⟩
  · rw [e]
    exact otherwise_putOp _ _ rfl (fun _ _ => rfl) rfl rfl

/-- A command that can write all its bytes finishes with its receipt. -/
theorem doneWrite_none {s : State} {h : Hdr} {tag : Nat} {bs : List Byte} {r : Rcpt} (e : (hostWrite s h.fn h.addr bs).2 = none) :
    doneWrite s h tag bs r =
      putOp (hostWrite s h.fn h.addr bs).1 tag (ringOp (hostWrite s h.fn h.addr bs).1 h .admin (.ready r)) := by
  unfold doneWrite
  split
  · next g => rw [g]; rfl
  · next g => rw [g] at e; cases e

/-- A command on a session runs on the session's descriptor. -/
theorem sessionSpec_run {s : State} {h : Hdr} {handle : Nat} {hb : Bool} {bad : State → List (Nat × Bool)} {refuse : State → List (Option Rcpt)}
    {run : State → Nat → Nat → State} {tag d : Nat} (e : findHandle s handle = some d) :
    (sessionSpec h handle hb bad refuse run).run (begun s h .admin) tag = run (touched s h .admin d) tag d := by
  unfold sessionSpec
  dsimp only
  rw [show findHandle (begun s h .admin) handle = some d from e]
  rfl

theorem textSpec_run {s : State} {h : Hdr} {handle : Nat} {hb : Bool} {bad : State → List (Nat × Bool)} {refuse : State → List (Option Rcpt)}
    {run : State → Nat → Nat → State} {tag d : Nat} (e : findHandle s handle = some d) :
    (textSpec h handle hb bad refuse run).run (begun s h .text) tag = run (touched s h .text d) tag d := by
  unfold textSpec
  dsimp only
  rw [show findHandle (begun s h .text) handle = some d from e]
  rfl

end Sys2Proof.Machine
end

