-- ==== Sys2Proof/Laws/State.lean ====
section
/-! SUPPORT. One lemma for each field under each named update of State: an update leaves every other field as it is.
That each leaves boot as it is stands in the Keep files. -/

namespace Sys2Proof.Machine

@[simp] theorem advance_pending (pm : Nat) (s : State) : (advance pm s).pending = s.pending := rfl
@[simp] theorem advance_out (pm : Nat) (s : State) : (advance pm s).out = s.out := rfl
@[simp] theorem advance_fresh (pm : Nat) (s : State) : (advance pm s).fresh = s.fresh := rfl
@[simp] theorem advance_fns (pm : Nat) (s : State) : (advance pm s).fns = s.fns := rfl
@[simp] theorem advance_vfEnable (pm : Nat) (s : State) : (advance pm s).vfEnable = s.vfEnable := rfl
@[simp] theorem advance_numVfs (pm : Nat) (s : State) : (advance pm s).numVfs = s.numVfs := rfl
@[simp] theorem advance_vfCompat (pm : Nat) (s : State) : (advance pm s).vfCompat = s.vfCompat := rfl
@[simp] theorem advance_live (pm : Nat) (s : State) : (advance pm s).live = s.live := rfl
@[simp] theorem advance_ops (pm : Nat) (s : State) : (advance pm s).ops = s.ops := rfl
@[simp] theorem advance_accounts (pm : Nat) (s : State) : (advance pm s).accounts = s.accounts := rfl
@[simp] theorem advance_ceilings (pm : Nat) (s : State) : (advance pm s).ceilings = s.ceilings := rfl
@[simp] theorem advance_configs (pm : Nat) (s : State) : (advance pm s).configs = s.configs := rfl
@[simp] theorem advance_asKeys (pm : Nat) (s : State) : (advance pm s).asKeys = s.asKeys := rfl
@[simp] theorem advance_sessions (pm : Nat) (s : State) : (advance pm s).sessions = s.sessions := rfl
@[simp] theorem advance_dcache (pm : Nat) (s : State) : (advance pm s).dcache = s.dcache := rfl
@[simp] theorem advance_tableHigh (pm : Nat) (s : State) : (advance pm s).tableHigh = s.tableHigh := rfl
@[simp] theorem advance_pages (pm : Nat) (s : State) : (advance pm s).pages = s.pages := rfl
@[simp] theorem advance_recGen (pm : Nat) (s : State) : (advance pm s).recGen = s.recGen := rfl
@[simp] theorem advance_idents (pm : Nat) (s : State) : (advance pm s).idents = s.idents := rfl
@[simp] theorem advance_copies (pm : Nat) (s : State) : (advance pm s).copies = s.copies := rfl
@[simp] theorem advance_runs (pm : Nat) (s : State) : (advance pm s).runs = s.runs := rfl
@[simp] theorem advance_bundles (pm : Nat) (s : State) : (advance pm s).bundles = s.bundles := rfl
@[simp] theorem advance_streams (pm : Nat) (s : State) : (advance pm s).streams = s.streams := rfl
@[simp] theorem advance_maskReads (pm : Nat) (s : State) : (advance pm s).maskReads = s.maskReads := rfl
@[simp] theorem advance_textReads (pm : Nat) (s : State) : (advance pm s).textReads = s.textReads := rfl
@[simp] theorem advance_textDefers (pm : Nat) (s : State) : (advance pm s).textDefers = s.textDefers := rfl
@[simp] theorem advance_txLoads (pm : Nat) (s : State) : (advance pm s).txLoads = s.txLoads := rfl
@[simp] theorem advance_indexes (pm : Nat) (s : State) : (advance pm s).indexes = s.indexes := rfl
@[simp] theorem advance_changes (pm : Nat) (s : State) : (advance pm s).changes = s.changes := rfl
@[simp] theorem advance_searches (pm : Nat) (s : State) : (advance pm s).searches = s.searches := rfl
@[simp] theorem advance_regionsOut (pm : Nat) (s : State) : (advance pm s).regionsOut = s.regionsOut := rfl
@[simp] theorem advance_mediaKeys (pm : Nat) (s : State) : (advance pm s).mediaKeys = s.mediaKeys := rfl
@[simp] theorem advance_roleProfile (pm : Nat) (s : State) : (advance pm s).roleProfile = s.roleProfile := rfl
@[simp] theorem advance_pair (pm : Nat) (s : State) : (advance pm s).pair = s.pair := rfl
@[simp] theorem advance_sec (pm : Nat) (s : State) : (advance pm s).sec = s.sec := rfl
@[simp] theorem advance_faults (pm : Nat) (s : State) : (advance pm s).faults = s.faults := rfl
@[simp] theorem advance_pow (pm : Nat) (s : State) : (advance pm s).pow = s.pow := rfl
@[simp] theorem advance_media (pm : Nat) (s : State) : (advance pm s).media = s.media := rfl
@[simp] theorem advance_steps (pm : Nat) (s : State) : (advance pm s).steps = s.steps := rfl
@[simp] theorem advance_commits (pm : Nat) (s : State) : (advance pm s).commits = s.commits := rfl
@[simp] theorem advance_blocks (pm : Nat) (s : State) : (advance pm s).blocks = s.blocks := rfl
@[simp] theorem advance_lcLoads (pm : Nat) (s : State) : (advance pm s).lcLoads = s.lcLoads := rfl
@[simp] theorem advance_notices (pm : Nat) (s : State) : (advance pm s).notices = s.notices := rfl
@[simp] theorem advance_heldWrites (pm : Nat) (s : State) : (advance pm s).heldWrites = s.heldWrites := rfl
@[simp] theorem advance_role (pm : Nat) (s : State) : (advance pm s).role = s.role := rfl
@[simp] theorem advance_roleNext (pm : Nat) (s : State) : (advance pm s).roleNext = s.roleNext := rfl
@[simp] theorem advance_hm (pm : Nat) (s : State) : (advance pm s).hm = s.hm := rfl
@[simp] theorem advance_hbmPressure (pm : Nat) (s : State) : (advance pm s).hbmPressure = s.hbmPressure := rfl
@[simp] theorem advance_chartEpoch (pm : Nat) (s : State) : (advance pm s).chartEpoch = s.chartEpoch := rfl
@[simp] theorem advance_redirects (pm : Nat) (s : State) : (advance pm s).redirects = s.redirects := rfl
@[simp] theorem advance_win (pm : Nat) (s : State) : (advance pm s).win = s.win := rfl
@[simp] theorem advance_tw (pm : Nat) (s : State) : (advance pm s).tw = s.tw := rfl
@[simp] theorem advance_beached (pm : Nat) (s : State) : (advance pm s).beached = s.beached := rfl
@[simp] theorem advance_aon (pm : Nat) (s : State) : (advance pm s).aon = s.aon := rfl
@[simp] theorem advance_ready (pm : Nat) (s : State) : (advance pm s).ready = s.ready := rfl

@[simp] theorem emit_pending (o : Output) (s : State) : (emit o s).pending = s.pending := rfl
@[simp] theorem emit_postmark (o : Output) (s : State) : (emit o s).postmark = s.postmark := rfl
@[simp] theorem emit_fresh (o : Output) (s : State) : (emit o s).fresh = s.fresh := rfl
@[simp] theorem emit_fns (o : Output) (s : State) : (emit o s).fns = s.fns := rfl
@[simp] theorem emit_vfEnable (o : Output) (s : State) : (emit o s).vfEnable = s.vfEnable := rfl
@[simp] theorem emit_numVfs (o : Output) (s : State) : (emit o s).numVfs = s.numVfs := rfl
@[simp] theorem emit_vfCompat (o : Output) (s : State) : (emit o s).vfCompat = s.vfCompat := rfl
@[simp] theorem emit_live (o : Output) (s : State) : (emit o s).live = s.live := rfl
@[simp] theorem emit_ops (o : Output) (s : State) : (emit o s).ops = s.ops := rfl
@[simp] theorem emit_accounts (o : Output) (s : State) : (emit o s).accounts = s.accounts := rfl
@[simp] theorem emit_ceilings (o : Output) (s : State) : (emit o s).ceilings = s.ceilings := rfl
@[simp] theorem emit_configs (o : Output) (s : State) : (emit o s).configs = s.configs := rfl
@[simp] theorem emit_asKeys (o : Output) (s : State) : (emit o s).asKeys = s.asKeys := rfl
@[simp] theorem emit_sessions (o : Output) (s : State) : (emit o s).sessions = s.sessions := rfl
@[simp] theorem emit_dcache (o : Output) (s : State) : (emit o s).dcache = s.dcache := rfl
@[simp] theorem emit_tableHigh (o : Output) (s : State) : (emit o s).tableHigh = s.tableHigh := rfl
@[simp] theorem emit_pages (o : Output) (s : State) : (emit o s).pages = s.pages := rfl
@[simp] theorem emit_recGen (o : Output) (s : State) : (emit o s).recGen = s.recGen := rfl
@[simp] theorem emit_idents (o : Output) (s : State) : (emit o s).idents = s.idents := rfl
@[simp] theorem emit_copies (o : Output) (s : State) : (emit o s).copies = s.copies := rfl
@[simp] theorem emit_runs (o : Output) (s : State) : (emit o s).runs = s.runs := rfl
@[simp] theorem emit_bundles (o : Output) (s : State) : (emit o s).bundles = s.bundles := rfl
@[simp] theorem emit_streams (o : Output) (s : State) : (emit o s).streams = s.streams := rfl
@[simp] theorem emit_maskReads (o : Output) (s : State) : (emit o s).maskReads = s.maskReads := rfl
@[simp] theorem emit_textReads (o : Output) (s : State) : (emit o s).textReads = s.textReads := rfl
@[simp] theorem emit_textDefers (o : Output) (s : State) : (emit o s).textDefers = s.textDefers := rfl
@[simp] theorem emit_txLoads (o : Output) (s : State) : (emit o s).txLoads = s.txLoads := rfl
@[simp] theorem emit_indexes (o : Output) (s : State) : (emit o s).indexes = s.indexes := rfl
@[simp] theorem emit_changes (o : Output) (s : State) : (emit o s).changes = s.changes := rfl
@[simp] theorem emit_searches (o : Output) (s : State) : (emit o s).searches = s.searches := rfl
@[simp] theorem emit_regionsOut (o : Output) (s : State) : (emit o s).regionsOut = s.regionsOut := rfl
@[simp] theorem emit_mediaKeys (o : Output) (s : State) : (emit o s).mediaKeys = s.mediaKeys := rfl
@[simp] theorem emit_roleProfile (o : Output) (s : State) : (emit o s).roleProfile = s.roleProfile := rfl
@[simp] theorem emit_pair (o : Output) (s : State) : (emit o s).pair = s.pair := rfl
@[simp] theorem emit_sec (o : Output) (s : State) : (emit o s).sec = s.sec := rfl
@[simp] theorem emit_faults (o : Output) (s : State) : (emit o s).faults = s.faults := rfl
@[simp] theorem emit_pow (o : Output) (s : State) : (emit o s).pow = s.pow := rfl
@[simp] theorem emit_media (o : Output) (s : State) : (emit o s).media = s.media := rfl
@[simp] theorem emit_steps (o : Output) (s : State) : (emit o s).steps = s.steps := rfl
@[simp] theorem emit_commits (o : Output) (s : State) : (emit o s).commits = s.commits := rfl
@[simp] theorem emit_blocks (o : Output) (s : State) : (emit o s).blocks = s.blocks := rfl
@[simp] theorem emit_lcLoads (o : Output) (s : State) : (emit o s).lcLoads = s.lcLoads := rfl
@[simp] theorem emit_notices (o : Output) (s : State) : (emit o s).notices = s.notices := rfl
@[simp] theorem emit_heldWrites (o : Output) (s : State) : (emit o s).heldWrites = s.heldWrites := rfl
@[simp] theorem emit_role (o : Output) (s : State) : (emit o s).role = s.role := rfl
@[simp] theorem emit_roleNext (o : Output) (s : State) : (emit o s).roleNext = s.roleNext := rfl
@[simp] theorem emit_hm (o : Output) (s : State) : (emit o s).hm = s.hm := rfl
@[simp] theorem emit_hbmPressure (o : Output) (s : State) : (emit o s).hbmPressure = s.hbmPressure := rfl
@[simp] theorem emit_chartEpoch (o : Output) (s : State) : (emit o s).chartEpoch = s.chartEpoch := rfl
@[simp] theorem emit_redirects (o : Output) (s : State) : (emit o s).redirects = s.redirects := rfl
@[simp] theorem emit_win (o : Output) (s : State) : (emit o s).win = s.win := rfl
@[simp] theorem emit_tw (o : Output) (s : State) : (emit o s).tw = s.tw := rfl
@[simp] theorem emit_beached (o : Output) (s : State) : (emit o s).beached = s.beached := rfl
@[simp] theorem emit_aon (o : Output) (s : State) : (emit o s).aon = s.aon := rfl
@[simp] theorem emit_ready (o : Output) (s : State) : (emit o s).ready = s.ready := rfl

@[simp] theorem setFn_pending (s : State) (n : Nat) (f : Fn) : (setFn s n f).pending = s.pending := rfl
@[simp] theorem setFn_out (s : State) (n : Nat) (f : Fn) : (setFn s n f).out = s.out := rfl
@[simp] theorem setFn_postmark (s : State) (n : Nat) (f : Fn) : (setFn s n f).postmark = s.postmark := rfl
@[simp] theorem setFn_fresh (s : State) (n : Nat) (f : Fn) : (setFn s n f).fresh = s.fresh := rfl
@[simp] theorem setFn_vfEnable (s : State) (n : Nat) (f : Fn) : (setFn s n f).vfEnable = s.vfEnable := rfl
@[simp] theorem setFn_numVfs (s : State) (n : Nat) (f : Fn) : (setFn s n f).numVfs = s.numVfs := rfl
@[simp] theorem setFn_vfCompat (s : State) (n : Nat) (f : Fn) : (setFn s n f).vfCompat = s.vfCompat := rfl
@[simp] theorem setFn_live (s : State) (n : Nat) (f : Fn) : (setFn s n f).live = s.live := rfl
@[simp] theorem setFn_ops (s : State) (n : Nat) (f : Fn) : (setFn s n f).ops = s.ops := rfl
@[simp] theorem setFn_accounts (s : State) (n : Nat) (f : Fn) : (setFn s n f).accounts = s.accounts := rfl
@[simp] theorem setFn_ceilings (s : State) (n : Nat) (f : Fn) : (setFn s n f).ceilings = s.ceilings := rfl
@[simp] theorem setFn_configs (s : State) (n : Nat) (f : Fn) : (setFn s n f).configs = s.configs := rfl
@[simp] theorem setFn_asKeys (s : State) (n : Nat) (f : Fn) : (setFn s n f).asKeys = s.asKeys := rfl
@[simp] theorem setFn_sessions (s : State) (n : Nat) (f : Fn) : (setFn s n f).sessions = s.sessions := rfl
@[simp] theorem setFn_dcache (s : State) (n : Nat) (f : Fn) : (setFn s n f).dcache = s.dcache := rfl
@[simp] theorem setFn_tableHigh (s : State) (n : Nat) (f : Fn) : (setFn s n f).tableHigh = s.tableHigh := rfl
@[simp] theorem setFn_pages (s : State) (n : Nat) (f : Fn) : (setFn s n f).pages = s.pages := rfl
@[simp] theorem setFn_recGen (s : State) (n : Nat) (f : Fn) : (setFn s n f).recGen = s.recGen := rfl
@[simp] theorem setFn_idents (s : State) (n : Nat) (f : Fn) : (setFn s n f).idents = s.idents := rfl
@[simp] theorem setFn_copies (s : State) (n : Nat) (f : Fn) : (setFn s n f).copies = s.copies := rfl
@[simp] theorem setFn_runs (s : State) (n : Nat) (f : Fn) : (setFn s n f).runs = s.runs := rfl
@[simp] theorem setFn_bundles (s : State) (n : Nat) (f : Fn) : (setFn s n f).bundles = s.bundles := rfl
@[simp] theorem setFn_streams (s : State) (n : Nat) (f : Fn) : (setFn s n f).streams = s.streams := rfl
@[simp] theorem setFn_maskReads (s : State) (n : Nat) (f : Fn) : (setFn s n f).maskReads = s.maskReads := rfl
@[simp] theorem setFn_textReads (s : State) (n : Nat) (f : Fn) : (setFn s n f).textReads = s.textReads := rfl
@[simp] theorem setFn_textDefers (s : State) (n : Nat) (f : Fn) : (setFn s n f).textDefers = s.textDefers := rfl
@[simp] theorem setFn_txLoads (s : State) (n : Nat) (f : Fn) : (setFn s n f).txLoads = s.txLoads := rfl
@[simp] theorem setFn_indexes (s : State) (n : Nat) (f : Fn) : (setFn s n f).indexes = s.indexes := rfl
@[simp] theorem setFn_changes (s : State) (n : Nat) (f : Fn) : (setFn s n f).changes = s.changes := rfl
@[simp] theorem setFn_searches (s : State) (n : Nat) (f : Fn) : (setFn s n f).searches = s.searches := rfl
@[simp] theorem setFn_regionsOut (s : State) (n : Nat) (f : Fn) : (setFn s n f).regionsOut = s.regionsOut := rfl
@[simp] theorem setFn_mediaKeys (s : State) (n : Nat) (f : Fn) : (setFn s n f).mediaKeys = s.mediaKeys := rfl
@[simp] theorem setFn_roleProfile (s : State) (n : Nat) (f : Fn) : (setFn s n f).roleProfile = s.roleProfile := rfl
@[simp] theorem setFn_pair (s : State) (n : Nat) (f : Fn) : (setFn s n f).pair = s.pair := rfl
@[simp] theorem setFn_sec (s : State) (n : Nat) (f : Fn) : (setFn s n f).sec = s.sec := rfl
@[simp] theorem setFn_faults (s : State) (n : Nat) (f : Fn) : (setFn s n f).faults = s.faults := rfl
@[simp] theorem setFn_pow (s : State) (n : Nat) (f : Fn) : (setFn s n f).pow = s.pow := rfl
@[simp] theorem setFn_media (s : State) (n : Nat) (f : Fn) : (setFn s n f).media = s.media := rfl
@[simp] theorem setFn_steps (s : State) (n : Nat) (f : Fn) : (setFn s n f).steps = s.steps := rfl
@[simp] theorem setFn_commits (s : State) (n : Nat) (f : Fn) : (setFn s n f).commits = s.commits := rfl
@[simp] theorem setFn_blocks (s : State) (n : Nat) (f : Fn) : (setFn s n f).blocks = s.blocks := rfl
@[simp] theorem setFn_lcLoads (s : State) (n : Nat) (f : Fn) : (setFn s n f).lcLoads = s.lcLoads := rfl
@[simp] theorem setFn_notices (s : State) (n : Nat) (f : Fn) : (setFn s n f).notices = s.notices := rfl
@[simp] theorem setFn_heldWrites (s : State) (n : Nat) (f : Fn) : (setFn s n f).heldWrites = s.heldWrites := rfl
@[simp] theorem setFn_role (s : State) (n : Nat) (f : Fn) : (setFn s n f).role = s.role := rfl
@[simp] theorem setFn_roleNext (s : State) (n : Nat) (f : Fn) : (setFn s n f).roleNext = s.roleNext := rfl
@[simp] theorem setFn_hm (s : State) (n : Nat) (f : Fn) : (setFn s n f).hm = s.hm := rfl
@[simp] theorem setFn_hbmPressure (s : State) (n : Nat) (f : Fn) : (setFn s n f).hbmPressure = s.hbmPressure := rfl
@[simp] theorem setFn_chartEpoch (s : State) (n : Nat) (f : Fn) : (setFn s n f).chartEpoch = s.chartEpoch := rfl
@[simp] theorem setFn_redirects (s : State) (n : Nat) (f : Fn) : (setFn s n f).redirects = s.redirects := rfl
@[simp] theorem setFn_win (s : State) (n : Nat) (f : Fn) : (setFn s n f).win = s.win := rfl
@[simp] theorem setFn_tw (s : State) (n : Nat) (f : Fn) : (setFn s n f).tw = s.tw := rfl
@[simp] theorem setFn_beached (s : State) (n : Nat) (f : Fn) : (setFn s n f).beached = s.beached := rfl
@[simp] theorem setFn_aon (s : State) (n : Nat) (f : Fn) : (setFn s n f).aon = s.aon := rfl
@[simp] theorem setFn_ready (s : State) (n : Nat) (f : Fn) : (setFn s n f).ready = s.ready := rfl

@[simp] theorem modFn_pending (s : State) (n : Nat) (g : Fn → Fn) : (modFn s n g).pending = s.pending := rfl
@[simp] theorem modFn_out (s : State) (n : Nat) (g : Fn → Fn) : (modFn s n g).out = s.out := rfl
@[simp] theorem modFn_postmark (s : State) (n : Nat) (g : Fn → Fn) : (modFn s n g).postmark = s.postmark := rfl
@[simp] theorem modFn_fresh (s : State) (n : Nat) (g : Fn → Fn) : (modFn s n g).fresh = s.fresh := rfl
@[simp] theorem modFn_vfEnable (s : State) (n : Nat) (g : Fn → Fn) : (modFn s n g).vfEnable = s.vfEnable := rfl
@[simp] theorem modFn_numVfs (s : State) (n : Nat) (g : Fn → Fn) : (modFn s n g).numVfs = s.numVfs := rfl
@[simp] theorem modFn_vfCompat (s : State) (n : Nat) (g : Fn → Fn) : (modFn s n g).vfCompat = s.vfCompat := rfl
@[simp] theorem modFn_live (s : State) (n : Nat) (g : Fn → Fn) : (modFn s n g).live = s.live := rfl
@[simp] theorem modFn_ops (s : State) (n : Nat) (g : Fn → Fn) : (modFn s n g).ops = s.ops := rfl
@[simp] theorem modFn_accounts (s : State) (n : Nat) (g : Fn → Fn) : (modFn s n g).accounts = s.accounts := rfl
@[simp] theorem modFn_ceilings (s : State) (n : Nat) (g : Fn → Fn) : (modFn s n g).ceilings = s.ceilings := rfl
@[simp] theorem modFn_configs (s : State) (n : Nat) (g : Fn → Fn) : (modFn s n g).configs = s.configs := rfl
@[simp] theorem modFn_asKeys (s : State) (n : Nat) (g : Fn → Fn) : (modFn s n g).asKeys = s.asKeys := rfl
@[simp] theorem modFn_sessions (s : State) (n : Nat) (g : Fn → Fn) : (modFn s n g).sessions = s.sessions := rfl
@[simp] theorem modFn_dcache (s : State) (n : Nat) (g : Fn → Fn) : (modFn s n g).dcache = s.dcache := rfl
@[simp] theorem modFn_tableHigh (s : State) (n : Nat) (g : Fn → Fn) : (modFn s n g).tableHigh = s.tableHigh := rfl
@[simp] theorem modFn_pages (s : State) (n : Nat) (g : Fn → Fn) : (modFn s n g).pages = s.pages := rfl
@[simp] theorem modFn_recGen (s : State) (n : Nat) (g : Fn → Fn) : (modFn s n g).recGen = s.recGen := rfl
@[simp] theorem modFn_idents (s : State) (n : Nat) (g : Fn → Fn) : (modFn s n g).idents = s.idents := rfl
@[simp] theorem modFn_copies (s : State) (n : Nat) (g : Fn → Fn) : (modFn s n g).copies = s.copies := rfl
@[simp] theorem modFn_runs (s : State) (n : Nat) (g : Fn → Fn) : (modFn s n g).runs = s.runs := rfl
@[simp] theorem modFn_bundles (s : State) (n : Nat) (g : Fn → Fn) : (modFn s n g).bundles = s.bundles := rfl
@[simp] theorem modFn_streams (s : State) (n : Nat) (g : Fn → Fn) : (modFn s n g).streams = s.streams := rfl
@[simp] theorem modFn_maskReads (s : State) (n : Nat) (g : Fn → Fn) : (modFn s n g).maskReads = s.maskReads := rfl
@[simp] theorem modFn_textReads (s : State) (n : Nat) (g : Fn → Fn) : (modFn s n g).textReads = s.textReads := rfl
@[simp] theorem modFn_textDefers (s : State) (n : Nat) (g : Fn → Fn) : (modFn s n g).textDefers = s.textDefers := rfl
@[simp] theorem modFn_txLoads (s : State) (n : Nat) (g : Fn → Fn) : (modFn s n g).txLoads = s.txLoads := rfl
@[simp] theorem modFn_indexes (s : State) (n : Nat) (g : Fn → Fn) : (modFn s n g).indexes = s.indexes := rfl
@[simp] theorem modFn_changes (s : State) (n : Nat) (g : Fn → Fn) : (modFn s n g).changes = s.changes := rfl
@[simp] theorem modFn_searches (s : State) (n : Nat) (g : Fn → Fn) : (modFn s n g).searches = s.searches := rfl
@[simp] theorem modFn_regionsOut (s : State) (n : Nat) (g : Fn → Fn) : (modFn s n g).regionsOut = s.regionsOut := rfl
@[simp] theorem modFn_mediaKeys (s : State) (n : Nat) (g : Fn → Fn) : (modFn s n g).mediaKeys = s.mediaKeys := rfl
@[simp] theorem modFn_roleProfile (s : State) (n : Nat) (g : Fn → Fn) : (modFn s n g).roleProfile = s.roleProfile := rfl
@[simp] theorem modFn_pair (s : State) (n : Nat) (g : Fn → Fn) : (modFn s n g).pair = s.pair := rfl
@[simp] theorem modFn_sec (s : State) (n : Nat) (g : Fn → Fn) : (modFn s n g).sec = s.sec := rfl
@[simp] theorem modFn_faults (s : State) (n : Nat) (g : Fn → Fn) : (modFn s n g).faults = s.faults := rfl
@[simp] theorem modFn_pow (s : State) (n : Nat) (g : Fn → Fn) : (modFn s n g).pow = s.pow := rfl
@[simp] theorem modFn_media (s : State) (n : Nat) (g : Fn → Fn) : (modFn s n g).media = s.media := rfl
@[simp] theorem modFn_steps (s : State) (n : Nat) (g : Fn → Fn) : (modFn s n g).steps = s.steps := rfl
@[simp] theorem modFn_commits (s : State) (n : Nat) (g : Fn → Fn) : (modFn s n g).commits = s.commits := rfl
@[simp] theorem modFn_blocks (s : State) (n : Nat) (g : Fn → Fn) : (modFn s n g).blocks = s.blocks := rfl
@[simp] theorem modFn_lcLoads (s : State) (n : Nat) (g : Fn → Fn) : (modFn s n g).lcLoads = s.lcLoads := rfl
@[simp] theorem modFn_notices (s : State) (n : Nat) (g : Fn → Fn) : (modFn s n g).notices = s.notices := rfl
@[simp] theorem modFn_heldWrites (s : State) (n : Nat) (g : Fn → Fn) : (modFn s n g).heldWrites = s.heldWrites := rfl
@[simp] theorem modFn_role (s : State) (n : Nat) (g : Fn → Fn) : (modFn s n g).role = s.role := rfl
@[simp] theorem modFn_roleNext (s : State) (n : Nat) (g : Fn → Fn) : (modFn s n g).roleNext = s.roleNext := rfl
@[simp] theorem modFn_hm (s : State) (n : Nat) (g : Fn → Fn) : (modFn s n g).hm = s.hm := rfl
@[simp] theorem modFn_hbmPressure (s : State) (n : Nat) (g : Fn → Fn) : (modFn s n g).hbmPressure = s.hbmPressure := rfl
@[simp] theorem modFn_chartEpoch (s : State) (n : Nat) (g : Fn → Fn) : (modFn s n g).chartEpoch = s.chartEpoch := rfl
@[simp] theorem modFn_redirects (s : State) (n : Nat) (g : Fn → Fn) : (modFn s n g).redirects = s.redirects := rfl
@[simp] theorem modFn_win (s : State) (n : Nat) (g : Fn → Fn) : (modFn s n g).win = s.win := rfl
@[simp] theorem modFn_tw (s : State) (n : Nat) (g : Fn → Fn) : (modFn s n g).tw = s.tw := rfl
@[simp] theorem modFn_beached (s : State) (n : Nat) (g : Fn → Fn) : (modFn s n g).beached = s.beached := rfl
@[simp] theorem modFn_aon (s : State) (n : Nat) (g : Fn → Fn) : (modFn s n g).aon = s.aon := rfl
@[simp] theorem modFn_ready (s : State) (n : Nat) (g : Fn → Fn) : (modFn s n g).ready = s.ready := rfl

@[simp] theorem setLive_pending (s : State) (f : LiveField) (l : Live) : (setLive s f l).pending = s.pending := rfl
@[simp] theorem setLive_out (s : State) (f : LiveField) (l : Live) : (setLive s f l).out = s.out := rfl
@[simp] theorem setLive_postmark (s : State) (f : LiveField) (l : Live) : (setLive s f l).postmark = s.postmark := rfl
@[simp] theorem setLive_fresh (s : State) (f : LiveField) (l : Live) : (setLive s f l).fresh = s.fresh := rfl
@[simp] theorem setLive_fns (s : State) (f : LiveField) (l : Live) : (setLive s f l).fns = s.fns := rfl
@[simp] theorem setLive_vfEnable (s : State) (f : LiveField) (l : Live) : (setLive s f l).vfEnable = s.vfEnable := rfl
@[simp] theorem setLive_numVfs (s : State) (f : LiveField) (l : Live) : (setLive s f l).numVfs = s.numVfs := rfl
@[simp] theorem setLive_vfCompat (s : State) (f : LiveField) (l : Live) : (setLive s f l).vfCompat = s.vfCompat := rfl
@[simp] theorem setLive_ops (s : State) (f : LiveField) (l : Live) : (setLive s f l).ops = s.ops := rfl
@[simp] theorem setLive_accounts (s : State) (f : LiveField) (l : Live) : (setLive s f l).accounts = s.accounts := rfl
@[simp] theorem setLive_ceilings (s : State) (f : LiveField) (l : Live) : (setLive s f l).ceilings = s.ceilings := rfl
@[simp] theorem setLive_configs (s : State) (f : LiveField) (l : Live) : (setLive s f l).configs = s.configs := rfl
@[simp] theorem setLive_asKeys (s : State) (f : LiveField) (l : Live) : (setLive s f l).asKeys = s.asKeys := rfl
@[simp] theorem setLive_sessions (s : State) (f : LiveField) (l : Live) : (setLive s f l).sessions = s.sessions := rfl
@[simp] theorem setLive_dcache (s : State) (f : LiveField) (l : Live) : (setLive s f l).dcache = s.dcache := rfl
@[simp] theorem setLive_tableHigh (s : State) (f : LiveField) (l : Live) : (setLive s f l).tableHigh = s.tableHigh := rfl
@[simp] theorem setLive_pages (s : State) (f : LiveField) (l : Live) : (setLive s f l).pages = s.pages := rfl
@[simp] theorem setLive_recGen (s : State) (f : LiveField) (l : Live) : (setLive s f l).recGen = s.recGen := rfl
@[simp] theorem setLive_idents (s : State) (f : LiveField) (l : Live) : (setLive s f l).idents = s.idents := rfl
@[simp] theorem setLive_copies (s : State) (f : LiveField) (l : Live) : (setLive s f l).copies = s.copies := rfl
@[simp] theorem setLive_runs (s : State) (f : LiveField) (l : Live) : (setLive s f l).runs = s.runs := rfl
@[simp] theorem setLive_bundles (s : State) (f : LiveField) (l : Live) : (setLive s f l).bundles = s.bundles := rfl
@[simp] theorem setLive_streams (s : State) (f : LiveField) (l : Live) : (setLive s f l).streams = s.streams := rfl
@[simp] theorem setLive_maskReads (s : State) (f : LiveField) (l : Live) : (setLive s f l).maskReads = s.maskReads := rfl
@[simp] theorem setLive_textReads (s : State) (f : LiveField) (l : Live) : (setLive s f l).textReads = s.textReads := rfl
@[simp] theorem setLive_textDefers (s : State) (f : LiveField) (l : Live) : (setLive s f l).textDefers = s.textDefers := rfl
@[simp] theorem setLive_txLoads (s : State) (f : LiveField) (l : Live) : (setLive s f l).txLoads = s.txLoads := rfl
@[simp] theorem setLive_indexes (s : State) (f : LiveField) (l : Live) : (setLive s f l).indexes = s.indexes := rfl
@[simp] theorem setLive_changes (s : State) (f : LiveField) (l : Live) : (setLive s f l).changes = s.changes := rfl
@[simp] theorem setLive_searches (s : State) (f : LiveField) (l : Live) : (setLive s f l).searches = s.searches := rfl
@[simp] theorem setLive_regionsOut (s : State) (f : LiveField) (l : Live) : (setLive s f l).regionsOut = s.regionsOut := rfl
@[simp] theorem setLive_mediaKeys (s : State) (f : LiveField) (l : Live) : (setLive s f l).mediaKeys = s.mediaKeys := rfl
@[simp] theorem setLive_roleProfile (s : State) (f : LiveField) (l : Live) : (setLive s f l).roleProfile = s.roleProfile := rfl
@[simp] theorem setLive_pair (s : State) (f : LiveField) (l : Live) : (setLive s f l).pair = s.pair := rfl
@[simp] theorem setLive_sec (s : State) (f : LiveField) (l : Live) : (setLive s f l).sec = s.sec := rfl
@[simp] theorem setLive_faults (s : State) (f : LiveField) (l : Live) : (setLive s f l).faults = s.faults := rfl
@[simp] theorem setLive_pow (s : State) (f : LiveField) (l : Live) : (setLive s f l).pow = s.pow := rfl
@[simp] theorem setLive_media (s : State) (f : LiveField) (l : Live) : (setLive s f l).media = s.media := rfl
@[simp] theorem setLive_steps (s : State) (f : LiveField) (l : Live) : (setLive s f l).steps = s.steps := rfl
@[simp] theorem setLive_commits (s : State) (f : LiveField) (l : Live) : (setLive s f l).commits = s.commits := rfl
@[simp] theorem setLive_blocks (s : State) (f : LiveField) (l : Live) : (setLive s f l).blocks = s.blocks := rfl
@[simp] theorem setLive_lcLoads (s : State) (f : LiveField) (l : Live) : (setLive s f l).lcLoads = s.lcLoads := rfl
@[simp] theorem setLive_notices (s : State) (f : LiveField) (l : Live) : (setLive s f l).notices = s.notices := rfl
@[simp] theorem setLive_heldWrites (s : State) (f : LiveField) (l : Live) : (setLive s f l).heldWrites = s.heldWrites := rfl
@[simp] theorem setLive_role (s : State) (f : LiveField) (l : Live) : (setLive s f l).role = s.role := rfl
@[simp] theorem setLive_roleNext (s : State) (f : LiveField) (l : Live) : (setLive s f l).roleNext = s.roleNext := rfl
@[simp] theorem setLive_hm (s : State) (f : LiveField) (l : Live) : (setLive s f l).hm = s.hm := rfl
@[simp] theorem setLive_hbmPressure (s : State) (f : LiveField) (l : Live) : (setLive s f l).hbmPressure = s.hbmPressure := rfl
@[simp] theorem setLive_chartEpoch (s : State) (f : LiveField) (l : Live) : (setLive s f l).chartEpoch = s.chartEpoch := rfl
@[simp] theorem setLive_redirects (s : State) (f : LiveField) (l : Live) : (setLive s f l).redirects = s.redirects := rfl
@[simp] theorem setLive_win (s : State) (f : LiveField) (l : Live) : (setLive s f l).win = s.win := rfl
@[simp] theorem setLive_tw (s : State) (f : LiveField) (l : Live) : (setLive s f l).tw = s.tw := rfl
@[simp] theorem setLive_beached (s : State) (f : LiveField) (l : Live) : (setLive s f l).beached = s.beached := rfl
@[simp] theorem setLive_aon (s : State) (f : LiveField) (l : Live) : (setLive s f l).aon = s.aon := rfl
@[simp] theorem setLive_ready (s : State) (f : LiveField) (l : Live) : (setLive s f l).ready = s.ready := rfl

@[simp] theorem putOp_pending (s : State) (tag : Nat) (o : Op) : (putOp s tag o).pending = s.pending := rfl
@[simp] theorem putOp_out (s : State) (tag : Nat) (o : Op) : (putOp s tag o).out = s.out := rfl
@[simp] theorem putOp_postmark (s : State) (tag : Nat) (o : Op) : (putOp s tag o).postmark = s.postmark := rfl
@[simp] theorem putOp_fresh (s : State) (tag : Nat) (o : Op) : (putOp s tag o).fresh = s.fresh := rfl
@[simp] theorem putOp_fns (s : State) (tag : Nat) (o : Op) : (putOp s tag o).fns = s.fns := rfl
@[simp] theorem putOp_vfEnable (s : State) (tag : Nat) (o : Op) : (putOp s tag o).vfEnable = s.vfEnable := rfl
@[simp] theorem putOp_numVfs (s : State) (tag : Nat) (o : Op) : (putOp s tag o).numVfs = s.numVfs := rfl
@[simp] theorem putOp_vfCompat (s : State) (tag : Nat) (o : Op) : (putOp s tag o).vfCompat = s.vfCompat := rfl
@[simp] theorem putOp_live (s : State) (tag : Nat) (o : Op) : (putOp s tag o).live = s.live := rfl
@[simp] theorem putOp_accounts (s : State) (tag : Nat) (o : Op) : (putOp s tag o).accounts = s.accounts := rfl
@[simp] theorem putOp_ceilings (s : State) (tag : Nat) (o : Op) : (putOp s tag o).ceilings = s.ceilings := rfl
@[simp] theorem putOp_configs (s : State) (tag : Nat) (o : Op) : (putOp s tag o).configs = s.configs := rfl
@[simp] theorem putOp_asKeys (s : State) (tag : Nat) (o : Op) : (putOp s tag o).asKeys = s.asKeys := rfl
@[simp] theorem putOp_sessions (s : State) (tag : Nat) (o : Op) : (putOp s tag o).sessions = s.sessions := rfl
@[simp] theorem putOp_dcache (s : State) (tag : Nat) (o : Op) : (putOp s tag o).dcache = s.dcache := rfl
@[simp] theorem putOp_tableHigh (s : State) (tag : Nat) (o : Op) : (putOp s tag o).tableHigh = s.tableHigh := rfl
@[simp] theorem putOp_pages (s : State) (tag : Nat) (o : Op) : (putOp s tag o).pages = s.pages := rfl
@[simp] theorem putOp_recGen (s : State) (tag : Nat) (o : Op) : (putOp s tag o).recGen = s.recGen := rfl
@[simp] theorem putOp_idents (s : State) (tag : Nat) (o : Op) : (putOp s tag o).idents = s.idents := rfl
@[simp] theorem putOp_copies (s : State) (tag : Nat) (o : Op) : (putOp s tag o).copies = s.copies := rfl
@[simp] theorem putOp_runs (s : State) (tag : Nat) (o : Op) : (putOp s tag o).runs = s.runs := rfl
@[simp] theorem putOp_bundles (s : State) (tag : Nat) (o : Op) : (putOp s tag o).bundles = s.bundles := rfl
@[simp] theorem putOp_streams (s : State) (tag : Nat) (o : Op) : (putOp s tag o).streams = s.streams := rfl
@[simp] theorem putOp_maskReads (s : State) (tag : Nat) (o : Op) : (putOp s tag o).maskReads = s.maskReads := rfl
@[simp] theorem putOp_textReads (s : State) (tag : Nat) (o : Op) : (putOp s tag o).textReads = s.textReads := rfl
@[simp] theorem putOp_textDefers (s : State) (tag : Nat) (o : Op) : (putOp s tag o).textDefers = s.textDefers := rfl
@[simp] theorem putOp_txLoads (s : State) (tag : Nat) (o : Op) : (putOp s tag o).txLoads = s.txLoads := rfl
@[simp] theorem putOp_indexes (s : State) (tag : Nat) (o : Op) : (putOp s tag o).indexes = s.indexes := rfl
@[simp] theorem putOp_changes (s : State) (tag : Nat) (o : Op) : (putOp s tag o).changes = s.changes := rfl
@[simp] theorem putOp_searches (s : State) (tag : Nat) (o : Op) : (putOp s tag o).searches = s.searches := rfl
@[simp] theorem putOp_regionsOut (s : State) (tag : Nat) (o : Op) : (putOp s tag o).regionsOut = s.regionsOut := rfl
@[simp] theorem putOp_mediaKeys (s : State) (tag : Nat) (o : Op) : (putOp s tag o).mediaKeys = s.mediaKeys := rfl
@[simp] theorem putOp_roleProfile (s : State) (tag : Nat) (o : Op) : (putOp s tag o).roleProfile = s.roleProfile := rfl
@[simp] theorem putOp_pair (s : State) (tag : Nat) (o : Op) : (putOp s tag o).pair = s.pair := rfl
@[simp] theorem putOp_sec (s : State) (tag : Nat) (o : Op) : (putOp s tag o).sec = s.sec := rfl
@[simp] theorem putOp_faults (s : State) (tag : Nat) (o : Op) : (putOp s tag o).faults = s.faults := rfl
@[simp] theorem putOp_pow (s : State) (tag : Nat) (o : Op) : (putOp s tag o).pow = s.pow := rfl
@[simp] theorem putOp_media (s : State) (tag : Nat) (o : Op) : (putOp s tag o).media = s.media := rfl
@[simp] theorem putOp_steps (s : State) (tag : Nat) (o : Op) : (putOp s tag o).steps = s.steps := rfl
@[simp] theorem putOp_commits (s : State) (tag : Nat) (o : Op) : (putOp s tag o).commits = s.commits := rfl
@[simp] theorem putOp_blocks (s : State) (tag : Nat) (o : Op) : (putOp s tag o).blocks = s.blocks := rfl
@[simp] theorem putOp_lcLoads (s : State) (tag : Nat) (o : Op) : (putOp s tag o).lcLoads = s.lcLoads := rfl
@[simp] theorem putOp_notices (s : State) (tag : Nat) (o : Op) : (putOp s tag o).notices = s.notices := rfl
@[simp] theorem putOp_heldWrites (s : State) (tag : Nat) (o : Op) : (putOp s tag o).heldWrites = s.heldWrites := rfl
@[simp] theorem putOp_role (s : State) (tag : Nat) (o : Op) : (putOp s tag o).role = s.role := rfl
@[simp] theorem putOp_roleNext (s : State) (tag : Nat) (o : Op) : (putOp s tag o).roleNext = s.roleNext := rfl
@[simp] theorem putOp_hm (s : State) (tag : Nat) (o : Op) : (putOp s tag o).hm = s.hm := rfl
@[simp] theorem putOp_hbmPressure (s : State) (tag : Nat) (o : Op) : (putOp s tag o).hbmPressure = s.hbmPressure := rfl
@[simp] theorem putOp_chartEpoch (s : State) (tag : Nat) (o : Op) : (putOp s tag o).chartEpoch = s.chartEpoch := rfl
@[simp] theorem putOp_redirects (s : State) (tag : Nat) (o : Op) : (putOp s tag o).redirects = s.redirects := rfl
@[simp] theorem putOp_win (s : State) (tag : Nat) (o : Op) : (putOp s tag o).win = s.win := rfl
@[simp] theorem putOp_tw (s : State) (tag : Nat) (o : Op) : (putOp s tag o).tw = s.tw := rfl
@[simp] theorem putOp_beached (s : State) (tag : Nat) (o : Op) : (putOp s tag o).beached = s.beached := rfl
@[simp] theorem putOp_aon (s : State) (tag : Nat) (o : Op) : (putOp s tag o).aon = s.aon := rfl
@[simp] theorem putOp_ready (s : State) (tag : Nat) (o : Op) : (putOp s tag o).ready = s.ready := rfl

@[simp] theorem resolveTag_pending (s : State) (tag : Nat) (r : Rcpt) : (resolveTag s tag r).pending = s.pending := rfl
@[simp] theorem resolveTag_out (s : State) (tag : Nat) (r : Rcpt) : (resolveTag s tag r).out = s.out := rfl
@[simp] theorem resolveTag_postmark (s : State) (tag : Nat) (r : Rcpt) : (resolveTag s tag r).postmark = s.postmark := rfl
@[simp] theorem resolveTag_fresh (s : State) (tag : Nat) (r : Rcpt) : (resolveTag s tag r).fresh = s.fresh := rfl
@[simp] theorem resolveTag_fns (s : State) (tag : Nat) (r : Rcpt) : (resolveTag s tag r).fns = s.fns := rfl
@[simp] theorem resolveTag_vfEnable (s : State) (tag : Nat) (r : Rcpt) : (resolveTag s tag r).vfEnable = s.vfEnable := rfl
@[simp] theorem resolveTag_numVfs (s : State) (tag : Nat) (r : Rcpt) : (resolveTag s tag r).numVfs = s.numVfs := rfl
@[simp] theorem resolveTag_vfCompat (s : State) (tag : Nat) (r : Rcpt) : (resolveTag s tag r).vfCompat = s.vfCompat := rfl
@[simp] theorem resolveTag_live (s : State) (tag : Nat) (r : Rcpt) : (resolveTag s tag r).live = s.live := rfl
@[simp] theorem resolveTag_accounts (s : State) (tag : Nat) (r : Rcpt) : (resolveTag s tag r).accounts = s.accounts := rfl
@[simp] theorem resolveTag_ceilings (s : State) (tag : Nat) (r : Rcpt) : (resolveTag s tag r).ceilings = s.ceilings := rfl
@[simp] theorem resolveTag_configs (s : State) (tag : Nat) (r : Rcpt) : (resolveTag s tag r).configs = s.configs := rfl
@[simp] theorem resolveTag_asKeys (s : State) (tag : Nat) (r : Rcpt) : (resolveTag s tag r).asKeys = s.asKeys := rfl
@[simp] theorem resolveTag_sessions (s : State) (tag : Nat) (r : Rcpt) : (resolveTag s tag r).sessions = s.sessions := rfl
@[simp] theorem resolveTag_dcache (s : State) (tag : Nat) (r : Rcpt) : (resolveTag s tag r).dcache = s.dcache := rfl
@[simp] theorem resolveTag_tableHigh (s : State) (tag : Nat) (r : Rcpt) : (resolveTag s tag r).tableHigh = s.tableHigh := rfl
@[simp] theorem resolveTag_pages (s : State) (tag : Nat) (r : Rcpt) : (resolveTag s tag r).pages = s.pages := rfl
@[simp] theorem resolveTag_recGen (s : State) (tag : Nat) (r : Rcpt) : (resolveTag s tag r).recGen = s.recGen := rfl
@[simp] theorem resolveTag_idents (s : State) (tag : Nat) (r : Rcpt) : (resolveTag s tag r).idents = s.idents := rfl
@[simp] theorem resolveTag_copies (s : State) (tag : Nat) (r : Rcpt) : (resolveTag s tag r).copies = s.copies := rfl
@[simp] theorem resolveTag_runs (s : State) (tag : Nat) (r : Rcpt) : (resolveTag s tag r).runs = s.runs := rfl
@[simp] theorem resolveTag_bundles (s : State) (tag : Nat) (r : Rcpt) : (resolveTag s tag r).bundles = s.bundles := rfl
@[simp] theorem resolveTag_streams (s : State) (tag : Nat) (r : Rcpt) : (resolveTag s tag r).streams = s.streams := rfl
@[simp] theorem resolveTag_maskReads (s : State) (tag : Nat) (r : Rcpt) : (resolveTag s tag r).maskReads = s.maskReads := rfl
@[simp] theorem resolveTag_textReads (s : State) (tag : Nat) (r : Rcpt) : (resolveTag s tag r).textReads = s.textReads := rfl
@[simp] theorem resolveTag_textDefers (s : State) (tag : Nat) (r : Rcpt) : (resolveTag s tag r).textDefers = s.textDefers := rfl
@[simp] theorem resolveTag_txLoads (s : State) (tag : Nat) (r : Rcpt) : (resolveTag s tag r).txLoads = s.txLoads := rfl
@[simp] theorem resolveTag_indexes (s : State) (tag : Nat) (r : Rcpt) : (resolveTag s tag r).indexes = s.indexes := rfl
@[simp] theorem resolveTag_changes (s : State) (tag : Nat) (r : Rcpt) : (resolveTag s tag r).changes = s.changes := rfl
@[simp] theorem resolveTag_searches (s : State) (tag : Nat) (r : Rcpt) : (resolveTag s tag r).searches = s.searches := rfl
@[simp] theorem resolveTag_regionsOut (s : State) (tag : Nat) (r : Rcpt) : (resolveTag s tag r).regionsOut = s.regionsOut := rfl
@[simp] theorem resolveTag_mediaKeys (s : State) (tag : Nat) (r : Rcpt) : (resolveTag s tag r).mediaKeys = s.mediaKeys := rfl
@[simp] theorem resolveTag_roleProfile (s : State) (tag : Nat) (r : Rcpt) : (resolveTag s tag r).roleProfile = s.roleProfile := rfl
@[simp] theorem resolveTag_pair (s : State) (tag : Nat) (r : Rcpt) : (resolveTag s tag r).pair = s.pair := rfl
@[simp] theorem resolveTag_sec (s : State) (tag : Nat) (r : Rcpt) : (resolveTag s tag r).sec = s.sec := rfl
@[simp] theorem resolveTag_faults (s : State) (tag : Nat) (r : Rcpt) : (resolveTag s tag r).faults = s.faults := rfl
@[simp] theorem resolveTag_pow (s : State) (tag : Nat) (r : Rcpt) : (resolveTag s tag r).pow = s.pow := rfl
@[simp] theorem resolveTag_media (s : State) (tag : Nat) (r : Rcpt) : (resolveTag s tag r).media = s.media := rfl
@[simp] theorem resolveTag_steps (s : State) (tag : Nat) (r : Rcpt) : (resolveTag s tag r).steps = s.steps := rfl
@[simp] theorem resolveTag_commits (s : State) (tag : Nat) (r : Rcpt) : (resolveTag s tag r).commits = s.commits := rfl
@[simp] theorem resolveTag_blocks (s : State) (tag : Nat) (r : Rcpt) : (resolveTag s tag r).blocks = s.blocks := rfl
@[simp] theorem resolveTag_lcLoads (s : State) (tag : Nat) (r : Rcpt) : (resolveTag s tag r).lcLoads = s.lcLoads := rfl
@[simp] theorem resolveTag_notices (s : State) (tag : Nat) (r : Rcpt) : (resolveTag s tag r).notices = s.notices := rfl
@[simp] theorem resolveTag_heldWrites (s : State) (tag : Nat) (r : Rcpt) : (resolveTag s tag r).heldWrites = s.heldWrites := rfl
@[simp] theorem resolveTag_role (s : State) (tag : Nat) (r : Rcpt) : (resolveTag s tag r).role = s.role := rfl
@[simp] theorem resolveTag_roleNext (s : State) (tag : Nat) (r : Rcpt) : (resolveTag s tag r).roleNext = s.roleNext := rfl
@[simp] theorem resolveTag_hm (s : State) (tag : Nat) (r : Rcpt) : (resolveTag s tag r).hm = s.hm := rfl
@[simp] theorem resolveTag_hbmPressure (s : State) (tag : Nat) (r : Rcpt) : (resolveTag s tag r).hbmPressure = s.hbmPressure := rfl
@[simp] theorem resolveTag_chartEpoch (s : State) (tag : Nat) (r : Rcpt) : (resolveTag s tag r).chartEpoch = s.chartEpoch := rfl
@[simp] theorem resolveTag_redirects (s : State) (tag : Nat) (r : Rcpt) : (resolveTag s tag r).redirects = s.redirects := rfl
@[simp] theorem resolveTag_win (s : State) (tag : Nat) (r : Rcpt) : (resolveTag s tag r).win = s.win := rfl
@[simp] theorem resolveTag_tw (s : State) (tag : Nat) (r : Rcpt) : (resolveTag s tag r).tw = s.tw := rfl
@[simp] theorem resolveTag_beached (s : State) (tag : Nat) (r : Rcpt) : (resolveTag s tag r).beached = s.beached := rfl
@[simp] theorem resolveTag_aon (s : State) (tag : Nat) (r : Rcpt) : (resolveTag s tag r).aon = s.aon := rfl
@[simp] theorem resolveTag_ready (s : State) (tag : Nat) (r : Rcpt) : (resolveTag s tag r).ready = s.ready := rfl

@[simp] theorem resolveWait_pending (s : State) (w : Wait) (r : Rcpt) : (resolveWait s w r).pending = s.pending := rfl
@[simp] theorem resolveWait_out (s : State) (w : Wait) (r : Rcpt) : (resolveWait s w r).out = s.out := rfl
@[simp] theorem resolveWait_postmark (s : State) (w : Wait) (r : Rcpt) : (resolveWait s w r).postmark = s.postmark := rfl
@[simp] theorem resolveWait_fresh (s : State) (w : Wait) (r : Rcpt) : (resolveWait s w r).fresh = s.fresh := rfl
@[simp] theorem resolveWait_fns (s : State) (w : Wait) (r : Rcpt) : (resolveWait s w r).fns = s.fns := rfl
@[simp] theorem resolveWait_vfEnable (s : State) (w : Wait) (r : Rcpt) : (resolveWait s w r).vfEnable = s.vfEnable := rfl
@[simp] theorem resolveWait_numVfs (s : State) (w : Wait) (r : Rcpt) : (resolveWait s w r).numVfs = s.numVfs := rfl
@[simp] theorem resolveWait_vfCompat (s : State) (w : Wait) (r : Rcpt) : (resolveWait s w r).vfCompat = s.vfCompat := rfl
@[simp] theorem resolveWait_live (s : State) (w : Wait) (r : Rcpt) : (resolveWait s w r).live = s.live := rfl
@[simp] theorem resolveWait_accounts (s : State) (w : Wait) (r : Rcpt) : (resolveWait s w r).accounts = s.accounts := rfl
@[simp] theorem resolveWait_ceilings (s : State) (w : Wait) (r : Rcpt) : (resolveWait s w r).ceilings = s.ceilings := rfl
@[simp] theorem resolveWait_configs (s : State) (w : Wait) (r : Rcpt) : (resolveWait s w r).configs = s.configs := rfl
@[simp] theorem resolveWait_asKeys (s : State) (w : Wait) (r : Rcpt) : (resolveWait s w r).asKeys = s.asKeys := rfl
@[simp] theorem resolveWait_sessions (s : State) (w : Wait) (r : Rcpt) : (resolveWait s w r).sessions = s.sessions := rfl
@[simp] theorem resolveWait_dcache (s : State) (w : Wait) (r : Rcpt) : (resolveWait s w r).dcache = s.dcache := rfl
@[simp] theorem resolveWait_tableHigh (s : State) (w : Wait) (r : Rcpt) : (resolveWait s w r).tableHigh = s.tableHigh := rfl
@[simp] theorem resolveWait_pages (s : State) (w : Wait) (r : Rcpt) : (resolveWait s w r).pages = s.pages := rfl
@[simp] theorem resolveWait_recGen (s : State) (w : Wait) (r : Rcpt) : (resolveWait s w r).recGen = s.recGen := rfl
@[simp] theorem resolveWait_idents (s : State) (w : Wait) (r : Rcpt) : (resolveWait s w r).idents = s.idents := rfl
@[simp] theorem resolveWait_copies (s : State) (w : Wait) (r : Rcpt) : (resolveWait s w r).copies = s.copies := rfl
@[simp] theorem resolveWait_runs (s : State) (w : Wait) (r : Rcpt) : (resolveWait s w r).runs = s.runs := rfl
@[simp] theorem resolveWait_bundles (s : State) (w : Wait) (r : Rcpt) : (resolveWait s w r).bundles = s.bundles := rfl
@[simp] theorem resolveWait_streams (s : State) (w : Wait) (r : Rcpt) : (resolveWait s w r).streams = s.streams := rfl
@[simp] theorem resolveWait_maskReads (s : State) (w : Wait) (r : Rcpt) : (resolveWait s w r).maskReads = s.maskReads := rfl
@[simp] theorem resolveWait_textReads (s : State) (w : Wait) (r : Rcpt) : (resolveWait s w r).textReads = s.textReads := rfl
@[simp] theorem resolveWait_textDefers (s : State) (w : Wait) (r : Rcpt) : (resolveWait s w r).textDefers = s.textDefers := rfl
@[simp] theorem resolveWait_txLoads (s : State) (w : Wait) (r : Rcpt) : (resolveWait s w r).txLoads = s.txLoads := rfl
@[simp] theorem resolveWait_indexes (s : State) (w : Wait) (r : Rcpt) : (resolveWait s w r).indexes = s.indexes := rfl
@[simp] theorem resolveWait_changes (s : State) (w : Wait) (r : Rcpt) : (resolveWait s w r).changes = s.changes := rfl
@[simp] theorem resolveWait_searches (s : State) (w : Wait) (r : Rcpt) : (resolveWait s w r).searches = s.searches := rfl
@[simp] theorem resolveWait_regionsOut (s : State) (w : Wait) (r : Rcpt) : (resolveWait s w r).regionsOut = s.regionsOut := rfl
@[simp] theorem resolveWait_mediaKeys (s : State) (w : Wait) (r : Rcpt) : (resolveWait s w r).mediaKeys = s.mediaKeys := rfl
@[simp] theorem resolveWait_roleProfile (s : State) (w : Wait) (r : Rcpt) : (resolveWait s w r).roleProfile = s.roleProfile := rfl
@[simp] theorem resolveWait_pair (s : State) (w : Wait) (r : Rcpt) : (resolveWait s w r).pair = s.pair := rfl
@[simp] theorem resolveWait_sec (s : State) (w : Wait) (r : Rcpt) : (resolveWait s w r).sec = s.sec := rfl
@[simp] theorem resolveWait_faults (s : State) (w : Wait) (r : Rcpt) : (resolveWait s w r).faults = s.faults := rfl
@[simp] theorem resolveWait_pow (s : State) (w : Wait) (r : Rcpt) : (resolveWait s w r).pow = s.pow := rfl
@[simp] theorem resolveWait_media (s : State) (w : Wait) (r : Rcpt) : (resolveWait s w r).media = s.media := rfl
@[simp] theorem resolveWait_steps (s : State) (w : Wait) (r : Rcpt) : (resolveWait s w r).steps = s.steps := rfl
@[simp] theorem resolveWait_commits (s : State) (w : Wait) (r : Rcpt) : (resolveWait s w r).commits = s.commits := rfl
@[simp] theorem resolveWait_blocks (s : State) (w : Wait) (r : Rcpt) : (resolveWait s w r).blocks = s.blocks := rfl
@[simp] theorem resolveWait_lcLoads (s : State) (w : Wait) (r : Rcpt) : (resolveWait s w r).lcLoads = s.lcLoads := rfl
@[simp] theorem resolveWait_notices (s : State) (w : Wait) (r : Rcpt) : (resolveWait s w r).notices = s.notices := rfl
@[simp] theorem resolveWait_heldWrites (s : State) (w : Wait) (r : Rcpt) : (resolveWait s w r).heldWrites = s.heldWrites := rfl
@[simp] theorem resolveWait_role (s : State) (w : Wait) (r : Rcpt) : (resolveWait s w r).role = s.role := rfl
@[simp] theorem resolveWait_roleNext (s : State) (w : Wait) (r : Rcpt) : (resolveWait s w r).roleNext = s.roleNext := rfl
@[simp] theorem resolveWait_hm (s : State) (w : Wait) (r : Rcpt) : (resolveWait s w r).hm = s.hm := rfl
@[simp] theorem resolveWait_hbmPressure (s : State) (w : Wait) (r : Rcpt) : (resolveWait s w r).hbmPressure = s.hbmPressure := rfl
@[simp] theorem resolveWait_chartEpoch (s : State) (w : Wait) (r : Rcpt) : (resolveWait s w r).chartEpoch = s.chartEpoch := rfl
@[simp] theorem resolveWait_redirects (s : State) (w : Wait) (r : Rcpt) : (resolveWait s w r).redirects = s.redirects := rfl
@[simp] theorem resolveWait_win (s : State) (w : Wait) (r : Rcpt) : (resolveWait s w r).win = s.win := rfl
@[simp] theorem resolveWait_tw (s : State) (w : Wait) (r : Rcpt) : (resolveWait s w r).tw = s.tw := rfl
@[simp] theorem resolveWait_beached (s : State) (w : Wait) (r : Rcpt) : (resolveWait s w r).beached = s.beached := rfl
@[simp] theorem resolveWait_aon (s : State) (w : Wait) (r : Rcpt) : (resolveWait s w r).aon = s.aon := rfl
@[simp] theorem resolveWait_ready (s : State) (w : Wait) (r : Rcpt) : (resolveWait s w r).ready = s.ready := rfl

@[simp] theorem modSession_pending (s : State) (d : Nat) (f : Session → Session) : (modSession s d f).pending = s.pending := rfl
@[simp] theorem modSession_out (s : State) (d : Nat) (f : Session → Session) : (modSession s d f).out = s.out := rfl
@[simp] theorem modSession_postmark (s : State) (d : Nat) (f : Session → Session) : (modSession s d f).postmark = s.postmark := rfl
@[simp] theorem modSession_fresh (s : State) (d : Nat) (f : Session → Session) : (modSession s d f).fresh = s.fresh := rfl
@[simp] theorem modSession_fns (s : State) (d : Nat) (f : Session → Session) : (modSession s d f).fns = s.fns := rfl
@[simp] theorem modSession_vfEnable (s : State) (d : Nat) (f : Session → Session) : (modSession s d f).vfEnable = s.vfEnable := rfl
@[simp] theorem modSession_numVfs (s : State) (d : Nat) (f : Session → Session) : (modSession s d f).numVfs = s.numVfs := rfl
@[simp] theorem modSession_vfCompat (s : State) (d : Nat) (f : Session → Session) : (modSession s d f).vfCompat = s.vfCompat := rfl
@[simp] theorem modSession_live (s : State) (d : Nat) (f : Session → Session) : (modSession s d f).live = s.live := rfl
@[simp] theorem modSession_ops (s : State) (d : Nat) (f : Session → Session) : (modSession s d f).ops = s.ops := rfl
@[simp] theorem modSession_accounts (s : State) (d : Nat) (f : Session → Session) : (modSession s d f).accounts = s.accounts := rfl
@[simp] theorem modSession_ceilings (s : State) (d : Nat) (f : Session → Session) : (modSession s d f).ceilings = s.ceilings := rfl
@[simp] theorem modSession_configs (s : State) (d : Nat) (f : Session → Session) : (modSession s d f).configs = s.configs := rfl
@[simp] theorem modSession_asKeys (s : State) (d : Nat) (f : Session → Session) : (modSession s d f).asKeys = s.asKeys := rfl
@[simp] theorem modSession_dcache (s : State) (d : Nat) (f : Session → Session) : (modSession s d f).dcache = s.dcache := rfl
@[simp] theorem modSession_tableHigh (s : State) (d : Nat) (f : Session → Session) : (modSession s d f).tableHigh = s.tableHigh := rfl
@[simp] theorem modSession_pages (s : State) (d : Nat) (f : Session → Session) : (modSession s d f).pages = s.pages := rfl
@[simp] theorem modSession_recGen (s : State) (d : Nat) (f : Session → Session) : (modSession s d f).recGen = s.recGen := rfl
@[simp] theorem modSession_idents (s : State) (d : Nat) (f : Session → Session) : (modSession s d f).idents = s.idents := rfl
@[simp] theorem modSession_copies (s : State) (d : Nat) (f : Session → Session) : (modSession s d f).copies = s.copies := rfl
@[simp] theorem modSession_runs (s : State) (d : Nat) (f : Session → Session) : (modSession s d f).runs = s.runs := rfl
@[simp] theorem modSession_streams (s : State) (d : Nat) (f : Session → Session) : (modSession s d f).streams = s.streams := rfl
@[simp] theorem modSession_maskReads (s : State) (d : Nat) (f : Session → Session) : (modSession s d f).maskReads = s.maskReads := rfl
@[simp] theorem modSession_textReads (s : State) (d : Nat) (f : Session → Session) : (modSession s d f).textReads = s.textReads := rfl
@[simp] theorem modSession_textDefers (s : State) (d : Nat) (f : Session → Session) : (modSession s d f).textDefers = s.textDefers := rfl
@[simp] theorem modSession_txLoads (s : State) (d : Nat) (f : Session → Session) : (modSession s d f).txLoads = s.txLoads := rfl
@[simp] theorem modSession_indexes (s : State) (d : Nat) (f : Session → Session) : (modSession s d f).indexes = s.indexes := rfl
@[simp] theorem modSession_changes (s : State) (d : Nat) (f : Session → Session) : (modSession s d f).changes = s.changes := rfl
@[simp] theorem modSession_searches (s : State) (d : Nat) (f : Session → Session) : (modSession s d f).searches = s.searches := rfl
@[simp] theorem modSession_regionsOut (s : State) (d : Nat) (f : Session → Session) : (modSession s d f).regionsOut = s.regionsOut := rfl
@[simp] theorem modSession_mediaKeys (s : State) (d : Nat) (f : Session → Session) : (modSession s d f).mediaKeys = s.mediaKeys := rfl
@[simp] theorem modSession_roleProfile (s : State) (d : Nat) (f : Session → Session) : (modSession s d f).roleProfile = s.roleProfile := rfl
@[simp] theorem modSession_pair (s : State) (d : Nat) (f : Session → Session) : (modSession s d f).pair = s.pair := rfl
@[simp] theorem modSession_sec (s : State) (d : Nat) (f : Session → Session) : (modSession s d f).sec = s.sec := rfl
@[simp] theorem modSession_faults (s : State) (d : Nat) (f : Session → Session) : (modSession s d f).faults = s.faults := rfl
@[simp] theorem modSession_pow (s : State) (d : Nat) (f : Session → Session) : (modSession s d f).pow = s.pow := rfl
@[simp] theorem modSession_media (s : State) (d : Nat) (f : Session → Session) : (modSession s d f).media = s.media := rfl
@[simp] theorem modSession_steps (s : State) (d : Nat) (f : Session → Session) : (modSession s d f).steps = s.steps := rfl
@[simp] theorem modSession_commits (s : State) (d : Nat) (f : Session → Session) : (modSession s d f).commits = s.commits := rfl
@[simp] theorem modSession_blocks (s : State) (d : Nat) (f : Session → Session) : (modSession s d f).blocks = s.blocks := rfl
@[simp] theorem modSession_lcLoads (s : State) (d : Nat) (f : Session → Session) : (modSession s d f).lcLoads = s.lcLoads := rfl
@[simp] theorem modSession_notices (s : State) (d : Nat) (f : Session → Session) : (modSession s d f).notices = s.notices := rfl
@[simp] theorem modSession_heldWrites (s : State) (d : Nat) (f : Session → Session) : (modSession s d f).heldWrites = s.heldWrites := rfl
@[simp] theorem modSession_role (s : State) (d : Nat) (f : Session → Session) : (modSession s d f).role = s.role := rfl
@[simp] theorem modSession_roleNext (s : State) (d : Nat) (f : Session → Session) : (modSession s d f).roleNext = s.roleNext := rfl
@[simp] theorem modSession_hm (s : State) (d : Nat) (f : Session → Session) : (modSession s d f).hm = s.hm := rfl
@[simp] theorem modSession_hbmPressure (s : State) (d : Nat) (f : Session → Session) : (modSession s d f).hbmPressure = s.hbmPressure := rfl
@[simp] theorem modSession_chartEpoch (s : State) (d : Nat) (f : Session → Session) : (modSession s d f).chartEpoch = s.chartEpoch := rfl
@[simp] theorem modSession_redirects (s : State) (d : Nat) (f : Session → Session) : (modSession s d f).redirects = s.redirects := rfl
@[simp] theorem modSession_win (s : State) (d : Nat) (f : Session → Session) : (modSession s d f).win = s.win := rfl
@[simp] theorem modSession_tw (s : State) (d : Nat) (f : Session → Session) : (modSession s d f).tw = s.tw := rfl
@[simp] theorem modSession_beached (s : State) (d : Nat) (f : Session → Session) : (modSession s d f).beached = s.beached := rfl
@[simp] theorem modSession_aon (s : State) (d : Nat) (f : Session → Session) : (modSession s d f).aon = s.aon := rfl
@[simp] theorem modSession_ready (s : State) (d : Nat) (f : Session → Session) : (modSession s d f).ready = s.ready := rfl

@[simp] theorem modPow_pending (s : State) (f : Power → Power) : (modPow s f).pending = s.pending := rfl
@[simp] theorem modPow_out (s : State) (f : Power → Power) : (modPow s f).out = s.out := rfl
@[simp] theorem modPow_postmark (s : State) (f : Power → Power) : (modPow s f).postmark = s.postmark := rfl
@[simp] theorem modPow_fresh (s : State) (f : Power → Power) : (modPow s f).fresh = s.fresh := rfl
@[simp] theorem modPow_fns (s : State) (f : Power → Power) : (modPow s f).fns = s.fns := rfl
@[simp] theorem modPow_vfEnable (s : State) (f : Power → Power) : (modPow s f).vfEnable = s.vfEnable := rfl
@[simp] theorem modPow_numVfs (s : State) (f : Power → Power) : (modPow s f).numVfs = s.numVfs := rfl
@[simp] theorem modPow_vfCompat (s : State) (f : Power → Power) : (modPow s f).vfCompat = s.vfCompat := rfl
@[simp] theorem modPow_live (s : State) (f : Power → Power) : (modPow s f).live = s.live := rfl
@[simp] theorem modPow_ops (s : State) (f : Power → Power) : (modPow s f).ops = s.ops := rfl
@[simp] theorem modPow_accounts (s : State) (f : Power → Power) : (modPow s f).accounts = s.accounts := rfl
@[simp] theorem modPow_ceilings (s : State) (f : Power → Power) : (modPow s f).ceilings = s.ceilings := rfl
@[simp] theorem modPow_configs (s : State) (f : Power → Power) : (modPow s f).configs = s.configs := rfl
@[simp] theorem modPow_asKeys (s : State) (f : Power → Power) : (modPow s f).asKeys = s.asKeys := rfl
@[simp] theorem modPow_sessions (s : State) (f : Power → Power) : (modPow s f).sessions = s.sessions := rfl
@[simp] theorem modPow_dcache (s : State) (f : Power → Power) : (modPow s f).dcache = s.dcache := rfl
@[simp] theorem modPow_tableHigh (s : State) (f : Power → Power) : (modPow s f).tableHigh = s.tableHigh := rfl
@[simp] theorem modPow_pages (s : State) (f : Power → Power) : (modPow s f).pages = s.pages := rfl
@[simp] theorem modPow_recGen (s : State) (f : Power → Power) : (modPow s f).recGen = s.recGen := rfl
@[simp] theorem modPow_idents (s : State) (f : Power → Power) : (modPow s f).idents = s.idents := rfl
@[simp] theorem modPow_copies (s : State) (f : Power → Power) : (modPow s f).copies = s.copies := rfl
@[simp] theorem modPow_runs (s : State) (f : Power → Power) : (modPow s f).runs = s.runs := rfl
@[simp] theorem modPow_bundles (s : State) (f : Power → Power) : (modPow s f).bundles = s.bundles := rfl
@[simp] theorem modPow_streams (s : State) (f : Power → Power) : (modPow s f).streams = s.streams := rfl
@[simp] theorem modPow_maskReads (s : State) (f : Power → Power) : (modPow s f).maskReads = s.maskReads := rfl
@[simp] theorem modPow_textReads (s : State) (f : Power → Power) : (modPow s f).textReads = s.textReads := rfl
@[simp] theorem modPow_textDefers (s : State) (f : Power → Power) : (modPow s f).textDefers = s.textDefers := rfl
@[simp] theorem modPow_txLoads (s : State) (f : Power → Power) : (modPow s f).txLoads = s.txLoads := rfl
@[simp] theorem modPow_indexes (s : State) (f : Power → Power) : (modPow s f).indexes = s.indexes := rfl
@[simp] theorem modPow_changes (s : State) (f : Power → Power) : (modPow s f).changes = s.changes := rfl
@[simp] theorem modPow_searches (s : State) (f : Power → Power) : (modPow s f).searches = s.searches := rfl
@[simp] theorem modPow_regionsOut (s : State) (f : Power → Power) : (modPow s f).regionsOut = s.regionsOut := rfl
@[simp] theorem modPow_mediaKeys (s : State) (f : Power → Power) : (modPow s f).mediaKeys = s.mediaKeys := rfl
@[simp] theorem modPow_roleProfile (s : State) (f : Power → Power) : (modPow s f).roleProfile = s.roleProfile := rfl
@[simp] theorem modPow_pair (s : State) (f : Power → Power) : (modPow s f).pair = s.pair := rfl
@[simp] theorem modPow_sec (s : State) (f : Power → Power) : (modPow s f).sec = s.sec := rfl
@[simp] theorem modPow_faults (s : State) (f : Power → Power) : (modPow s f).faults = s.faults := rfl
@[simp] theorem modPow_media (s : State) (f : Power → Power) : (modPow s f).media = s.media := rfl
@[simp] theorem modPow_steps (s : State) (f : Power → Power) : (modPow s f).steps = s.steps := rfl
@[simp] theorem modPow_commits (s : State) (f : Power → Power) : (modPow s f).commits = s.commits := rfl
@[simp] theorem modPow_blocks (s : State) (f : Power → Power) : (modPow s f).blocks = s.blocks := rfl
@[simp] theorem modPow_lcLoads (s : State) (f : Power → Power) : (modPow s f).lcLoads = s.lcLoads := rfl
@[simp] theorem modPow_notices (s : State) (f : Power → Power) : (modPow s f).notices = s.notices := rfl
@[simp] theorem modPow_heldWrites (s : State) (f : Power → Power) : (modPow s f).heldWrites = s.heldWrites := rfl
@[simp] theorem modPow_role (s : State) (f : Power → Power) : (modPow s f).role = s.role := rfl
@[simp] theorem modPow_roleNext (s : State) (f : Power → Power) : (modPow s f).roleNext = s.roleNext := rfl
@[simp] theorem modPow_hm (s : State) (f : Power → Power) : (modPow s f).hm = s.hm := rfl
@[simp] theorem modPow_hbmPressure (s : State) (f : Power → Power) : (modPow s f).hbmPressure = s.hbmPressure := rfl
@[simp] theorem modPow_chartEpoch (s : State) (f : Power → Power) : (modPow s f).chartEpoch = s.chartEpoch := rfl
@[simp] theorem modPow_redirects (s : State) (f : Power → Power) : (modPow s f).redirects = s.redirects := rfl
@[simp] theorem modPow_win (s : State) (f : Power → Power) : (modPow s f).win = s.win := rfl
@[simp] theorem modPow_tw (s : State) (f : Power → Power) : (modPow s f).tw = s.tw := rfl
@[simp] theorem modPow_beached (s : State) (f : Power → Power) : (modPow s f).beached = s.beached := rfl
@[simp] theorem modPow_aon (s : State) (f : Power → Power) : (modPow s f).aon = s.aon := rfl
@[simp] theorem modPow_ready (s : State) (f : Power → Power) : (modPow s f).ready = s.ready := rfl

@[simp] theorem modWin_pending (s : State) (f : Window → Window) : (modWin s f).pending = s.pending := rfl
@[simp] theorem modWin_out (s : State) (f : Window → Window) : (modWin s f).out = s.out := rfl
@[simp] theorem modWin_postmark (s : State) (f : Window → Window) : (modWin s f).postmark = s.postmark := rfl
@[simp] theorem modWin_fresh (s : State) (f : Window → Window) : (modWin s f).fresh = s.fresh := rfl
@[simp] theorem modWin_fns (s : State) (f : Window → Window) : (modWin s f).fns = s.fns := rfl
@[simp] theorem modWin_vfEnable (s : State) (f : Window → Window) : (modWin s f).vfEnable = s.vfEnable := rfl
@[simp] theorem modWin_numVfs (s : State) (f : Window → Window) : (modWin s f).numVfs = s.numVfs := rfl
@[simp] theorem modWin_vfCompat (s : State) (f : Window → Window) : (modWin s f).vfCompat = s.vfCompat := rfl
@[simp] theorem modWin_live (s : State) (f : Window → Window) : (modWin s f).live = s.live := rfl
@[simp] theorem modWin_ops (s : State) (f : Window → Window) : (modWin s f).ops = s.ops := rfl
@[simp] theorem modWin_accounts (s : State) (f : Window → Window) : (modWin s f).accounts = s.accounts := rfl
@[simp] theorem modWin_ceilings (s : State) (f : Window → Window) : (modWin s f).ceilings = s.ceilings := rfl
@[simp] theorem modWin_configs (s : State) (f : Window → Window) : (modWin s f).configs = s.configs := rfl
@[simp] theorem modWin_asKeys (s : State) (f : Window → Window) : (modWin s f).asKeys = s.asKeys := rfl
@[simp] theorem modWin_sessions (s : State) (f : Window → Window) : (modWin s f).sessions = s.sessions := rfl
@[simp] theorem modWin_dcache (s : State) (f : Window → Window) : (modWin s f).dcache = s.dcache := rfl
@[simp] theorem modWin_tableHigh (s : State) (f : Window → Window) : (modWin s f).tableHigh = s.tableHigh := rfl
@[simp] theorem modWin_pages (s : State) (f : Window → Window) : (modWin s f).pages = s.pages := rfl
@[simp] theorem modWin_recGen (s : State) (f : Window → Window) : (modWin s f).recGen = s.recGen := rfl
@[simp] theorem modWin_idents (s : State) (f : Window → Window) : (modWin s f).idents = s.idents := rfl
@[simp] theorem modWin_copies (s : State) (f : Window → Window) : (modWin s f).copies = s.copies := rfl
@[simp] theorem modWin_runs (s : State) (f : Window → Window) : (modWin s f).runs = s.runs := rfl
@[simp] theorem modWin_bundles (s : State) (f : Window → Window) : (modWin s f).bundles = s.bundles := rfl
@[simp] theorem modWin_streams (s : State) (f : Window → Window) : (modWin s f).streams = s.streams := rfl
@[simp] theorem modWin_maskReads (s : State) (f : Window → Window) : (modWin s f).maskReads = s.maskReads := rfl
@[simp] theorem modWin_textReads (s : State) (f : Window → Window) : (modWin s f).textReads = s.textReads := rfl
@[simp] theorem modWin_textDefers (s : State) (f : Window → Window) : (modWin s f).textDefers = s.textDefers := rfl
@[simp] theorem modWin_txLoads (s : State) (f : Window → Window) : (modWin s f).txLoads = s.txLoads := rfl
@[simp] theorem modWin_indexes (s : State) (f : Window → Window) : (modWin s f).indexes = s.indexes := rfl
@[simp] theorem modWin_changes (s : State) (f : Window → Window) : (modWin s f).changes = s.changes := rfl
@[simp] theorem modWin_searches (s : State) (f : Window → Window) : (modWin s f).searches = s.searches := rfl
@[simp] theorem modWin_regionsOut (s : State) (f : Window → Window) : (modWin s f).regionsOut = s.regionsOut := rfl
@[simp] theorem modWin_mediaKeys (s : State) (f : Window → Window) : (modWin s f).mediaKeys = s.mediaKeys := rfl
@[simp] theorem modWin_roleProfile (s : State) (f : Window → Window) : (modWin s f).roleProfile = s.roleProfile := rfl
@[simp] theorem modWin_pair (s : State) (f : Window → Window) : (modWin s f).pair = s.pair := rfl
@[simp] theorem modWin_sec (s : State) (f : Window → Window) : (modWin s f).sec = s.sec := rfl
@[simp] theorem modWin_faults (s : State) (f : Window → Window) : (modWin s f).faults = s.faults := rfl
@[simp] theorem modWin_pow (s : State) (f : Window → Window) : (modWin s f).pow = s.pow := rfl
@[simp] theorem modWin_media (s : State) (f : Window → Window) : (modWin s f).media = s.media := rfl
@[simp] theorem modWin_steps (s : State) (f : Window → Window) : (modWin s f).steps = s.steps := rfl
@[simp] theorem modWin_commits (s : State) (f : Window → Window) : (modWin s f).commits = s.commits := rfl
@[simp] theorem modWin_blocks (s : State) (f : Window → Window) : (modWin s f).blocks = s.blocks := rfl
@[simp] theorem modWin_lcLoads (s : State) (f : Window → Window) : (modWin s f).lcLoads = s.lcLoads := rfl
@[simp] theorem modWin_notices (s : State) (f : Window → Window) : (modWin s f).notices = s.notices := rfl
@[simp] theorem modWin_heldWrites (s : State) (f : Window → Window) : (modWin s f).heldWrites = s.heldWrites := rfl
@[simp] theorem modWin_role (s : State) (f : Window → Window) : (modWin s f).role = s.role := rfl
@[simp] theorem modWin_roleNext (s : State) (f : Window → Window) : (modWin s f).roleNext = s.roleNext := rfl
@[simp] theorem modWin_hm (s : State) (f : Window → Window) : (modWin s f).hm = s.hm := rfl
@[simp] theorem modWin_hbmPressure (s : State) (f : Window → Window) : (modWin s f).hbmPressure = s.hbmPressure := rfl
@[simp] theorem modWin_chartEpoch (s : State) (f : Window → Window) : (modWin s f).chartEpoch = s.chartEpoch := rfl
@[simp] theorem modWin_redirects (s : State) (f : Window → Window) : (modWin s f).redirects = s.redirects := rfl
@[simp] theorem modWin_tw (s : State) (f : Window → Window) : (modWin s f).tw = s.tw := rfl
@[simp] theorem modWin_beached (s : State) (f : Window → Window) : (modWin s f).beached = s.beached := rfl
@[simp] theorem modWin_aon (s : State) (f : Window → Window) : (modWin s f).aon = s.aon := rfl
@[simp] theorem modWin_ready (s : State) (f : Window → Window) : (modWin s f).ready = s.ready := rfl

@[simp] theorem modTw_pending (s : State) (f : Tideway → Tideway) : (modTw s f).pending = s.pending := rfl
@[simp] theorem modTw_out (s : State) (f : Tideway → Tideway) : (modTw s f).out = s.out := rfl
@[simp] theorem modTw_postmark (s : State) (f : Tideway → Tideway) : (modTw s f).postmark = s.postmark := rfl
@[simp] theorem modTw_fresh (s : State) (f : Tideway → Tideway) : (modTw s f).fresh = s.fresh := rfl
@[simp] theorem modTw_fns (s : State) (f : Tideway → Tideway) : (modTw s f).fns = s.fns := rfl
@[simp] theorem modTw_vfEnable (s : State) (f : Tideway → Tideway) : (modTw s f).vfEnable = s.vfEnable := rfl
@[simp] theorem modTw_numVfs (s : State) (f : Tideway → Tideway) : (modTw s f).numVfs = s.numVfs := rfl
@[simp] theorem modTw_vfCompat (s : State) (f : Tideway → Tideway) : (modTw s f).vfCompat = s.vfCompat := rfl
@[simp] theorem modTw_live (s : State) (f : Tideway → Tideway) : (modTw s f).live = s.live := rfl
@[simp] theorem modTw_ops (s : State) (f : Tideway → Tideway) : (modTw s f).ops = s.ops := rfl
@[simp] theorem modTw_accounts (s : State) (f : Tideway → Tideway) : (modTw s f).accounts = s.accounts := rfl
@[simp] theorem modTw_ceilings (s : State) (f : Tideway → Tideway) : (modTw s f).ceilings = s.ceilings := rfl
@[simp] theorem modTw_configs (s : State) (f : Tideway → Tideway) : (modTw s f).configs = s.configs := rfl
@[simp] theorem modTw_asKeys (s : State) (f : Tideway → Tideway) : (modTw s f).asKeys = s.asKeys := rfl
@[simp] theorem modTw_sessions (s : State) (f : Tideway → Tideway) : (modTw s f).sessions = s.sessions := rfl
@[simp] theorem modTw_dcache (s : State) (f : Tideway → Tideway) : (modTw s f).dcache = s.dcache := rfl
@[simp] theorem modTw_tableHigh (s : State) (f : Tideway → Tideway) : (modTw s f).tableHigh = s.tableHigh := rfl
@[simp] theorem modTw_pages (s : State) (f : Tideway → Tideway) : (modTw s f).pages = s.pages := rfl
@[simp] theorem modTw_recGen (s : State) (f : Tideway → Tideway) : (modTw s f).recGen = s.recGen := rfl
@[simp] theorem modTw_idents (s : State) (f : Tideway → Tideway) : (modTw s f).idents = s.idents := rfl
@[simp] theorem modTw_copies (s : State) (f : Tideway → Tideway) : (modTw s f).copies = s.copies := rfl
@[simp] theorem modTw_runs (s : State) (f : Tideway → Tideway) : (modTw s f).runs = s.runs := rfl
@[simp] theorem modTw_bundles (s : State) (f : Tideway → Tideway) : (modTw s f).bundles = s.bundles := rfl
@[simp] theorem modTw_streams (s : State) (f : Tideway → Tideway) : (modTw s f).streams = s.streams := rfl
@[simp] theorem modTw_maskReads (s : State) (f : Tideway → Tideway) : (modTw s f).maskReads = s.maskReads := rfl
@[simp] theorem modTw_textReads (s : State) (f : Tideway → Tideway) : (modTw s f).textReads = s.textReads := rfl
@[simp] theorem modTw_textDefers (s : State) (f : Tideway → Tideway) : (modTw s f).textDefers = s.textDefers := rfl
@[simp] theorem modTw_txLoads (s : State) (f : Tideway → Tideway) : (modTw s f).txLoads = s.txLoads := rfl
@[simp] theorem modTw_indexes (s : State) (f : Tideway → Tideway) : (modTw s f).indexes = s.indexes := rfl
@[simp] theorem modTw_changes (s : State) (f : Tideway → Tideway) : (modTw s f).changes = s.changes := rfl
@[simp] theorem modTw_searches (s : State) (f : Tideway → Tideway) : (modTw s f).searches = s.searches := rfl
@[simp] theorem modTw_regionsOut (s : State) (f : Tideway → Tideway) : (modTw s f).regionsOut = s.regionsOut := rfl
@[simp] theorem modTw_mediaKeys (s : State) (f : Tideway → Tideway) : (modTw s f).mediaKeys = s.mediaKeys := rfl
@[simp] theorem modTw_roleProfile (s : State) (f : Tideway → Tideway) : (modTw s f).roleProfile = s.roleProfile := rfl
@[simp] theorem modTw_pair (s : State) (f : Tideway → Tideway) : (modTw s f).pair = s.pair := rfl
@[simp] theorem modTw_sec (s : State) (f : Tideway → Tideway) : (modTw s f).sec = s.sec := rfl
@[simp] theorem modTw_faults (s : State) (f : Tideway → Tideway) : (modTw s f).faults = s.faults := rfl
@[simp] theorem modTw_pow (s : State) (f : Tideway → Tideway) : (modTw s f).pow = s.pow := rfl
@[simp] theorem modTw_media (s : State) (f : Tideway → Tideway) : (modTw s f).media = s.media := rfl
@[simp] theorem modTw_steps (s : State) (f : Tideway → Tideway) : (modTw s f).steps = s.steps := rfl
@[simp] theorem modTw_commits (s : State) (f : Tideway → Tideway) : (modTw s f).commits = s.commits := rfl
@[simp] theorem modTw_blocks (s : State) (f : Tideway → Tideway) : (modTw s f).blocks = s.blocks := rfl
@[simp] theorem modTw_lcLoads (s : State) (f : Tideway → Tideway) : (modTw s f).lcLoads = s.lcLoads := rfl
@[simp] theorem modTw_notices (s : State) (f : Tideway → Tideway) : (modTw s f).notices = s.notices := rfl
@[simp] theorem modTw_heldWrites (s : State) (f : Tideway → Tideway) : (modTw s f).heldWrites = s.heldWrites := rfl
@[simp] theorem modTw_role (s : State) (f : Tideway → Tideway) : (modTw s f).role = s.role := rfl
@[simp] theorem modTw_roleNext (s : State) (f : Tideway → Tideway) : (modTw s f).roleNext = s.roleNext := rfl
@[simp] theorem modTw_hm (s : State) (f : Tideway → Tideway) : (modTw s f).hm = s.hm := rfl
@[simp] theorem modTw_hbmPressure (s : State) (f : Tideway → Tideway) : (modTw s f).hbmPressure = s.hbmPressure := rfl
@[simp] theorem modTw_chartEpoch (s : State) (f : Tideway → Tideway) : (modTw s f).chartEpoch = s.chartEpoch := rfl
@[simp] theorem modTw_redirects (s : State) (f : Tideway → Tideway) : (modTw s f).redirects = s.redirects := rfl
@[simp] theorem modTw_win (s : State) (f : Tideway → Tideway) : (modTw s f).win = s.win := rfl
@[simp] theorem modTw_beached (s : State) (f : Tideway → Tideway) : (modTw s f).beached = s.beached := rfl
@[simp] theorem modTw_aon (s : State) (f : Tideway → Tideway) : (modTw s f).aon = s.aon := rfl
@[simp] theorem modTw_ready (s : State) (f : Tideway → Tideway) : (modTw s f).ready = s.ready := rfl

@[simp] theorem modMedia_pending (s : State) (f : Media → Media) : (modMedia s f).pending = s.pending := rfl
@[simp] theorem modMedia_out (s : State) (f : Media → Media) : (modMedia s f).out = s.out := rfl
@[simp] theorem modMedia_postmark (s : State) (f : Media → Media) : (modMedia s f).postmark = s.postmark := rfl
@[simp] theorem modMedia_fresh (s : State) (f : Media → Media) : (modMedia s f).fresh = s.fresh := rfl
@[simp] theorem modMedia_fns (s : State) (f : Media → Media) : (modMedia s f).fns = s.fns := rfl
@[simp] theorem modMedia_vfEnable (s : State) (f : Media → Media) : (modMedia s f).vfEnable = s.vfEnable := rfl
@[simp] theorem modMedia_numVfs (s : State) (f : Media → Media) : (modMedia s f).numVfs = s.numVfs := rfl
@[simp] theorem modMedia_vfCompat (s : State) (f : Media → Media) : (modMedia s f).vfCompat = s.vfCompat := rfl
@[simp] theorem modMedia_live (s : State) (f : Media → Media) : (modMedia s f).live = s.live := rfl
@[simp] theorem modMedia_ops (s : State) (f : Media → Media) : (modMedia s f).ops = s.ops := rfl
@[simp] theorem modMedia_accounts (s : State) (f : Media → Media) : (modMedia s f).accounts = s.accounts := rfl
@[simp] theorem modMedia_ceilings (s : State) (f : Media → Media) : (modMedia s f).ceilings = s.ceilings := rfl
@[simp] theorem modMedia_configs (s : State) (f : Media → Media) : (modMedia s f).configs = s.configs := rfl
@[simp] theorem modMedia_asKeys (s : State) (f : Media → Media) : (modMedia s f).asKeys = s.asKeys := rfl
@[simp] theorem modMedia_sessions (s : State) (f : Media → Media) : (modMedia s f).sessions = s.sessions := rfl
@[simp] theorem modMedia_dcache (s : State) (f : Media → Media) : (modMedia s f).dcache = s.dcache := rfl
@[simp] theorem modMedia_tableHigh (s : State) (f : Media → Media) : (modMedia s f).tableHigh = s.tableHigh := rfl
@[simp] theorem modMedia_pages (s : State) (f : Media → Media) : (modMedia s f).pages = s.pages := rfl
@[simp] theorem modMedia_recGen (s : State) (f : Media → Media) : (modMedia s f).recGen = s.recGen := rfl
@[simp] theorem modMedia_idents (s : State) (f : Media → Media) : (modMedia s f).idents = s.idents := rfl
@[simp] theorem modMedia_copies (s : State) (f : Media → Media) : (modMedia s f).copies = s.copies := rfl
@[simp] theorem modMedia_runs (s : State) (f : Media → Media) : (modMedia s f).runs = s.runs := rfl
@[simp] theorem modMedia_bundles (s : State) (f : Media → Media) : (modMedia s f).bundles = s.bundles := rfl
@[simp] theorem modMedia_streams (s : State) (f : Media → Media) : (modMedia s f).streams = s.streams := rfl
@[simp] theorem modMedia_maskReads (s : State) (f : Media → Media) : (modMedia s f).maskReads = s.maskReads := rfl
@[simp] theorem modMedia_textReads (s : State) (f : Media → Media) : (modMedia s f).textReads = s.textReads := rfl
@[simp] theorem modMedia_textDefers (s : State) (f : Media → Media) : (modMedia s f).textDefers = s.textDefers := rfl
@[simp] theorem modMedia_txLoads (s : State) (f : Media → Media) : (modMedia s f).txLoads = s.txLoads := rfl
@[simp] theorem modMedia_indexes (s : State) (f : Media → Media) : (modMedia s f).indexes = s.indexes := rfl
@[simp] theorem modMedia_changes (s : State) (f : Media → Media) : (modMedia s f).changes = s.changes := rfl
@[simp] theorem modMedia_searches (s : State) (f : Media → Media) : (modMedia s f).searches = s.searches := rfl
@[simp] theorem modMedia_regionsOut (s : State) (f : Media → Media) : (modMedia s f).regionsOut = s.regionsOut := rfl
@[simp] theorem modMedia_mediaKeys (s : State) (f : Media → Media) : (modMedia s f).mediaKeys = s.mediaKeys := rfl
@[simp] theorem modMedia_roleProfile (s : State) (f : Media → Media) : (modMedia s f).roleProfile = s.roleProfile := rfl
@[simp] theorem modMedia_pair (s : State) (f : Media → Media) : (modMedia s f).pair = s.pair := rfl
@[simp] theorem modMedia_sec (s : State) (f : Media → Media) : (modMedia s f).sec = s.sec := rfl
@[simp] theorem modMedia_faults (s : State) (f : Media → Media) : (modMedia s f).faults = s.faults := rfl
@[simp] theorem modMedia_pow (s : State) (f : Media → Media) : (modMedia s f).pow = s.pow := rfl
@[simp] theorem modMedia_steps (s : State) (f : Media → Media) : (modMedia s f).steps = s.steps := rfl
@[simp] theorem modMedia_commits (s : State) (f : Media → Media) : (modMedia s f).commits = s.commits := rfl
@[simp] theorem modMedia_blocks (s : State) (f : Media → Media) : (modMedia s f).blocks = s.blocks := rfl
@[simp] theorem modMedia_lcLoads (s : State) (f : Media → Media) : (modMedia s f).lcLoads = s.lcLoads := rfl
@[simp] theorem modMedia_notices (s : State) (f : Media → Media) : (modMedia s f).notices = s.notices := rfl
@[simp] theorem modMedia_heldWrites (s : State) (f : Media → Media) : (modMedia s f).heldWrites = s.heldWrites := rfl
@[simp] theorem modMedia_role (s : State) (f : Media → Media) : (modMedia s f).role = s.role := rfl
@[simp] theorem modMedia_roleNext (s : State) (f : Media → Media) : (modMedia s f).roleNext = s.roleNext := rfl
@[simp] theorem modMedia_hm (s : State) (f : Media → Media) : (modMedia s f).hm = s.hm := rfl
@[simp] theorem modMedia_hbmPressure (s : State) (f : Media → Media) : (modMedia s f).hbmPressure = s.hbmPressure := rfl
@[simp] theorem modMedia_chartEpoch (s : State) (f : Media → Media) : (modMedia s f).chartEpoch = s.chartEpoch := rfl
@[simp] theorem modMedia_redirects (s : State) (f : Media → Media) : (modMedia s f).redirects = s.redirects := rfl
@[simp] theorem modMedia_win (s : State) (f : Media → Media) : (modMedia s f).win = s.win := rfl
@[simp] theorem modMedia_tw (s : State) (f : Media → Media) : (modMedia s f).tw = s.tw := rfl
@[simp] theorem modMedia_beached (s : State) (f : Media → Media) : (modMedia s f).beached = s.beached := rfl
@[simp] theorem modMedia_aon (s : State) (f : Media → Media) : (modMedia s f).aon = s.aon := rfl
@[simp] theorem modMedia_ready (s : State) (f : Media → Media) : (modMedia s f).ready = s.ready := rfl

@[simp] theorem modPair_pending (s : State) (f : Pair → Pair) : (modPair s f).pending = s.pending := rfl
@[simp] theorem modPair_out (s : State) (f : Pair → Pair) : (modPair s f).out = s.out := rfl
@[simp] theorem modPair_postmark (s : State) (f : Pair → Pair) : (modPair s f).postmark = s.postmark := rfl
@[simp] theorem modPair_fresh (s : State) (f : Pair → Pair) : (modPair s f).fresh = s.fresh := rfl
@[simp] theorem modPair_fns (s : State) (f : Pair → Pair) : (modPair s f).fns = s.fns := rfl
@[simp] theorem modPair_vfEnable (s : State) (f : Pair → Pair) : (modPair s f).vfEnable = s.vfEnable := rfl
@[simp] theorem modPair_numVfs (s : State) (f : Pair → Pair) : (modPair s f).numVfs = s.numVfs := rfl
@[simp] theorem modPair_vfCompat (s : State) (f : Pair → Pair) : (modPair s f).vfCompat = s.vfCompat := rfl
@[simp] theorem modPair_live (s : State) (f : Pair → Pair) : (modPair s f).live = s.live := rfl
@[simp] theorem modPair_ops (s : State) (f : Pair → Pair) : (modPair s f).ops = s.ops := rfl
@[simp] theorem modPair_accounts (s : State) (f : Pair → Pair) : (modPair s f).accounts = s.accounts := rfl
@[simp] theorem modPair_ceilings (s : State) (f : Pair → Pair) : (modPair s f).ceilings = s.ceilings := rfl
@[simp] theorem modPair_configs (s : State) (f : Pair → Pair) : (modPair s f).configs = s.configs := rfl
@[simp] theorem modPair_asKeys (s : State) (f : Pair → Pair) : (modPair s f).asKeys = s.asKeys := rfl
@[simp] theorem modPair_sessions (s : State) (f : Pair → Pair) : (modPair s f).sessions = s.sessions := rfl
@[simp] theorem modPair_dcache (s : State) (f : Pair → Pair) : (modPair s f).dcache = s.dcache := rfl
@[simp] theorem modPair_tableHigh (s : State) (f : Pair → Pair) : (modPair s f).tableHigh = s.tableHigh := rfl
@[simp] theorem modPair_pages (s : State) (f : Pair → Pair) : (modPair s f).pages = s.pages := rfl
@[simp] theorem modPair_recGen (s : State) (f : Pair → Pair) : (modPair s f).recGen = s.recGen := rfl
@[simp] theorem modPair_idents (s : State) (f : Pair → Pair) : (modPair s f).idents = s.idents := rfl
@[simp] theorem modPair_copies (s : State) (f : Pair → Pair) : (modPair s f).copies = s.copies := rfl
@[simp] theorem modPair_runs (s : State) (f : Pair → Pair) : (modPair s f).runs = s.runs := rfl
@[simp] theorem modPair_bundles (s : State) (f : Pair → Pair) : (modPair s f).bundles = s.bundles := rfl
@[simp] theorem modPair_streams (s : State) (f : Pair → Pair) : (modPair s f).streams = s.streams := rfl
@[simp] theorem modPair_maskReads (s : State) (f : Pair → Pair) : (modPair s f).maskReads = s.maskReads := rfl
@[simp] theorem modPair_textReads (s : State) (f : Pair → Pair) : (modPair s f).textReads = s.textReads := rfl
@[simp] theorem modPair_textDefers (s : State) (f : Pair → Pair) : (modPair s f).textDefers = s.textDefers := rfl
@[simp] theorem modPair_txLoads (s : State) (f : Pair → Pair) : (modPair s f).txLoads = s.txLoads := rfl
@[simp] theorem modPair_indexes (s : State) (f : Pair → Pair) : (modPair s f).indexes = s.indexes := rfl
@[simp] theorem modPair_changes (s : State) (f : Pair → Pair) : (modPair s f).changes = s.changes := rfl
@[simp] theorem modPair_searches (s : State) (f : Pair → Pair) : (modPair s f).searches = s.searches := rfl
@[simp] theorem modPair_regionsOut (s : State) (f : Pair → Pair) : (modPair s f).regionsOut = s.regionsOut := rfl
@[simp] theorem modPair_mediaKeys (s : State) (f : Pair → Pair) : (modPair s f).mediaKeys = s.mediaKeys := rfl
@[simp] theorem modPair_roleProfile (s : State) (f : Pair → Pair) : (modPair s f).roleProfile = s.roleProfile := rfl
@[simp] theorem modPair_sec (s : State) (f : Pair → Pair) : (modPair s f).sec = s.sec := rfl
@[simp] theorem modPair_faults (s : State) (f : Pair → Pair) : (modPair s f).faults = s.faults := rfl
@[simp] theorem modPair_pow (s : State) (f : Pair → Pair) : (modPair s f).pow = s.pow := rfl
@[simp] theorem modPair_media (s : State) (f : Pair → Pair) : (modPair s f).media = s.media := rfl
@[simp] theorem modPair_steps (s : State) (f : Pair → Pair) : (modPair s f).steps = s.steps := rfl
@[simp] theorem modPair_commits (s : State) (f : Pair → Pair) : (modPair s f).commits = s.commits := rfl
@[simp] theorem modPair_blocks (s : State) (f : Pair → Pair) : (modPair s f).blocks = s.blocks := rfl
@[simp] theorem modPair_lcLoads (s : State) (f : Pair → Pair) : (modPair s f).lcLoads = s.lcLoads := rfl
@[simp] theorem modPair_notices (s : State) (f : Pair → Pair) : (modPair s f).notices = s.notices := rfl
@[simp] theorem modPair_heldWrites (s : State) (f : Pair → Pair) : (modPair s f).heldWrites = s.heldWrites := rfl
@[simp] theorem modPair_role (s : State) (f : Pair → Pair) : (modPair s f).role = s.role := rfl
@[simp] theorem modPair_roleNext (s : State) (f : Pair → Pair) : (modPair s f).roleNext = s.roleNext := rfl
@[simp] theorem modPair_hm (s : State) (f : Pair → Pair) : (modPair s f).hm = s.hm := rfl
@[simp] theorem modPair_hbmPressure (s : State) (f : Pair → Pair) : (modPair s f).hbmPressure = s.hbmPressure := rfl
@[simp] theorem modPair_chartEpoch (s : State) (f : Pair → Pair) : (modPair s f).chartEpoch = s.chartEpoch := rfl
@[simp] theorem modPair_redirects (s : State) (f : Pair → Pair) : (modPair s f).redirects = s.redirects := rfl
@[simp] theorem modPair_win (s : State) (f : Pair → Pair) : (modPair s f).win = s.win := rfl
@[simp] theorem modPair_tw (s : State) (f : Pair → Pair) : (modPair s f).tw = s.tw := rfl
@[simp] theorem modPair_beached (s : State) (f : Pair → Pair) : (modPair s f).beached = s.beached := rfl
@[simp] theorem modPair_aon (s : State) (f : Pair → Pair) : (modPair s f).aon = s.aon := rfl
@[simp] theorem modPair_ready (s : State) (f : Pair → Pair) : (modPair s f).ready = s.ready := rfl

@[simp] theorem modFaults_pending (s : State) (f : Faults → Faults) : (modFaults s f).pending = s.pending := rfl
@[simp] theorem modFaults_out (s : State) (f : Faults → Faults) : (modFaults s f).out = s.out := rfl
@[simp] theorem modFaults_postmark (s : State) (f : Faults → Faults) : (modFaults s f).postmark = s.postmark := rfl
@[simp] theorem modFaults_fresh (s : State) (f : Faults → Faults) : (modFaults s f).fresh = s.fresh := rfl
@[simp] theorem modFaults_fns (s : State) (f : Faults → Faults) : (modFaults s f).fns = s.fns := rfl
@[simp] theorem modFaults_vfEnable (s : State) (f : Faults → Faults) : (modFaults s f).vfEnable = s.vfEnable := rfl
@[simp] theorem modFaults_numVfs (s : State) (f : Faults → Faults) : (modFaults s f).numVfs = s.numVfs := rfl
@[simp] theorem modFaults_vfCompat (s : State) (f : Faults → Faults) : (modFaults s f).vfCompat = s.vfCompat := rfl
@[simp] theorem modFaults_live (s : State) (f : Faults → Faults) : (modFaults s f).live = s.live := rfl
@[simp] theorem modFaults_ops (s : State) (f : Faults → Faults) : (modFaults s f).ops = s.ops := rfl
@[simp] theorem modFaults_accounts (s : State) (f : Faults → Faults) : (modFaults s f).accounts = s.accounts := rfl
@[simp] theorem modFaults_ceilings (s : State) (f : Faults → Faults) : (modFaults s f).ceilings = s.ceilings := rfl
@[simp] theorem modFaults_configs (s : State) (f : Faults → Faults) : (modFaults s f).configs = s.configs := rfl
@[simp] theorem modFaults_asKeys (s : State) (f : Faults → Faults) : (modFaults s f).asKeys = s.asKeys := rfl
@[simp] theorem modFaults_sessions (s : State) (f : Faults → Faults) : (modFaults s f).sessions = s.sessions := rfl
@[simp] theorem modFaults_dcache (s : State) (f : Faults → Faults) : (modFaults s f).dcache = s.dcache := rfl
@[simp] theorem modFaults_tableHigh (s : State) (f : Faults → Faults) : (modFaults s f).tableHigh = s.tableHigh := rfl
@[simp] theorem modFaults_pages (s : State) (f : Faults → Faults) : (modFaults s f).pages = s.pages := rfl
@[simp] theorem modFaults_recGen (s : State) (f : Faults → Faults) : (modFaults s f).recGen = s.recGen := rfl
@[simp] theorem modFaults_idents (s : State) (f : Faults → Faults) : (modFaults s f).idents = s.idents := rfl
@[simp] theorem modFaults_copies (s : State) (f : Faults → Faults) : (modFaults s f).copies = s.copies := rfl
@[simp] theorem modFaults_runs (s : State) (f : Faults → Faults) : (modFaults s f).runs = s.runs := rfl
@[simp] theorem modFaults_bundles (s : State) (f : Faults → Faults) : (modFaults s f).bundles = s.bundles := rfl
@[simp] theorem modFaults_streams (s : State) (f : Faults → Faults) : (modFaults s f).streams = s.streams := rfl
@[simp] theorem modFaults_maskReads (s : State) (f : Faults → Faults) : (modFaults s f).maskReads = s.maskReads := rfl
@[simp] theorem modFaults_textReads (s : State) (f : Faults → Faults) : (modFaults s f).textReads = s.textReads := rfl
@[simp] theorem modFaults_textDefers (s : State) (f : Faults → Faults) : (modFaults s f).textDefers = s.textDefers := rfl
@[simp] theorem modFaults_txLoads (s : State) (f : Faults → Faults) : (modFaults s f).txLoads = s.txLoads := rfl
@[simp] theorem modFaults_indexes (s : State) (f : Faults → Faults) : (modFaults s f).indexes = s.indexes := rfl
@[simp] theorem modFaults_changes (s : State) (f : Faults → Faults) : (modFaults s f).changes = s.changes := rfl
@[simp] theorem modFaults_searches (s : State) (f : Faults → Faults) : (modFaults s f).searches = s.searches := rfl
@[simp] theorem modFaults_regionsOut (s : State) (f : Faults → Faults) : (modFaults s f).regionsOut = s.regionsOut := rfl
@[simp] theorem modFaults_mediaKeys (s : State) (f : Faults → Faults) : (modFaults s f).mediaKeys = s.mediaKeys := rfl
@[simp] theorem modFaults_roleProfile (s : State) (f : Faults → Faults) : (modFaults s f).roleProfile = s.roleProfile := rfl
@[simp] theorem modFaults_pair (s : State) (f : Faults → Faults) : (modFaults s f).pair = s.pair := rfl
@[simp] theorem modFaults_sec (s : State) (f : Faults → Faults) : (modFaults s f).sec = s.sec := rfl
@[simp] theorem modFaults_pow (s : State) (f : Faults → Faults) : (modFaults s f).pow = s.pow := rfl
@[simp] theorem modFaults_media (s : State) (f : Faults → Faults) : (modFaults s f).media = s.media := rfl
@[simp] theorem modFaults_steps (s : State) (f : Faults → Faults) : (modFaults s f).steps = s.steps := rfl
@[simp] theorem modFaults_commits (s : State) (f : Faults → Faults) : (modFaults s f).commits = s.commits := rfl
@[simp] theorem modFaults_blocks (s : State) (f : Faults → Faults) : (modFaults s f).blocks = s.blocks := rfl
@[simp] theorem modFaults_lcLoads (s : State) (f : Faults → Faults) : (modFaults s f).lcLoads = s.lcLoads := rfl
@[simp] theorem modFaults_notices (s : State) (f : Faults → Faults) : (modFaults s f).notices = s.notices := rfl
@[simp] theorem modFaults_heldWrites (s : State) (f : Faults → Faults) : (modFaults s f).heldWrites = s.heldWrites := rfl
@[simp] theorem modFaults_role (s : State) (f : Faults → Faults) : (modFaults s f).role = s.role := rfl
@[simp] theorem modFaults_roleNext (s : State) (f : Faults → Faults) : (modFaults s f).roleNext = s.roleNext := rfl
@[simp] theorem modFaults_hm (s : State) (f : Faults → Faults) : (modFaults s f).hm = s.hm := rfl
@[simp] theorem modFaults_hbmPressure (s : State) (f : Faults → Faults) : (modFaults s f).hbmPressure = s.hbmPressure := rfl
@[simp] theorem modFaults_chartEpoch (s : State) (f : Faults → Faults) : (modFaults s f).chartEpoch = s.chartEpoch := rfl
@[simp] theorem modFaults_redirects (s : State) (f : Faults → Faults) : (modFaults s f).redirects = s.redirects := rfl
@[simp] theorem modFaults_win (s : State) (f : Faults → Faults) : (modFaults s f).win = s.win := rfl
@[simp] theorem modFaults_tw (s : State) (f : Faults → Faults) : (modFaults s f).tw = s.tw := rfl
@[simp] theorem modFaults_beached (s : State) (f : Faults → Faults) : (modFaults s f).beached = s.beached := rfl
@[simp] theorem modFaults_aon (s : State) (f : Faults → Faults) : (modFaults s f).aon = s.aon := rfl
@[simp] theorem modFaults_ready (s : State) (f : Faults → Faults) : (modFaults s f).ready = s.ready := rfl

@[simp] theorem modSec_pending (s : State) (f : Security → Security) : (modSec s f).pending = s.pending := rfl
@[simp] theorem modSec_out (s : State) (f : Security → Security) : (modSec s f).out = s.out := rfl
@[simp] theorem modSec_postmark (s : State) (f : Security → Security) : (modSec s f).postmark = s.postmark := rfl
@[simp] theorem modSec_fresh (s : State) (f : Security → Security) : (modSec s f).fresh = s.fresh := rfl
@[simp] theorem modSec_fns (s : State) (f : Security → Security) : (modSec s f).fns = s.fns := rfl
@[simp] theorem modSec_vfEnable (s : State) (f : Security → Security) : (modSec s f).vfEnable = s.vfEnable := rfl
@[simp] theorem modSec_numVfs (s : State) (f : Security → Security) : (modSec s f).numVfs = s.numVfs := rfl
@[simp] theorem modSec_vfCompat (s : State) (f : Security → Security) : (modSec s f).vfCompat = s.vfCompat := rfl
@[simp] theorem modSec_live (s : State) (f : Security → Security) : (modSec s f).live = s.live := rfl
@[simp] theorem modSec_ops (s : State) (f : Security → Security) : (modSec s f).ops = s.ops := rfl
@[simp] theorem modSec_accounts (s : State) (f : Security → Security) : (modSec s f).accounts = s.accounts := rfl
@[simp] theorem modSec_ceilings (s : State) (f : Security → Security) : (modSec s f).ceilings = s.ceilings := rfl
@[simp] theorem modSec_configs (s : State) (f : Security → Security) : (modSec s f).configs = s.configs := rfl
@[simp] theorem modSec_asKeys (s : State) (f : Security → Security) : (modSec s f).asKeys = s.asKeys := rfl
@[simp] theorem modSec_sessions (s : State) (f : Security → Security) : (modSec s f).sessions = s.sessions := rfl
@[simp] theorem modSec_dcache (s : State) (f : Security → Security) : (modSec s f).dcache = s.dcache := rfl
@[simp] theorem modSec_tableHigh (s : State) (f : Security → Security) : (modSec s f).tableHigh = s.tableHigh := rfl
@[simp] theorem modSec_pages (s : State) (f : Security → Security) : (modSec s f).pages = s.pages := rfl
@[simp] theorem modSec_recGen (s : State) (f : Security → Security) : (modSec s f).recGen = s.recGen := rfl
@[simp] theorem modSec_idents (s : State) (f : Security → Security) : (modSec s f).idents = s.idents := rfl
@[simp] theorem modSec_copies (s : State) (f : Security → Security) : (modSec s f).copies = s.copies := rfl
@[simp] theorem modSec_runs (s : State) (f : Security → Security) : (modSec s f).runs = s.runs := rfl
@[simp] theorem modSec_bundles (s : State) (f : Security → Security) : (modSec s f).bundles = s.bundles := rfl
@[simp] theorem modSec_streams (s : State) (f : Security → Security) : (modSec s f).streams = s.streams := rfl
@[simp] theorem modSec_maskReads (s : State) (f : Security → Security) : (modSec s f).maskReads = s.maskReads := rfl
@[simp] theorem modSec_textReads (s : State) (f : Security → Security) : (modSec s f).textReads = s.textReads := rfl
@[simp] theorem modSec_textDefers (s : State) (f : Security → Security) : (modSec s f).textDefers = s.textDefers := rfl
@[simp] theorem modSec_txLoads (s : State) (f : Security → Security) : (modSec s f).txLoads = s.txLoads := rfl
@[simp] theorem modSec_indexes (s : State) (f : Security → Security) : (modSec s f).indexes = s.indexes := rfl
@[simp] theorem modSec_changes (s : State) (f : Security → Security) : (modSec s f).changes = s.changes := rfl
@[simp] theorem modSec_searches (s : State) (f : Security → Security) : (modSec s f).searches = s.searches := rfl
@[simp] theorem modSec_regionsOut (s : State) (f : Security → Security) : (modSec s f).regionsOut = s.regionsOut := rfl
@[simp] theorem modSec_mediaKeys (s : State) (f : Security → Security) : (modSec s f).mediaKeys = s.mediaKeys := rfl
@[simp] theorem modSec_roleProfile (s : State) (f : Security → Security) : (modSec s f).roleProfile = s.roleProfile := rfl
@[simp] theorem modSec_pair (s : State) (f : Security → Security) : (modSec s f).pair = s.pair := rfl
@[simp] theorem modSec_faults (s : State) (f : Security → Security) : (modSec s f).faults = s.faults := rfl
@[simp] theorem modSec_pow (s : State) (f : Security → Security) : (modSec s f).pow = s.pow := rfl
@[simp] theorem modSec_media (s : State) (f : Security → Security) : (modSec s f).media = s.media := rfl
@[simp] theorem modSec_steps (s : State) (f : Security → Security) : (modSec s f).steps = s.steps := rfl
@[simp] theorem modSec_commits (s : State) (f : Security → Security) : (modSec s f).commits = s.commits := rfl
@[simp] theorem modSec_blocks (s : State) (f : Security → Security) : (modSec s f).blocks = s.blocks := rfl
@[simp] theorem modSec_lcLoads (s : State) (f : Security → Security) : (modSec s f).lcLoads = s.lcLoads := rfl
@[simp] theorem modSec_notices (s : State) (f : Security → Security) : (modSec s f).notices = s.notices := rfl
@[simp] theorem modSec_heldWrites (s : State) (f : Security → Security) : (modSec s f).heldWrites = s.heldWrites := rfl
@[simp] theorem modSec_role (s : State) (f : Security → Security) : (modSec s f).role = s.role := rfl
@[simp] theorem modSec_roleNext (s : State) (f : Security → Security) : (modSec s f).roleNext = s.roleNext := rfl
@[simp] theorem modSec_hm (s : State) (f : Security → Security) : (modSec s f).hm = s.hm := rfl
@[simp] theorem modSec_hbmPressure (s : State) (f : Security → Security) : (modSec s f).hbmPressure = s.hbmPressure := rfl
@[simp] theorem modSec_chartEpoch (s : State) (f : Security → Security) : (modSec s f).chartEpoch = s.chartEpoch := rfl
@[simp] theorem modSec_redirects (s : State) (f : Security → Security) : (modSec s f).redirects = s.redirects := rfl
@[simp] theorem modSec_win (s : State) (f : Security → Security) : (modSec s f).win = s.win := rfl
@[simp] theorem modSec_tw (s : State) (f : Security → Security) : (modSec s f).tw = s.tw := rfl
@[simp] theorem modSec_beached (s : State) (f : Security → Security) : (modSec s f).beached = s.beached := rfl
@[simp] theorem modSec_aon (s : State) (f : Security → Security) : (modSec s f).aon = s.aon := rfl
@[simp] theorem modSec_ready (s : State) (f : Security → Security) : (modSec s f).ready = s.ready := rfl

@[simp] theorem modBoot_pending (s : State) (f : Boot → Boot) : (modBoot s f).pending = s.pending := rfl
@[simp] theorem modBoot_out (s : State) (f : Boot → Boot) : (modBoot s f).out = s.out := rfl
@[simp] theorem modBoot_postmark (s : State) (f : Boot → Boot) : (modBoot s f).postmark = s.postmark := rfl
@[simp] theorem modBoot_fresh (s : State) (f : Boot → Boot) : (modBoot s f).fresh = s.fresh := rfl
@[simp] theorem modBoot_fns (s : State) (f : Boot → Boot) : (modBoot s f).fns = s.fns := rfl
@[simp] theorem modBoot_vfEnable (s : State) (f : Boot → Boot) : (modBoot s f).vfEnable = s.vfEnable := rfl
@[simp] theorem modBoot_numVfs (s : State) (f : Boot → Boot) : (modBoot s f).numVfs = s.numVfs := rfl
@[simp] theorem modBoot_vfCompat (s : State) (f : Boot → Boot) : (modBoot s f).vfCompat = s.vfCompat := rfl
@[simp] theorem modBoot_live (s : State) (f : Boot → Boot) : (modBoot s f).live = s.live := rfl
@[simp] theorem modBoot_ops (s : State) (f : Boot → Boot) : (modBoot s f).ops = s.ops := rfl
@[simp] theorem modBoot_accounts (s : State) (f : Boot → Boot) : (modBoot s f).accounts = s.accounts := rfl
@[simp] theorem modBoot_ceilings (s : State) (f : Boot → Boot) : (modBoot s f).ceilings = s.ceilings := rfl
@[simp] theorem modBoot_configs (s : State) (f : Boot → Boot) : (modBoot s f).configs = s.configs := rfl
@[simp] theorem modBoot_asKeys (s : State) (f : Boot → Boot) : (modBoot s f).asKeys = s.asKeys := rfl
@[simp] theorem modBoot_sessions (s : State) (f : Boot → Boot) : (modBoot s f).sessions = s.sessions := rfl
@[simp] theorem modBoot_dcache (s : State) (f : Boot → Boot) : (modBoot s f).dcache = s.dcache := rfl
@[simp] theorem modBoot_tableHigh (s : State) (f : Boot → Boot) : (modBoot s f).tableHigh = s.tableHigh := rfl
@[simp] theorem modBoot_pages (s : State) (f : Boot → Boot) : (modBoot s f).pages = s.pages := rfl
@[simp] theorem modBoot_recGen (s : State) (f : Boot → Boot) : (modBoot s f).recGen = s.recGen := rfl
@[simp] theorem modBoot_idents (s : State) (f : Boot → Boot) : (modBoot s f).idents = s.idents := rfl
@[simp] theorem modBoot_copies (s : State) (f : Boot → Boot) : (modBoot s f).copies = s.copies := rfl
@[simp] theorem modBoot_runs (s : State) (f : Boot → Boot) : (modBoot s f).runs = s.runs := rfl
@[simp] theorem modBoot_bundles (s : State) (f : Boot → Boot) : (modBoot s f).bundles = s.bundles := rfl
@[simp] theorem modBoot_streams (s : State) (f : Boot → Boot) : (modBoot s f).streams = s.streams := rfl
@[simp] theorem modBoot_maskReads (s : State) (f : Boot → Boot) : (modBoot s f).maskReads = s.maskReads := rfl
@[simp] theorem modBoot_textReads (s : State) (f : Boot → Boot) : (modBoot s f).textReads = s.textReads := rfl
@[simp] theorem modBoot_textDefers (s : State) (f : Boot → Boot) : (modBoot s f).textDefers = s.textDefers := rfl
@[simp] theorem modBoot_txLoads (s : State) (f : Boot → Boot) : (modBoot s f).txLoads = s.txLoads := rfl
@[simp] theorem modBoot_indexes (s : State) (f : Boot → Boot) : (modBoot s f).indexes = s.indexes := rfl
@[simp] theorem modBoot_changes (s : State) (f : Boot → Boot) : (modBoot s f).changes = s.changes := rfl
@[simp] theorem modBoot_searches (s : State) (f : Boot → Boot) : (modBoot s f).searches = s.searches := rfl
@[simp] theorem modBoot_regionsOut (s : State) (f : Boot → Boot) : (modBoot s f).regionsOut = s.regionsOut := rfl
@[simp] theorem modBoot_mediaKeys (s : State) (f : Boot → Boot) : (modBoot s f).mediaKeys = s.mediaKeys := rfl
@[simp] theorem modBoot_roleProfile (s : State) (f : Boot → Boot) : (modBoot s f).roleProfile = s.roleProfile := rfl
@[simp] theorem modBoot_pair (s : State) (f : Boot → Boot) : (modBoot s f).pair = s.pair := rfl
@[simp] theorem modBoot_sec (s : State) (f : Boot → Boot) : (modBoot s f).sec = s.sec := rfl
@[simp] theorem modBoot_faults (s : State) (f : Boot → Boot) : (modBoot s f).faults = s.faults := rfl
@[simp] theorem modBoot_pow (s : State) (f : Boot → Boot) : (modBoot s f).pow = s.pow := rfl
@[simp] theorem modBoot_media (s : State) (f : Boot → Boot) : (modBoot s f).media = s.media := rfl
@[simp] theorem modBoot_steps (s : State) (f : Boot → Boot) : (modBoot s f).steps = s.steps := rfl
@[simp] theorem modBoot_commits (s : State) (f : Boot → Boot) : (modBoot s f).commits = s.commits := rfl
@[simp] theorem modBoot_blocks (s : State) (f : Boot → Boot) : (modBoot s f).blocks = s.blocks := rfl
@[simp] theorem modBoot_lcLoads (s : State) (f : Boot → Boot) : (modBoot s f).lcLoads = s.lcLoads := rfl
@[simp] theorem modBoot_notices (s : State) (f : Boot → Boot) : (modBoot s f).notices = s.notices := rfl
@[simp] theorem modBoot_heldWrites (s : State) (f : Boot → Boot) : (modBoot s f).heldWrites = s.heldWrites := rfl
@[simp] theorem modBoot_role (s : State) (f : Boot → Boot) : (modBoot s f).role = s.role := rfl
@[simp] theorem modBoot_roleNext (s : State) (f : Boot → Boot) : (modBoot s f).roleNext = s.roleNext := rfl
@[simp] theorem modBoot_hm (s : State) (f : Boot → Boot) : (modBoot s f).hm = s.hm := rfl
@[simp] theorem modBoot_hbmPressure (s : State) (f : Boot → Boot) : (modBoot s f).hbmPressure = s.hbmPressure := rfl
@[simp] theorem modBoot_chartEpoch (s : State) (f : Boot → Boot) : (modBoot s f).chartEpoch = s.chartEpoch := rfl
@[simp] theorem modBoot_redirects (s : State) (f : Boot → Boot) : (modBoot s f).redirects = s.redirects := rfl
@[simp] theorem modBoot_win (s : State) (f : Boot → Boot) : (modBoot s f).win = s.win := rfl
@[simp] theorem modBoot_tw (s : State) (f : Boot → Boot) : (modBoot s f).tw = s.tw := rfl
@[simp] theorem modBoot_beached (s : State) (f : Boot → Boot) : (modBoot s f).beached = s.beached := rfl
@[simp] theorem modBoot_aon (s : State) (f : Boot → Boot) : (modBoot s f).aon = s.aon := rfl
@[simp] theorem modBoot_ready (s : State) (f : Boot → Boot) : (modBoot s f).ready = s.ready := rfl

@[simp] theorem advance_postmark (pm : Nat) (s : State) : (advance pm s).postmark = max s.postmark pm := rfl
@[simp] theorem emit_out (o : Output) (s : State) : (emit o s).out = o :: s.out := rfl
@[simp] theorem modPow_pow (s : State) (f : Power → Power) : (modPow s f).pow = f s.pow := rfl
@[simp] theorem modWin_win (s : State) (f : Window → Window) : (modWin s f).win = f s.win := rfl
@[simp] theorem modTw_tw (s : State) (f : Tideway → Tideway) : (modTw s f).tw = f s.tw := rfl
@[simp] theorem modMedia_media (s : State) (f : Media → Media) : (modMedia s f).media = f s.media := rfl
@[simp] theorem modPair_pair (s : State) (f : Pair → Pair) : (modPair s f).pair = f s.pair := rfl
@[simp] theorem modFaults_faults (s : State) (f : Faults → Faults) : (modFaults s f).faults = f s.faults := rfl
@[simp] theorem modSec_sec (s : State) (f : Security → Security) : (modSec s f).sec = f s.sec := rfl
@[simp] theorem modBoot_boot (s : State) (f : Boot → Boot) : (modBoot s f).boot = f s.boot := rfl

end Sys2Proof.Machine
end

