-- ==== Sys2Proof/Machine/Package.lean ====
section
/-! DEFINITION. The package: the rails, the straps' address, the balls of the regular signals, and the levels that the block's state gives
its sideband outputs (R712 to R718, R722, R723, R725 to R727, R631). -/

namespace Sys2Proof.Machine

/-- A rail's operating range, absolute maximum, and ramp order, in mV (Table 17.3). -/
def railLimits : Rail → Nat × Nat × Nat × Nat
  | .vddAon => (730, 770, 900, 1)
  | .vddio => (1710, 1890, 2100, 1)
  | .vhbmPp => (1710, 1890, 2100, 2)
  | .vhbmC => (1020, 1080, 1250, 3)
  | .vhbmQ => (730, 770, 900, 4)
  | .vddaSd => (730, 770, 900, 5)
  | .vddhSd => (1160, 1240, 1400, 5)
  | .vddqF => (1140, 1260, 1400, 5)
  | .core _ => (600, 900, 1000, 6)

/-- The ball of RX_P of lane k of a port region, row and column (R715). -/
def rxBall (p k : Nat) : Nat × Nat :=
  let c := if k < 32 then 2 else 4
  (5 + 3 * (k % 32), if p = 0 then c else 121 - c)

/-- The ball of TX_P of lane k. -/
def txBall (p k : Nat) : Nat × Nat :=
  let c := if k < 32 then 6 else 8
  (5 + 3 * (k % 32), if p = 0 then c else 121 - c)

/-- The ball of signal i, 0 to 23, of flash channel n, in the order of R717. -/
def flashBall (n i : Nat) : Nat × Nat := (112 + i % 8, 11 + 3 * n + i / 8)

/-- A position of the ball array is depopulated (Table 17.1). -/
def depopulated (r c : Nat) : Bool := (decide (r ≤ 4) || decide (117 ≤ r)) && (decide (c ≤ 4) || decide (117 ≤ c))

/-- The SMBus address (Table 17.5). -/
def smbusAddress (s : State) : Nat := 0x64 + s.boot.mgmt

/-- FL_WP_N_j is high: from MEDIA_FORMAT or MEDIA_ATTACH until ABSENT or FAILED, while a channel of FC_j is enabled (R723). -/
def flashWritable (s : State) (j : Nat) : Bool :=
  decide (2 ≤ s.boot.stage) && !s.beached && s.media.state != 0 && s.media.state != 5
    && (List.range 8).any (fun i => (getCh s (8 * j + i)).enable)

/-- FAULT_N, THERM_N and SMB_ALERT_N are low. -/
def faultLow (s : State) : Bool := decide (2 ≤ s.boot.stage) && s.faults.faultN

def thermLow (s : State) : Bool := decide (2 ≤ s.boot.stage) && s.pow.thermN

def alertLow (s : State) : Bool := decide (2 ≤ s.boot.stage) && s.faults.alert && !s.beached

end Sys2Proof.Machine
end

