-- ==== Sys2Proof/Tests/Slice0.lean ====
section
/-! SUPPORT. Tests of the model and a state that meets the hypotheses of every statement. Expected values are the spec's worked examples or
published check values, as each test says. -/

set_option Elab.async false

section
open Sys2Proof Sys2Proof.Machine

/-! ## States that the tests and the witnesses use -/

/-- A ring that holds one entry to take. -/
def wRing : Ring := { live := true, slots := [.entry] }

/-- PF_0 with each of its rings live. -/
def wFn : Fn := { enable := true, adminEn := true, textEn := true, searchEn := true, admin := wRing, steps := [(0, wRing)], text := wRing, search := wRing }

/-- The block after reset with PF_0's rings live, account 1 in partition 1. -/
def wS : State := { fns := [(0, wFn)], accounts := [(1, { partition := 1 })] }

/-- A header of PF_0 in set 4 that names target `n` and `len` bytes. -/
def wHdr (n len : Nat) : Hdr := { fn := 0, set := 4, be := false, serial := false, cmdId := 7, target := n, len := len, addr := 4096, rsvBad := none }

def wH : Hdr := wHdr 1 4096

/-- A role profile whose drain lasts 1 ms. -/
def wRole : List Byte := 1#8 :: List.replicate 63 0#8

/-- A class that prefers the buddy's park area, waits 1 ms by default and takes the median. -/
def wClass : List Byte := [2#8, 0xFF#8, 0xFF#8] ++ List.replicate 13 0#8 ++ [1#8, 0#8, 0#8, 0#8, 0#8, 0#8, 0#8, 0#8, 50#8] ++ List.replicate 39 0#8

/-- A number of account 1 with version 1 published. -/
def wNum (body : List Byte) : CfgNum := { current := 1, vers := [(1, { account := 1, body := body })] }

/-- The same with version 1 of profile, vocabulary, class and role profile 1 published. -/
def wCfg : State :=
  { wS with configs := [(cfgKey 0 1, wNum (List.replicate 128 0#8)), (cfgKey 1 1, wNum (1#8 :: List.replicate 63 0#8)), (cfgKey 3 1, wNum wClass), (cfgKey 4 1, wNum wRole)] }

/-- Session 0x10000000000000 of account 1, descriptor 6, in a given state. -/
def wSess (st : SState) : Session :=
  { handle := 2 ^ 52, partition := 1, state := st, classRef := { num := 1, ver := 1 }, constraintRef := { num := 0, ver := 0 }
    vocabRef := { num := 1, ver := 1 }, profileRef := { num := 1, ver := 1 } }

/-- The block with that session. -/
def wSt (st : SState) : State := { wCfg with sessions := [(6, wSess st)] }

/-- An index of account 1 with one shard and no node. -/
def wIndex : Index := { account := 1, classRef := { num := 1, ver := 1 }, params := [], shards := [(0, { region := 0 })] }

/-- The block with it as index 3. -/
def wIx : State := { wS with indexes := [(3, wIndex)] }

/-- The block with connection 0 open by PF_0. -/
def wConn : State := { wS with tw := { conns := [(0, { peerIp := 1, fn := 0, port := 0 })] } }

/-- VF_1 enabled with its rings live, role HOLD, account 1 with room at every tier, a buddy bound with a park area of 50 frames. -/
def wVf : State :=
  { wCfg with fns := [(0, wFn), (1, wFn)], vfEnable := true, numVfs := 1, role := 0, pair := { status := 2, reserve := 100, parkPctBound := 50 }
              accounts := [(1, { partition := 1, quota := [(0, 2 ^ 40), (1, 2 ^ 40), (2, 2 ^ 40), (3, 2 ^ 40), (4, 2 ^ 40), (5, 2 ^ 40)] })] }

/-- A header of VF_1. -/
def wHv (n len : Nat) : Hdr := { fn := 1, set := 4, be := false, serial := false, cmdId := 7, target := n, len := len, addr := 4096, rsvBad := none }

/-- A sealed bundle for device 0, account 1. -/
def wSealed (kind : Nat) : List Byte :=
  [0x5A#8, 0x58#8, 0x34#8, 0x53#8, 0x45#8, 0x41#8, 0x4C#8, 0x31#8, BitVec.ofNat 8 kind, 1#8, 1#8, 0#8] ++ List.replicate 244 0#8

/-- A parameter block: one local shard of one node slot, 32 elements of format 0, degree 8. -/
def wParams : List Byte :=
  List.replicate 41 0#8 ++ [8#8, 0#8, 0#8, 0xFF#8, 0#8, 32#8, 0#8, 0#8, 0#8, 0#8, 0#8, 1#8, 0#8, 0#8, 0#8] ++ List.replicate 40 0#8 ++ [1#8] ++ List.replicate 31 0#8

/-- VF_1's block with an index of one verified shard over those parameters as object 3, and bundle 4. -/
def wVix : State :=
  { wVf with indexes := [(3, { wIndex with params := wParams })]
             bundles := [(4, { account := 1, classRef := { num := 1, ver := 1 }, body := [1#8], tier := 0, run := none })] }

/-- The same, with class 2 preferring HBM and the bundle at tier `n`. -/
def wVlow (n : Nat) : State :=
  { wVix with configs := [(cfgKey 3 1, wNum wClass), (cfgKey 3 2, wNum ([0#8] ++ wClass.tail))]
              bundles := [(4, { account := 1, classRef := { num := 1, ver := 1 }, body := [1#8], tier := n, run := none })] }

/-- The block with address-space key 9. -/
def wKey : State := { wS with asKeys := [(9, { fn := 0, pasid := 0, account := 1, perms := 1 })] }

/-- VF_1's block with the index's vectors in the park area. -/
def wVixLow : State := { wVlow 3 with indexes := [(3, { wIndex with params := wParams, vecTier := 2 })] }

/-- VF_1's block with the entry of its admin ring taken. -/
def wTaken : State := begun wVf (wHv 1 384) .admin

/-- What building an index over those parameters gives. -/
def wBuilt : State × Index :=
  match buildIndex wTaken 1 { num := 1, ver := 1 } wParams [] (shardOfImg []) with
  | .ok q => q
  | .error _ => (wTaken, wIndex)

/-- What raising that index's vectors gives. -/
def wRaised : State :=
  (raiseVectors (reclassed (begun wVixLow (wHv 3 0) .admin) 3 { account := 1, bytes := 65536, sizes := [65536], tier := 2, frames := 1, index := true }
    { num := 2, ver := 1 }) 3 { wIndex with params := wParams, classRef := { num := 2, ver := 1 }, vecTier := 2 }).getD wS

/-- What building an index over those parameters gives in `s`. -/
def wMade (s : State) : State × Index :=
  match buildIndex s 1 { num := 1, ver := 1 } wParams [] (fun _ => { region := 0 }) with
  | .ok q => q
  | .error _ => (s, wIndex)

/-- A search entry that asks for one result. -/
def wFind : SearchEntry :=
  { resultAddr := 8192, k := 1, queue := 1, visits := 1, rerank := 0, width := 0, oversample := 0, queryFormat := 0, flags := 0, deadlineUs := 0 }

/-- That session in state `st` with one page at tier `tier`. -/
def wFarSess (st : SState) (tier : Nat) : Session := { wSess st with refs := [(0, { tier := tier, format := 0, gen := 1, loc := 5 })] }

/-- The block with that session. -/
def wFar (st : SState) (tier : Nat) : State := { wSt st with sessions := [(6, wFarSess st tier)] }

/-- VF_1's block with that session PARKED, class 2 preferring HBM. -/
def wFarRich (tier : Nat) : State :=
  { wVlow 3 with configs := (wVlow 3).configs ++ [(cfgKey 4 1, wNum wRole)], sessions := [(6, wFarSess .parked tier)] }

/-- The block with the session ACTIVE and a connection to device 5. -/
def wMove : State := { wSt .active with tw := { conns := [(0, { peerIp := 1, fn := 0, port := 0, peerDevice := 5 })] } }

/-- The block with the session FAILED, a checkpoint of it at the buddy, and these reads under way. -/
def wLost (reads : AMap ReadFor) : State :=
  { wSt .failed with pair := { status := 2, lastEpoch := 1, entries := [(2 ^ 52, migEntry (wSess .failed))], reads := reads } }


/-- How session 6 reads in `s`. -/
def wAfter (s : State) : Session := (amGet s.sessions 6).getD (wSess .new)

/-- The block with region 0 of the window enabled, one extent. -/
def wWin : State := { wS with win := { regions := [(0, 0x100000001#64)] } }

/-- The same with the extent granted to the cores. -/
def wHeld : State := { wWin with win := { regions := [(0, 0x100000001#64)], extents := [(0, { hosts := [16] })] } }

/-- The same with its release under way. -/
def wHeld2 : State :=
  { wWin with win := { regions := [(0, 0x100000001#64)], extents := [(0, { hosts := [16] })], releases := [{ region := 0, extent := 0, host := 16, byHost := false, tags := [] }] } }

/-- The block with port 15 enabled. -/
def wPort : State := { wS with tw := { ports := [(15, { cfg := 1#64 })] } }

/-- The block with devices 0 and 5 in the device set. -/
def wDevs : State := { wS with sec := { deviceSet := [(0, []), (5, [])] } }

/-- VF_1's block with a consent key for partition 1. -/
def wTok : State := { wVf with sec := { consentKeys := [(1, [])] } }

/-- A consent token of device 0 for partition 1: scopes profile and debug, one second, sequence 1. -/
def wToken : List Byte :=
  List.replicate 8 0#8 ++ [1#8, 3#8, 0#8, 0#8, 1#8, 0#8, 0#8, 0#8, 1#8] ++ List.replicate 175 0#8

/-- The block running a trial image. -/
def wTrial : State := { wS with boot := { trialRun := true } }

/-- The block with every core assigned and one frame of memory. -/
def wMem : State := { wS with hm := { assigned := 65535, memFrames := 1 } }

/-- The run that sixteen frames take. -/
def wHm : List Nat × State := (hmTake (hmFree (begun wS (wHdr 0 0) .admin)) 16).getD ([], wS)

/-- A media profile that fits. -/
def wFlash : MediaProfile :=
  { identity := 1, unit := 16384, unitsPer := 1024, eusPerLun := 1024, ratedPe := 3000, refreshDays := 90, scanHours := 24, refreshBits := 100
    disturbReads := 100000, retiredLimit := 50, topRates := [2400] }

/-- A stream of account 1. -/
def wStream (detok : Bool) : Stream := { account := 1, detok := detok, flags := 0, vocab := { num := 1, ver := 1 } }

/-- VF_1's block with a tokenizing stream 0 and a detokenizing stream 1 of VF_1. -/
def wStr : State := { wVf with streams := [(4096, wStream false), (4097, wStream true)] }

/-- The block with session 6 ACTIVE, its round closing or not. -/
def wClosing (c : Bool) : State := { wSt .active with sessions := [(6, { wSess .active with round := { closing := c } })] }

/-- The block with session 6 ACTIVE, fenced or not. -/
def wWork (f : Bool) : State := { wSt .active with sessions := [(6, { wSess .active with fence := f })] }

/-- A step entry of session 6: one candidate that starts a round. -/
def wEntry : StepEntry :=
  { handle := 2 ^ 52, descIndex := 6, newRows := true, noDegrade := false, mode := 0, candsM1 := 0, layer := 0, rowFormat := 2, parents := []
    operandAddr := 0, resultAddr := 0, missingAddr := 0, round := 0, firstPage := 0, lastPage := 0, treePages := 0, operand := .ok [] }

/-- The block without power, powered before POR_N rises, and in its self test. -/
def wOff : State := { wS with boot := { stage := 0 }, ready := false }
def wCold : State := { wS with boot := { stage := 1 }, ready := false }
def wTest : State := { wS with boot := { stage := 2 }, ready := false }

/-- PF_0 with its event ring live; PF_0 with no ring live and depths of 64 written. -/
def wEv : State := { wS with fns := [(0, { wFn with eventEn := true, evDepth := 64 })] }
def wDark : State := { wS with fns := [(0, { eventCfg := 64#32, textCfg := 64#32, searchCfg := 64#32 })] }

/-- LC_LIMIT pending; a window directory in place; the Tideway enabled with a connection. -/
def wShadow : State := { wS with live := [(liveKey .lcLimit, { value := 50, shadow := some 90 })] }
def wDir : State := { wS with win := { dirRuns := [0] } }
def wTw : State := { wS with tw := { enable := true, conns := [(0, { peerIp := 1, fn := 0, port := 0 })] } }

/-- VF_1 in a function-level reset. -/
def wBusy : State := { wVf with fns := [(0, wFn), (1, { wFn with flrBusy := true })] }

/-- An operation of PF_0's admin ring that is ready, and the block that holds it under tag 0. -/
def wOp : Op := { origin := .ring 0 .admin, cmdId := 7, state := .ready rOk }
def wDone : State := { wS with ops := [(0, wOp)] }

/-- A receipt held since postmark 0, and the admin ring that holds it; an admin ring with a receipt unsignalled. -/
def wHeldR : Held := { receipt := { rcpt := rOk, cmdId := 7, pm := 0 }, since := 0 }
def wHold : State := { wS with fns := [(0, { wFn with admin := { wRing with held := [wHeldR] } })] }
def wUnsig : State := { wS with fns := [(0, { wFn with admin := { wRing with unsig := 1 } })] }

/-- A page task of step 0, running on block 0 of region 0. -/
def wTask : Task :=
  { tag := 0, page := 0, head := 0, group := 1, est := 1, be := false, partition := 1, pm := 0, profile := { num := 1, ver := 1 }, format := 0 }
def wRun : State := setBlock wS 0 0 { running := some wTask }

/-- Running steps of session 6 with no task left: in a mode, and a slice with a page absent. -/
def wStep (mode : Nat) : StepRec :=
  { entry := { wEntry with mode := mode, treePages := 1 }, d := 6, via := .host 0, partition := 1, be := false, phase := .running }
def wStepAbsent : StepRec := { wStep 1 with srcs := [.missing] }
def wMerge : State := { wSt .active with steps := [(0, wStep 0), (1, wStep 1), (2, wStepAbsent)] }

/-- A commit of session 6 under tag 0, and the block with it waiting and the round closing. -/
def wCommitRec (mask : Nat) : CommitRec := { d := 6, round := 0, mask := mask }
def wCommit (mask : Nat) : State :=
  { wClosing true with commits := [(0, wCommitRec mask)], ops := [(0, { wOp with state := .waiting .stepWork })] }

/-- A mask set of round 0 whose notice is on its way, and the same with its notice received. -/
def wMasks : MaskSet := { round := 0, tokens := 0, vocab := some { num := 1, ver := 1 }, cset := none, root := { state := 0, escActive := false, escPos := 0, hist := [] } }
def wNote : Notice := { d := 6, tokens := 0, round := 0, ids := [] }
def wNotice : State := { wSt .active with sessions := [(6, { wSess .active with masks := some wMasks })], notices := [wNote] }
def wNotified : State := { wSt .active with sessions := [(6, { wSess .active with masks := some { wMasks with notice := some 0 } })] }

/-- A search under tag 0 that has asked device 5 and waits until postmark 5. -/
def wSeekRec : SearchRec :=
  { index := 3, k := 1, via := .host 0, resultAddr := 0, set3 := false, searched := [], answer := {}, asked := [(5, [1])], until_ := 5 }
def wSeek : State := { wIx with searches := [(0, wSeekRec)] }

/-- The index with no tombstone. -/
def wSweep : State := wIx

/-- A node; a shard whose node 1 is a tombstone that node 0 has an edge to, at a change number. -/
def wNode : SNode := { gid := 1, vec := List.replicate 128 0#8, attr := List.replicate 64 0#8, seqA := 0, edgesA := [(1, 1)] }
def wShard (seq : Nat) : Shard := { region := 0, changeSeq := seq, nodes := [(0, wNode), (1, { wNode with delSeq := 0, edgesA := [] })] }
def wMendIx (seq : Nat) : Index := { wIndex with params := wParams, shards := [(0, wShard seq)] }
def wMend (seq : Nat) : State := { wIx with indexes := [(3, wMendIx seq)] }

/-- A shard whose tombstone 0 has been walked. -/
def wGoneShard : Shard := { region := 0, nodes := [(0, { wNode with delSeq := 0 })], sweep := some { tombs := [0], walked := true } }
def wGone : State := { wIx with indexes := [(3, { wIndex with params := wParams, shards := [(0, wGoneShard)] })] }

/-- Core 0 running; with a policy entry unread for no session, or for session 6. -/
def wCore : State := { wS with hm := { assigned := 1, running := 1, memFrames := 1 } }
def wPol : State := { wS with hm := { assigned := 1, running := 1, memFrames := 1, policyProd := 1 } }
def wPolS (st : SState) : State :=
  { wSt st with hm := { assigned := 1, running := 1, memFrames := 1, policyProd := 1, policy := [(0, { resumePm := 5, ebbAtPm := 0, targetTier := 255, handle := 2 ^ 52 })] } }

/-- A drain to role POOL under way; a restore that runs in the background. -/
def wDrainRec : RoleDrain := { tag := 0, role := 3, profile := { num := 1, ver := 1 }, until_ := 1000000 }
def wDrain : State := { wCfg with pair := { drain := some wDrainRec }, roleNext := some 3 }
def wRestore : RestoreRun := { tag := 0, source := 5, holder := 6, background := true }

/-- A reference to page record 5 of HBM, and the record. -/
def wRef : PRef := { tier := 0, format := 0, gen := 1, loc := 5 }
def wPage : PageRec := { posBase := 0, account := 1, layer := 0, format := 0, gen := 1, frames := 1, stack := 0, frameBase := 0 }

/-- Session 6 due to flood at postmark 5, one page on the pool tier, the account with room in HBM where `q` is not 0. -/
def wFlood (st : SState) (q : Nat) : State :=
  { wSt st with sessions := [(6, { wFarSess st 1 with resumePm := 5 })], accounts := [(1, { partition := 1, quota := [(0, q * 2 ^ 40)] })], runs := [(6742, { count := 1, account := some 1 })] }

/-- A dirty descriptor. -/
def wDirty : DcEntry := { dirty := true, dirtySince := 0, lastAccess := 0 }

/-- Session 6 EBBING to the pool with page 0 in HBM to do; with none to do; and with a flood due besides. -/
def wEbbJob (l : List Nat) : EbbJob := { tier := 1, todo := l, switched := [], reserve := 0 }
def wEbb : State :=
  { wSt .ebbing with sessions := [(6, { wSess .ebbing with refs := [(0, wRef)], ebb := some (wEbbJob [0]) })], pages := [(5, wPage)] }
def wEbbed : State := { wSt .ebbing with sessions := [(6, { wSess .ebbing with ebb := some (wEbbJob []) })] }
def wEbbed2 : State := { wSt .ebbing with sessions := [(6, { wSess .ebbing with ebb := some (wEbbJob []), resumePm := 1 })], postmark := 5 }

/-- Session 6 moving page 0's copy to the park area. -/
def wMoving : State :=
  { wSt .parked with sessions := [(6, { wFarSess .parked 1 with move := some { todo := [0], tier := 2, reserve := 0 } })] }

/-- Session 6 FLOODING, its page come. -/
def wFloodJob : FloodJob := { start := 0, predictor := false, todo := [0], reserve := 1, arrived := [0] }
def wArrive : State := { wSt .flooding with sessions := [(6, { wFarSess .flooding 1 with floodLc := true, flood := some wFloodJob })] }

/-- A packet of the Tideway on port 0 from device 1's connection 3 to connection 0, which is open to it, its context cached or being fetched. -/
def wPkt : TwPkt :=
  { port := 0, srcIp := 1, srcConn := 3, dstConn := 0, psn := 0, msgId := 0, off := 0, len := 0, epoch := 0, first := true, last := true, fwd := false
    be := false, retx := false, ce := false, addr := 0, key := 0, replyKey := 0, handle := 0, descIndex := 0, aux := 0, payload := [] }
def wTwOn : State := { wS with tw := { enable := true, ports := [(0, { cfg := 1#64 })] } }
def wTwc : State := { wS with tw := { wTwOn.tw with conns := [(0, { peerIp := 1, fn := 0, port := 0 })], cache := [(0, { used := 0, fetching := false })] } }
def wTwf : State := { wS with tw := { wTwc.tw with cache := [(0, { used := 0, fetching := true })] } }
def wMig : MigMsg := {}

/-- An ACK on that connection; a packet in flight, and the connection after a number of retries with it. -/
def wAck : TwAck := { port := 0, srcIp := 1, srcConn := 3, dstConn := 0, cumPsn := 0, writeDone := 0, ceCount := 0, rcvCount := 0, sack := [] }
def wOutPkt : OutPkt := { msg := msgOf opWrite wPkt none, psn := 0, off := 0, bytes := [] }
def wFly (r : Nat) : State :=
  { wS with tw := { wTwOn.tw with conns := [(0, { peerIp := 1, fn := 0, port := 0, rto := 1, retries := r, flight := [wOutPkt] })] } }

/-- Session 6 MIGRATING, its PREPARE answered OK; a stub. -/
def wHandRec : Migration := { conn := 0, peer := 5, tag := some 0, phase := 4 }
def wHand : State := { wMove with sessions := [(6, wSess .migrating)], pair := { migrations := [(6, wHandRec)] } }
def wStub : Session := { wSess .migrating with stub := true, forwarding := true }

/-- The block with port 0 enabled under address `a`. -/
def wIp (a : Nat) : State := { wS with tw := { ports := [(0, { cfg := 1#64, ip := BitVec.ofNat 128 a })] } }

/-- The block with host 0 linked by CXL 3.1; and with line 0 OWNED by it, a snoop of line 0 out to it, a grant to it pending; linked by CXL 2.0;
port 0 behind a switch. -/
def wCxl : State := { wS with win := { regions := [(0, 0x100000001#64)], ports := [(0, { version := 3 })], extents := [(0, { hosts := [0] })] } }
def wOwned : State := { wCxl with win := { wCxl.win with dir := [(0, { holders := [0], owned := true, granted := 0 })] } }
def wSnoop : Snoop := { line := 0, host := 0, kind := 2, issued := some 0 }
def wSnooped : State := { wOwned with win := { wOwned.win with snoops := [wSnoop] } }
def wGrantRec (held : Bool) : GrantWait := { region := 0, extent := 0, host := 0, framesHeld := held, since := 0 }
def wGrant (held : Bool) : State := { wCxl with win := { wCxl.win with grants := [(0, wGrantRec held)] } }
def wCxl2 : State := { wS with win := { ports := [(0, { version := 2 })] } }
def wSwitch : State := { wS with win := { ports := [(0, { version := 3, switched := true })] } }

/-- A LUN; a shingle of two channels with one row programmed, in state `st`; the media READY with both, LUN 1 online or not. -/
def wLun (up : Bool) : Lun := { ce := 0, lun := 0, online := up }
def wShin (st : ShState) : Shingle := { chans := [0, 1], units := [1, 65537], writer := 0, st := st, writeSeq := 1, wall := 0, ptr := 129, rows := 1 }
def wRecord : FormatRecord := { channels := [], profile := wFlash, lifeDays := 1825, device := 0, wall := 0, formatPm := 0, formatWall := 0 }
def wMedia (up : Bool) (x : Shingle) : State :=
  { wS with media := { state := 3, format := some wRecord, luns := [(0, wLun true), (1, wLun up)], shingles := [(0, x)] } }
def wMed (up : Bool) (st : ShState) : State := wMedia up (wShin st)

/-- A shingle being erased, unit 0 done or not; a settled one marked for refresh at postmark 0. -/
def wShinE (most : Bool) : Shingle := { wShin .erasing with erased := if most then [0] else [] }
def wErase (most : Bool) : State := wMedia true (wShinE most)
def wMarked : State := wMedia true { wShin .closed with ptr := 128, rows := 2, refresh := some 0 }

/-- The pair bound, half 0 and 1 at `n` lanes, a reserve of 100 frames. -/
def wIst (n : Nat) : State := { wS with pair := { status := 2, half0 := { lanes := n }, half1 := { lanes := n }, reserve := 100 } }

/-- A page copy; a harbour with room for 50 frames of park area; the pair hosting it; the same with epoch 1 received, and its commit record. -/
def wCopy : PageCopy := { handle := 2 ^ 52, device := 1, account := 1, format := 0, gen := 1, layer := 0, page := 0, filled := 256, body := [] }
def wHarb : Harbour := { source := 1, parkMax := 50 }
def wHost : State := { wIst 16 with pair := { status := 2, buddy := 1, hosted := some wHarb } }
def wHarb2 : Harbour := { wHarb with cur := some (1, 0, crc64Init) }
def wHost2 : State := { wIst 16 with pair := { status := 2, buddy := 1, hosted := some wHarb2 } }
def wRec : CommitRecord :=
  { epoch := 1, slot := 1, stackCount := 6, pageLog2 := 8, fwMajor := 1, prevEpoch := 0, sourceId := 1, cutPm := 0, byteCount := 0
    epochCrc := crc64Init ^^^ 0xFFFFFFFFFFFFFFFF, sessions := 0, crcOk := true }
def wEpoch : EpochRun := { num := 1, sessions := [], entries := [], record := wRec, store := [], fulls := [], chains := [] }

/-- The pair bound with the media READY and an open mirror shingle; where a copy goes in it. -/
def wMirror : State :=
  { wIst 16 with media := { (wMed true .opened).media with writers := [(6, 0)], shingles := [(0, { wShin .opened with writer := 6 })] } }
def wMirrorAt : Nat × State :=
  match mediaPlace wMirror 6 { handle := wCopy.handle, device := wCopy.device, mirror := true, blocks := copyBlocks wCopy.body.length, body := wCopy.body
                               copy := { account := 1, layer := 0, page := 0, size := 0, format := 0, gen := 1, filled := 256 } } with
  | (some loc, u) => (loc, u)
  | (none, u) => (0, u)

/-- The block with session 6, a media copy at locator 0, a device restore under way, and read 0 out. -/
def wMcopy : MediaCopy :=
  { handle := 2 ^ 52, device := 0, blocks := 1, copy := { account := 1, layer := 0, page := 0, size := 0, format := 0, gen := 1, filled := 0 } }
def wRead (f : ReadFor) : State :=
  { wSt .idle with media := { state := 3, shingles := [(0, { wShin .closed with copies := [(0, wMcopy)] })] }
                   pair := { status := 2, restore := some wRestore, reads := [(0, f)] } }

/-- An error of region `r` at level `l`; the block handling one of level `l`, region 0 restarting. -/
def wErr (r l : Nat) : ErrRec := { level := l, kind := 16, unit := { region := r }, what := .block, pm := 0 }
def wHandle (l : Nat) : ErrRec :=
  { level := l, kind := 0x02, unit := if l = 0 then { region := 0, kind := 1, index := 0, cell := some 0 } else { region := 0 }, what := if l = 0 then .cell else .chip, pm := 0 }
def wHandling (l : Nat) : State := { wS with faults := { handling := [wHandle l], runs := [{ region := 0, kind := 0, dirty := [] }] } }

/-- A sounding; an image that is found signed at a high version; the block with an SPDM peer on I3C at the end of its negotiation, session 1
whole and session 2 open; debug open and a consent of partition 1. -/
def wMeters : Meters := { inputMw := 0, hbmMw := 0, junctions := [], stackTemps := [], busy := [], lcShares := [], bandwidth := [] }
def wFound : SlotFound := { signed := true, svn := 2 ^ 20, version := 0 }
def wSpdm : State := { wS with sec := { spdm := [(0, { phase := 3, sessions := [(1, true), (2, false)] })] } }
def wDebug : State := { wS with sec := { debug := true, consents := [(1, { scope := 3, until_ := 5 })] } }

/-- A wake of domain 0 that waits, alone or behind a ramp of its region; a ramp of domain 0, and its block out. -/
def wWake : Wake := { dom := 0, lc := true, pm := 0 }
def wRamp : Ramp := { dom := 0, charge := 20, rampEnd := 5, ready := 1 }
def wWaking : State := { wS with pow := { doms := [(0, 2)], wakes := [wWake] } }
def wWaking2 : State := { wS with pow := { doms := [(0, 2)], wakes := [wWake], ramps := [{ wRamp with dom := 1 }] } }
def wRamping : State := { wS with pow := { doms := [(0, 2)], ramps := [wRamp] } }
def wRamping2 : State := setBlock wRamping 0 0 { out := true }

/-- Slack water allowed; a correction of the clocks of regions 0 and 1; a cap of 1 W below what is drawn, and `n` hundredths of it drawn while
capped; region 0 with every block off and a reserve of 4. -/
def wCalm : State := { wS with live := [(liveKey .pwrCtrl, { value := 1 })] }
def wCorrection : Correction := { a := 0, b := 1, quantity := 0, acted := 0, since := 0 }
def wCorr : State := { wS with pow := { corrections := [wCorrection] } }
def wHot (capped : Bool) : State := { wS with live := [(liveKey .powerCap, { value := 1 })], pow := { capped := capped, inputs := [2000] } }
def wWarm (n : Nat) : State := { wS with live := [(liveKey .powerCap, { value := 1 })], pow := { capped := true, inputs := [10 * n] } }
def wShort : State :=
  { wS with live := [(liveKey (.warmReserve 0), { value := 4 })], pow := { doms := (List.range 8).map (fun i => (i, 2)) } }

/-- A READ_TEXT of session 6 that waits until postmark 5. -/
def wText : TextRead := { d := 6, flags := 0, len := 64, addr := 4096, via := .host 0, vocab := { num := 1, ver := 1 }, until_ := 5 }

/-- The block with every tag taken; in slack water, its first epoch started. -/
def wFull : State := { wS with ops := List.replicate 65536 (0, wOp) }
def wSlack : State := { wS with pow := { state := 2 }, pair := { status := 2, reserve := 100, lastStart := some 5 } }

/-! ## Operands that do not fit -/

/-- A header that names no function of the device. -/
def wfHdr : Hdr := { wHdr 1 64 with fn := 65 }

theorem test_wf_fn : (Instr.enable 65 true).wellFormed = false := by decide
theorem test_wf_hdr : (Instr.identify wfHdr).wellFormed = false := by decide
theorem test_wf_reserved : (Instr.identify { wHdr 1 64 with rsvBad := some 64 }).wellFormed = false := by decide
theorem test_wf_opcode_set : (Instr.identify { wHdr 1 64 with set := 256 }).wellFormed = false := by decide
theorem test_wf_width : (Instr.readLog (wHdr 1 64) (2 ^ 32)).wellFormed = false := by decide
theorem test_wf_read : (Instr.setRules (wHdr 1 64) 0 (.fail (2 ^ 64))).wellFormed = false := by decide
theorem test_wf_slots : (Instr.adminSqTail 0 0 [.undefinedOp 65536]).wellFormed = false := by decide
theorem test_wf_step : (Instr.step (wHdr 1 64) 0 { wEntry with parents := [16] }).wellFormed = false := by decide
theorem test_wf_search : (Instr.search (wHdr 1 64) { wFind with k := 65536 } (.ok [])).wellFormed = false := by decide
theorem test_wf_packet : (Instr.write { wPkt with port := 16 }).wellFormed = false := by decide
theorem test_wf_ring : (Instr.receiptHoldExpiry 0 (.step 64) 0).wellFormed = false := by decide
theorem test_wf_via : (Instr.getVersion (.doe 65)).wellFormed = false := by decide
theorem test_wf_meters : (Instr.lighthouseSounding wMeters 0).wellFormed = false := by decide
theorem test_wf_numbers : (Instr.regionReturn 0 true [2 ^ 32] 0).wellFormed = false := by decide
theorem test_wf_time : (Instr.porNFall (2 ^ 64)).wellFormed = false := by decide
theorem test_wf_accepts : (Instr.identify (wHdr 1 64)).wellFormed = true := by decide

/-! ## The worked examples of the spec -/

/-- spec/04_pages_formats.md, one block narrowed to MXFP6 E3M2: 3.296875, -0.41015625, 0.005096435546875 and 0. -/
theorem test_mxfp6_block :
    mxBlock 5 [.fin false 211 (-6), .fin true 105 (-8), .fin false 167 (-15), fZero] = (0x7C, [0x1F, 0x33, 0x01, 0x00]) := by decide +kernel

/-- The same example: the first three bytes of the row (R160). -/
theorem test_mxfp6_bytes : pack6 [0x1F, 0x33, 0x01, 0x00] = [0xDF#8, 0x1C#8, 0x00#8] := by decide

/-- spec/05_tiers_placement.md, the 41-second tool call: the tenth percentile of 5,120 counts falls in bin 41. -/
theorem test_wait_quantile : quantileBin [(40, 511), (41, 4609)] 10 128 = 41 := by decide +kernel

/-- The same example: bin 58 of the wait histogram is 23,170 ms. -/
theorem test_wait_edge : binEdge 58 = 23170 := by decide +kernel

/-- spec/06_attention.md, recovering from PAGES_ABSENT: cover(0, 15, 24) is the one node (4, 0). -/
theorem test_cover : cover 15 24 64 0 = [(4, 0)] := by decide +kernel

/-- spec/08_text_engine.md, a code point across two reads: a lone first byte is held. -/
theorem test_carry : detokGo 0 4 0 [0x47#8, 0x72#8, 0xC3#8] = ([0x47#8, 0x72#8], [0xC3#8], none) := by decide +kernel

/-- The same example: the second byte completes it. -/
theorem test_carry_joins : (detokGo 0 4 0 [0xC3#8, 0xBC#8, 0x6E#8]).1 = [0xC3#8, 0xBC#8, 0x6E#8] := by decide +kernel

/-- The same example: had the token been "n", U+FFFD stands for the held byte. -/
theorem test_carry_broken : (detokGo 0 4 0 [0xC3#8, 0x6E#8]).1 = [0xEF#8, 0xBF#8, 0xBD#8, 0x6E#8] := by decide +kernel

/-- The connection of Table 11.18, 6 µs after its last decrease. -/
def wRate : Conn := { peerIp := 1, fn := 0, port := 0, rate := 400000, alpha := 12288 }

/-- spec/11_tideway.md, Table 11.18: ALPHA and RATE_MBPS after 4 marked packets of 8. -/
theorem test_rate_cut :
    (ackRate { wTw with postmark := 600000 } wRate { wAck with ceCount := 4, rcvCount := 8 }).alpha = 13568
    ∧ (ackRate { wTw with postmark := 600000 } wRate { wAck with ceCount := 4, rcvCount := 8 }).rate = 358594 := by decide +kernel

/-- Table 11.18: ALPHA after the next ACK with no marks. -/
theorem test_alpha_decays : (ackRate wTw { wRate with alpha := 13568 } { wAck with rcvCount := 8 }).alpha = 12720 := by decide +kernel

/-- The check value of CRC-32C, for the nine digits 1 to 9. -/
theorem test_crc32c : crc32c [0x31#8, 0x32#8, 0x33#8, 0x34#8, 0x35#8, 0x36#8, 0x37#8, 0x38#8, 0x39#8] = 0xE3069283 := by decide +kernel

/-- The first bytes of the published SHA-256 digest of "abc". -/
theorem test_sha256 : (sha256 [0x61#8, 0x62#8, 0x63#8]).take 4 = [0xBA#8, 0x78#8, 0x16#8, 0xBF#8] := by decide +kernel

/-- The first bytes of the published SHA-384 digest of "abc". -/
theorem test_sha384 : (sha384 [0x61#8, 0x62#8, 0x63#8]).take 4 = [0xCB#8, 0x00#8, 0x75#8, 0x3F#8] := by decide +kernel

/-! ## Single steps -/

/-- SELF_TEST_DONE makes the device READY (R678). -/
theorem test_self_test : (match exec (.selfTestDone [] [] 9) wTest with | .next t => t.ready && t.postmark == 9 | _ => false) = true := by decide +kernel

/-- EVENT_EN with a depth of 48 stays clear (R63). -/
theorem test_event_depth : (match exec (.eventEn 0 true) { wDark with fns := [(0, { eventCfg := 48#32 })] } with
    | .next t => (getFn t 0).eventEn | _ => true) = false := by decide +kernel

/-- A write back of the owner's line is read back by its bytes (R454). -/
theorem test_write_back : (match exec (.writeBack 0 0 0 (List.replicate 64 0xA5#8)) wOwned with
    | .next t => cellGet t.win.mem 63 == 0xA5#8 && cellGet t.win.mem 64 == 0#8 | _ => false) = true := by decide +kernel

/-- The step takes the command in front and leaves the rest of the queue. -/
theorem test_queue : (match step { wTest with pending := [.selfTestDone [] [] 9, .powerRemoved] } with
    | .next t => t.ready && decide (t.pending = [.powerRemoved]) | _ => false) = true := by decide +kernel

/-! ## Witnesses: the hypotheses of each statement hold together somewhere -/

theorem witness_AdminQueriesWriteTheirBuffers_identify : Takes wS wH .admin (identifySpec wH)
    ∧ (hostWrite (takeFresh (begun wS wH .admin)).2 wH.fn wH.addr (identifyBytes (takeFresh (begun wS wH .admin)).2 wH.fn wS.fresh)).2 = none := ⟨⟨by decide +kernel, by decide +kernel, by decide +kernel⟩, by decide +kernel⟩
theorem witness_AdminQueriesWriteTheirBuffers_readLog : Takes wS wH .admin (readLogSpec wH 0x10)
    ∧ (hostWrite (if 0x10 = 0x70 then clearTrace (begun wS wH .admin) wH.target else (begun wS wH .admin)) wH.fn wH.addr (logBytes (begun wS wH .admin) wH.fn 0x10 wH.target wH.len)).2 = none := ⟨⟨by decide +kernel, by decide +kernel, by decide +kernel⟩, by decide +kernel⟩
theorem witness_AdminQueriesWriteTheirBuffers_queryUsage : Takes wS wH .admin (queryUsageSpec wH)
    ∧ (hostWrite (begun wS wH .admin) wH.fn wH.addr (usageBytes (begun wS wH .admin) wH.target)).2 = none := ⟨⟨by decide +kernel, by decide +kernel, by decide +kernel⟩, by decide +kernel⟩
theorem witness_AdminQueriesWriteTheirBuffers_readDeadLetters : Takes wS wH .admin (readDeadLettersSpec wH)
    ∧ (hostWrite (begun wS wH .admin) wH.fn wH.addr (deadLetterBytes ((getFn (begun wS wH .admin) wH.fn).deadLetters.take (min (wH.len / 32) (getFn (begun wS wH .admin) wH.fn).deadLetters.length)))).2 = none := ⟨⟨by decide +kernel, by decide +kernel, by decide +kernel⟩, by decide +kernel⟩
theorem witness_AdminQueriesWriteTheirBuffers_queryConfig : Takes wCfg (wHdr 1 0) .admin (queryConfigSpec (wHdr 1 0) 0) := ⟨by decide +kernel, by decide +kernel, by decide +kernel⟩
theorem witness_AdminQueriesWriteTheirBuffers_querySession : Takes (wSt .active) wH .admin (querySessionSpec wH (2 ^ 52))
    ∧ findHandle (wSt .active) (2 ^ 52) = some 6
    ∧ amGet (touch (touched (wSt .active) wH .admin 6) 6 false).sessions 6 = some (wSess .active)
    ∧ (hostWrite (touch (touched (wSt .active) wH .admin 6) 6 false) wH.fn wH.addr (descBytes (touch (touched (wSt .active) wH .admin 6) 6 false) 6 (wSess .active))).2 = none := ⟨⟨by decide +kernel, by decide +kernel, by decide +kernel⟩, by decide +kernel, by decide +kernel, by decide +kernel⟩
theorem witness_AdminQueriesWriteTheirBuffers_queryConnection : Takes wConn (wHdr 0 256) .admin (queryConnectionSpec (wHdr 0 256))
    ∧ getConn wConn (wHdr 0 256).target = some ({ peerIp := 1, fn := 0, port := 0 } : Conn)
    ∧ (hostWrite (begun wConn (wHdr 0 256) .admin) (wHdr 0 256).fn (wHdr 0 256).addr (contextBytes ({ peerIp := 1, fn := 0, port := 0 } : Conn) (if ({ peerIp := 1, fn := 0, port := 0 } : Conn).failed then 2 else 1))).2 = none := ⟨⟨by decide +kernel, by decide +kernel, by decide +kernel⟩, by decide +kernel, by decide +kernel⟩
theorem witness_AdminQueriesWriteTheirBuffers_queryIndex : Takes wIx (wHdr 3 64) .search (queryIndexSpec (wHdr 3 64))
    ∧ indexAt wIx (wHdr 3 64).target = some wIndex
    ∧ (hostWrite (begun wIx (wHdr 3 64) .search) (wHdr 3 64).fn (wHdr 3 64).addr (wIndex.shards.flatMap (fun e => shardRecord e.1 wIndex e.2))).2 = none := ⟨⟨by decide +kernel, by decide +kernel, by decide +kernel⟩, by decide +kernel, by decide +kernel⟩

theorem witness_StepRingCommandsMakeAndUnmakeRings_createStepRing : Takes wS wH .admin (createStepRingSpec wH 0 4096 16 63) := ⟨by decide +kernel, by decide +kernel, by decide +kernel⟩
theorem witness_StepRingCommandsMakeAndUnmakeRings_deleteStepRing : Takes wS (wHdr 0 0) .admin (deleteStepRingSpec (wHdr 0 0)) := ⟨by decide +kernel, by decide +kernel, by decide +kernel⟩

theorem witness_AccountCommandsTakeEffect_createAccount : Takes wS (wHdr 4095 0) .admin (createAccountSpec (wHdr 4095 0) 64) := ⟨by decide +kernel, by decide +kernel, by decide +kernel⟩
theorem witness_AccountCommandsTakeEffect_deleteAccount : Takes wS wH .admin (deleteAccountSpec wH) := ⟨by decide +kernel, by decide +kernel, by decide +kernel⟩
theorem witness_AccountCommandsTakeEffect_setQuota : Takes wS wH .admin (setQuotaSpec wH 0 4096) := ⟨by decide +kernel, by decide +kernel, by decide +kernel⟩
theorem witness_AccountCommandsTakeEffect_setCeiling : Takes wS (wHdr 64 0) .admin (setCeilingSpec (wHdr 64 0) 0 0) := ⟨by decide +kernel, by decide +kernel, by decide +kernel⟩
theorem witness_AccountCommandsTakeEffect_releasePartition : Takes wS (wHdr 64 0) .admin (releasePartitionSpec (wHdr 64 0)) := ⟨by decide +kernel, by decide +kernel, by decide +kernel⟩

theorem witness_ConfigCommandsTakeEffect_publishConfig : Takes wS (wHdr 5 64) .admin (publishConfigSpec (wHdr 5 64) 4 0 0xFFFF (.ok wRole) .plain)
    ∧ (cfgPlain (begun wS (wHdr 5 64) .admin) 4 0xFFFF (bodyBytes (.ok wRole)) .plain).1 = some wRole := ⟨⟨by decide +kernel, by decide +kernel, by decide +kernel⟩, by decide +kernel⟩
theorem witness_ConfigCommandsTakeEffect_retireConfig : Takes wCfg (wHdr 1 0) .admin (retireConfigSpec (wHdr 1 0) 0 1) := ⟨by decide +kernel, by decide +kernel, by decide +kernel⟩

theorem witness_ObjectAndKeyCommandsTakeEffect_loadBundle : Takes wVf (wHv 1 256) .admin (loadBundleSpec (wHv 1 256) 0 1 (.ok (wSealed 0)) (.opened [1#8]) [])
    ∧ 0 = 0
    ∧ resolveRef wVf 3 { num := 1, ver := 0xFFFF } = some { num := 1, ver := 1 }
    ∧ (openSealed wVf (bodyBytes (.ok (wSealed 0))) (wHv 1 256).target 0 (.opened [1#8])).1 = some [1#8]
    ∧ bundleRun wVf [1#8].length = some (0, 6742) := ⟨⟨by decide +kernel, by decide +kernel, by decide +kernel⟩, by decide +kernel, by decide +kernel, by decide +kernel, by decide +kernel⟩
theorem witness_ObjectAndKeyCommandsTakeEffect_loadBundle2 : Takes wVf (wHv 1 384) .admin (loadBundleSpec (wHv 1 384) 1 1 (.ok (wSealed 1)) (.opened wParams) [])
    ∧ 1 = 1
    ∧ resolveRef wVf 3 { num := 1, ver := 0xFFFF } = some { num := 1, ver := 1 }
    ∧ (openSealed wVf (bodyBytes (.ok (wSealed 1))) (wHv 1 384).target 1 (.opened wParams)).1 = some wParams
    ∧ buildIndex (begun wVf (wHv 1 384) .admin) (wHv 1 384).target { num := 1, ver := 1 } wParams (slice wParams 128 (codebookBytes wParams)) (shardOfImg []) = .ok wBuilt := ⟨⟨by decide +kernel, by decide +kernel, by decide +kernel⟩, by decide +kernel, by decide +kernel, by decide +kernel, by decide +kernel⟩
theorem witness_ObjectAndKeyCommandsTakeEffect_dropBundle : Takes wVix (wHv 4 0) .admin (dropBundleSpec (wHv 4 0))
    ∧ amGet wVix.bundles (wHv 4 0).target = some ({ account := 1, classRef := { num := 1, ver := 1 }, body := [1#8], tier := 0, run := none }) := ⟨⟨by decide +kernel, by decide +kernel, by decide +kernel⟩, by decide +kernel⟩
theorem witness_ObjectAndKeyCommandsTakeEffect_placeObject : Takes wVix (wHv 4 0) .admin (placeObjectSpec (wHv 4 0) 1)
    ∧ objView wVix (wHv 4 0).target = some { account := 1, bytes := 1, sizes := [1], tier := 0, frames := 1, index := false }
    ∧ resolveRef wVix 3 { num := 1, ver := 0xFFFF } = some { num := 1, ver := 1 }
    ∧ (objMove wVix { account := 1, bytes := 1, sizes := [1], tier := 0, frames := 1, index := false } (cfgBody wVix 3 { num := 1, ver := 1 })).1 = none := ⟨⟨by decide +kernel, by decide +kernel, by decide +kernel⟩, rfl, by decide +kernel, by decide +kernel⟩
theorem witness_ObjectAndKeyCommandsTakeEffect_placeObject2 : Takes (wVlow 1) (wHv 4 0) .admin (placeObjectSpec (wHv 4 0) 2)
    ∧ objView (wVlow 1) (wHv 4 0).target = some { account := 1, bytes := 1, sizes := [1], tier := 1, frames := 1, index := false }
    ∧ resolveRef (wVlow 1) 3 { num := 2, ver := 0xFFFF } = some { num := 2, ver := 1 }
    ∧ (objMove (wVlow 1) { account := 1, bytes := 1, sizes := [1], tier := 1, frames := 1, index := false } (cfgBody (wVlow 1) 3 { num := 2, ver := 1 })).1 = some 0
    ∧ amGet (reclassed (begun (wVlow 1) (wHv 4 0) .admin) (wHv 4 0).target { account := 1, bytes := 1, sizes := [1], tier := 1, frames := 1, index := false } { num := 2, ver := 1 }).bundles (wHv 4 0).target = some ({ account := 1, classRef := { num := 2, ver := 1 }, body := [1#8], tier := 1, run := none }) := ⟨⟨by decide +kernel, by decide +kernel, by decide +kernel⟩, rfl, by decide +kernel, by decide +kernel, by decide +kernel⟩
theorem witness_ObjectAndKeyCommandsTakeEffect_placeObject3 : Takes (wVlow 3) (wHv 4 0) .admin (placeObjectSpec (wHv 4 0) 1)
    ∧ objView (wVlow 3) (wHv 4 0).target = some { account := 1, bytes := 1, sizes := [1], tier := 3, frames := 1, index := false }
    ∧ resolveRef (wVlow 3) 3 { num := 1, ver := 0xFFFF } = some { num := 1, ver := 1 }
    ∧ (objMove (wVlow 3) { account := 1, bytes := 1, sizes := [1], tier := 3, frames := 1, index := false } (cfgBody (wVlow 3) 3 { num := 1, ver := 1 })).1 = some (1 + 1)
    ∧ amGet (reclassed (begun (wVlow 3) (wHv 4 0) .admin) (wHv 4 0).target { account := 1, bytes := 1, sizes := [1], tier := 3, frames := 1, index := false } { num := 1, ver := 1 }).bundles (wHv 4 0).target = some ({ account := 1, classRef := { num := 1, ver := 1 }, body := [1#8], tier := 3, run := none }) := ⟨⟨by decide +kernel, by decide +kernel, by decide +kernel⟩, rfl, by decide +kernel, by decide +kernel, by decide +kernel⟩
theorem witness_ObjectAndKeyCommandsTakeEffect_placeObject4 : Takes wVixLow (wHv 3 0) .admin (placeObjectSpec (wHv 3 0) 2)
    ∧ objView wVixLow (wHv 3 0).target = some { account := 1, bytes := 65536, sizes := [65536], tier := 2, frames := 1, index := true }
    ∧ resolveRef wVixLow 3 { num := 2, ver := 0xFFFF } = some { num := 2, ver := 1 }
    ∧ (objMove wVixLow { account := 1, bytes := 65536, sizes := [65536], tier := 2, frames := 1, index := true } (cfgBody wVixLow 3 { num := 2, ver := 1 })).1 = some 0
    ∧ amGet (reclassed (begun wVixLow (wHv 3 0) .admin) (wHv 3 0).target { account := 1, bytes := 65536, sizes := [65536], tier := 2, frames := 1, index := true } { num := 2, ver := 1 }).bundles (wHv 3 0).target = none
    ∧ amGet (reclassed (begun wVixLow (wHv 3 0) .admin) (wHv 3 0).target { account := 1, bytes := 65536, sizes := [65536], tier := 2, frames := 1, index := true } { num := 2, ver := 1 }).indexes (wHv 3 0).target = some { wIndex with params := wParams, classRef := { num := 2, ver := 1 }, vecTier := 2 }
    ∧ raiseVectors (reclassed (begun wVixLow (wHv 3 0) .admin) (wHv 3 0).target { account := 1, bytes := 65536, sizes := [65536], tier := 2, frames := 1, index := true } { num := 2, ver := 1 }) (wHv 3 0).target { wIndex with params := wParams, classRef := { num := 2, ver := 1 }, vecTier := 2 } = some wRaised := ⟨⟨by decide +kernel, by decide +kernel, by decide +kernel⟩, rfl, by decide +kernel, by decide +kernel, by decide +kernel, by decide +kernel, by decide +kernel⟩
theorem witness_ObjectAndKeyCommandsTakeEffect_placeObject5 : Takes (wVlow 3) (wHv 3 0) .admin (placeObjectSpec (wHv 3 0) 1)
    ∧ objView (wVlow 3) (wHv 3 0).target = some { account := 1, bytes := 65536, sizes := [65536], tier := 0, frames := 1, index := true }
    ∧ resolveRef (wVlow 3) 3 { num := 1, ver := 0xFFFF } = some { num := 1, ver := 1 }
    ∧ (objMove (wVlow 3) { account := 1, bytes := 65536, sizes := [65536], tier := 0, frames := 1, index := true } (cfgBody (wVlow 3) 3 { num := 1, ver := 1 })).1 = some (1 + 1)
    ∧ amGet (reclassed (begun (wVlow 3) (wHv 3 0) .admin) (wHv 3 0).target { account := 1, bytes := 65536, sizes := [65536], tier := 0, frames := 1, index := true } { num := 1, ver := 1 }).bundles (wHv 3 0).target = none
    ∧ amGet (reclassed (begun (wVlow 3) (wHv 3 0) .admin) (wHv 3 0).target { account := 1, bytes := 65536, sizes := [65536], tier := 0, frames := 1, index := true } { num := 1, ver := 1 }).indexes (wHv 3 0).target = some { wIndex with params := wParams, classRef := { num := 1, ver := 1 }, vecTier := 0 } := ⟨⟨by decide +kernel, by decide +kernel, by decide +kernel⟩, rfl, by decide +kernel, by decide +kernel, by decide +kernel, by decide +kernel⟩
theorem witness_ObjectAndKeyCommandsTakeEffect_registerAs : Takes wVf (wHv 0 0) .admin (registerAsSpec (wHv 0 0) 0 1 3) := ⟨by decide +kernel, by decide +kernel, by decide +kernel⟩
theorem witness_ObjectAndKeyCommandsTakeEffect_deregisterAs : Takes wKey (wHdr 9 0) .admin (deregisterAsSpec (wHdr 9 0)) := ⟨by decide +kernel, by decide +kernel, by decide +kernel⟩

theorem witness_IndexAdminCommandsTakeEffect_createIndex : Takes wVf (wHv 1 128) .admin (createIndexSpec (wHv 1 128) 1 (.ok wParams))
    ∧ resolveRef wVf 3 { num := 1, ver := 0xFFFF } = some { num := 1, ver := 1 }
    ∧ buildIndex (begun wVf (wHv 1 128) .admin) (wHv 1 128).target { num := 1, ver := 1 } (bodyBytes (.ok wParams)) ((bodyBytes (.ok wParams)).drop 128) (fun _ => { region := 0 }) = .ok (wMade (begun wVf (wHv 1 128) .admin)) := ⟨⟨by decide +kernel, by decide +kernel, by decide +kernel⟩, by decide +kernel, by decide +kernel⟩
theorem witness_IndexAdminCommandsTakeEffect_compactIndex : Takes wVix (wHv 3 0) .admin (compactIndexSpec (wHv 3 0)) := ⟨by decide +kernel, by decide +kernel, by decide +kernel⟩
theorem witness_IndexAdminCommandsTakeEffect_deleteIndex : Takes wVix (wHv 3 0) .admin (deleteIndexSpec (wHv 3 0)) := ⟨by decide +kernel, by decide +kernel, by decide +kernel⟩
theorem witness_IndexAdminCommandsTakeEffect_mapShards : Takes wVix (wHv 3 2048) .search (mapShardsSpec (wHv 3 2048) (.ok (List.replicate 2048 0#8)))
    ∧ indexAt wVix (wHv 3 2048).target = some { wIndex with params := wParams } := ⟨⟨by decide +kernel, by decide +kernel, by decide +kernel⟩, by decide +kernel⟩

theorem witness_SearchRingCommandsStart_search : Takes wVix (wHv 3 192) .search (searchSpec (wHv 3 192) wFind (.ok (List.replicate 192 0#8)))
    ∧ indexAt wVix (wHv 3 192).target = some { wIndex with params := wParams } := ⟨⟨by decide +kernel, by decide +kernel, by decide +kernel⟩, by decide +kernel⟩
theorem witness_SearchRingCommandsStart_insert : Takes wVix (wHv 3 192) .search (insertSpec (wHv 3 192) 0 1 (.ok (List.replicate 20 0xFF#8 ++ List.replicate 172 0#8)))
    ∧ indexAt wVix (wHv 3 192).target = some { wIndex with params := wParams } := ⟨⟨by decide +kernel, by decide +kernel, by decide +kernel⟩, by decide +kernel⟩
theorem witness_SearchRingCommandsStart_deleteNode : Takes wVix (wHv 3 0) .search (deleteNodeSpec (wHv 3 0) 0 0 0) := ⟨by decide +kernel, by decide +kernel, by decide +kernel⟩

theorem witness_SessionCommandsTakeEffect_createSession : Takes wVf (wHv 0 0) .admin (createSessionSpec (wHv 0 0) (2 ^ 52) 0x1FFFF 0x1FFFF 0 1)
    ∧ newIndex (begun wVf (wHv 0 0) .admin) = some 0
    ∧ resolveRef wVf 0 (refOf 0x1FFFF) = some { num := 1, ver := 1 }
    ∧ resolveRef wVf 3 { num := 1, ver := 0xFFFF } = some { num := 1, ver := 1 } := ⟨⟨by decide +kernel, by decide +kernel, by decide +kernel⟩, by decide +kernel, by decide +kernel, by decide +kernel⟩
theorem witness_SessionCommandsTakeEffect_closeSession : Takes (wSt .new) wH .admin (closeSessionSpec wH (2 ^ 52))
    ∧ findHandle (wSt .new) (2 ^ 52) = some 6 := ⟨⟨by decide +kernel, by decide +kernel, by decide +kernel⟩, by decide +kernel⟩
theorem witness_SessionCommandsTakeEffect_setWaiting : Takes (wSt .active) wH .admin (setWaitingSpec wH (2 ^ 52) 5)
    ∧ findHandle (wSt .active) (2 ^ 52) = some 6
    ∧ amGet (upd (touched (wSt .active) wH .admin 6) 6 (fun y => { y with waitHint := 5 != 0, expectedMs := 5 })).sessions 6 = some (wAfter (upd (touched (wSt .active) wH .admin 6) 6 (fun y => { y with waitHint := (5 : Nat) != 0, expectedMs := 5 })))
    ∧ (wAfter (upd (touched (wSt .active) wH .admin 6) 6 (fun y => { y with waitHint := (5 : Nat) != 0, expectedMs := 5 }))).state = .active := ⟨⟨by decide +kernel, by decide +kernel, by decide +kernel⟩, by decide +kernel, by decide +kernel, by decide +kernel⟩
theorem witness_SessionCommandsTakeEffect_setWaiting2 : Takes (wSt .idle) wH .admin (setWaitingSpec wH (2 ^ 52) 5)
    ∧ findHandle (wSt .idle) (2 ^ 52) = some 6
    ∧ amGet (upd (touched (wSt .idle) wH .admin 6) 6 (fun y => { y with waitHint := 5 != 0, expectedMs := 5 })).sessions 6 = some (wAfter (upd (touched (wSt .idle) wH .admin 6) 6 (fun y => { y with waitHint := (5 : Nat) != 0, expectedMs := 5 })))
    ∧ (wAfter (upd (touched (wSt .idle) wH .admin 6) 6 (fun y => { y with waitHint := (5 : Nat) != 0, expectedMs := 5 }))).state = .idle := ⟨⟨by decide +kernel, by decide +kernel, by decide +kernel⟩, by decide +kernel, by decide +kernel, by decide +kernel⟩
theorem witness_SessionCommandsTakeEffect_parkNow : Takes (wSt .idle) wH .admin (parkNowSpec wH (2 ^ 52))
    ∧ findHandle (wSt .idle) (2 ^ 52) = some 6
    ∧ sessTest (putOp (touched (wSt .idle) wH .admin 6) (freeTag (wSt .idle)) { ringOp (touched (wSt .idle) wH .admin 6) wH .admin (.waiting (.parked 6)) with account := some (handleAccount (2 ^ 52)) }) (2 ^ 52) (fun x => x.state == .idle) = true := ⟨⟨by decide +kernel, by decide +kernel, by decide +kernel⟩, by decide +kernel, by decide +kernel⟩
theorem witness_SessionCommandsTakeEffect_parkNow2 : Takes (wSt .ebbing) wH .admin (parkNowSpec wH (2 ^ 52))
    ∧ findHandle (wSt .ebbing) (2 ^ 52) = some 6
    ∧ sessTest (putOp (touched (wSt .ebbing) wH .admin 6) (freeTag (wSt .ebbing)) { ringOp (touched (wSt .ebbing) wH .admin 6) wH .admin (.waiting (.parked 6)) with account := some (handleAccount (2 ^ 52)) }) (2 ^ 52) (fun x => x.state == .idle) = false := ⟨⟨by decide +kernel, by decide +kernel, by decide +kernel⟩, by decide +kernel, by decide +kernel⟩
theorem witness_SessionCommandsTakeEffect_floodNow : Takes (wSt .ebbing) wH .admin (floodNowSpec wH (2 ^ 52))
    ∧ findHandle (wSt .ebbing) (2 ^ 52) = some 6
    ∧ amGet (touched (wSt .ebbing) wH .admin 6).sessions 6 = some (wSess .ebbing)
    ∧ (wSess .ebbing).state = .ebbing := ⟨⟨by decide +kernel, by decide +kernel, by decide +kernel⟩, by decide +kernel, by decide +kernel, by decide +kernel⟩
theorem witness_SessionCommandsTakeEffect_floodNow2 : Takes (wSt .parked) wH .admin (floodNowSpec wH (2 ^ 52))
    ∧ findHandle (wSt .parked) (2 ^ 52) = some 6
    ∧ amGet (touched (wSt .parked) wH .admin 6).sessions 6 = some (wSess .parked)
    ∧ (wSess .parked).state = .parked := ⟨⟨by decide +kernel, by decide +kernel, by decide +kernel⟩, by decide +kernel, by decide +kernel, by decide +kernel⟩
theorem witness_SessionCommandsTakeEffect_floodNow3 : Takes (wSt .flooding) wH .admin (floodNowSpec wH (2 ^ 52))
    ∧ findHandle (wSt .flooding) (2 ^ 52) = some 6
    ∧ amGet (touched (wSt .flooding) wH .admin 6).sessions 6 = some (wSess .flooding)
    ∧ (wSess .flooding).state = .flooding := ⟨⟨by decide +kernel, by decide +kernel, by decide +kernel⟩, by decide +kernel, by decide +kernel, by decide +kernel⟩
theorem witness_SessionCommandsTakeEffect_floodNow4 : Takes (wSt .idle) wH .admin (floodNowSpec wH (2 ^ 52))
    ∧ findHandle (wSt .idle) (2 ^ 52) = some 6
    ∧ amGet (touched (wSt .idle) wH .admin 6).sessions 6 = some (wSess .idle)
    ∧ ((wSess .idle).state = .new ∨ (wSess .idle).state = .active ∨ (wSess .idle).state = .idle)
    ∧ allHbm (wSess .idle) = true := ⟨⟨by decide +kernel, by decide +kernel, by decide +kernel⟩, by decide +kernel, by decide +kernel, by decide +kernel, by decide +kernel⟩
theorem witness_SessionCommandsTakeEffect_floodNow5 : Takes (wFar .active 2) wH .admin (floodNowSpec wH (2 ^ 52))
    ∧ findHandle (wFar .active 2) (2 ^ 52) = some 6
    ∧ amGet (touched (wFar .active 2) wH .admin 6).sessions 6 = some (wFarSess .active 2)
    ∧ ((wFarSess .active 2).state = .new ∨ (wFarSess .active 2).state = .active ∨ (wFarSess .active 2).state = .idle)
    ∧ allHbm (wFarSess .active 2) = false := ⟨⟨by decide +kernel, by decide +kernel, by decide +kernel⟩, by decide +kernel, by decide +kernel, by decide +kernel, by decide +kernel⟩

theorem witness_SessionClassMoveAndRestore_setSessionClass : Takes (wSt .idle) wH .admin (setSessionClassSpec wH (2 ^ 52) 1)
    ∧ findHandle (wSt .idle) (2 ^ 52) = some 6
    ∧ resolveRef (wSt .idle) 3 { num := 1, ver := 0xFFFF } = some { num := 1, ver := 1 }
    ∧ amGet (touched (wSt .idle) wH .admin 6).sessions 6 = some (wSess .idle)
    ∧ (strayCopies (wSess .idle) (cfgBody (touched (wSt .idle) wH .admin 6) 3 { num := 1, ver := 1 })).isEmpty = true := ⟨⟨by decide +kernel, by decide +kernel, by decide +kernel⟩, by decide +kernel, by decide +kernel, by decide +kernel, by decide +kernel⟩
theorem witness_SessionClassMoveAndRestore_setSessionClass2 : Takes (wFarRich 2) (wHv 0 0) .admin (setSessionClassSpec (wHv 0 0) (2 ^ 52) 2)
    ∧ findHandle (wFarRich 2) (2 ^ 52) = some 6
    ∧ resolveRef (wFarRich 2) 3 { num := 2, ver := 0xFFFF } = some { num := 2, ver := 1 }
    ∧ amGet (touched (wFarRich 2) (wHv 0 0) .admin 6).sessions 6 = some (wFarSess .parked 2)
    ∧ (strayCopies (wFarSess .parked 2) (cfgBody (touched (wFarRich 2) (wHv 0 0) .admin 6) 3 { num := 2, ver := 1 })).isEmpty = false
    ∧ clTierPref (cfgBody (touched (wFarRich 2) (wHv 0 0) .admin 6) 3 { num := 2, ver := 1 }) 0 = 0 := ⟨⟨by decide +kernel, by decide +kernel, by decide +kernel⟩, by decide +kernel, by decide +kernel, by decide +kernel, by decide +kernel, by decide +kernel⟩
theorem witness_SessionClassMoveAndRestore_setSessionClass3 : Takes (wFarRich 3) (wHv 0 0) .admin (setSessionClassSpec (wHv 0 0) (2 ^ 52) 1)
    ∧ findHandle (wFarRich 3) (2 ^ 52) = some 6
    ∧ resolveRef (wFarRich 3) 3 { num := 1, ver := 0xFFFF } = some { num := 1, ver := 1 }
    ∧ amGet (touched (wFarRich 3) (wHv 0 0) .admin 6).sessions 6 = some (wFarSess .parked 3)
    ∧ (strayCopies (wFarSess .parked 3) (cfgBody (touched (wFarRich 3) (wHv 0 0) .admin 6) 3 { num := 1, ver := 1 })).isEmpty = false
    ∧ clTierPref (cfgBody (touched (wFarRich 3) (wHv 0 0) .admin 6) 3 { num := 1, ver := 1 }) 0 ≠ 0
    ∧ (moveTier (touched (wFarRich 3) (wHv 0 0) .admin 6) (handleAccount (2 ^ 52)) (cfgBody (touched (wFarRich 3) (wHv 0 0) .admin 6) 3 { num := 1, ver := 1 }) (strayBytes (touched (wFarRich 3) (wHv 0 0) .admin 6) (wFarSess .parked 3) (strayCopies (wFarSess .parked 3) (cfgBody (touched (wFarRich 3) (wHv 0 0) .admin 6) 3 { num := 1, ver := 1 }))) (straySizes (touched (wFarRich 3) (wHv 0 0) .admin 6) (wFarSess .parked 3) (strayCopies (wFarSess .parked 3) (cfgBody (touched (wFarRich 3) (wHv 0 0) .admin 6) 3 { num := 1, ver := 1 })))).1 = some 2 := ⟨⟨by decide +kernel, by decide +kernel, by decide +kernel⟩, by decide +kernel, by decide +kernel, by decide +kernel, by decide +kernel, by decide +kernel, by decide +kernel⟩
theorem witness_SessionClassMoveAndRestore_migrateSession : Takes wMove (wHdr 0 0) .admin (migrateSessionSpec (wHdr 0 0) (2 ^ 52) 5)
    ∧ findHandle wMove (2 ^ 52) = some 6
    ∧ connTo wMove 5 = some 0
    ∧ amGet (handingOver (putOp (begun wMove (wHdr 0 0) .admin) (freeTag wMove) { ringOp (begun wMove (wHdr 0 0) .admin) (wHdr 0 0) .admin (.waiting (.handover 6)) with account := some (handleAccount (2 ^ 52)) }) 6 5 0 (freeTag wMove)).sessions 6 = some ({ wSess .active with state := .migrating, prior := .active, migrateTarget := 5, ckptDirty := true } : Session) := ⟨⟨by decide +kernel, by decide +kernel, by decide +kernel⟩, by decide +kernel, by decide +kernel, by decide +kernel⟩
theorem witness_SessionClassMoveAndRestore_restoreSession : Takes (wLost [(1, .session 6 2)]) wH .admin (restoreSessionSpec wH (2 ^ 52))
    ∧ findHandle (wLost [(1, .session 6 2)]) (2 ^ 52) = some 6
    ∧ restoring (wLost [(1, .session 6 2)]) 6 = true := ⟨⟨by decide +kernel, by decide +kernel, by decide +kernel⟩, by decide +kernel, by decide +kernel⟩
theorem witness_SessionClassMoveAndRestore_restoreSession2 : Takes (wLost []) wH .admin (restoreSessionSpec wH (2 ^ 52))
    ∧ findHandle (wLost []) (2 ^ 52) = some 6
    ∧ restoring (wLost []) 6 = false := ⟨⟨by decide +kernel, by decide +kernel, by decide +kernel⟩, by decide +kernel, by decide +kernel⟩

theorem witness_WindowAdminCommandsTakeEffect_addExtent : Takes wWin (wHdr 0 0) .admin (addExtentSpec (wHdr 0 0) 0 0) := ⟨by decide +kernel, by decide +kernel, by decide +kernel⟩
theorem witness_WindowAdminCommandsTakeEffect_releaseExtent : Takes wHeld2 (wHdr 0 0) .admin (releaseExtentSpec (wHdr 0 0) 0 16)
    ∧ releaseRuns wHeld2 (wHdr 0 0).target 0 16 = true := ⟨⟨by decide +kernel, by decide +kernel, by decide +kernel⟩, by decide +kernel⟩
theorem witness_WindowAdminCommandsTakeEffect_releaseExtent2 : Takes wHeld (wHdr 0 0) .admin (releaseExtentSpec (wHdr 0 0) 0 16)
    ∧ releaseRuns wHeld (wHdr 0 0).target 0 16 = false
    ∧ (getExt wHeld (extKey (wHdr 0 0).target 0)).hosts.contains 16 = true := ⟨⟨by decide +kernel, by decide +kernel, by decide +kernel⟩, by decide +kernel, by decide +kernel⟩
theorem witness_WindowAdminCommandsTakeEffect_releaseExtent3 : Takes wWin (wHdr 7 0) .admin (releaseExtentSpec (wHdr 7 0) 1023 16)
    ∧ releaseRuns wWin (wHdr 7 0).target 1023 16 = false
    ∧ (getExt wWin (extKey (wHdr 7 0).target 1023)).hosts.contains 16 = false := ⟨⟨by decide +kernel, by decide +kernel, by decide +kernel⟩, by decide +kernel, by decide +kernel⟩
theorem witness_WindowAdminCommandsTakeEffect_hostLost : Takes wWin (wHdr 0 0) .admin (hostLostSpec (wHdr 0 0) 15) := ⟨by decide +kernel, by decide +kernel, by decide +kernel⟩
theorem witness_WindowAdminCommandsTakeEffect_acceptLoss : Takes wWin (wHdr 0 0) .admin (acceptLossSpec (wHdr 0 0) 0 64) := ⟨by decide +kernel, by decide +kernel, by decide +kernel⟩

theorem witness_TidewayAdminCommandsTakeEffect_setChart : Takes wS (wHdr 0 16) .admin (setChartSpec (wHdr 0 16) 1 (.ok (List.replicate 16 0#8))) := ⟨by decide +kernel, by decide +kernel, by decide +kernel⟩
theorem witness_TidewayAdminCommandsTakeEffect_openConnection : Takes wPort (wHdr 0 0) .admin (openConnectionSpec (wHdr 0 0) 1 1 4791 0xFFFFFFFF 5 15 1 8 63)
    ∧ newConn (begun wPort (wHdr 0 0) .admin) 15 (bit 8 3) = some 524288 := ⟨⟨by decide +kernel, by decide +kernel, by decide +kernel⟩, by decide +kernel⟩
theorem witness_TidewayAdminCommandsTakeEffect_closeConnection : Takes wConn (wHdr 0 0) .admin (closeConnectionSpec (wHdr 0 0)) := ⟨by decide +kernel, by decide +kernel, by decide +kernel⟩

theorem witness_RoleAndPairCommandsTakeEffect_setRole : Takes (wSt .idle) (wHdr 0 0) .admin (setRoleSpec (wHdr 0 0) 3 0x10001)
    ∧ resolveRef (wSt .idle) 4 (refOf 0x10001) = some { num := 1, ver := 1 }
    ∧ roleHolds (wSt .idle) 3 = true := ⟨⟨by decide +kernel, by decide +kernel, by decide +kernel⟩, by decide +kernel, by decide +kernel⟩
theorem witness_RoleAndPairCommandsTakeEffect_setRole2 : Takes wCfg (wHdr 0 0) .admin (setRoleSpec (wHdr 0 0) 0 0x10001)
    ∧ resolveRef wCfg 4 (refOf 0x10001) = some { num := 1, ver := 1 }
    ∧ roleHolds wCfg 0 = false := ⟨⟨by decide +kernel, by decide +kernel, by decide +kernel⟩, by decide +kernel, by decide +kernel⟩
theorem witness_RoleAndPairCommandsTakeEffect_pairBind : Takes (wLost []) (wHdr 0 0) .admin (pairBindSpec (wHdr 0 0) 5 50)
    ∧ bound (wLost []) = true := ⟨⟨by decide +kernel, by decide +kernel, by decide +kernel⟩, by decide +kernel⟩
theorem witness_RoleAndPairCommandsTakeEffect_pairBind2 : Takes wDevs (wHdr 0 0) .admin (pairBindSpec (wHdr 0 0) 5 0)
    ∧ bound wDevs = false := ⟨⟨by decide +kernel, by decide +kernel, by decide +kernel⟩, by decide +kernel⟩
theorem witness_RoleAndPairCommandsTakeEffect_setCheckpoint : Takes wS (wHdr 0 0) .admin (setCheckpointSpec (wHdr 0 0) 10000 4096) := ⟨by decide +kernel, by decide +kernel, by decide +kernel⟩
theorem witness_RoleAndPairCommandsTakeEffect_pairUnbind : Takes wS (wHdr 0 0) .admin (pairUnbindSpec (wHdr 0 0)) := ⟨by decide +kernel, by decide +kernel, by decide +kernel⟩
theorem witness_RoleAndPairCommandsTakeEffect_restoreDevice : Takes wS (wHdr 0 0) .admin (restoreDeviceSpec (wHdr 0 0) 5 6) := ⟨by decide +kernel, by decide +kernel, by decide +kernel⟩
theorem witness_RoleAndPairCommandsTakeEffect_succession : Takes wS (wHdr 0 0) .admin (successionSpec (wHdr 0 0) 5 6) := ⟨by decide +kernel, by decide +kernel, by decide +kernel⟩
theorem witness_RoleAndPairCommandsTakeEffect_releaseFrozen : Takes wS (wHdr 0 0) .admin (releaseFrozenSpec (wHdr 0 0) 5) := ⟨by decide +kernel, by decide +kernel, by decide +kernel⟩

theorem witness_SecurityAdminCommandsTakeEffect_setConsent : Takes wTok (wHv 1 192) .admin (setConsentSpec (wHv 1 192) (.ok wToken) true) := ⟨by decide +kernel, by decide +kernel, by decide +kernel⟩
theorem witness_SecurityAdminCommandsTakeEffect_withdrawConsent : Takes wTok (wHv 1 0) .admin (withdrawConsentSpec (wHv 1 0)) := ⟨by decide +kernel, by decide +kernel, by decide +kernel⟩
theorem witness_SecurityAdminCommandsTakeEffect_setConsentKey : Takes wTok (wHv 1 192) .admin (setConsentKeySpec (wHv 1 192) (.ok (List.replicate 192 0#8)) true) := ⟨by decide +kernel, by decide +kernel, by decide +kernel⟩
theorem witness_SecurityAdminCommandsTakeEffect_setDeviceSet : Takes wS (wHdr 0 104) .admin (setDeviceSetSpec (wHdr 0 104) (.ok (List.replicate 104 0#8))) := ⟨by decide +kernel, by decide +kernel, by decide +kernel⟩
theorem witness_SecurityAdminCommandsTakeEffect_fwDownload : Takes wS (wHdr 0 4) .admin (fwDownloadSpec (wHdr 0 4) 32505340 (.ok [1#8, 2#8, 3#8, 4#8])) := ⟨by decide +kernel, by decide +kernel, by decide +kernel⟩
theorem witness_SecurityAdminCommandsTakeEffect_fwActivate : Takes wS (wHdr 0 0) .admin (fwActivateSpec (wHdr 0 0) 1 { signed := true, svn := 0, version := 0 }) := ⟨by decide +kernel, by decide +kernel, by decide +kernel⟩
theorem witness_SecurityAdminCommandsTakeEffect_fwCommit : Takes wTrial (wHdr 0 0) .admin (fwCommitSpec (wHdr 0 0)) := ⟨by decide +kernel, by decide +kernel, by decide +kernel⟩

theorem witness_HarbourmasterCommandsTakeEffect_hmAssign : Takes wS (wHdr 0 0) .admin (hmAssignSpec (wHdr 0 0) 65535 0)
    ∧ 0 = wS.hm.memFrames := ⟨⟨by decide +kernel, by decide +kernel, by decide +kernel⟩, by decide +kernel⟩
theorem witness_HarbourmasterCommandsTakeEffect_hmAssign2 : Takes wS (wHdr 0 0) .admin (hmAssignSpec (wHdr 0 0) 0 16)
    ∧ 16 ≠ wS.hm.memFrames
    ∧ hmTake (hmFree (begun wS (wHdr 0 0) .admin)) 16 = some wHm := ⟨⟨by decide +kernel, by decide +kernel, by decide +kernel⟩, by decide +kernel, by decide +kernel⟩
theorem witness_HarbourmasterCommandsTakeEffect_hmLoad : Takes wMem (wHdr 0 4) .admin (hmLoadSpec (wHdr 0 4) 65532 (.ok [1#8, 2#8, 3#8, 4#8])) := ⟨by decide +kernel, by decide +kernel, by decide +kernel⟩
theorem witness_HarbourmasterCommandsTakeEffect_hmStart : Takes wMem (wHdr 0 0) .admin (hmStartSpec (wHdr 0 0) 1 0x8000FFFF) := ⟨by decide +kernel, by decide +kernel, by decide +kernel⟩
theorem witness_HarbourmasterCommandsTakeEffect_hmStop : Takes wS (wHdr 0 0) .admin (hmStopSpec (wHdr 0 0) 65535) := ⟨by decide +kernel, by decide +kernel, by decide +kernel⟩

theorem witness_MediaAdminCommandsTakeEffect_mediaFormat : Takes wS (wHdr 0 64) .admin (mediaFormatSpec (wHdr 0 64) 3650 (ProfileRead.ok wFlash) [])
    ∧ (ProfileRead.ok wFlash) = .ok wFlash := ⟨⟨by decide +kernel, by decide +kernel, by decide +kernel⟩, by decide +kernel⟩
theorem witness_MediaAdminCommandsTakeEffect_mediaAttach : Takes wS (wHdr 0 64) .admin (mediaAttachSpec (wHdr 0 64) 3650 (ProfileRead.ok wFlash) [])
    ∧ (ProfileRead.ok wFlash) = .ok wFlash := ⟨⟨by decide +kernel, by decide +kernel, by decide +kernel⟩, by decide +kernel⟩
theorem witness_MediaAdminCommandsTakeEffect_mediaReclaim : Takes { wS with media := { state := 3 } } (wHdr 0 0) .admin (mediaReclaimSpec (wHdr 0 0)) := ⟨by decide +kernel, by decide +kernel, by decide +kernel⟩
theorem witness_MediaAdminCommandsTakeEffect_setWallClock : Takes wS (wHdr 0 0) .admin (setWallClockSpec (wHdr 0 0) 1) := ⟨by decide +kernel, by decide +kernel, by decide +kernel⟩

theorem witness_StreamCommandsTakeEffect_openStream : Takes wVf (wHv 1 0) .text (openStreamSpec (wHv 1 0) 1 3 0x10001)
    ∧ resolveRef wVf 1 (refOf 0x10001) = some { num := 1, ver := 1 } := ⟨⟨by decide +kernel, by decide +kernel, by decide +kernel⟩, by decide +kernel⟩
theorem witness_StreamCommandsTakeEffect_tokenize : Takes wStr (wHv 0 1) .text (tokenizeSpec (wHv 0 1) 0 8192 1 (.ok []))
    ∧ streamAt wStr (wHv 0 1) = some (wStream false)
    ∧ (hostWrite (begun wStr (wHv 0 1) .text) (wHv 0 1).fn 0 ((tokOut (cfgBody wStr 1 (wStream false).vocab) (wStream false) (1 == 1) (bodyBytes (.ok [])) 8192).toks.flatMap (leBytes 4))).2 = none
    ∧ (tokOut (cfgBody wStr 1 (wStream false).vocab) (wStream false) (1 == 1) (bodyBytes (.ok [])) 8192).fail = none := ⟨⟨by decide +kernel, by decide +kernel, by decide +kernel⟩, by decide +kernel, by decide +kernel, by decide +kernel⟩
theorem witness_StreamCommandsTakeEffect_detokenize : Takes wStr (wHv 1 0) .text (detokenizeSpec (wHv 1 0) 0 1024 1 (.ok []))
    ∧ streamAt wStr (wHv 1 0) = some (wStream true)
    ∧ ((hostWrite (begun wStr (wHv 1 0) .text) (wHv 1 0).fn 0 ((if 1 = 1 ∧ (detokRun (cfgBody wStr 1 (wStream true).vocab) (bit (wStream true).flags 1) 1024 (idsOf (bodyBytes (.ok []))) { carry := (wStream true).raw, joined := (wStream true).count }).used = (idsOf (bodyBytes (.ok []))).length then detokEnd (cfgBody wStr 1 (wStream true).vocab) 1024 (detokRun (cfgBody wStr 1 (wStream true).vocab) (bit (wStream true).flags 1) 1024 (idsOf (bodyBytes (.ok []))) { carry := (wStream true).raw, joined := (wStream true).count }) else (detokRun (cfgBody wStr 1 (wStream true).vocab) (bit (wStream true).flags 1) 1024 (idsOf (bodyBytes (.ok []))) { carry := (wStream true).raw, joined := (wStream true).count })).text)).2 = none)
    ∧ ((if 1 = 1 ∧ (detokRun (cfgBody wStr 1 (wStream true).vocab) (bit (wStream true).flags 1) 1024 (idsOf (bodyBytes (.ok []))) { carry := (wStream true).raw, joined := (wStream true).count }).used = (idsOf (bodyBytes (.ok []))).length then detokEnd (cfgBody wStr 1 (wStream true).vocab) 1024 (detokRun (cfgBody wStr 1 (wStream true).vocab) (bit (wStream true).flags 1) 1024 (idsOf (bodyBytes (.ok []))) { carry := (wStream true).raw, joined := (wStream true).count }) else (detokRun (cfgBody wStr 1 (wStream true).vocab) (bit (wStream true).flags 1) 1024 (idsOf (bodyBytes (.ok []))) { carry := (wStream true).raw, joined := (wStream true).count })).fail = none) := ⟨⟨by decide +kernel, by decide +kernel, by decide +kernel⟩, by decide +kernel, by decide +kernel, by decide +kernel⟩
theorem witness_StreamCommandsTakeEffect_closeStream : Takes wStr (wHv 1 0) .text (closeStreamSpec (wHv 1 0)) := ⟨by decide +kernel, by decide +kernel, by decide +kernel⟩

theorem witness_SessionTextCommandsTakeEffect_readText : Takes (wSt .active) (wHdr 0 1024) .text (readTextSpec (wHdr 0 1024) (2 ^ 52) 0 10000 3)
    ∧ findHandle (wSt .active) (2 ^ 52) = some 6 := ⟨⟨by decide +kernel, by decide +kernel, by decide +kernel⟩, by decide +kernel⟩
theorem witness_SessionTextCommandsTakeEffect_readMask : Takes (wSt .active) (wHdr 0 1024) .text (readMaskSpec (wHdr 0 1024) (2 ^ 52) 0 65536)
    ∧ findHandle (wSt .active) (2 ^ 52) = some 6 := ⟨⟨by decide +kernel, by decide +kernel, by decide +kernel⟩, by decide +kernel⟩
theorem witness_SessionTextCommandsTakeEffect_setRules : Takes (wClosing false) (wHdr 0 0) .text (setRulesSpec (wHdr 0 0) (2 ^ 52) (.ok []))
    ∧ findHandle (wClosing false) (2 ^ 52) = some 6
    ∧ amGet (touched (wClosing false) (wHdr 0 0) .text 6).sessions 6 = some (wAfter (wClosing false))
    ∧ (wAfter (wClosing false)).round.closing = false := ⟨⟨by decide +kernel, by decide +kernel, by decide +kernel⟩, by decide +kernel, by decide +kernel, by decide +kernel⟩
theorem witness_SessionTextCommandsTakeEffect_setRules2 : Takes (wClosing true) (wHdr 0 0) .text (setRulesSpec (wHdr 0 0) (2 ^ 52) (.ok []))
    ∧ findHandle (wClosing true) (2 ^ 52) = some 6
    ∧ amGet (touched (wClosing true) (wHdr 0 0) .text 6).sessions 6 = some (wAfter (wClosing true))
    ∧ (wAfter (wClosing true)).round.closing = true := ⟨⟨by decide +kernel, by decide +kernel, by decide +kernel⟩, by decide +kernel, by decide +kernel, by decide +kernel⟩
theorem witness_SessionTextCommandsTakeEffect_resetConstraint : Takes (wClosing false) (wHdr 0 0) .text (resetConstraintSpec (wHdr 0 0) (2 ^ 52) 0)
    ∧ findHandle (wClosing false) (2 ^ 52) = some 6
    ∧ amGet (touched (wClosing false) (wHdr 0 0) .text 6).sessions 6 = some (wAfter (wClosing false))
    ∧ (wAfter (wClosing false)).round.closing = false := ⟨⟨by decide +kernel, by decide +kernel, by decide +kernel⟩, by decide +kernel, by decide +kernel, by decide +kernel⟩
theorem witness_SessionTextCommandsTakeEffect_resetConstraint2 : Takes (wClosing true) (wHdr 0 0) .text (resetConstraintSpec (wHdr 0 0) (2 ^ 52) 0)
    ∧ findHandle (wClosing true) (2 ^ 52) = some 6
    ∧ amGet (touched (wClosing true) (wHdr 0 0) .text 6).sessions 6 = some (wAfter (wClosing true))
    ∧ (wAfter (wClosing true)).round.closing = true := ⟨⟨by decide +kernel, by decide +kernel, by decide +kernel⟩, by decide +kernel, by decide +kernel, by decide +kernel⟩

theorem witness_StepRingWorkStarts_step : Takes (wWork true) (wHdr 0 0) (.step 0) (stepSpec (wHdr 0 0) 0 wEntry)
    ∧ findHandle (wWork true) wEntry.handle = some 6
    ∧ amGet (wWork true).sessions 6 = some (wAfter (wWork true))
    ∧ (wAfter (wWork true)).fence = true := ⟨⟨by decide +kernel, by decide +kernel, by decide +kernel⟩, by decide +kernel, by decide +kernel, by decide +kernel⟩
theorem witness_StepRingWorkStarts_step2 : Takes (wClosing true) (wHdr 0 0) (.step 0) (stepSpec (wHdr 0 0) 0 { wEntry with round := 1 })
    ∧ findHandle (wClosing true) { wEntry with round := 1 }.handle = some 6
    ∧ amGet (wClosing true).sessions 6 = some (wAfter (wClosing true))
    ∧ (wAfter (wClosing true)).fence = false
    ∧ { wEntry with round := 1 }.round ≠ (wAfter (wClosing true)).round.num := ⟨⟨by decide +kernel, by decide +kernel, by decide +kernel⟩, by decide +kernel, by decide +kernel, by decide +kernel, by decide +kernel⟩
theorem witness_StepRingWorkStarts_step3 : Takes (wWork false) (wHdr 0 0) (.step 0) (stepSpec (wHdr 0 0) 0 wEntry)
    ∧ findHandle (wWork false) wEntry.handle = some 6
    ∧ amGet (wWork false).sessions 6 = some (wAfter (wWork false))
    ∧ (wAfter (wWork false)).fence = false
    ∧ wEntry.round = (wAfter (wWork false)).round.num := ⟨⟨by decide +kernel, by decide +kernel, by decide +kernel⟩, by decide +kernel, by decide +kernel, by decide +kernel, by decide +kernel⟩
theorem witness_StepRingWorkStarts_commit : Takes (wWork true) (wHdr 0 0) (.step 0) (commitSpec (wHdr 0 0) 0 (2 ^ 52) 6 0 0)
    ∧ findHandle (wWork true) (2 ^ 52) = some 6
    ∧ amGet (wWork true).sessions 6 = some (wAfter (wWork true))
    ∧ (wAfter (wWork true)).fence = true := ⟨⟨by decide +kernel, by decide +kernel, by decide +kernel⟩, by decide +kernel, by decide +kernel, by decide +kernel⟩
theorem witness_StepRingWorkStarts_commit2 : Takes (wWork false) (wHdr 0 0) (.step 0) (commitSpec (wHdr 0 0) 0 (2 ^ 52) 6 0 0)
    ∧ findHandle (wWork false) (2 ^ 52) = some 6
    ∧ amGet (wWork false).sessions 6 = some (wAfter (wWork false))
    ∧ (wAfter (wWork false)).fence = false := ⟨⟨by decide +kernel, by decide +kernel, by decide +kernel⟩, by decide +kernel, by decide +kernel, by decide +kernel⟩

theorem witness_PowerAndResetEventsTakeEffect_powerUp : wOff.boot.stage = 0 := by decide +kernel
theorem witness_PowerAndResetEventsTakeEffect_porNRise : wCold.boot.stage = 1
    ∧ true = true := ⟨by decide +kernel, by decide +kernel⟩
theorem witness_PowerAndResetEventsTakeEffect_porNRise2 : wCold.boot.stage = 1
    ∧ false = false := ⟨by decide +kernel, by decide +kernel⟩
theorem witness_PowerAndResetEventsTakeEffect_selfTestDone : wTest.boot.stage = 2 := by decide +kernel
theorem witness_PowerAndResetEventsTakeEffect_porNFall : 2 ≤ wS.boot.stage := by decide +kernel

theorem witness_BoardEventsTakeEffect_perstNFall : 1 < 2
    ∧ wS.beached = false
    ∧ portInReset wS 1 = false
    ∧ wS.boot.stage = 3 := ⟨by decide +kernel, by decide +kernel, by decide +kernel, by decide +kernel⟩
theorem witness_BoardEventsTakeEffect_perstNFall2 : 1 < 2
    ∧ wTest.beached = false
    ∧ portInReset wTest 1 = false
    ∧ wTest.boot.stage ≠ 3 := ⟨by decide +kernel, by decide +kernel, by decide +kernel, by decide +kernel⟩
theorem witness_BoardEventsTakeEffect_perstNRise : 1 < 2
    ∧ wS.beached = false
    ∧ 2 ≤ wS.boot.stage
    ∧ wS.faults.regionsDown.contains (6 + 1) = false := ⟨by decide +kernel, by decide +kernel, by decide +kernel, by decide +kernel⟩
theorem witness_BoardEventsTakeEffect_perstNRise2 : 1 < 2
    ∧ wCold.beached = false
    ∧ (wCold.boot.stage < 2 ∨ wCold.faults.regionsDown.contains (6 + 1) = true) := ⟨by decide +kernel, by decide +kernel, by decide +kernel⟩
theorem witness_BoardEventsTakeEffect_hostLinkDown : 1 < 2
    ∧ wS.beached = false := ⟨by decide +kernel, by decide +kernel⟩
theorem witness_BoardEventsTakeEffect_regulatorTimeout : wTest.boot.stage = 2
    ∧ 9 ≠ 8 := ⟨by decide +kernel, by decide +kernel⟩
theorem witness_BoardEventsTakeEffect_regulatorTimeout2 : wTest.boot.stage = 2
    ∧ 8 = 8 := ⟨by decide +kernel, by decide +kernel⟩
theorem witness_BoardEventsTakeEffect_pmbusPoll : 2 ≤ wS.boot.stage
    ∧ wS.beached = false := ⟨by decide +kernel, by decide +kernel⟩

theorem witness_DoorbellsMoveTheirIndexes_adminSqTail : fnTakes (leaveSlack wS 2) 0 = true
    ∧ ringTakes (getRing (getFn (leaveSlack wS 2) 0) .admin) = true
    ∧ (getRing (getFn (leaveSlack wS 2) 0) .admin).stopped = false
    ∧ 255 % 65536 < (getRing (getFn (leaveSlack wS 2) 0) .admin).depth := ⟨by decide +kernel, by decide +kernel, by decide +kernel, by decide +kernel⟩
theorem witness_DoorbellsMoveTheirIndexes_stepSqTail : fnTakes (leaveSlack wS 2) 0 = true
    ∧ ringTakes (getRing (getFn (leaveSlack wS 2) 0) (.step 0)) = true
    ∧ (getRing (getFn (leaveSlack wS 2) 0) (.step 0)).stopped = false
    ∧ 255 % 65536 < (getRing (getFn (leaveSlack wS 2) 0) (.step 0)).depth := ⟨by decide +kernel, by decide +kernel, by decide +kernel, by decide +kernel⟩
theorem witness_DoorbellsMoveTheirIndexes_textSqTail : fnTakes (leaveSlack wS 2) 0 = true
    ∧ ringTakes (getRing (getFn (leaveSlack wS 2) 0) .text) = true
    ∧ (getRing (getFn (leaveSlack wS 2) 0) .text).stopped = false
    ∧ 255 % 65536 < (getRing (getFn (leaveSlack wS 2) 0) .text).depth := ⟨by decide +kernel, by decide +kernel, by decide +kernel, by decide +kernel⟩
theorem witness_DoorbellsMoveTheirIndexes_searchSqTail : fnTakes (leaveSlack wS 2) 0 = true
    ∧ ringTakes (getRing (getFn (leaveSlack wS 2) 0) .search) = true
    ∧ (getRing (getFn (leaveSlack wS 2) 0) .search).stopped = false
    ∧ 255 % 65536 < (getRing (getFn (leaveSlack wS 2) 0) .search).depth := ⟨by decide +kernel, by decide +kernel, by decide +kernel, by decide +kernel⟩
theorem witness_DoorbellsMoveTheirIndexes_adminSqTail2 : fnTakes (leaveSlack wS 2) 0 = true
    ∧ ringTakes (getRing (getFn (leaveSlack wS 2) 0) .admin) = true
    ∧ (getRing (getFn (leaveSlack wS 2) 0) .admin).stopped = false
    ∧ (getRing (getFn (leaveSlack wS 2) 0) .admin).depth ≤ 256 % 65536 := ⟨by decide +kernel, by decide +kernel, by decide +kernel, by decide +kernel⟩
theorem witness_DoorbellsMoveTheirIndexes_stepSqTail2 : fnTakes (leaveSlack wS 2) 0 = true
    ∧ ringTakes (getRing (getFn (leaveSlack wS 2) 0) (.step 0)) = true
    ∧ (getRing (getFn (leaveSlack wS 2) 0) (.step 0)).stopped = false
    ∧ (getRing (getFn (leaveSlack wS 2) 0) (.step 0)).depth ≤ 256 % 65536 := ⟨by decide +kernel, by decide +kernel, by decide +kernel, by decide +kernel⟩
theorem witness_DoorbellsMoveTheirIndexes_textSqTail2 : fnTakes (leaveSlack wS 2) 0 = true
    ∧ ringTakes (getRing (getFn (leaveSlack wS 2) 0) .text) = true
    ∧ (getRing (getFn (leaveSlack wS 2) 0) .text).stopped = false
    ∧ (getRing (getFn (leaveSlack wS 2) 0) .text).depth ≤ 256 % 65536 := ⟨by decide +kernel, by decide +kernel, by decide +kernel, by decide +kernel⟩
theorem witness_DoorbellsMoveTheirIndexes_searchSqTail2 : fnTakes (leaveSlack wS 2) 0 = true
    ∧ ringTakes (getRing (getFn (leaveSlack wS 2) 0) .search) = true
    ∧ (getRing (getFn (leaveSlack wS 2) 0) .search).stopped = false
    ∧ (getRing (getFn (leaveSlack wS 2) 0) .search).depth ≤ 256 % 65536 := ⟨by decide +kernel, by decide +kernel, by decide +kernel, by decide +kernel⟩
theorem witness_DoorbellsMoveTheirIndexes_adminRqHead : fnTakes (leaveSlack wS 2) 0 = true
    ∧ ringTakes (getRing (getFn (leaveSlack wS 2) 0) .admin) = true
    ∧ (getRing (getFn (leaveSlack wS 2) 0) .admin).stopped = false
    ∧ 255 % 65536 < (getRing (getFn (leaveSlack wS 2) 0) .admin).depth := ⟨by decide +kernel, by decide +kernel, by decide +kernel, by decide +kernel⟩
theorem witness_DoorbellsMoveTheirIndexes_stepRqHead : fnTakes (leaveSlack wS 2) 0 = true
    ∧ ringTakes (getRing (getFn (leaveSlack wS 2) 0) (.step 0)) = true
    ∧ (getRing (getFn (leaveSlack wS 2) 0) (.step 0)).stopped = false
    ∧ 255 % 65536 < (getRing (getFn (leaveSlack wS 2) 0) (.step 0)).depth := ⟨by decide +kernel, by decide +kernel, by decide +kernel, by decide +kernel⟩
theorem witness_DoorbellsMoveTheirIndexes_textRqHead : fnTakes (leaveSlack wS 2) 0 = true
    ∧ ringTakes (getRing (getFn (leaveSlack wS 2) 0) .text) = true
    ∧ (getRing (getFn (leaveSlack wS 2) 0) .text).stopped = false
    ∧ 255 % 65536 < (getRing (getFn (leaveSlack wS 2) 0) .text).depth := ⟨by decide +kernel, by decide +kernel, by decide +kernel, by decide +kernel⟩
theorem witness_DoorbellsMoveTheirIndexes_searchRqHead : fnTakes (leaveSlack wS 2) 0 = true
    ∧ ringTakes (getRing (getFn (leaveSlack wS 2) 0) .search) = true
    ∧ (getRing (getFn (leaveSlack wS 2) 0) .search).stopped = false
    ∧ 255 % 65536 < (getRing (getFn (leaveSlack wS 2) 0) .search).depth := ⟨by decide +kernel, by decide +kernel, by decide +kernel, by decide +kernel⟩
theorem witness_DoorbellsMoveTheirIndexes_eventHead : fnTakes (leaveSlack wEv 2) 0 = true
    ∧ (getFn (leaveSlack wEv 2) 0).eventEn = true
    ∧ (getFn (leaveSlack wEv 2) 0).eventStopped = false
    ∧ 63 % 65536 < (getFn (leaveSlack wEv 2) 0).evDepth := ⟨by decide +kernel, by decide +kernel, by decide +kernel, by decide +kernel⟩

theorem witness_EnableBitsTakeEffect_enable : regsOpen wS 0 = true := by decide +kernel
theorem witness_EnableBitsTakeEffect_adminEn : regsOpen wDark 0 = true
    ∧ (getFn wDark 0).adminEn = false
    ∧ true = true := ⟨by decide +kernel, by decide +kernel, by decide +kernel⟩
theorem witness_EnableBitsTakeEffect_adminEn2 : regsOpen wS 0 = true
    ∧ (getFn wS 0).adminEn = true
    ∧ false = false := ⟨by decide +kernel, by decide +kernel, by decide +kernel⟩
theorem witness_EnableBitsTakeEffect_textEn : regsOpen wDark 0 = true
    ∧ (getFn wDark 0).textEn = false
    ∧ true = true
    ∧ pow2In 16 4096 ((getFn wDark 0).textCfg.toNat % 2 ^ 13) = true := ⟨by decide +kernel, by decide +kernel, by decide +kernel, by decide +kernel⟩
theorem witness_EnableBitsTakeEffect_textEn2 : regsOpen wS 0 = true
    ∧ (getFn wS 0).textEn = true
    ∧ false = false := ⟨by decide +kernel, by decide +kernel, by decide +kernel⟩
theorem witness_EnableBitsTakeEffect_searchEn : regsOpen wDark 0 = true
    ∧ (getFn wDark 0).searchEn = false
    ∧ true = true
    ∧ pow2In 16 4096 ((getFn wDark 0).searchCfg.toNat % 2 ^ 13) = true := ⟨by decide +kernel, by decide +kernel, by decide +kernel, by decide +kernel⟩
theorem witness_EnableBitsTakeEffect_searchEn2 : regsOpen wS 0 = true
    ∧ (getFn wS 0).searchEn = true
    ∧ false = false := ⟨by decide +kernel, by decide +kernel, by decide +kernel⟩
theorem witness_EnableBitsTakeEffect_eventEn : regsOpen wDark 0 = true
    ∧ (getFn wDark 0).eventEn = false
    ∧ true = true
    ∧ pow2In 64 4096 ((getFn wDark 0).eventCfg.toNat % 2 ^ 13) = true := ⟨by decide +kernel, by decide +kernel, by decide +kernel, by decide +kernel⟩
theorem witness_EnableBitsTakeEffect_eventEn2 : regsOpen wEv 0 = true
    ∧ (getFn wEv 0).eventEn = true
    ∧ false = false := ⟨by decide +kernel, by decide +kernel, by decide +kernel⟩

theorem witness_LiveFieldWritesReachTheShadow_receiptHold : regsOpen wS 0 = true
    ∧ (10000#32).toNat % 2 ^ 14 ≤ 10000 := ⟨by decide +kernel, by decide +kernel⟩
theorem witness_LiveFieldWritesReachTheShadow_coalesce : regsOpen wS 0 = true
    ∧ ((0xFFFF0001#32).toNat % 2 ^ 12 + bits (0xFFFF0001#32).toNat 31 16 * 2 ^ 16) % 2 ^ 12 ≠ 0 := ⟨by decide +kernel, by decide +kernel⟩
theorem witness_LiveFieldWritesReachTheShadow_fwdGrace : regsOpen wS 0 = true
    ∧ (1000#32).toNat % 2 ^ 10 ≤ 1000 := ⟨by decide +kernel, by decide +kernel⟩
theorem witness_LiveFieldWritesReachTheShadow_snoopTimeout : regsOpen wS 0 = true
    ∧ (100#32).toNat % 2 ^ 7 ≠ 0
    ∧ (100#32).toNat % 2 ^ 7 ≤ 100 := ⟨by decide +kernel, by decide +kernel, by decide +kernel⟩
theorem witness_LiveFieldWritesReachTheShadow_lcLimit : regsOpen wS 0 = true
    ∧ 10 ≤ (90#32).toNat % 128
    ∧ (90#32).toNat % 128 ≤ 90 := ⟨by decide +kernel, by decide +kernel, by decide +kernel⟩
theorem witness_LiveFieldWritesReachTheShadow_lcShare : regsOpen wS 0 = true
    ∧ 1 ≤ 64
    ∧ 64 ≤ 64
    ∧ vfLocked wS 64 = false
    ∧ ((List.range 64).map (· + 1)).foldl (fun n q => if q = 64 then n else n + livePending wS (.lcShare q)) 0 + (1#32).toNat % 128 ≤ 100 := ⟨by decide +kernel, by decide +kernel, by decide +kernel, by decide +kernel, by decide +kernel⟩
theorem witness_LiveFieldWritesReachTheShadow_twRto : regsOpen wS 0 = true
    ∧ inRange 1000 65535 (bits (0xFFFF0014000F0014#64).toNat 63 48) = true
    ∧ inRange 20 10000 (bits (0xFFFF0014000F0014#64).toNat 47 32) = true
    ∧ inRange 1 15 (bits (0xFFFF0014000F0014#64).toNat 19 16) = true
    ∧ inRange 20 1000 (bits (0xFFFF0014000F0014#64).toNat 9 0) = true := ⟨by decide +kernel, by decide +kernel, by decide +kernel, by decide +kernel, by decide +kernel⟩
theorem witness_LiveFieldWritesReachTheShadow_twCc : regsOpen wS 0 = true
    ∧ inRange 1 65535 (bits (0x0001000AFF010008#64).toNat 63 48) = true
    ∧ inRange 10 10000 (bits (0x0001000AFF010008#64).toNat 47 32) = true
    ∧ inRange 1 255 (bits (0x0001000AFF010008#64).toNat 31 24) = true
    ∧ inRange 1 255 (bits (0x0001000AFF010008#64).toNat 23 16) = true
    ∧ inRange 1 8 (bits (0x0001000AFF010008#64).toNat 3 0) = true := ⟨by decide +kernel, by decide +kernel, by decide +kernel, by decide +kernel, by decide +kernel, by decide +kernel⟩
theorem witness_LiveFieldWritesReachTheShadow_twAck : regsOpen wS 0 = true
    ∧ inRange 100 20000 (bits (0x00640040#32).toNat 31 16) = true
    ∧ inRange 1 64 (bits (0x00640040#32).toNat 6 0) = true := ⟨by decide +kernel, by decide +kernel, by decide +kernel⟩
theorem witness_LiveFieldWritesReachTheShadow_pwrCtrl : regsOpen wS 0 = true
    ∧ 1 ≤ bits (0x75300001#32).toNat 30 16
    ∧ bits (0x75300001#32).toNat 30 16 ≤ 30000 := ⟨by decide +kernel, by decide +kernel, by decide +kernel⟩
theorem witness_LiveFieldWritesReachTheShadow_warmReserve : regsOpen wS 0 = true
    ∧ (∀ k < 6, bits (0x888888#32).toNat (4 * k + 3) (4 * k) ≤ 8) := ⟨by decide +kernel, by decide +kernel⟩
theorem witness_LiveFieldWritesReachTheShadow_thermalCfg : regsOpen wS 0 = true
    ∧ 70 ≤ (100#32).toNat % 128
    ∧ (100#32).toNat % 128 ≤ 100 := ⟨by decide +kernel, by decide +kernel, by decide +kernel⟩
theorem witness_LiveFieldWritesReachTheShadow_powerCap : regsOpen wS 0 = true
    ∧ ((1150#32).toNat % 2048 = 0 ∨ (400 ≤ (1150#32).toNat % 2048 ∧ (1150#32).toNat % 2048 ≤ 1150)) := ⟨by decide +kernel, by decide +kernel⟩
theorem witness_LiveFieldWritesReachTheShadow_liveApplied : (getLive wShadow .lcLimit).shadow = some 90 := by decide +kernel
theorem witness_LiveFieldWritesReachTheShadow_liveApplyDeadline : (getLive wShadow .lcLimit).shadow.isSome = true
    ∧ (getLive wShadow .lcLimit).since + 100000 ≤ max wShadow.postmark 100000 := ⟨by decide +kernel, by decide +kernel⟩

theorem witness_DeviceRegisterWritesTakeEffect_swRegion : 7 < 8
    ∧ regsOpen wS 0 = true
    ∧ rgLocked wS 7 = false
    ∧ rgEnable ((if rgEnable ((0#64).toNat) then 1 else 0) + (if rgInterleave ((0#64).toNat) then 16 else 0) + rgHome ((0#64).toNat) * 32 + rgExtents ((0#64).toNat) * 2 ^ 32) = false := ⟨by decide +kernel, by decide +kernel, by decide +kernel, by decide +kernel⟩
theorem witness_DeviceRegisterWritesTakeEffect_swRegion2 : 7 < 8
    ∧ regsOpen wDir 0 = true
    ∧ rgLocked wDir 7 = false
    ∧ rgEnable ((if rgEnable ((0x100000001#64).toNat) then 1 else 0) + (if rgInterleave ((0x100000001#64).toNat) then 16 else 0) + rgHome ((0x100000001#64).toNat) * 32 + rgExtents ((0x100000001#64).toNat) * 2 ^ 32) = true
    ∧ rgExtents ((if rgEnable ((0x100000001#64).toNat) then 1 else 0) + (if rgInterleave ((0x100000001#64).toNat) then 16 else 0) + rgHome ((0x100000001#64).toNat) * 32 + rgExtents ((0x100000001#64).toNat) * 2 ^ 32) ≠ 0
    ∧ rgExtents ((if rgEnable ((0x100000001#64).toNat) then 1 else 0) + (if rgInterleave ((0x100000001#64).toNat) then 16 else 0) + rgHome ((0x100000001#64).toNat) * 32 + rgExtents ((0x100000001#64).toNat) * 2 ^ 32) ≤ 1024
    ∧ rgHome ((if rgEnable ((0x100000001#64).toNat) then 1 else 0) + (if rgInterleave ((0x100000001#64).toNat) then 16 else 0) + rgHome ((0x100000001#64).toNat) * 32 + rgExtents ((0x100000001#64).toNat) * 2 ^ 32) ≤ 5
    ∧ otherExtents wDir 7 + rgExtents ((if rgEnable ((0x100000001#64).toNat) then 1 else 0) + (if rgInterleave ((0x100000001#64).toNat) then 16 else 0) + rgHome ((0x100000001#64).toNat) * 32 + rgExtents ((0x100000001#64).toNat) * 2 ^ 32) ≤ 2048
    ∧ wDir.win.dirRuns.isEmpty = false := ⟨by decide +kernel, by decide +kernel, by decide +kernel, by decide +kernel, by decide +kernel, by decide +kernel, by decide +kernel, by decide +kernel, by decide +kernel⟩
theorem witness_DeviceRegisterWritesTakeEffect_swRegion3 : 7 < 8
    ∧ regsOpen wS 0 = true
    ∧ rgLocked wS 7 = false
    ∧ rgEnable ((if rgEnable ((0x100000001#64).toNat) then 1 else 0) + (if rgInterleave ((0x100000001#64).toNat) then 16 else 0) + rgHome ((0x100000001#64).toNat) * 32 + rgExtents ((0x100000001#64).toNat) * 2 ^ 32) = true
    ∧ rgExtents ((if rgEnable ((0x100000001#64).toNat) then 1 else 0) + (if rgInterleave ((0x100000001#64).toNat) then 16 else 0) + rgHome ((0x100000001#64).toNat) * 32 + rgExtents ((0x100000001#64).toNat) * 2 ^ 32) ≠ 0
    ∧ rgExtents ((if rgEnable ((0x100000001#64).toNat) then 1 else 0) + (if rgInterleave ((0x100000001#64).toNat) then 16 else 0) + rgHome ((0x100000001#64).toNat) * 32 + rgExtents ((0x100000001#64).toNat) * 2 ^ 32) ≤ 1024
    ∧ rgHome ((if rgEnable ((0x100000001#64).toNat) then 1 else 0) + (if rgInterleave ((0x100000001#64).toNat) then 16 else 0) + rgHome ((0x100000001#64).toNat) * 32 + rgExtents ((0x100000001#64).toNat) * 2 ^ 32) ≤ 5
    ∧ otherExtents wS 7 + rgExtents ((if rgEnable ((0x100000001#64).toNat) then 1 else 0) + (if rgInterleave ((0x100000001#64).toNat) then 16 else 0) + rgHome ((0x100000001#64).toNat) * 32 + rgExtents ((0x100000001#64).toNat) * 2 ^ 32) ≤ 2048
    ∧ wS.win.dirRuns.isEmpty = true
    ∧ takeDirectory wS = some ((takeDirectory wS).getD wS) := ⟨by decide +kernel, by decide +kernel, by decide +kernel, by decide +kernel, by decide +kernel, by decide +kernel, by decide +kernel, by decide +kernel, by decide +kernel, by decide +kernel⟩
theorem witness_DeviceRegisterWritesTakeEffect_portCfg : 15 < 16
    ∧ regsOpen wS 0 = true
    ∧ pcEnable (getPort wS 15) = false
    ∧ bit (portCfgBits (1#64).toNat) 0 = true
    ∧ bits (portCfgBits (1#64).toNat) 7 4 ≤ 7
    ∧ (bits (portCfgBits (1#64).toNat) 7 4 = 2 → 15 % 8 % 2 = 0 ∧ neighbourEnabled wS (15 / 8) (15 % 8 + 1) none = false)
    ∧ (15 % 8 = 0 ∨ neighbourEnabled wS (15 / 8) (15 % 8 - 1) (some 2) = false) := ⟨by decide +kernel, by decide +kernel, by decide +kernel, by decide +kernel, by decide +kernel, by decide +kernel, by decide +kernel⟩
theorem witness_DeviceRegisterWritesTakeEffect_portCfg2 : 15 < 16
    ∧ regsOpen wS 0 = true
    ∧ bit (portCfgBits (0#64).toNat) 0 = false := ⟨by decide +kernel, by decide +kernel, by decide +kernel⟩
theorem witness_DeviceRegisterWritesTakeEffect_twCtrlEnable : regsOpen wS 0 = true
    ∧ wS.tw.enable = false := ⟨by decide +kernel, by decide +kernel⟩
theorem witness_DeviceRegisterWritesTakeEffect_twCtrlEnable2 : regsOpen wTw 0 = true
    ∧ wTw.tw.enable = true
    ∧ bit (0#32).toNat 0 = false := ⟨by decide +kernel, by decide +kernel, by decide +kernel⟩
theorem witness_DeviceRegisterWritesTakeEffect_flashCh : 31 < 32
    ∧ regsOpen wS 0 = true
    ∧ (wS.media.state = 0 ∨ wS.media.state = 5) := ⟨by decide +kernel, by decide +kernel, by decide +kernel⟩
theorem witness_DeviceRegisterWritesTakeEffect_registerWrite : regsOpen wS 0 = true
    ∧ wS.beached = false := ⟨by decide +kernel, by decide +kernel⟩
theorem witness_DeviceRegisterWritesTakeEffect_postmarkLo : fnPresent wS 0 = true := by decide +kernel

theorem witness_FunctionResetsTakeEffect_vfEnableSet : wS.vfEnable = false := by decide +kernel
theorem witness_FunctionResetsTakeEffect_vfEnableClear : wVf.vfEnable = true := by decide +kernel
theorem witness_FunctionResetsTakeEffect_perFunctionReset : 1 ≠ 0
    ∧ fnPresent wVf 1 = true
    ∧ wVf.ready = true
    ∧ (getFn wVf 1).flrBusy = false := ⟨by decide +kernel, by decide +kernel, by decide +kernel, by decide +kernel⟩
theorem witness_FunctionResetsTakeEffect_pf0Reset : wS.ready = true
    ∧ (getFn wS 0).flrBusy = false := ⟨by decide +kernel, by decide +kernel⟩
theorem witness_FunctionResetsTakeEffect_flrDone : fnPresent wBusy 1 = true
    ∧ (getFn wBusy 1).flrBusy = true := ⟨by decide +kernel, by decide +kernel⟩

theorem witness_ReceiptsAreDelivered_operationComplete : amGet wDone.ops 0 = some wOp
    ∧ wOp.state = .ready rOk := ⟨by decide +kernel, by decide +kernel⟩
theorem witness_ReceiptsAreDelivered_receiptHoldExpiry : (getRing (getFn wHold 0) .admin).held = wHeldR :: []
    ∧ wHeldR.since + liveVal wHold (.receiptHold 0) * 1000 ≤ max wHold.postmark 10000000 := ⟨by decide +kernel, by decide +kernel⟩
theorem witness_ReceiptsAreDelivered_coalesceTimeout : (getRing (getFn wUnsig 0) .admin).unsig ≠ 0
    ∧ (getRing (getFn wUnsig 0) .admin).unsigSince + coalesceTime wUnsig 0 * 1000 ≤ max wUnsig.postmark 1000000 := ⟨by decide +kernel, by decide +kernel⟩

theorem witness_StepEngineEventsTakeEffect_pageTaskDone : (getBlock (advance 0 wRun) 0 0).running = some wTask := by decide +kernel
theorem witness_StepEngineEventsTakeEffect_stepMerge : amGet wMerge.steps 0 = some (wStep 0)
    ∧ amGet wMerge.sessions (wStep 0).d = some (wSess .active)
    ∧ (wStep 0).phase = .running
    ∧ (wStep 0).tasksLeft = 0
    ∧ (wStep 0).entry.mode ≠ 1 := ⟨by decide +kernel, by decide +kernel, by decide +kernel, by decide +kernel, by decide +kernel⟩
theorem witness_StepEngineEventsTakeEffect_stepMerge2 : amGet wMerge.steps 1 = some (wStep 1)
    ∧ amGet wMerge.sessions (wStep 1).d = some (wSess .active)
    ∧ (wStep 1).phase = .running
    ∧ (wStep 1).tasksLeft = 0
    ∧ (wStep 1).entry.mode = 1
    ∧ ((wStep 1).srcs.any (fun p => p == .missing) && !(stepMissing (wStep 1).entry (wStep 1).srcs).isEmpty && !(wStep 1).degraded) = false := ⟨by decide +kernel, by decide +kernel, by decide +kernel, by decide +kernel, by decide +kernel, by decide +kernel⟩
theorem witness_StepEngineEventsTakeEffect_stepMerge3 : amGet wMerge.steps 2 = some wStepAbsent
    ∧ amGet wMerge.sessions wStepAbsent.d = some (wSess .active)
    ∧ wStepAbsent.phase = .running
    ∧ wStepAbsent.tasksLeft = 0
    ∧ wStepAbsent.entry.mode = 1
    ∧ (wStepAbsent.srcs.any (fun p => p == .missing) && !(stepMissing wStepAbsent.entry wStepAbsent.srcs).isEmpty && !wStepAbsent.degraded) = true := ⟨by decide +kernel, by decide +kernel, by decide +kernel, by decide +kernel, by decide +kernel, by decide +kernel⟩
theorem witness_StepEngineEventsTakeEffect_commitApply : amGet (wCommit 0).sessions 6 = some (wAfter (wCommit 0))
    ∧ (wCommit 0).commits.find? (fun e => e.2.d == 6 && !e.2.held && (match amGet (wCommit 0).ops e.1 with | some o => o.state == .waiting .stepWork | none => false)) = some (0, (wCommitRec 0))
    ∧ (wAfter (wCommit 0)).round.closing = true
    ∧ roundOpen (advance 0 (wCommit 0)) 6 (wCommitRec 0).round = false
    ∧ (if (wCommitRec 0).mask = 0 then none else missingRows (wAfter (wCommit 0))) = none := ⟨by decide +kernel, by decide +kernel, by decide +kernel, by decide +kernel, by decide +kernel⟩
theorem witness_StepEngineEventsTakeEffect_commitApply2 : amGet (wCommit 1).sessions 6 = some (wAfter (wCommit 1))
    ∧ (wCommit 1).commits.find? (fun e => e.2.d == 6 && !e.2.held && (match amGet (wCommit 1).ops e.1 with | some o => o.state == .waiting .stepWork | none => false)) = some (0, (wCommitRec 1))
    ∧ (wAfter (wCommit 1)).round.closing = true
    ∧ roundOpen (advance 0 (wCommit 1)) 6 (wCommitRec 1).round = false
    ∧ (if (wCommitRec 1).mask = 0 then none else missingRows (wAfter (wCommit 1))) = some 0 := ⟨by decide +kernel, by decide +kernel, by decide +kernel, by decide +kernel, by decide +kernel⟩
theorem witness_StepEngineEventsTakeEffect_commitNotice : wNotice.notices = wNote :: []
    ∧ amGet wNotice.sessions wNote.d = some (wAfter wNotice)
    ∧ (wAfter wNotice).masks = some wMasks
    ∧ wMasks.round = wNote.round := ⟨by decide +kernel, by decide +kernel, by decide +kernel, by decide +kernel⟩
theorem witness_StepEngineEventsTakeEffect_maskReady : amGet wNotified.sessions 6 = some (wAfter wNotified)
    ∧ (wAfter wNotified).masks = some { wMasks with notice := some 0 }
    ∧ ({ wMasks with notice := some 0 }.notice.isSome && !amHas { wMasks with notice := some 0 }.ready 16 && (16 == 16 || ((wAfter wNotified).round.fixed && decide (16 < (wAfter wNotified).round.cands) && amHas { wMasks with notice := some 0 }.ready (if ((wAfter wNotified).round.parents.drop 16).headD 0x1F = 0x1F then 16 else ((wAfter wNotified).round.parents.drop 16).headD 0x1F)))) = true := ⟨by decide +kernel, by decide +kernel, by decide +kernel⟩

theorem witness_SearchEngineEventsTakeEffect_searchDeadline : amGet wSeek.searches 0 = some wSeekRec
    ∧ wSeekRec.finished = false
    ∧ wSeekRec.until_ ≤ max wSeek.postmark 5 := ⟨by decide +kernel, by decide +kernel, by decide +kernel⟩
theorem witness_SearchEngineEventsTakeEffect_mendingBatch : (indexAt wSweep 3).bind (fun i => (amGet i.shards 0).map (fun h => (i, h))) = some (wIndex, ({ region := 0 } : Shard))
    ∧ wSweep.regionsOut.contains ({ region := 0 } : Shard).region = false
    ∧ (({ region := 0 } : Shard).sweep.getD { tombs := tombstones ({ region := 0 } : Shard) }).walked = false
    ∧ (mendNext ({ region := 0 } : Shard) (({ region := 0 } : Shard).sweep.getD { tombs := tombstones ({ region := 0 } : Shard) }).next).isEmpty = true := ⟨by decide +kernel, by decide +kernel, by decide +kernel, by decide +kernel⟩
theorem witness_SearchEngineEventsTakeEffect_mendingBatch2 : (indexAt (wMend (2 ^ 30)) 3).bind (fun i => (amGet i.shards 0).map (fun h => (i, h))) = some ((wMendIx (2 ^ 30)), (wShard (2 ^ 30)))
    ∧ (wMend (2 ^ 30)).regionsOut.contains (wShard (2 ^ 30)).region = false
    ∧ ((wShard (2 ^ 30)).sweep.getD { tombs := tombstones (wShard (2 ^ 30)) }).walked = false
    ∧ (mendNext (wShard (2 ^ 30)) ((wShard (2 ^ 30)).sweep.getD { tombs := tombstones (wShard (2 ^ 30)) }).next).isEmpty = false
    ∧ ((mendNext (wShard (2 ^ 30)) ((wShard (2 ^ 30)).sweep.getD { tombs := tombstones (wShard (2 ^ 30)) }).next).any (fun e => versionHeld (snapshots (wMend (2 ^ 30)) 3 0) (wShard (2 ^ 30)).changeSeq e.2) || stampsOld (wShard (2 ^ 30))) = true := ⟨by decide +kernel, by decide +kernel, by decide +kernel, by decide +kernel, by decide +kernel⟩
theorem witness_SearchEngineEventsTakeEffect_mendingBatch3 : (indexAt (wMend 1) 3).bind (fun i => (amGet i.shards 0).map (fun h => (i, h))) = some ((wMendIx 1), (wShard 1))
    ∧ (wMend 1).regionsOut.contains (wShard 1).region = false
    ∧ ((wShard 1).sweep.getD { tombs := tombstones (wShard 1) }).walked = false
    ∧ (mendNext (wShard 1) ((wShard 1).sweep.getD { tombs := tombstones (wShard 1) }).next).isEmpty = false
    ∧ ((mendNext (wShard 1) ((wShard 1).sweep.getD { tombs := tombstones (wShard 1) }).next).any (fun e => versionHeld (snapshots (wMend 1) 3 0) (wShard 1).changeSeq e.2) || stampsOld (wShard 1)) = false := ⟨by decide +kernel, by decide +kernel, by decide +kernel, by decide +kernel, by decide +kernel⟩
theorem witness_SearchEngineEventsTakeEffect_slotRelease : (indexAt wGone 3).bind (fun i => amGet i.shards 0) = some wGoneShard
    ∧ wGoneShard.sweep = some ({ tombs := [0], walked := true } : Sweep)
    ∧ amGet wGoneShard.nodes 0 = some ({ wNode with delSeq := 0 } : SNode)
    ∧ (({ tombs := [0], walked := true } : Sweep).walked && ({ tombs := [0], walked := true } : Sweep).tombs.contains 0 && (snapshots wGone 3 0).isEmpty && !stampsOld wGoneShard && !wGone.regionsOut.contains wGoneShard.region) = true := ⟨by decide +kernel, by decide +kernel, by decide +kernel, by decide +kernel⟩
theorem witness_SearchEngineEventsTakeEffect_shardVerified : (indexAt wIx 3).bind (fun i => amGet i.shards 0) = some ({ region := 0 } : Shard)
    ∧ wIx.regionsOut.contains ({ region := 0 } : Shard).region = false := ⟨by decide +kernel, by decide +kernel⟩

theorem witness_DailyAgingTakesEffect_budgetDay : 86400000000000 % 86400000000000 = 0
    ∧ wS.postmark ≤ 86400000000000 := ⟨by decide +kernel, by decide +kernel⟩
theorem witness_DailyAgingTakesEffect_soundingsAging : 600000000000 % 600000000000 = 0
    ∧ wS.postmark ≤ 600000000000 := ⟨by decide +kernel, by decide +kernel⟩

theorem witness_PolicyRingEventsTakeEffect_policyProducerIndex : wCore.hm.running ≠ 0
    ∧ (4095#32).toNat < 4096 := ⟨by decide +kernel, by decide +kernel⟩
theorem witness_PolicyRingEventsTakeEffect_policyEntry : wPol.hm.policyCons ≠ wPol.hm.policyProd
    ∧ findHandle (leaveSlack wPol 5) (policyHead wPol).handle = none := ⟨by decide +kernel, by decide +kernel⟩
theorem witness_PolicyRingEventsTakeEffect_policyEntry2 : (wPolS .idle).hm.policyCons ≠ (wPolS .idle).hm.policyProd
    ∧ findHandle (leaveSlack (wPolS .idle) 5) (policyHead (wPolS .idle)).handle = some 6
    ∧ amGet (leaveSlack (wPolS .idle) 5).sessions 6 = some (wSess .idle)
    ∧ (wSess .idle).stub = false
    ∧ ((wSess .idle).state == SState.idle || (wSess .idle).state == SState.ebbing || (wSess .idle).state == SState.parked) = true := ⟨by decide +kernel, by decide +kernel, by decide +kernel, by decide +kernel, by decide +kernel⟩
theorem witness_PolicyRingEventsTakeEffect_policyEntry3 : (wPolS .active).hm.policyCons ≠ (wPolS .active).hm.policyProd
    ∧ findHandle (leaveSlack (wPolS .active) 5) (policyHead (wPolS .active)).handle = some 6
    ∧ amGet (leaveSlack (wPolS .active) 5).sessions 6 = some (wSess .active)
    ∧ ((wSess .active).stub = true ∨ ((wSess .active).state == SState.idle || (wSess .active).state == SState.ebbing || (wSess .active).state == SState.parked) = false) := ⟨by decide +kernel, by decide +kernel, by decide +kernel, by decide +kernel⟩

theorem witness_RoleAndBindTimersTakeEffect_roleDrainEnd : wDrain.pair.drain = some wDrainRec
    ∧ roleHolds wDrain wDrainRec.role = false := ⟨by decide +kernel, by decide +kernel⟩
theorem witness_RoleAndBindTimersTakeEffect_roleDrainTimeout : ({ wDrain with sessions := [(6, wSess .idle)] } : State).pair.drain = some wDrainRec
    ∧ wDrainRec.until_ ≤ max ({ wDrain with sessions := [(6, wSess .idle)] } : State).postmark 1000000
    ∧ roleHolds ({ wDrain with sessions := [(6, wSess .idle)] } : State) wDrainRec.role = true := ⟨by decide +kernel, by decide +kernel, by decide +kernel⟩
theorem witness_RoleAndBindTimersTakeEffect_pairBindTimeout : ({ wS with pair := { status := 1 } } : State).pair.status = 1
    ∧ ({ wS with pair := { status := 1 } } : State).pair.bindSince + 10000000000 ≤ max ({ wS with pair := { status := 1 } } : State).postmark 10000000000 := ⟨by decide +kernel, by decide +kernel⟩
theorem witness_RoleAndBindTimersTakeEffect_restoreDone : ({ wS with pair := { restore := some wRestore } } : State).pair.restore = some wRestore
    ∧ wRestore.background = true
    ∧ holderLeft ({ wS with pair := { restore := some wRestore } } : State) wRestore.holder = false := ⟨by decide +kernel, by decide +kernel, by decide +kernel⟩
theorem witness_RoleAndBindTimersTakeEffect_trialCommitTimer : wTrial.boot.stage = 3
    ∧ wTrial.boot.trialRun = true
    ∧ wTrial.faults.restarted = false
    ∧ wTrial.beached = false
    ∧ wTrial.boot.readyPm + 600000000000 ≤ max wTrial.postmark 600000000000 := ⟨by decide +kernel, by decide +kernel, by decide +kernel, by decide +kernel, by decide +kernel⟩

theorem witness_SessionTimersTakeEffect_idleTimer : amGet (wSt .active).sessions 6 = some (wSess .active)
    ∧ (wSess .active).state = .active
    ∧ inflight (wSt .active) 6 = 0
    ∧ (wSess .active).lastOpPm + 2000000000 ≤ max (wSt .active).postmark 2000000000 := ⟨by decide +kernel, by decide +kernel, by decide +kernel, by decide +kernel⟩
theorem witness_SessionTimersTakeEffect_ebbStart : amGet ({ wSt .idle with sessions := [(6, { wSess .idle with ebbDeferred := true })] } : State).sessions 6 = some ({ wSess .idle with ebbDeferred := true } : Session)
    ∧ ({ wSess .idle with ebbDeferred := true } : Session).state = .idle
    ∧ ({ wSess .idle with ebbDeferred := true } : Session).ebbDeferred = true := ⟨by decide +kernel, by decide +kernel, by decide +kernel⟩
theorem witness_SessionTimersTakeEffect_ebbStart2 : amGet ({ wSt .idle with sessions := [(6, { wSess .idle with ebbAtPm := 5 })] } : State).sessions 6 = some ({ wSess .idle with ebbAtPm := 5 } : Session)
    ∧ ({ wSess .idle with ebbAtPm := 5 } : Session).state = .idle
    ∧ ({ wSess .idle with ebbAtPm := 5 } : Session).ebbDeferred = false
    ∧ ({ wSess .idle with ebbAtPm := 5 } : Session).ebbAtPm ≠ 0
    ∧ ({ wSess .idle with ebbAtPm := 5 } : Session).ebbAtPm ≤ max ({ wSt .idle with sessions := [(6, { wSess .idle with ebbAtPm := 5 })] } : State).postmark 5 := ⟨by decide +kernel, by decide +kernel, by decide +kernel, by decide +kernel, by decide +kernel⟩
theorem witness_SessionTimersTakeEffect_floodStart : amGet (wFlood .parked 1).sessions 6 = some (wAfter (wFlood .parked 1))
    ∧ floodDue (advance 5 (wFlood .parked 1)) (wAfter (wFlood .parked 1)) = true
    ∧ (wAfter (wFlood .parked 1)).state = .parked
    ∧ (startFlood (advance 5 (wFlood .parked 1)) 6 (clFloodLc (sessClass (advance 5 (wFlood .parked 1)) (wAfter (wFlood .parked 1)))) true).2 = true := ⟨by decide +kernel, by decide +kernel, by decide +kernel, by decide +kernel⟩
theorem witness_SessionTimersTakeEffect_floodStart2 : amGet (wFlood .parked 0).sessions 6 = some (wAfter (wFlood .parked 0))
    ∧ floodDue (advance 5 (wFlood .parked 0)) (wAfter (wFlood .parked 0)) = true
    ∧ (wAfter (wFlood .parked 0)).state = .parked
    ∧ (startFlood (advance 5 (wFlood .parked 0)) 6 (clFloodLc (sessClass (advance 5 (wFlood .parked 0)) (wAfter (wFlood .parked 0)))) true).2 = false := ⟨by decide +kernel, by decide +kernel, by decide +kernel, by decide +kernel⟩
theorem witness_SessionTimersTakeEffect_floodStart3 : amGet (wFlood .ebbing 1).sessions 6 = some (wAfter (wFlood .ebbing 1))
    ∧ floodDue (advance 5 (wFlood .ebbing 1)) (wAfter (wFlood .ebbing 1)) = true
    ∧ (wAfter (wFlood .ebbing 1)).state = .ebbing := ⟨by decide +kernel, by decide +kernel, by decide +kernel⟩
theorem witness_SessionTimersTakeEffect_resumePmPassed : amGet ({ wSt .idle with sessions := [(6, { wSess .idle with waiting := true, resumePm := 5 })] } : State).sessions 6 = some ({ wSess .idle with waiting := true, resumePm := 5 } : Session)
    ∧ ({ wSess .idle with waiting := true, resumePm := 5 } : Session).state = .idle
    ∧ ({ wSess .idle with waiting := true, resumePm := 5 } : Session).waiting = true
    ∧ ({ wSess .idle with waiting := true, resumePm := 5 } : Session).resumePm ≠ 0
    ∧ ({ wSess .idle with waiting := true, resumePm := 5 } : Session).resumePm ≤ max ({ wSt .idle with sessions := [(6, { wSess .idle with waiting := true, resumePm := 5 })] } : State).postmark 5 := ⟨by decide +kernel, by decide +kernel, by decide +kernel, by decide +kernel, by decide +kernel⟩
theorem witness_SessionTimersTakeEffect_blockedRetry : amGet ({ wSt .idle with sessions := [(6, { wSess .idle with ebbBlocked := true })] } : State).sessions 6 = some ({ wSess .idle with ebbBlocked := true } : Session)
    ∧ ({ wSess .idle with ebbBlocked := true } : Session).state = .idle
    ∧ ({ wSess .idle with ebbBlocked := true } : Session).ebbBlocked = true
    ∧ (ebbClear (({ wSt .idle with sessions := [(6, { wSess .idle with ebbBlocked := true })] } : State).bundles.foldl (fun u e => if e.2.account = (handleAccount ({ wSess .idle with ebbBlocked := true } : Session).handle) ∧ e.2.flooding = true then raiseBundle u e.1 e.2.floodLc else u) (advance 5 ({ wSt .idle with sessions := [(6, { wSess .idle with ebbBlocked := true })] } : State))) 6 = true) := ⟨by decide +kernel, by decide +kernel, by decide +kernel, by decide +kernel⟩
theorem witness_SessionTimersTakeEffect_blockedRetry2 : amGet ({ wSt .idle with sessions := [(6, { wSess .parked with floodBlocked := true })] } : State).sessions 6 = some ({ wSess .parked with floodBlocked := true } : Session)
    ∧ ({ wSess .parked with floodBlocked := true } : Session).state = .parked
    ∧ ({ wSess .parked with floodBlocked := true } : Session).floodBlocked = true := ⟨by decide +kernel, by decide +kernel, by decide +kernel⟩
theorem witness_SessionTimersTakeEffect_sessionFreed : amGet (wSt .closing).sessions 6 = some (wSess .closing)
    ∧ (wSess .closing).state = .closing
    ∧ inflight (wSt .closing) 6 = 0 := ⟨by decide +kernel, by decide +kernel, by decide +kernel⟩
theorem witness_SessionTimersTakeEffect_descDirtyTimeout : amGet ({ wSt .idle with dcache := [(6, wDirty)] } : State).dcache 6 = some wDirty
    ∧ wDirty.dirty = true
    ∧ wDirty.dirtySince + 10000000 ≤ max ({ wSt .idle with dcache := [(6, wDirty)] } : State).postmark 10000000 := ⟨by decide +kernel, by decide +kernel, by decide +kernel⟩
theorem witness_SessionTimersTakeEffect_readTextWaitExpiry : amGet ({ wS with textReads := [(0, wText)] } : State).textReads 0 = some wText
    ∧ wText.until_ ≤ max ({ wS with textReads := [(0, wText)] } : State).postmark 5 := ⟨by decide +kernel, by decide +kernel⟩

theorem witness_EbbAndFloodProgressTakesEffect_copyStored : amGet wEbb.sessions 6 = some (wAfter wEbb)
    ∧ amGet (wAfter wEbb).refs (pk 0 0) = some wRef
    ∧ (wAfter wEbb).ebb = some (wEbbJob [0])
    ∧ (wEbbJob [0]).todo.contains (pk 0 0) = true
    ∧ recOf wEbb wRef = some wPage := ⟨by decide +kernel, by decide +kernel, by decide +kernel, by decide +kernel, by decide +kernel⟩
theorem witness_EbbAndFloodProgressTakesEffect_copyStored2 : amGet wMoving.sessions 6 = some (wAfter wMoving)
    ∧ amGet (wAfter wMoving).refs (pk 0 0) = some ({ tier := 1, format := 0, gen := 1, loc := 5 } : PRef)
    ∧ (wAfter wMoving).ebb = none
    ∧ (wAfter wMoving).move = some ({ todo := [0], tier := 2, reserve := 0 } : MoveJob)
    ∧ ({ todo := [0], tier := 2, reserve := 0 } : MoveJob).todo.contains (pk 0 0) = true := ⟨by decide +kernel, by decide +kernel, by decide +kernel, by decide +kernel, by decide +kernel⟩
theorem witness_EbbAndFloodProgressTakesEffect_ebbComplete : amGet wEbbed.sessions 6 = some (wAfter wEbbed)
    ∧ (wAfter wEbbed).ebb = some (wEbbJob [])
    ∧ (wAfter wEbbed).state = .ebbing
    ∧ (wEbbJob []).todo = []
    ∧ floodDue (retryGrants (checkPressure (noteQuotas (resolveWait (writeBack (modSession (modAccount (upd ((wEbbJob []).switched.foldl (fun u e => dropRef u e.2.loc) wEbbed) 6 (fun y => { y with state := .parked, ebb := none, ebbAtPm := 0, policyTier := none })) (handleAccount (wAfter wEbbed).handle) (fun c => if (wAfter wEbbed).predFlood then { c with floodsUnused := (c.floodsUnused + 1) % 2 ^ 32 } else c)) 6 (fun y => { y with predFlood := false })) 6) (.parked 6) rOk) (handleAccount (wAfter wEbbed).handle)))) (wAfter wEbbed) = false := ⟨by decide +kernel, by decide +kernel, by decide +kernel, by decide +kernel, by decide +kernel⟩
theorem witness_EbbAndFloodProgressTakesEffect_ebbComplete2 : amGet wEbbed2.sessions 6 = some (wAfter wEbbed2)
    ∧ (wAfter wEbbed2).ebb = some (wEbbJob [])
    ∧ (wAfter wEbbed2).state = .ebbing
    ∧ (wEbbJob []).todo = []
    ∧ floodDue (retryGrants (checkPressure (noteQuotas (resolveWait (writeBack (modSession (modAccount (upd ((wEbbJob []).switched.foldl (fun u e => dropRef u e.2.loc) wEbbed2) 6 (fun y => { y with state := .parked, ebb := none, ebbAtPm := 0, policyTier := none })) (handleAccount (wAfter wEbbed2).handle) (fun c => if (wAfter wEbbed2).predFlood then { c with floodsUnused := (c.floodsUnused + 1) % 2 ^ 32 } else c)) 6 (fun y => { y with predFlood := false })) 6) (.parked 6) rOk) (handleAccount (wAfter wEbbed2).handle)))) (wAfter wEbbed2) = true := ⟨by decide +kernel, by decide +kernel, by decide +kernel, by decide +kernel, by decide +kernel⟩
theorem witness_EbbAndFloodProgressTakesEffect_floodPageArrived : amGet wArrive.sessions 6 = some (wAfter wArrive)
    ∧ (wAfter wArrive).flood = some wFloodJob
    ∧ wFloodJob.todo.contains (pk 0 0) = true
    ∧ pageHere (advance 0 wArrive) (wAfter wArrive) wFloodJob (pk 0 0) = true
    ∧ ((wAfter wArrive).floodLc || !beHeld (advance 0 wArrive) (6 % 6)) = true := ⟨by decide +kernel, by decide +kernel, by decide +kernel, by decide +kernel, by decide +kernel⟩
theorem witness_EbbAndFloodProgressTakesEffect_bundleEbb : amGet wVix.bundles 4 = some ({ account := 1, classRef := { num := 1, ver := 1 }, body := [1#8], tier := 0, run := none } : Bundle)
    ∧ ({ account := 1, classRef := { num := 1, ver := 1 }, body := [1#8], tier := 0, run := none } : Bundle).tier = 0
    ∧ (wVix.sessions.any (fun e => handleAccount e.2.handle == ({ account := 1, classRef := { num := 1, ver := 1 }, body := [1#8], tier := 0, run := none } : Bundle).account && keepsBundles e.2)) = false
    ∧ bundlePinned wVix 4 = false
    ∧ ({ account := 1, classRef := { num := 1, ver := 1 }, body := [1#8], tier := 0, run := none } : Bundle).lastLive + 1000000 * clDelayMax (cfgBody wVix 3 ({ account := 1, classRef := { num := 1, ver := 1 }, body := [1#8], tier := 0, run := none } : Bundle).classRef) ≤ max wVix.postmark 0
    ∧ (objectTier (advance 0 wVix) ({ account := 1, classRef := { num := 1, ver := 1 }, body := [1#8], tier := 0, run := none } : Bundle).account (cfgBody wVix 3 ({ account := 1, classRef := { num := 1, ver := 1 }, body := [1#8], tier := 0, run := none } : Bundle).classRef) ({ account := 1, classRef := { num := 1, ver := 1 }, body := [1#8], tier := 0, run := none } : Bundle).body.length [({ account := 1, classRef := { num := 1, ver := 1 }, body := [1#8], tier := 0, run := none } : Bundle).body.length]).1 = some 2 := ⟨by decide +kernel, by decide +kernel, by decide +kernel, by decide +kernel, by decide +kernel, by decide +kernel⟩

theorem witness_PacketsReachTheirConnections_pageWrite : wPkt.port < 16
    ∧ accepting wTwc = true
    ∧ pktKnown (arrived wTwc opPageWrite wPkt) wPkt.port wPkt.srcIp wPkt.srcConn wPkt.dstConn = true
    ∧ amGet (arrived wTwc opPageWrite wPkt).tw.cache wPkt.dstConn = some ({ used := 0, fetching := false } : CacheEntry)
    ∧ ({ used := 0, fetching := false } : CacheEntry).fetching = false := ⟨by decide +kernel, by decide +kernel, by decide +kernel, by decide +kernel, by decide +kernel⟩
theorem witness_PacketsReachTheirConnections_stepEntry : wPkt.port < 16
    ∧ accepting wTwc = true
    ∧ pktKnown (arrived wTwc opStep wPkt) wPkt.port wPkt.srcIp wPkt.srcConn wPkt.dstConn = true
    ∧ amGet (arrived wTwc opStep wPkt).tw.cache wPkt.dstConn = some ({ used := 0, fetching := false } : CacheEntry)
    ∧ ({ used := 0, fetching := false } : CacheEntry).fetching = false := ⟨by decide +kernel, by decide +kernel, by decide +kernel, by decide +kernel, by decide +kernel⟩
theorem witness_PacketsReachTheirConnections_textRead : wPkt.port < 16
    ∧ accepting wTwc = true
    ∧ pktKnown (arrived wTwc opText wPkt) wPkt.port wPkt.srcIp wPkt.srcConn wPkt.dstConn = true
    ∧ amGet (arrived wTwc opText wPkt).tw.cache wPkt.dstConn = some ({ used := 0, fetching := false } : CacheEntry)
    ∧ ({ used := 0, fetching := false } : CacheEntry).fetching = false := ⟨by decide +kernel, by decide +kernel, by decide +kernel, by decide +kernel, by decide +kernel⟩
theorem witness_PacketsReachTheirConnections_bundleRead : wPkt.port < 16
    ∧ accepting wTwc = true
    ∧ pktKnown (arrived wTwc opBundle wPkt) wPkt.port wPkt.srcIp wPkt.srcConn wPkt.dstConn = true
    ∧ amGet (arrived wTwc opBundle wPkt).tw.cache wPkt.dstConn = some ({ used := 0, fetching := false } : CacheEntry)
    ∧ ({ used := 0, fetching := false } : CacheEntry).fetching = false := ⟨by decide +kernel, by decide +kernel, by decide +kernel, by decide +kernel, by decide +kernel⟩
theorem witness_PacketsReachTheirConnections_write : wPkt.port < 16
    ∧ accepting wTwc = true
    ∧ pktKnown (arrived wTwc opWrite wPkt) wPkt.port wPkt.srcIp wPkt.srcConn wPkt.dstConn = true
    ∧ amGet (arrived wTwc opWrite wPkt).tw.cache wPkt.dstConn = some ({ used := 0, fetching := false } : CacheEntry)
    ∧ ({ used := 0, fetching := false } : CacheEntry).fetching = false := ⟨by decide +kernel, by decide +kernel, by decide +kernel, by decide +kernel, by decide +kernel⟩
theorem witness_PacketsReachTheirConnections_write2 : wPkt.port < 16
    ∧ accepting wTwf = true
    ∧ pktKnown (arrived wTwf opWrite wPkt) wPkt.port wPkt.srcIp wPkt.srcConn wPkt.dstConn = true
    ∧ amGet (arrived wTwf opWrite wPkt).tw.cache wPkt.dstConn = some ({ used := 0, fetching := true } : CacheEntry)
    ∧ ({ used := 0, fetching := true } : CacheEntry).fetching = true := ⟨by decide +kernel, by decide +kernel, by decide +kernel, by decide +kernel, by decide +kernel⟩
theorem witness_PacketsReachTheirConnections_write3 : wPkt.port < 16
    ∧ accepting wTwOn = true
    ∧ pktKnown (arrived wTwOn opWrite wPkt) wPkt.port wPkt.srcIp wPkt.srcConn wPkt.dstConn = false := ⟨by decide +kernel, by decide +kernel, by decide +kernel⟩
theorem witness_PacketsReachTheirConnections_read : wPkt.port < 16
    ∧ accepting wTwc = true
    ∧ pktKnown (arrived wTwc opRead wPkt) wPkt.port wPkt.srcIp wPkt.srcConn wPkt.dstConn = true
    ∧ amGet (arrived wTwc opRead wPkt).tw.cache wPkt.dstConn = some ({ used := 0, fetching := false } : CacheEntry)
    ∧ ({ used := 0, fetching := false } : CacheEntry).fetching = false := ⟨by decide +kernel, by decide +kernel, by decide +kernel, by decide +kernel, by decide +kernel⟩
theorem witness_PacketsReachTheirConnections_respData : wPkt.port < 16
    ∧ accepting wTwc = true
    ∧ pktKnown (arrived wTwc opResp wPkt) wPkt.port wPkt.srcIp wPkt.srcConn wPkt.dstConn = true
    ∧ amGet (arrived wTwc opResp wPkt).tw.cache wPkt.dstConn = some ({ used := 0, fetching := false } : CacheEntry)
    ∧ ({ used := 0, fetching := false } : CacheEntry).fetching = false := ⟨by decide +kernel, by decide +kernel, by decide +kernel, by decide +kernel, by decide +kernel⟩
theorem witness_PacketsReachTheirConnections_completion : wPkt.port < 16
    ∧ accepting wTwc = true
    ∧ pktKnown (arrived wTwc opCompletion wPkt) wPkt.port wPkt.srcIp wPkt.srcConn wPkt.dstConn = true
    ∧ amGet (arrived wTwc opCompletion wPkt).tw.cache wPkt.dstConn = some ({ used := 0, fetching := false } : CacheEntry)
    ∧ ({ used := 0, fetching := false } : CacheEntry).fetching = false := ⟨by decide +kernel, by decide +kernel, by decide +kernel, by decide +kernel, by decide +kernel⟩
theorem witness_PacketsReachTheirConnections_shardSearch : wPkt.port < 16
    ∧ accepting wTwc = true
    ∧ pktKnown (arrived wTwc opSearch wPkt) wPkt.port wPkt.srcIp wPkt.srcConn wPkt.dstConn = true
    ∧ amGet (arrived wTwc opSearch wPkt).tw.cache wPkt.dstConn = some ({ used := 0, fetching := false } : CacheEntry)
    ∧ ({ used := 0, fetching := false } : CacheEntry).fetching = false := ⟨by decide +kernel, by decide +kernel, by decide +kernel, by decide +kernel, by decide +kernel⟩
theorem witness_PacketsReachTheirConnections_poolPut : wPkt.port < 16
    ∧ accepting wTwc = true
    ∧ pktKnown (arrived wTwc opPoolPut wPkt) wPkt.port wPkt.srcIp wPkt.srcConn wPkt.dstConn = true
    ∧ amGet (arrived wTwc opPoolPut wPkt).tw.cache wPkt.dstConn = some ({ used := 0, fetching := false } : CacheEntry)
    ∧ ({ used := 0, fetching := false } : CacheEntry).fetching = false := ⟨by decide +kernel, by decide +kernel, by decide +kernel, by decide +kernel, by decide +kernel⟩
theorem witness_PacketsReachTheirConnections_poolGet : wPkt.port < 16
    ∧ accepting wTwc = true
    ∧ pktKnown (arrived wTwc opPoolGet wPkt) wPkt.port wPkt.srcIp wPkt.srcConn wPkt.dstConn = true
    ∧ amGet (arrived wTwc opPoolGet wPkt).tw.cache wPkt.dstConn = some ({ used := 0, fetching := false } : CacheEntry)
    ∧ ({ used := 0, fetching := false } : CacheEntry).fetching = false := ⟨by decide +kernel, by decide +kernel, by decide +kernel, by decide +kernel, by decide +kernel⟩
theorem witness_PacketsReachTheirConnections_poolFree : wPkt.port < 16
    ∧ accepting wTwc = true
    ∧ pktKnown (arrived wTwc opPoolFree wPkt) wPkt.port wPkt.srcIp wPkt.srcConn wPkt.dstConn = true
    ∧ amGet (arrived wTwc opPoolFree wPkt).tw.cache wPkt.dstConn = some ({ used := 0, fetching := false } : CacheEntry)
    ∧ ({ used := 0, fetching := false } : CacheEntry).fetching = false := ⟨by decide +kernel, by decide +kernel, by decide +kernel, by decide +kernel, by decide +kernel⟩
theorem witness_PacketsReachTheirConnections_migrateOffer : wPkt.port < 16
    ∧ accepting wTwc = true
    ∧ pktKnown (arrived wTwc opMigrate wPkt) wPkt.port wPkt.srcIp wPkt.srcConn wPkt.dstConn = true
    ∧ amGet (arrived wTwc opMigrate wPkt).tw.cache wPkt.dstConn = some ({ used := 0, fetching := false } : CacheEntry)
    ∧ ({ used := 0, fetching := false } : CacheEntry).fetching = false := ⟨by decide +kernel, by decide +kernel, by decide +kernel, by decide +kernel, by decide +kernel⟩
theorem witness_PacketsReachTheirConnections_migratePages : wPkt.port < 16
    ∧ accepting wTwc = true
    ∧ pktKnown (arrived wTwc opMigrate wPkt) wPkt.port wPkt.srcIp wPkt.srcConn wPkt.dstConn = true
    ∧ amGet (arrived wTwc opMigrate wPkt).tw.cache wPkt.dstConn = some ({ used := 0, fetching := false } : CacheEntry)
    ∧ ({ used := 0, fetching := false } : CacheEntry).fetching = false := ⟨by decide +kernel, by decide +kernel, by decide +kernel, by decide +kernel, by decide +kernel⟩
theorem witness_PacketsReachTheirConnections_migratePrepare : wPkt.port < 16
    ∧ accepting wTwc = true
    ∧ pktKnown (arrived wTwc opMigrate wPkt) wPkt.port wPkt.srcIp wPkt.srcConn wPkt.dstConn = true
    ∧ amGet (arrived wTwc opMigrate wPkt).tw.cache wPkt.dstConn = some ({ used := 0, fetching := false } : CacheEntry)
    ∧ ({ used := 0, fetching := false } : CacheEntry).fetching = false := ⟨by decide +kernel, by decide +kernel, by decide +kernel, by decide +kernel, by decide +kernel⟩
theorem witness_PacketsReachTheirConnections_migrateCommit : wPkt.port < 16
    ∧ accepting wTwc = true
    ∧ pktKnown (arrived wTwc opMigrate wPkt) wPkt.port wPkt.srcIp wPkt.srcConn wPkt.dstConn = true
    ∧ amGet (arrived wTwc opMigrate wPkt).tw.cache wPkt.dstConn = some ({ used := 0, fetching := false } : CacheEntry)
    ∧ ({ used := 0, fetching := false } : CacheEntry).fetching = false := ⟨by decide +kernel, by decide +kernel, by decide +kernel, by decide +kernel, by decide +kernel⟩
theorem witness_PacketsReachTheirConnections_migrateCommit2 : wPkt.port < 16
    ∧ accepting wTwOn = true
    ∧ pktKnown (arrived wTwOn opMigrate wPkt) wPkt.port wPkt.srcIp wPkt.srcConn wPkt.dstConn = false := ⟨by decide +kernel, by decide +kernel, by decide +kernel⟩
theorem witness_PacketsReachTheirConnections_migrateAbort : wPkt.port < 16
    ∧ accepting wTwc = true
    ∧ pktKnown (arrived wTwc opMigrate wPkt) wPkt.port wPkt.srcIp wPkt.srcConn wPkt.dstConn = true
    ∧ amGet (arrived wTwc opMigrate wPkt).tw.cache wPkt.dstConn = some ({ used := 0, fetching := false } : CacheEntry)
    ∧ ({ used := 0, fetching := false } : CacheEntry).fetching = false := ⟨by decide +kernel, by decide +kernel, by decide +kernel, by decide +kernel, by decide +kernel⟩
theorem witness_PacketsReachTheirConnections_shape : getConn wTwc ({ wPkt with last := false } : TwPkt).dstConn = some ({ peerIp := 1, fn := 0, port := 0 } : Conn)
    ∧ pktShape ({ peerIp := 1, fn := 0, port := 0 } : Conn) ({ wPkt with last := false } : TwPkt) = false := ⟨by decide +kernel, by decide +kernel⟩
theorem witness_PacketsReachTheirConnections_dup : getConn wTwc ({ wPkt with psn := 2 ^ 32 - 1 } : TwPkt).dstConn = some ({ peerIp := 1, fn := 0, port := 0 } : Conn)
    ∧ pktShape ({ peerIp := 1, fn := 0, port := 0 } : Conn) ({ wPkt with psn := 2 ^ 32 - 1 } : TwPkt) = true
    ∧ getConn (noted wTwc ({ wPkt with psn := 2 ^ 32 - 1 } : TwPkt) ({ peerIp := 1, fn := 0, port := 0 } : Conn)) ({ wPkt with psn := 2 ^ 32 - 1 } : TwPkt).dstConn = some ({ peerIp := 1, fn := 0, port := 0, peerConn := 3, rcvCount := 1 } : Conn)
    ∧ (psnHeld ({ peerIp := 1, fn := 0, port := 0, peerConn := 3, rcvCount := 1 } : Conn) ({ wPkt with psn := 2 ^ 32 - 1 } : TwPkt).psn || ({ peerIp := 1, fn := 0, port := 0, peerConn := 3, rcvCount := 1 } : Conn).placing.any (fun q => q.msg.op == opWrite && q.psn == ({ wPkt with psn := 2 ^ 32 - 1 } : TwPkt).psn)) = true := ⟨by decide +kernel, by decide +kernel, by decide +kernel, by decide +kernel⟩
theorem witness_PacketsReachTheirConnections_ahead : getConn wTwc ({ wPkt with psn := 1024 } : TwPkt).dstConn = some ({ peerIp := 1, fn := 0, port := 0 } : Conn)
    ∧ pktShape ({ peerIp := 1, fn := 0, port := 0 } : Conn) ({ wPkt with psn := 1024 } : TwPkt) = true
    ∧ getConn (noted wTwc ({ wPkt with psn := 1024 } : TwPkt) ({ peerIp := 1, fn := 0, port := 0 } : Conn)) ({ wPkt with psn := 1024 } : TwPkt).dstConn = some ({ peerIp := 1, fn := 0, port := 0, peerConn := 3, rcvCount := 1 } : Conn)
    ∧ (psnHeld ({ peerIp := 1, fn := 0, port := 0, peerConn := 3, rcvCount := 1 } : Conn) ({ wPkt with psn := 1024 } : TwPkt).psn || ({ peerIp := 1, fn := 0, port := 0, peerConn := 3, rcvCount := 1 } : Conn).placing.any (fun q => q.msg.op == opWrite && q.psn == ({ wPkt with psn := 1024 } : TwPkt).psn)) = false
    ∧ 1024 ≤ serDiff ({ wPkt with psn := 1024 } : TwPkt).psn ({ peerIp := 1, fn := 0, port := 0, peerConn := 3, rcvCount := 1 } : Conn).cumPsn := ⟨by decide +kernel, by decide +kernel, by decide +kernel, by decide +kernel, by decide +kernel⟩
theorem witness_PacketsReachTheirConnections_fresh : getConn wTwc wPkt.dstConn = some ({ peerIp := 1, fn := 0, port := 0 } : Conn)
    ∧ pktShape ({ peerIp := 1, fn := 0, port := 0 } : Conn) wPkt = true
    ∧ getConn (noted wTwc wPkt ({ peerIp := 1, fn := 0, port := 0 } : Conn)) wPkt.dstConn = some ({ peerIp := 1, fn := 0, port := 0, peerConn := 3, rcvCount := 1 } : Conn)
    ∧ (psnHeld ({ peerIp := 1, fn := 0, port := 0, peerConn := 3, rcvCount := 1 } : Conn) wPkt.psn || ({ peerIp := 1, fn := 0, port := 0, peerConn := 3, rcvCount := 1 } : Conn).placing.any (fun q => q.msg.op == opWrite && q.psn == wPkt.psn)) = false
    ∧ serDiff wPkt.psn ({ peerIp := 1, fn := 0, port := 0, peerConn := 3, rcvCount := 1 } : Conn).cumPsn < 1024 := ⟨by decide +kernel, by decide +kernel, by decide +kernel, by decide +kernel, by decide +kernel⟩

theorem witness_TidewayTimersTakeEffect_ack : wAck.port < 16
    ∧ accepting wTwc = true
    ∧ pktKnown (frameIn wTwc wAck.port ((getConn wTwc wAck.dstConn).elim 110 (fun x => frameBytes (getPort wTwc wAck.port) x true 0))) wAck.port wAck.srcIp wAck.srcConn wAck.dstConn = true
    ∧ amGet (frameIn wTwc wAck.port ((getConn wTwc wAck.dstConn).elim 110 (fun x => frameBytes (getPort wTwc wAck.port) x true 0))).tw.cache wAck.dstConn = some ({ used := 0, fetching := false } : CacheEntry)
    ∧ ({ used := 0, fetching := false } : CacheEntry).fetching = false := ⟨by decide +kernel, by decide +kernel, by decide +kernel, by decide +kernel, by decide +kernel⟩
theorem witness_TidewayTimersTakeEffect_ack2 : wAck.port < 16
    ∧ accepting wTwOn = true
    ∧ pktKnown (frameIn wTwOn wAck.port ((getConn wTwOn wAck.dstConn).elim 110 (fun x => frameBytes (getPort wTwOn wAck.port) x true 0))) wAck.port wAck.srcIp wAck.srcConn wAck.dstConn = false := ⟨by decide +kernel, by decide +kernel, by decide +kernel⟩
theorem witness_TidewayTimersTakeEffect_rtoExpiry : getConn (wFly 100) 0 = some ({ peerIp := 1, fn := 0, port := 0, rto := 1, retries := 100, flight := [wOutPkt] } : Conn)
    ∧ ({ peerIp := 1, fn := 0, port := 0, rto := 1, retries := 100, flight := [wOutPkt] } : Conn).flight.find? (fun wOutPkt => !wOutPkt.acked) = some wOutPkt
    ∧ ({ peerIp := 1, fn := 0, port := 0, rto := 1, retries := 100, flight := [wOutPkt] } : Conn).failed = false
    ∧ ({ peerIp := 1, fn := 0, port := 0, rto := 1, retries := 100, flight := [wOutPkt] } : Conn).lastUna + ({ peerIp := 1, fn := 0, port := 0, rto := 1, retries := 100, flight := [wOutPkt] } : Conn).rto ≤ max (wFly 100).postmark 1
    ∧ retryLimit (modConn (count (advance 1 (wFly 100)) ({ peerIp := 1, fn := 0, port := 0, rto := 1, retries := 100, flight := [wOutPkt] } : Conn).port 14 1) 0 (fun y => { y with rto := min (rtoMax (count (advance 1 (wFly 100)) ({ peerIp := 1, fn := 0, port := 0, rto := 1, retries := 100, flight := [wOutPkt] } : Conn).port 14 1)) (2 * y.rto), retries := y.retries + 1, rate := max (minRate (count (advance 1 (wFly 100)) ({ peerIp := 1, fn := 0, port := 0, rto := 1, retries := 100, flight := [wOutPkt] } : Conn).port 14 1)) (y.rate / 2), lastDec := max (wFly 100).postmark 1, aiSince := max (wFly 100).postmark 1, aiMarked := false, lastUna := max (wFly 100).postmark 1, flight := y.flight.map (fun q => if q.psn = wOutPkt.psn then { q with retx := true } else q) })) < ({ peerIp := 1, fn := 0, port := 0, rto := 1, retries := 100, flight := [wOutPkt] } : Conn).retries + 1 := ⟨by decide +kernel, by decide +kernel, by decide +kernel, by decide +kernel, by decide +kernel⟩
theorem witness_TidewayTimersTakeEffect_rtoExpiry2 : getConn (wFly 0) 0 = some ({ peerIp := 1, fn := 0, port := 0, rto := 1, retries := 0, flight := [wOutPkt] } : Conn)
    ∧ ({ peerIp := 1, fn := 0, port := 0, rto := 1, retries := 0, flight := [wOutPkt] } : Conn).flight.find? (fun wOutPkt => !wOutPkt.acked) = some wOutPkt
    ∧ ({ peerIp := 1, fn := 0, port := 0, rto := 1, retries := 0, flight := [wOutPkt] } : Conn).failed = false
    ∧ ({ peerIp := 1, fn := 0, port := 0, rto := 1, retries := 0, flight := [wOutPkt] } : Conn).lastUna + ({ peerIp := 1, fn := 0, port := 0, rto := 1, retries := 0, flight := [wOutPkt] } : Conn).rto ≤ max (wFly 0).postmark 1
    ∧ ¬ retryLimit (modConn (count (advance 1 (wFly 0)) ({ peerIp := 1, fn := 0, port := 0, rto := 1, retries := 0, flight := [wOutPkt] } : Conn).port 14 1) 0 (fun y => { y with rto := min (rtoMax (count (advance 1 (wFly 0)) ({ peerIp := 1, fn := 0, port := 0, rto := 1, retries := 0, flight := [wOutPkt] } : Conn).port 14 1)) (2 * y.rto), retries := y.retries + 1, rate := max (minRate (count (advance 1 (wFly 0)) ({ peerIp := 1, fn := 0, port := 0, rto := 1, retries := 0, flight := [wOutPkt] } : Conn).port 14 1)) (y.rate / 2), lastDec := max (wFly 0).postmark 1, aiSince := max (wFly 0).postmark 1, aiMarked := false, lastUna := max (wFly 0).postmark 1, flight := y.flight.map (fun q => if q.psn = wOutPkt.psn then { q with retx := true } else q) })) < ({ peerIp := 1, fn := 0, port := 0, rto := 1, retries := 0, flight := [wOutPkt] } : Conn).retries + 1 := ⟨by decide +kernel, by decide +kernel, by decide +kernel, by decide +kernel, by decide +kernel⟩
theorem witness_TidewayTimersTakeEffect_ackDelayExpiry : getConn ({ wTw with tw := { wTwOn.tw with conns := [(0, { peerIp := 1, fn := 0, port := 0, unAcked := 1 })] } } : State) 0 = some ({ peerIp := 1, fn := 0, port := 0, unAcked := 1 } : Conn)
    ∧ ({ peerIp := 1, fn := 0, port := 0, unAcked := 1 } : Conn).failed = false
    ∧ ({ peerIp := 1, fn := 0, port := 0, unAcked := 1 } : Conn).unAcked ≠ 0
    ∧ ({ peerIp := 1, fn := 0, port := 0, unAcked := 1 } : Conn).unAckedPm + ackDelay ({ wTw with tw := { wTwOn.tw with conns := [(0, { peerIp := 1, fn := 0, port := 0, unAcked := 1 })] } } : State) ≤ max ({ wTw with tw := { wTwOn.tw with conns := [(0, { peerIp := 1, fn := 0, port := 0, unAcked := 1 })] } } : State).postmark 1000000 := ⟨by decide +kernel, by decide +kernel, by decide +kernel, by decide +kernel⟩
theorem witness_TidewayTimersTakeEffect_aiInterval : getConn wTw 0 = some ({ peerIp := 1, fn := 0, port := 0 } : Conn)
    ∧ ({ peerIp := 1, fn := 0, port := 0 } : Conn).failed = false
    ∧ ({ peerIp := 1, fn := 0, port := 0 } : Conn).aiSince + aiInterval wTw ≤ max wTw.postmark 1000000 := ⟨by decide +kernel, by decide +kernel, by decide +kernel⟩
theorem witness_TidewayTimersTakeEffect_priTimeout : getConn wTw 0 = some ({ peerIp := 1, fn := 0, port := 0 } : Conn) := by decide +kernel
theorem witness_TidewayTimersTakeEffect_contextFetched : amGet wTwf.tw.cache 0 = some ({ used := 0, fetching := true } : CacheEntry)
    ∧ getConn wTwf 0 = some ({ peerIp := 1, fn := 0, port := 0 } : Conn)
    ∧ ({ used := 0, fetching := true } : CacheEntry).fetching = true := ⟨by decide +kernel, by decide +kernel, by decide +kernel⟩
theorem witness_TidewayTimersTakeEffect_translationResponse : 1 ≠ 0 := by decide +kernel
theorem witness_TidewayTimersTakeEffect_translationResponse2 : 1 ≠ 0 := by decide +kernel
theorem witness_TidewayTimersTakeEffect_handover : getMigration wHand 6 = some wHandRec
    ∧ amGet wHand.sessions 6 = some (wSess .migrating)
    ∧ wHandRec.tag.isSome = true
    ∧ wHandRec.phase = 4 := ⟨by decide +kernel, by decide +kernel, by decide +kernel, by decide +kernel⟩
theorem witness_TidewayTimersTakeEffect_stubRelease : amGet ({ wSt .migrating with sessions := [(6, wStub)] } : State).sessions 6 = some wStub
    ∧ wStub.stub = true
    ∧ gracePassed (advance (10 ^ 15) ({ wSt .migrating with sessions := [(6, wStub)] } : State)) wStub = true
    ∧ openForwards ({ wSt .migrating with sessions := [(6, wStub)] } : State) 6 = false
    ∧ wStub.migrateEpoch ≤ ({ wSt .migrating with sessions := [(6, wStub)] } : State).chartEpoch
    ∧ getMigration ({ wSt .migrating with sessions := [(6, wStub)] } : State) 6 = none := ⟨by decide +kernel, by decide +kernel, by decide +kernel, by decide +kernel, by decide +kernel, by decide +kernel⟩

theorem witness_PortEventsTakeEffect_arpRequest : ipv4 (0xFFFF00000000 + 1) = true
    ∧ 0 < 16
    ∧ pcEnable (getPort (wIp (0xFFFF00000000 + 1)) 0) = true
    ∧ (getPort (wIp (0xFFFF00000000 + 1)) 0).ip.toNat = (0xFFFF00000000 + 1) := ⟨by decide +kernel, by decide +kernel, by decide +kernel, by decide +kernel⟩
theorem witness_PortEventsTakeEffect_arpRequest2 : ipv4 (0xFFFF00000000 + 1) = true
    ∧ (16 ≤ 0 ∨ pcEnable (getPort wS 0) = false ∨ (getPort wS 0).ip.toNat ≠ (0xFFFF00000000 + 1)) := ⟨by decide +kernel, by decide +kernel⟩
theorem witness_PortEventsTakeEffect_neighborSolicitation : ipv4 1 = false
    ∧ 0 < 16
    ∧ pcEnable (getPort (wIp 1) 0) = true
    ∧ (getPort (wIp 1) 0).ip.toNat = 1 := ⟨by decide +kernel, by decide +kernel, by decide +kernel, by decide +kernel⟩
theorem witness_PortEventsTakeEffect_macControlFrame : 15 < 16 := by decide +kernel
theorem witness_PortEventsTakeEffect_frameDropped : 15 < 16 := by decide +kernel
theorem witness_PortEventsTakeEffect_portUp : 15 < 16
    ∧ pcEnable (getPort wPort 15) = true
    ∧ (getPort wPort 15).up = false
    ∧ wPort.faults.regionsDown.contains (6 + 15 / 8) = false
    ∧ wPort.faults.runs.any (fun q => q.region == 6 + 15 / 8 || q.region == 8) = false := ⟨by decide +kernel, by decide +kernel, by decide +kernel, by decide +kernel, by decide +kernel⟩
theorem witness_PortEventsTakeEffect_portDown : 15 < 16
    ∧ (getPort ({ wS with tw := { ports := [(15, { cfg := 1#64, up := true })] } } : State) 15).up = true := ⟨by decide +kernel, by decide +kernel⟩
theorem witness_PortEventsTakeEffect_fecDegraded : 15 < 16 := by decide +kernel

theorem witness_WindowAccessesTakeEffect_memRead : memOk wCxl 0 0 = true
    ∧ 2 < 3 := ⟨by decide +kernel, by decide +kernel⟩
theorem witness_WindowAccessesTakeEffect_memWrite : memOk wOwned 0 0 = true
    ∧ fullMask = fullMask
    ∧ owns (leaveSlack wOwned 4) 0 (0 / 64) = true := ⟨by decide +kernel, by decide +kernel, by decide +kernel⟩
theorem witness_WindowAccessesTakeEffect_memWrite2 : memOk wOwned 0 0 = true
    ∧ (1 ≠ fullMask ∨ owns (leaveSlack wOwned 4) 0 (0 / 64) = false) := ⟨by decide +kernel, by decide +kernel⟩
theorem witness_WindowAccessesTakeEffect_writeBack : memOk wOwned 0 0 = true
    ∧ owns (leaveSlack wOwned 4) 0 (0 / 64) = true := ⟨by decide +kernel, by decide +kernel⟩
theorem witness_WindowAccessesTakeEffect_writeBack2 : memOk wCxl 0 0 = true
    ∧ owns (leaveSlack wCxl 4) 0 (0 / 64) = false := ⟨by decide +kernel, by decide +kernel⟩
theorem witness_WindowAccessesTakeEffect_birspi : wSnooped.win.snoops.find? (fun wSnoop => wSnoop.host == 0 && wSnoop.line == 0 / 64 && wSnoop.issued.isSome) = some wSnoop := by decide +kernel
theorem witness_WindowAccessesTakeEffect_snoopTimeoutExpired : wSnooped.win.snoops.any (fun p => p.host == 0 && p.line == 0 / 64 && (match p.issued with | some t => decide (t + liveVal wSnooped .snoopTimeout * 1000000 ≤ max wSnooped.postmark 1000000000000) | none => false)) = true := by decide +kernel
theorem witness_WindowAccessesTakeEffect_hmWindowAccess : wCore.hm.running ≠ 0
    ∧ 0 < 2 ^ 41
    ∧ 0 % 64 = 0 := ⟨by decide +kernel, by decide +kernel, by decide +kernel⟩
theorem witness_WindowAccessesTakeEffect_hmWindowAccess2 : wCore.hm.running ≠ 0
    ∧ 0 < 2 ^ 41
    ∧ 0 % 64 = 0 := ⟨by decide +kernel, by decide +kernel, by decide +kernel⟩
theorem witness_WindowAccessesTakeEffect_hmWindowAccess3 : ({ wCore with win := { dir := [(0, { holders := [16], owned := true, granted := 0 })] } } : State).hm.running ≠ 0
    ∧ 0 < 2 ^ 41
    ∧ 0 % 64 = 0
    ∧ owns ({ wCore with win := { dir := [(0, { holders := [16], owned := true, granted := 0 })] } } : State) 16 (0 / 64) = true := ⟨by decide +kernel, by decide +kernel, by decide +kernel, by decide +kernel⟩
theorem witness_WindowAccessesTakeEffect_hmWindowAccess4 : wCore.hm.running ≠ 0
    ∧ 0 < 2 ^ 41
    ∧ 0 % 64 = 0
    ∧ owns wCore 16 (0 / 64) = false := ⟨by decide +kernel, by decide +kernel, by decide +kernel, by decide +kernel⟩

theorem witness_WindowCapacityTakesEffect_addDynamicCapacityResponse : amGet (wGrant true).win.grants (extKey 0 0 * 32 + 0) = some (wGrantRec true)
    ∧ (wGrantRec true).framesHeld = true
    ∧ hostVersion (wGrant true) 0 = 3 := ⟨by decide +kernel, by decide +kernel, by decide +kernel⟩
theorem witness_WindowCapacityTakesEffect_addExtentTimeout : amGet (wGrant true).win.grants (extKey 0 0 * 32 + 0) = some (wGrantRec true)
    ∧ (wGrantRec true).since + 1000000000 ≤ max (wGrant true).postmark 1000000000
    ∧ (wGrantRec true).framesHeld = true := ⟨by decide +kernel, by decide +kernel, by decide +kernel⟩
theorem witness_WindowCapacityTakesEffect_addExtentTimeout2 : amGet (wGrant false).win.grants (extKey 0 0 * 32 + 0) = some (wGrantRec false)
    ∧ (wGrantRec false).since + 1000000000 ≤ max (wGrant false).postmark 1000000000
    ∧ (wGrantRec false).framesHeld = false := ⟨by decide +kernel, by decide +kernel, by decide +kernel⟩
theorem witness_WindowCapacityTakesEffect_addExtentTimeout3 : amGet (wGrant false).win.grants (extKey 0 0 * 32 + 0) = some (wGrantRec false)
    ∧ max (wGrant false).postmark 0 < (wGrantRec false).since + 1000000000 := ⟨by decide +kernel, by decide +kernel⟩
theorem witness_WindowCapacityTakesEffect_releaseDynamicCapacity : hostVersion (wGrant true) 0 = 3
    ∧ (getExt (wGrant true) (extKey 0 0)).hosts.contains 0 = true := ⟨by decide +kernel, by decide +kernel⟩
theorem witness_WindowCapacityTakesEffect_releaseDynamicCapacity2 : hostVersion (wGrant true) 0 = 3
    ∧ (getExt (wGrant true) (extKey 0 5)).hosts.contains 0 = false := ⟨by decide +kernel, by decide +kernel⟩
theorem witness_WindowCapacityTakesEffect_scrubComplete : amGet ({ wS with win := { extents := [(0, { scrubbing := true })] } } : State).win.extents (extKey 0 0) = some ({ scrubbing := true } : Extent)
    ∧ ({ scrubbing := true } : Extent).scrubbing = true := ⟨by decide +kernel, by decide +kernel⟩

theorem witness_CxlMailboxTakesEffect_clearPoison : memOk wCxl 0 0 = true := by decide +kernel
theorem witness_CxlMailboxTakesEffect_clearPoison2 : memOk wS 0 0 = false := by decide +kernel
theorem witness_CxlMailboxTakesEffect_identifyMemoryDevice : hostVersion wCxl 0 = 3 := by decide +kernel
theorem witness_CxlMailboxTakesEffect_identifyMemoryDevice2 : hostVersion wCxl2 0 = 2 := by decide +kernel
theorem witness_CxlMailboxTakesEffect_clearEventRecords : hostVersion wCxl 0 ≠ 0 := by decide +kernel
theorem witness_CxlMailboxTakesEffect_bindLd : switchedPort wSwitch 0 = true
    ∧ 15 < 16
    ∧ wSwitch.win.lds.contains ((1 - 0) * 16 + 15) = false := ⟨by decide +kernel, by decide +kernel, by decide +kernel⟩
theorem witness_CxlMailboxTakesEffect_bindLd2 : switchedPort wSwitch 0 = true
    ∧ (16 ≤ 16 ∨ wSwitch.win.lds.contains ((1 - 0) * 16 + 16) = true) := ⟨by decide +kernel, by decide +kernel⟩
theorem witness_CxlMailboxTakesEffect_unbindLd : switchedPort wSwitch 0 = true := by decide +kernel
theorem witness_CxlMailboxTakesEffect_getLdInfo : switchedPort wSwitch 0 = true := by decide +kernel

theorem witness_FlashOperationsTakeEffect_flashReadDone : amGet (wMed true .closed).media.shingles 0 = some (wShin .closed)
    ∧ amGet (wMed true .closed).media.luns (((wShin .closed).units.drop 1).headD 0 / 65536) = some (wLun true)
    ∧ (wLun true).online = true
    ∧ (((wMed true .closed).media.state = 3 ∨ (wMed true .closed).media.state = 4))
    ∧ (wShin .closed).st ≠ .erasing
    ∧ 0 < (wShin .closed).rows
    ∧ 1 < (wShin .closed).units.length := ⟨by decide +kernel, by decide +kernel, by decide +kernel, by decide +kernel, by decide +kernel, by decide +kernel, by decide +kernel⟩
theorem witness_FlashOperationsTakeEffect_flashReadDone2 : amGet (wMed false .closed).media.shingles 0 = some (wShin .closed)
    ∧ amGet (wMed false .closed).media.luns (((wShin .closed).units.drop 1).headD 0 / 65536) = some (wLun false)
    ∧ (wLun false).online = false
    ∧ (((wMed false .closed).media.state = 3 ∨ (wMed false .closed).media.state = 4))
    ∧ (wShin .closed).st ≠ .erasing
    ∧ 0 < (wShin .closed).rows
    ∧ 1 < (wShin .closed).units.length
    ∧ (UnitRead.lost = UnitRead.rebuilt ∨ UnitRead.lost = UnitRead.lost) := ⟨by decide +kernel, by decide +kernel, by decide +kernel, by decide +kernel, by decide +kernel, by decide +kernel, by decide +kernel, by decide +kernel⟩
theorem witness_FlashOperationsTakeEffect_programDone : amGet (wMed true .closed).media.shingles 0 = some (wShin .closed)
    ∧ (((wMed true .closed).media.state = 3 ∨ (wMed true .closed).media.state = 4))
    ∧ ((wShin .closed).st = .opened ∨ (wShin .closed).st = .closed)
    ∧ (wShin .closed).rows < rowsDue (wMed true .closed) (wShin .closed)
    ∧ 1 < (wShin .closed).units.length
    ∧ (wShin .closed).rowUnits.contains 1 = false := ⟨by decide +kernel, by decide +kernel, by decide +kernel, by decide +kernel, by decide +kernel, by decide +kernel⟩
theorem witness_FlashOperationsTakeEffect_programDone2 : amGet (wMed true .closed).media.shingles 0 = some (wShin .closed)
    ∧ (((wMed true .closed).media.state = 3 ∨ (wMed true .closed).media.state = 4))
    ∧ ((wShin .closed).st = .opened ∨ (wShin .closed).st = .closed)
    ∧ (wShin .closed).rows < rowsDue (wMed true .closed) (wShin .closed)
    ∧ 1 < (wShin .closed).units.length
    ∧ (wShin .closed).rowUnits.contains 1 = false := ⟨by decide +kernel, by decide +kernel, by decide +kernel, by decide +kernel, by decide +kernel, by decide +kernel⟩
theorem witness_FlashOperationsTakeEffect_eraseDone : amGet (wErase true).media.shingles 0 = some (wShinE true)
    ∧ (((wErase true).media.state = 3 ∨ (wErase true).media.state = 4))
    ∧ (wShinE true).st = .erasing
    ∧ 1 < (wShinE true).units.length
    ∧ (wShinE true).erased.contains 1 = false
    ∧ (match amGet (wErase true).media.luns ((((wShinE true).units.drop 1).headD 0) / 65536) with | some l => !l.online | none => true) = false
    ∧ ((List.range (wShinE true).units.length).all (fun i => (1 :: (wShinE true).erased).contains i || (match amGet (wErase true).media.luns (((wShinE true).units.drop i).headD 0 / 65536) with | some l => !l.online | none => true))) = true := ⟨by decide +kernel, by decide +kernel, by decide +kernel, by decide +kernel, by decide +kernel, by decide +kernel, by decide +kernel⟩
theorem witness_FlashOperationsTakeEffect_eraseDone2 : amGet (wErase false).media.shingles 0 = some (wShinE false)
    ∧ (((wErase false).media.state = 3 ∨ (wErase false).media.state = 4))
    ∧ (wShinE false).st = .erasing
    ∧ 1 < (wShinE false).units.length
    ∧ (wShinE false).erased.contains 1 = false
    ∧ (match amGet (wErase false).media.luns ((((wShinE false).units.drop 1).headD 0) / 65536) with | some l => !l.online | none => true) = false
    ∧ ((List.range (wShinE false).units.length).all (fun i => (1 :: (wShinE false).erased).contains i || (match amGet (wErase false).media.luns (((wShinE false).units.drop i).headD 0 / 65536) with | some l => !l.online | none => true))) = false := ⟨by decide +kernel, by decide +kernel, by decide +kernel, by decide +kernel, by decide +kernel, by decide +kernel, by decide +kernel⟩
theorem witness_FlashOperationsTakeEffect_flashOperationTimeout : amGet (wMed true .closed).media.luns (0 * 32 + 1) = some (wLun true)
    ∧ (wLun true).online = true
    ∧ 1 < 32
    ∧ (((wMed true .closed).media.state = 3 ∨ (wMed true .closed).media.state = 4)) := ⟨by decide +kernel, by decide +kernel, by decide +kernel, by decide +kernel⟩

theorem witness_MediaTimersTakeEffect_rowFillTimeout : amGet (wMed true .opened).media.shingles 0 = some (wShin .opened)
    ∧ (wShin .opened).st = .opened
    ∧ (wShin .opened).ptr % rowBlocks (wMed true .opened) (wShin .opened).chans.length ≠ 0
    ∧ (wShin .opened).partSince + 1000000 ≤ max (wMed true .opened).postmark 1000000 := ⟨by decide +kernel, by decide +kernel, by decide +kernel, by decide +kernel⟩
theorem witness_MediaTimersTakeEffect_relocateShingle : (amHas wMarked.pow.holds 37 || amHas wMarked.pow.holds 38 || amHas wMarked.pow.holds 39) = false
    ∧ (wMarked.media.state = 3 ∨ (wMarked.media.state = 4 ∧ 0 < freeShingles wMarked))
    ∧ relocateNext (advance 0 wMarked) = some (0, 1) := ⟨by decide +kernel, by decide +kernel, by decide +kernel⟩
theorem witness_MediaTimersTakeEffect_retentionScan : amGet (wMed true .closed).media.shingles 0 = some (wShin .closed)
    ∧ (((wMed true .closed).media.state = 3 ∨ (wMed true .closed).media.state = 4))
    ∧ (wShin .closed).st = .closed
    ∧ [(0, false), (0, true)].length = (wShin .closed).units.length := ⟨by decide +kernel, by decide +kernel, by decide +kernel, by decide +kernel⟩
theorem witness_MediaTimersTakeEffect_refreshBehind : (rearmBehind (advance 90000000000000 wMarked)).media.behindPosted = false
    ∧ (((rearmBehind (advance 90000000000000 wMarked)).media.state = 3 ∨ (rearmBehind (advance 90000000000000 wMarked)).media.state = 4))
    ∧ (refreshWaiting (rearmBehind (advance 90000000000000 wMarked))).any (fun e => decide (e.2 + 86400000000000 < (rearmBehind (advance 90000000000000 wMarked)).postmark)) = true := ⟨by decide +kernel, by decide +kernel, by decide +kernel⟩
theorem witness_MediaTimersTakeEffect_formatRecordHourly : ({ wS with media := { state := 3, wallOffset := some 0 } } : State).media.wallOffset.isSome = true
    ∧ ((({ wS with media := { state := 3, wallOffset := some 0 } } : State).media.state = 3 ∨ ({ wS with media := { state := 3, wallOffset := some 0 } } : State).media.state = 4))
    ∧ ({ wS with media := { state := 3, wallOffset := some 0 } } : State).media.hourPm + 3600000000000 ≤ max ({ wS with media := { state := 3, wallOffset := some 0 } } : State).postmark 3600000000000 := ⟨by decide +kernel, by decide +kernel, by decide +kernel⟩

theorem witness_IsthmusEventsTakeEffect_buddyHeartbeat : linked (wIst 16) = true := by decide +kernel
theorem witness_IsthmusEventsTakeEffect_buddyLost : bound (wIst 16) = true
    ∧ (wIst 16).pair.restartUntil = none
    ∧ (wIst 16).pair.lastFlit + 1000000 ≤ max (wIst 16).postmark 1000000 := ⟨by decide +kernel, by decide +kernel, by decide +kernel⟩
theorem witness_IsthmusEventsTakeEffect_buddyAnnounce : bound (advance 1 (leaveFlit (wIst 16))) = true := by decide +kernel
theorem witness_IsthmusEventsTakeEffect_buddyAnnounce2 : bound (advance 1 (leaveFlit (wIst 16))) = true := by decide +kernel
theorem witness_IsthmusEventsTakeEffect_buddyRestartTimeout : ({ wIst 16 with pair := { status := 2, restartUntil := some 5 } } : State).pair.restartUntil = some 5
    ∧ 5 ≤ max ({ wIst 16 with pair := { status := 2, restartUntil := some 5 } } : State).postmark 5 := ⟨by decide +kernel, by decide +kernel⟩
theorem witness_IsthmusEventsTakeEffect_linkDegraded : 1 < 2
    ∧ 8 < (getHalf (wIst 16) 1).lanes
    ∧ (8 = 0 ∨ 8 = 8) := ⟨by decide +kernel, by decide +kernel, by decide +kernel⟩
theorem witness_IsthmusEventsTakeEffect_isthmusHalfUp : 1 < 2
    ∧ (8 = 8 ∨ 8 = 16)
    ∧ (getHalf wS 1).lanes = 0
    ∧ true ≠ wS.pair.strap
    ∧ wS.faults.regionsDown.contains (6 + 1) = false
    ∧ wS.faults.runs.any (fun q => q.region == 6 + 1 || q.region == 8) = false := ⟨by decide +kernel, by decide +kernel, by decide +kernel, by decide +kernel, by decide +kernel, by decide +kernel⟩
theorem witness_IsthmusEventsTakeEffect_pairKeyUpdate : 1 < 2
    ∧ bound (wIst 16) = true
    ∧ (getHalf (wIst 16) 1).lanes ≠ 0
    ∧ (2 ^ 32 ≤ (getHalf (wIst 16) 1).flits ∨ (getHalf (wIst 16) 1).keySince + dayNs ≤ max (wIst 16).postmark 86400000000000) := ⟨by decide +kernel, by decide +kernel, by decide +kernel, by decide +kernel⟩
theorem witness_IsthmusEventsTakeEffect_buddyPairBind : linked (leaveFlit ({ wIst 16 with pair := { half0 := { lanes := 16 } } } : State)) = true
    ∧ bound (leaveFlit ({ wIst 16 with pair := { half0 := { lanes := 16 } } } : State)) = false
    ∧ 50 ≤ 50
    ∧ 100 ≤ 100 := ⟨by decide +kernel, by decide +kernel, by decide +kernel, by decide +kernel⟩

theorem witness_HarbourCopiesTakeEffect_parkCopy : (leaveFlit wHost).pair.hosted = some wHarb
    ∧ 0 + (parkFramesOf wCopy.body.length) ≤ wHarb.parkMax
    ∧ wHarb.park.any (fun e => decide (e.1 < 0 + (parkFramesOf wCopy.body.length)) && decide (0 < e.1 + parkFramesOf e.2.body.length)) = false := ⟨by decide +kernel, by decide +kernel, by decide +kernel⟩
theorem witness_HarbourCopiesTakeEffect_mirrorCopy : bound (leaveFlit wMirror) = true
    ∧ (leaveFlit wMirror).media.state = 3
    ∧ (leaveFlit wMirror).media.mirrors.length < 4194304
    ∧ mediaPlace (leaveFlit wMirror) 6 { handle := wCopy.handle, device := wCopy.device, mirror := true, tail := wCopy.tail, blocks := copyBlocks wCopy.body.length, copy := { account := wCopy.account, layer := wCopy.layer, page := wCopy.page, size := wCopy.body.length, format := wCopy.format, gen := wCopy.gen, filled := wCopy.filled, narrowed := wCopy.narrowed, mirrored := false, chainId := if wCopy.chainId = 0 then none else some wCopy.chainId }, body := wCopy.body } = (some wMirrorAt.1, wMirrorAt.2) := ⟨by decide +kernel, by decide +kernel, by decide +kernel, by decide +kernel⟩
theorem witness_HarbourCopiesTakeEffect_releaseNotice : (leaveFlit wHost).pair.hosted = some wHarb := by decide +kernel
theorem witness_HarbourCopiesTakeEffect_releaseNotice2 : amGet (leaveFlit ({ wHost with pair := { frozen := [(1, wHarb)] } } : State)).pair.frozen 1 = some wHarb := by decide +kernel
theorem witness_HarbourCopiesTakeEffect_epochStart : epochDue (advance 1 (wIst 16)) = true := by decide +kernel
theorem witness_HarbourCopiesTakeEffect_checkpointDelta : (leaveFlit wHost).pair.hosted = some wHarb
    ∧ bound (leaveFlit wHost) = true := ⟨by decide +kernel, by decide +kernel⟩
theorem witness_HarbourCopiesTakeEffect_commitRecord : (leaveFlit wHost2).pair.hosted = some wHarb2
    ∧ (match wHarb2.cur with | some (b, _, _) => if b = wRec.epoch then wHarb2 else openSlot wHarb2 wRec.epoch | none => openSlot wHarb2 wRec.epoch) = wHarb2
    ∧ wHarb2.cur = some (1, 0, crc64Init)
    ∧ bound (leaveFlit wHost2) = true
    ∧ recordValid wRec (wRec.epoch % 2) wHarb2.source = true
    ∧ 0 = wRec.byteCount
    ∧ (crc64Init ^^^ 0xFFFFFFFFFFFFFFFF) = wRec.epochCrc
    ∧ namesMade wHarb2 (if wRec.epoch % 2 = 0 then wHarb2.slotA else wHarb2.slotB) = true := ⟨by decide +kernel, by decide +kernel, by decide +kernel, by decide +kernel, by decide +kernel, by decide +kernel, by decide +kernel, by decide +kernel⟩
theorem witness_HarbourCopiesTakeEffect_epochCommitted : (leaveFlit ({ wIst 16 with pair := { status := 2, run := some wEpoch } } : State)).pair.run = some wEpoch
    ∧ wEpoch.num = 1
    ∧ bound (leaveFlit ({ wIst 16 with pair := { status := 2, run := some wEpoch } } : State)) = true := ⟨by decide +kernel, by decide +kernel, by decide +kernel⟩
theorem witness_HarbourCopiesTakeEffect_isthmusReadData : amGet (leaveFlit (wRead (.flood 6 0))).pair.reads 0 = some (.flood 6 0) := by decide +kernel
theorem witness_HarbourCopiesTakeEffect_isthmusReadData2 : amGet (leaveFlit (wRead (.flood 6 0))).pair.reads 0 = some (.flood 6 0)
    ∧ (∀ c, HarbourData.nothing ≠ .copy c) := ⟨(by first | decide +kernel | (intro c h; cases h)), (by first | decide +kernel | (intro c h; cases h))⟩
theorem witness_HarbourCopiesTakeEffect_isthmusReadData3 : amGet (leaveFlit (wRead (.mirror 0))).pair.reads 0 = some (.mirror 0)
    ∧ mediaAt (modPair (leaveFlit (wRead (.mirror 0))) (fun p => { p with reads := amErase p.reads 0 })) 0 = some wMcopy := ⟨by decide +kernel, by decide +kernel⟩
theorem witness_HarbourCopiesTakeEffect_isthmusReadData4 : amGet (leaveFlit (wRead (.device))).pair.reads 0 = some .device
    ∧ (leaveFlit (wRead (.device))).pair.restore = some wRestore := ⟨by decide +kernel, by decide +kernel⟩
theorem witness_HarbourCopiesTakeEffect_isthmusReadData5 : amGet (leaveFlit (wRead (.session 6 2))).pair.reads 0 = some (.session 6 2) := by decide +kernel
theorem witness_HarbourCopiesTakeEffect_isthmusReadData6 : amGet (leaveFlit (wRead (.session 6 2))).pair.reads 0 = some (.session 6 2) := by decide +kernel

theorem witness_ErrorsAreDetected_attentionCellError : wS.boot.stage = 3
    ∧ wS.beached = false := ⟨by decide +kernel, by decide +kernel⟩
theorem witness_ErrorsAreDetected_cellError : wS.boot.stage = 3
    ∧ wS.beached = false := ⟨by decide +kernel, by decide +kernel⟩
theorem witness_ErrorsAreDetected_connectionCacheError : wS.boot.stage = 3
    ∧ wS.beached = false := ⟨by decide +kernel, by decide +kernel⟩
theorem witness_ErrorsAreDetected_coreError : wS.boot.stage = 3
    ∧ wS.beached = false := ⟨by decide +kernel, by decide +kernel⟩
theorem witness_ErrorsAreDetected_blockError : wS.boot.stage = 3
    ∧ wS.beached = false := ⟨by decide +kernel, by decide +kernel⟩
theorem witness_ErrorsAreDetected_descriptorCacheError : wS.boot.stage = 3
    ∧ wS.beached = false := ⟨by decide +kernel, by decide +kernel⟩
theorem witness_ErrorsAreDetected_hbmUncorrectable : wS.boot.stage = 3
    ∧ wS.beached = false := ⟨by decide +kernel, by decide +kernel⟩
theorem witness_ErrorsAreDetected_regionError : wS.boot.stage = 3
    ∧ wS.beached = false := ⟨by decide +kernel, by decide +kernel⟩
theorem witness_ErrorsAreDetected_chipError : wS.boot.stage = 3
    ∧ wS.beached = false := ⟨by decide +kernel, by decide +kernel⟩
theorem witness_ErrorsAreDetected_railOutOfRange : wS.boot.stage = 3
    ∧ wS.beached = false := ⟨by decide +kernel, by decide +kernel⟩
theorem witness_ErrorsAreDetected_pmbAlertN : wS.boot.stage = 3
    ∧ wS.beached = false := ⟨by decide +kernel, by decide +kernel⟩
theorem witness_ErrorsAreDetected_correctedError : wS.boot.stage = 3
    ∧ wS.beached = false := ⟨by decide +kernel, by decide +kernel⟩
theorem witness_ErrorsAreDetected_correctedError2 : wS.boot.stage = 3
    ∧ wS.beached = false := ⟨by decide +kernel, by decide +kernel⟩
theorem witness_ErrorsAreDetected_detect : (¬ ((wErr 0 2).unit.region = 8 ∧ ((wErr 0 2).level = 1 ∨ (wErr 0 2).level = 2))) := by decide +kernel
theorem witness_ErrorsAreDetected_detectChip : (wErr 8 1).unit.region = 8
    ∧ ((wErr 8 1).level = 1 ∨ (wErr 8 1).level = 2) := ⟨by decide +kernel, by decide +kernel⟩

theorem witness_FaultRecoveryTakesEffect_cellSelfTestDone : (wHandling 0).boot.stage = 3
    ∧ (wHandling 0).beached = false
    ∧ (settleContained (advance 1 (wHandling 0))).faults.handling.find? (fun g => g.unit = ({ region := 0, kind := 1, index := 0, cell := some 0 } : ErrUnit) && g.until_.isNone && g.level == 0) = some (wHandle 0) := ⟨by decide +kernel, by decide +kernel, by decide +kernel⟩
theorem witness_FaultRecoveryTakesEffect_regionReturn : (wHandling 2).boot.stage = 3
    ∧ (wHandling 2).beached = false
    ∧ (settleContained (advance 1 (wHandling 2))).faults.handling.find? (fun g => g.level == 2 && g.unit.region == 0) = some (wHandle 2)
    ∧ (settleContained (advance 1 (wHandling 2))).faults.runs.find? (fun r => r.region == 0) = some ({ region := 0, kind := 0, dirty := [] } : RegionRun) := ⟨by decide +kernel, by decide +kernel, by decide +kernel, by decide +kernel⟩
theorem witness_FaultRecoveryTakesEffect_chipRestartDone : (wHandling 3).boot.stage = 3
    ∧ (wHandling 3).beached = false
    ∧ (settleContained (advance 1 (wHandling 3))).faults.handling.find? (fun g => g.level == 3) = some (wHandle 3) := ⟨by decide +kernel, by decide +kernel, by decide +kernel⟩

theorem witness_TelemetryTakesEffect_lighthouseSounding : wS.aon = true := by decide +kernel
theorem witness_TelemetryTakesEffect_lighthouseRecord : ({ wS with faults := { soundings := [wMeters] } } : State).aon = true
    ∧ ({ wS with faults := { soundings := [wMeters] } } : State).faults.soundings ≠ [] := ⟨by decide +kernel, by decide +kernel⟩
theorem witness_TelemetryTakesEffect_pldmSensorRead : 2 ≤ wS.boot.stage := by decide +kernel
theorem witness_TelemetryTakesEffect_vendorStatus : 2 ≤ wS.boot.stage := by decide +kernel
theorem witness_TelemetryTakesEffect_vendorLog : 2 ≤ wS.boot.stage := by decide +kernel
theorem witness_TelemetryTakesEffect_alertResponse : 2 ≤ ({ wS with faults := { alert := true } } : State).boot.stage
    ∧ ({ wS with faults := { alert := true } } : State).faults.alert = true := ⟨by decide +kernel, by decide +kernel⟩
theorem witness_TelemetryTakesEffect_pldmFirmwareUpdate : 3 ≤ wS.boot.stage
    ∧ wS.beached = false
    ∧ 1 < 2
    ∧ 0 + [1#8].length ≤ 32505344
    ∧ (wS.boot.stage = 4 ∨ 1 = spareSlot wS) := ⟨by decide +kernel, by decide +kernel, by decide +kernel, by decide +kernel, by decide +kernel⟩
theorem witness_TelemetryTakesEffect_pldmFirmwareUpdate2 : 3 ≤ wS.boot.stage
    ∧ wS.beached = false
    ∧ (2 ≤ 0 ∨ 32505344 < 0 + [1#8].length ∨ (wS.boot.stage ≠ 4 ∧ 0 ≠ spareSlot wS)) := ⟨by decide +kernel, by decide +kernel, by decide +kernel⟩
theorem witness_TelemetryTakesEffect_pldmFirmwareUpdate3 : 3 ≤ wS.boot.stage
    ∧ wS.beached = false
    ∧ 1 < 2
    ∧ (activateRefuse wS 1 wFound).all (fun r => r.isNone) = true := ⟨by decide +kernel, by decide +kernel, by decide +kernel, by decide +kernel⟩
theorem witness_TelemetryTakesEffect_pldmFirmwareUpdate4 : 3 ≤ wS.boot.stage
    ∧ wS.beached = false
    ∧ (2 ≤ 0 ∨ (activateRefuse wS 0 wFound).all (fun r => r.isNone) = false) := ⟨by decide +kernel, by decide +kernel, by decide +kernel⟩

theorem witness_AttestationTakesEffect_getVersion : spdmOpen wSpdm .i3c = true := by decide +kernel
theorem witness_AttestationTakesEffect_getCapabilities : spdmOpen wSpdm .i3c = true
    ∧ 1 ≤ (peerOf (leaveSlack wSpdm 6) .i3c).phase := ⟨by decide +kernel, by decide +kernel⟩
theorem witness_AttestationTakesEffect_negotiateAlgorithms : spdmOpen wSpdm .i3c = true
    ∧ 2 ≤ (peerOf (leaveSlack wSpdm 6) .i3c).phase
    ∧ true = true := ⟨by decide +kernel, by decide +kernel, by decide +kernel⟩
theorem witness_AttestationTakesEffect_getDigests : spdmOpen wSpdm .i3c = true
    ∧ 3 ≤ (peerOf (leaveSlack wSpdm 6) .i3c).phase := ⟨by decide +kernel, by decide +kernel⟩
theorem witness_AttestationTakesEffect_getCertificate : spdmOpen wSpdm .i3c = true
    ∧ 1 < 2
    ∧ 3 ≤ (peerOf (leaveSlack wSpdm 6) .i3c).phase := ⟨by decide +kernel, by decide +kernel, by decide +kernel⟩
theorem witness_AttestationTakesEffect_challenge : spdmOpen wSpdm .i3c = true
    ∧ 1 < 2
    ∧ 3 ≤ (peerOf (leaveSlack wSpdm 6) .i3c).phase := ⟨by decide +kernel, by decide +kernel, by decide +kernel⟩
theorem witness_AttestationTakesEffect_getMeasurements : spdmOpen wSpdm .i3c = true
    ∧ ((if 5 = 0xFF then List.range 0x50 else [5]).filterMap (fun i => (measureBlock (leaveSlack wSpdm 6) i).map (fun b => (i, b)))).isEmpty = false
    ∧ 3 ≤ (peerOf (leaveSlack wSpdm 6) .i3c).phase := ⟨by decide +kernel, by decide +kernel, by decide +kernel⟩
theorem witness_AttestationTakesEffect_keyExchange : spdmOpen wSpdm .i3c = true
    ∧ 3 ≤ (peerOf (leaveSlack wSpdm 6) .i3c).phase
    ∧ 1 < 2 := ⟨by decide +kernel, by decide +kernel, by decide +kernel⟩
theorem witness_AttestationTakesEffect_finish : spdmOpen wSpdm .i3c = true
    ∧ amGet (peerOf (leaveSlack wSpdm 6) .i3c).sessions 2 = some false := ⟨by decide +kernel, by decide +kernel⟩
theorem witness_AttestationTakesEffect_finish2 : spdmOpen wSpdm .i3c = true
    ∧ amGet (peerOf (leaveSlack wSpdm 6) .i3c).sessions 2 = some false := ⟨by decide +kernel, by decide +kernel⟩
theorem witness_AttestationTakesEffect_spdmHeartbeat : spdmOpen wSpdm .i3c = true
    ∧ amGet (peerOf (leaveSlack wSpdm 6) .i3c).sessions 1 = some true := ⟨by decide +kernel, by decide +kernel⟩
theorem witness_AttestationTakesEffect_spdmKeyUpdate : spdmOpen wSpdm .i3c = true
    ∧ amGet (peerOf (leaveSlack wSpdm 6) .i3c).sessions 1 = some true := ⟨by decide +kernel, by decide +kernel⟩
theorem witness_AttestationTakesEffect_endSession : spdmOpen wSpdm .i3c = true
    ∧ amGet (peerOf (leaveSlack wSpdm 6) .i3c).sessions 1 = some true := ⟨by decide +kernel, by decide +kernel⟩
theorem witness_AttestationTakesEffect_vendorDefinedRequest : spdmOpen wSpdm .i3c = true
    ∧ amGet (peerOf (leaveSlack wSpdm 6) .i3c).sessions 1 = some true := ⟨by decide +kernel, by decide +kernel⟩
theorem witness_AttestationTakesEffect_vendorDefinedRequest2 : spdmOpen wSpdm .i3c = true := by decide +kernel
theorem witness_AttestationTakesEffect_spdmHeartbeat2 : spdmOpen wSpdm .i3c = true
    ∧ amGet (peerOf (leaveSlack wSpdm 6) .i3c).sessions 2 ≠ some true := ⟨by decide +kernel, by decide +kernel⟩
theorem witness_AttestationTakesEffect_endSession2 : spdmOpen wSpdm .i3c = true
    ∧ amGet (peerOf (leaveSlack wSpdm 6) .i3c).sessions 2 ≠ some true := ⟨by decide +kernel, by decide +kernel⟩
theorem witness_AttestationTakesEffect_getVersion2 : spdmOpen wOff .i3c = false := by decide +kernel

theorem witness_DebugAndConsentTakeEffect_debugUnlock : wS.sec.debug = false
    ∧ 2 ≤ wS.boot.stage
    ∧ wS.beached = false := ⟨by decide +kernel, by decide +kernel, by decide +kernel⟩
theorem witness_DebugAndConsentTakeEffect_consentExpiry : amGet wDebug.sec.consents 1 = some ({ scope := 3, until_ := 5 } : Consent)
    ∧ ({ scope := 3, until_ := 5 } : Consent).until_ ≤ max wDebug.postmark 5 := ⟨by decide +kernel, by decide +kernel⟩
theorem witness_DebugAndConsentTakeEffect_debugPortAccess : wDebug.beached = false
    ∧ wDebug.sec.debug = true := ⟨by decide +kernel, by decide +kernel⟩
theorem witness_DebugAndConsentTakeEffect_debugPortAccess2 : wS.sec.debug = false := by decide +kernel
theorem witness_DebugAndConsentTakeEffect_debugPortAccess3 : wDebug.beached = false
    ∧ wDebug.sec.debug = true
    ∧ bit (consentScope wDebug 1) 1 = true := ⟨by decide +kernel, by decide +kernel, by decide +kernel⟩
theorem witness_DebugAndConsentTakeEffect_debugPortAccess4 : (wDebug.sec.debug = false ∨ bit (consentScope wDebug 2) 1 = false) := by decide +kernel
theorem witness_DebugAndConsentTakeEffect_debugPortAccess5 : ({ wS with boot := { stage := 4 } } : State).beached = false
    ∧ ({ wS with boot := { stage := 4 } } : State).boot.stage = 4 := ⟨by decide +kernel, by decide +kernel⟩

theorem witness_PowerStatesTakeEffect_wakeAdmit : wWaking.pow.wakes.find? (fun v => v.dom == 0) = some wWake
    ∧ wWaking.pow.wakes.any (fun v => domRegion v.dom == domRegion 0 && wakeBefore v wWake) = false
    ∧ rampCharge (advance 1 wWaking) (domRegion 0) + (wakeCost 0).1 ≤ 20 := ⟨by decide +kernel, by decide +kernel, by decide +kernel⟩
theorem witness_PowerStatesTakeEffect_wakeAdmit2 : wWaking2.pow.wakes.find? (fun v => v.dom == 0) = some wWake
    ∧ (wWaking2.pow.wakes.any (fun v => domRegion v.dom == domRegion 0 && wakeBefore v wWake) = true ∨ 20 < rampCharge (advance 1 wWaking2) (domRegion 0) + (wakeCost 0).1) := ⟨by decide +kernel, by decide +kernel⟩
theorem witness_PowerStatesTakeEffect_wakeReady : wRamping2.pow.ramps.find? (fun r => r.dom == 0 && decide (r.ready ≤ (advance 1 wRamping2).postmark)) = some wRamp
    ∧ 0 < 84
    ∧ 0 % 14 < 8
    ∧ blockOut (setDom (modPow (advance 1 wRamping2) (fun p => { p with ramps := p.ramps.filter (· != wRamp) })) 0 0) (domRegion 0) (0 % 14) = true := ⟨by decide +kernel, by decide +kernel, by decide +kernel, by decide +kernel⟩
theorem witness_PowerStatesTakeEffect_wakeReady2 : wRamping.pow.ramps.find? (fun r => r.dom == 0 && decide (r.ready ≤ (advance 1 wRamping).postmark)) = some wRamp
    ∧ 0 < 84
    ∧ 0 % 14 < 8
    ∧ blockOut (setDom (modPow (advance 1 wRamping) (fun p => { p with ramps := p.ramps.filter (· != wRamp) })) 0 0) (domRegion 0) (0 % 14) = false := ⟨by decide +kernel, by decide +kernel, by decide +kernel, by decide +kernel⟩
theorem witness_PowerStatesTakeEffect_wakeReady3 : ({ wS with pow := { ramps := [{ wRamp with dom := 8 }] } } : State).pow.ramps.find? (fun r => r.dom == 8 && decide (r.ready ≤ (advance 1 ({ wS with pow := { ramps := [{ wRamp with dom := 8 }] } } : State)).postmark)) = some ({ wRamp with dom := 8 } : Ramp)
    ∧ (84 ≤ 8 ∨ 8 ≤ 8 % 14) := ⟨by decide +kernel, by decide +kernel⟩
theorem witness_PowerStatesTakeEffect_blockIdleGate : ({ wS with live := [(liveKey (.warmReserve 0), { value := 4 })] } : State).pow.state = 0
    ∧ getDom ({ wS with live := [(liveKey (.warmReserve 0), { value := 4 })] } : State) 7 = 0
    ∧ 7 < 84
    ∧ 7 % 14 < 8
    ∧ ((blockOn (advance 600000 ({ wS with live := [(liveKey (.warmReserve 0), { value := 4 })] } : State)) (7 / 14) (7 % 14) && (getBlock (advance 600000 ({ wS with live := [(liveKey (.warmReserve 0), { value := 4 })] } : State)) (7 / 14) (7 % 14)).running.isNone && (getBlock (advance 600000 ({ wS with live := [(liveKey (.warmReserve 0), { value := 4 })] } : State)) (7 / 14) (7 % 14)).queued.isEmpty && (getBlock (advance 600000 ({ wS with live := [(liveKey (.warmReserve 0), { value := 4 })] } : State)) (7 / 14) (7 % 14)).waiting.isEmpty && decide ((getBlock (advance 600000 ({ wS with live := [(liveKey (.warmReserve 0), { value := 4 })] } : State)) (7 / 14) (7 % 14)).sincePm + 500000 ≤ max ({ wS with live := [(liveKey (.warmReserve 0), { value := 4 })] } : State).postmark 600000)) && !((reserveOrder.reverse.takeWhile (· != 7 % 14)).any (fun b => (blockOn (advance 600000 ({ wS with live := [(liveKey (.warmReserve 0), { value := 4 })] } : State)) (7 / 14) b && (getBlock (advance 600000 ({ wS with live := [(liveKey (.warmReserve 0), { value := 4 })] } : State)) (7 / 14) b).running.isNone && (getBlock (advance 600000 ({ wS with live := [(liveKey (.warmReserve 0), { value := 4 })] } : State)) (7 / 14) b).queued.isEmpty && (getBlock (advance 600000 ({ wS with live := [(liveKey (.warmReserve 0), { value := 4 })] } : State)) (7 / 14) b).waiting.isEmpty && decide ((getBlock (advance 600000 ({ wS with live := [(liveKey (.warmReserve 0), { value := 4 })] } : State)) (7 / 14) b).sincePm + 500000 ≤ max ({ wS with live := [(liveKey (.warmReserve 0), { value := 4 })] } : State).postmark 600000)))) && !(reserveOf (advance 600000 ({ wS with live := [(liveKey (.warmReserve 0), { value := 4 })] } : State)) (7 / 14)).contains (7 % 14) && decide (liveVal ({ wS with live := [(liveKey (.warmReserve 0), { value := 4 })] } : State) (.warmReserve (7 / 14)) < onBlocks (advance 600000 ({ wS with live := [(liveKey (.warmReserve 0), { value := 4 })] } : State)) (7 / 14))) = true := ⟨by decide +kernel, by decide +kernel, by decide +kernel, by decide +kernel, by decide +kernel⟩
theorem witness_PowerStatesTakeEffect_blockIdleGate2 : wS.pow.state = 0
    ∧ getDom wS 8 = 0
    ∧ (84 ≤ 8 ∨ 8 ≤ 8 % 14)
    ∧ domIdle (advance 1000000000000 wS) 8 = true := ⟨by decide +kernel, by decide +kernel, by decide +kernel, by decide +kernel⟩
theorem witness_PowerStatesTakeEffect_slackEnter : accepting wCalm = true
    ∧ wCalm.pow.state = 0
    ∧ liveVal wCalm .pwrCtrl % 2 = 1
    ∧ quiet (advance 1000000000000 wCalm) true = true := ⟨by decide +kernel, by decide +kernel, by decide +kernel, by decide +kernel⟩
theorem witness_PowerStatesTakeEffect_slackEntered : ({ wS with pow := { state := 1 } } : State).pow.state = 1 := by decide +kernel
theorem witness_PowerStatesTakeEffect_leavingScheduled : (scheduled (advance 5 ({ wSt .idle with sessions := [(6, { wSess .idle with ebbAtPm := 5 })], pow := { state := 2 } } : State))).any (fun t => decide (t ≤ max ({ wSt .idle with sessions := [(6, { wSess .idle with ebbAtPm := 5 })], pow := { state := 2 } } : State).postmark 5 + 50000)) = true := by decide +kernel

theorem witness_ClockRulesTakeEffect_neighbourCheck : joined 0 1 = true
    ∧ ((advance 1 wCorr).faults.regionsDown.contains 0 || (advance 1 wCorr).faults.runs.any (fun q => q.region == 0)) = false
    ∧ ((advance 1 wCorr).faults.regionsDown.contains 1 || (advance 1 wCorr).faults.runs.any (fun q => q.region == 1)) = false
    ∧ wCorr.beached = false
    ∧ beyond 0 1000000 0 = true
    ∧ (advance 1 wCorr).pow.corrections.any (fun c => c.a == 0 && c.b == 1 && c.quantity == 0) = true := ⟨by decide +kernel, by decide +kernel, by decide +kernel, by decide +kernel, by decide +kernel, by decide +kernel⟩
theorem witness_ClockRulesTakeEffect_neighbourCheck2 : joined 0 1 = true
    ∧ ((advance 1 wS).faults.regionsDown.contains 0 || (advance 1 wS).faults.runs.any (fun q => q.region == 0)) = false
    ∧ ((advance 1 wS).faults.regionsDown.contains 1 || (advance 1 wS).faults.runs.any (fun q => q.region == 1)) = false
    ∧ wS.beached = false
    ∧ beyond 0 1000000 0 = true
    ∧ (advance 1 wS).pow.corrections.any (fun c => c.a == 0 && c.b == 1 && c.quantity == 0) = false := ⟨by decide +kernel, by decide +kernel, by decide +kernel, by decide +kernel, by decide +kernel, by decide +kernel⟩
theorem witness_ClockRulesTakeEffect_neighbourCheck3 : joined 0 1 = true
    ∧ ((advance 1 wCorr).faults.regionsDown.contains 0 || (advance 1 wCorr).faults.runs.any (fun q => q.region == 0)) = false
    ∧ ((advance 1 wCorr).faults.regionsDown.contains 1 || (advance 1 wCorr).faults.runs.any (fun q => q.region == 1)) = false
    ∧ wCorr.beached = false
    ∧ beyond 0 0 0 = false := ⟨by decide +kernel, by decide +kernel, by decide +kernel, by decide +kernel, by decide +kernel⟩
theorem witness_ClockRulesTakeEffect_neighbourLimitTimeout : wCorr.pow.corrections.find? (fun c => c.a == 0 && c.b == 1 && c.quantity == 0) = some wCorrection
    ∧ wCorrection.since + 10000000 ≤ max wCorr.postmark 10000000
    ∧ wCorr.boot.stage = 3
    ∧ wCorr.beached = false := ⟨by decide +kernel, by decide +kernel, by decide +kernel, by decide +kernel⟩
theorem witness_ClockRulesTakeEffect_thermalCheck : wS.boot.stage = 3
    ∧ wS.beached = false
    ∧ trips (List.replicate 10 800) (thermalActs (List.replicate 10 800) (List.replicate 12 800) (advance 1 wS)) = false := ⟨by decide +kernel, by decide +kernel, by decide +kernel⟩
theorem witness_ClockRulesTakeEffect_thermalCheck2 : wS.boot.stage = 3
    ∧ wS.beached = false
    ∧ trips (List.replicate 10 1680) (thermalActs (List.replicate 10 1680) (List.replicate 12 800) (advance 1 wS)) = true
    ∧ (thermSignal (modPow (thermalActs (List.replicate 10 1680) (List.replicate 12 800) (advance 1 wS)) (fun p => { p with trip := true })) (List.replicate 10 1680) (List.replicate 12 800)).boot.stage = 3
    ∧ (thermSignal (modPow (thermalActs (List.replicate 10 1680) (List.replicate 12 800) (advance 1 wS)) (fun p => { p with trip := true })) (List.replicate 10 1680) (List.replicate 12 800)).beached = false := ⟨by decide +kernel, by decide +kernel, by decide +kernel, by decide +kernel, by decide +kernel⟩
theorem witness_ClockRulesTakeEffect_thermalCheck3 : 2 ≤ wTest.boot.stage
    ∧ (wTest.beached = true ∨ wTest.boot.stage ≠ 3) := ⟨by decide +kernel, by decide +kernel⟩
theorem witness_ClockRulesTakeEffect_powerCapCheck : accepting (wHot true) = true
    ∧ liveVal (wHot true) .powerCap ≠ 0
    ∧ 1000 * liveVal (wHot true) .powerCap < inputMean (advance 1 (wHot true))
    ∧ (wHot true).pow.capped = true := ⟨by decide +kernel, by decide +kernel, by decide +kernel, by decide +kernel⟩
theorem witness_ClockRulesTakeEffect_powerCapCheck2 : accepting (wHot false) = true
    ∧ liveVal (wHot false) .powerCap ≠ 0
    ∧ 1000 * liveVal (wHot false) .powerCap < inputMean (advance 1 (wHot false))
    ∧ (wHot false).pow.capped = false := ⟨by decide +kernel, by decide +kernel, by decide +kernel, by decide +kernel⟩
theorem witness_ClockRulesTakeEffect_powerCapCheck3 : accepting wS = true
    ∧ (liveVal wS .powerCap = 0 ∨ inputMean (advance 1 wS) ≤ 1000 * liveVal wS .powerCap)
    ∧ wS.pow.capped = false := ⟨by decide +kernel, by decide +kernel, by decide +kernel⟩
theorem witness_ClockRulesTakeEffect_powerCapCheck4 : accepting (wWarm 100) = true
    ∧ (liveVal (wWarm 100) .powerCap = 0 ∨ inputMean (advance 1 (wWarm 100)) ≤ 1000 * liveVal (wWarm 100) .powerCap)
    ∧ (wWarm 100).pow.capped = true
    ∧ liveVal (wWarm 100) .powerCap ≠ 0
    ∧ 95 * (1000 * liveVal (wWarm 100) .powerCap) ≤ 100 * inputMean (advance 1 (wWarm 100)) := ⟨by decide +kernel, by decide +kernel, by decide +kernel, by decide +kernel, by decide +kernel⟩
theorem witness_ClockRulesTakeEffect_powerCapCheck5 : accepting (wWarm 50) = true
    ∧ (liveVal (wWarm 50) .powerCap = 0 ∨ inputMean (advance 1 (wWarm 50)) ≤ 1000 * liveVal (wWarm 50) .powerCap)
    ∧ (wWarm 50).pow.capped = true
    ∧ (liveVal (wWarm 50) .powerCap = 0 ∨ 100 * inputMean (advance 1 (wWarm 50)) < 95 * (1000 * liveVal (wWarm 50) .powerCap))
    ∧ (liveVal (wWarm 50) .powerCap ≠ 0 ∧ max (wWarm 50).postmark 1 < ((wWarm 50).pow.underSince.getD (max (wWarm 50).postmark 1)) + 100000000) := ⟨by decide +kernel, by decide +kernel, by decide +kernel, by decide +kernel, by decide +kernel⟩
theorem witness_ClockRulesTakeEffect_powerCapCheck6 : accepting ({ wS with pow := { capped := true, clocks := [(3, (4, 0))] } } : State) = true
    ∧ (liveVal ({ wS with pow := { capped := true, clocks := [(3, (4, 0))] } } : State) .powerCap = 0 ∨ inputMean (advance 1 ({ wS with pow := { capped := true, clocks := [(3, (4, 0))] } } : State)) ≤ 1000 * liveVal ({ wS with pow := { capped := true, clocks := [(3, (4, 0))] } } : State) .powerCap)
    ∧ ({ wS with pow := { capped := true, clocks := [(3, (4, 0))] } } : State).pow.capped = true
    ∧ (liveVal ({ wS with pow := { capped := true, clocks := [(3, (4, 0))] } } : State) .powerCap = 0 ∨ 100 * inputMean (advance 1 ({ wS with pow := { capped := true, clocks := [(3, (4, 0))] } } : State)) < 95 * (1000 * liveVal ({ wS with pow := { capped := true, clocks := [(3, (4, 0))] } } : State) .powerCap))
    ∧ (liveVal ({ wS with pow := { capped := true, clocks := [(3, (4, 0))] } } : State) .powerCap = 0 ∨ (({ wS with pow := { capped := true, clocks := [(3, (4, 0))] } } : State).pow.underSince.getD (max ({ wS with pow := { capped := true, clocks := [(3, (4, 0))] } } : State).postmark 1)) + 100000000 ≤ max ({ wS with pow := { capped := true, clocks := [(3, (4, 0))] } } : State).postmark 1)
    ∧ [0, 1, 2, 3, 4, 5].any (fun k => decide (clockN ([0, 1, 2, 3, 4, 5].foldl (fun u k => raiseClock u k 3 10000000) (modPow (advance 1 ({ wS with pow := { capped := true, clocks := [(3, (4, 0))] } } : State)) (fun p => { p with overSince := none, underSince := some (({ wS with pow := { capped := true, clocks := [(3, (4, 0))] } } : State).pow.underSince.getD (max ({ wS with pow := { capped := true, clocks := [(3, (4, 0))] } } : State).postmark 1)) }))) k 3 < 8)) = true := ⟨by decide +kernel, by decide +kernel, by decide +kernel, by decide +kernel, by decide +kernel, by decide +kernel⟩
theorem witness_ClockRulesTakeEffect_powerCapCheck7 : accepting ({ wS with pow := { capped := true } } : State) = true
    ∧ (liveVal ({ wS with pow := { capped := true } } : State) .powerCap = 0 ∨ inputMean (advance 1 ({ wS with pow := { capped := true } } : State)) ≤ 1000 * liveVal ({ wS with pow := { capped := true } } : State) .powerCap)
    ∧ ({ wS with pow := { capped := true } } : State).pow.capped = true
    ∧ (liveVal ({ wS with pow := { capped := true } } : State) .powerCap = 0 ∨ 100 * inputMean (advance 1 ({ wS with pow := { capped := true } } : State)) < 95 * (1000 * liveVal ({ wS with pow := { capped := true } } : State) .powerCap))
    ∧ (liveVal ({ wS with pow := { capped := true } } : State) .powerCap = 0 ∨ (({ wS with pow := { capped := true } } : State).pow.underSince.getD (max ({ wS with pow := { capped := true } } : State).postmark 1)) + 100000000 ≤ max ({ wS with pow := { capped := true } } : State).postmark 1)
    ∧ [0, 1, 2, 3, 4, 5].any (fun k => decide (clockN ([0, 1, 2, 3, 4, 5].foldl (fun u k => raiseClock u k 3 10000000) (modPow (advance 1 ({ wS with pow := { capped := true } } : State)) (fun p => { p with overSince := none, underSince := some (({ wS with pow := { capped := true } } : State).pow.underSince.getD (max ({ wS with pow := { capped := true } } : State).postmark 1)) }))) k 3 < 8)) = false := ⟨by decide +kernel, by decide +kernel, by decide +kernel, by decide +kernel, by decide +kernel, by decide +kernel⟩
theorem witness_ClockRulesTakeEffect_reserveShort : 0 < 6
    ∧ (clearShort (advance 1 wShort)).pow.state = 0
    ∧ reserveHeld (clearShort (advance 1 wShort)) 0 = false
    ∧ (clearShort (advance 1 wShort)).pow.shortPosted.contains 0 = false
    ∧ (clearShort (advance 1 wShort)).regionsOut.contains 0 = false := ⟨by decide +kernel, by decide +kernel, by decide +kernel, by decide +kernel, by decide +kernel⟩

theorem witness_StepRunsTheFrontCommand_step : ({ wS with pending := [.powerUp] } : State).pending = .powerUp :: [] := rfl

theorem witness_EmptyQueueLetsTimePass_on : wS.pending = []
    ∧ wS.aon = true := ⟨rfl, rfl⟩
theorem witness_EmptyQueueLetsTimePass_off : ({ wS with aon := false } : State).pending = []
    ∧ ({ wS with aon := false } : State).aon = false := ⟨rfl, rfl⟩

theorem witness_FirmwareStaysConsistent_inv : FirmwareInv State.reset
    ∧ step State.reset = .next { State.reset with postmark := 1 } := ⟨(by first | rfl | exact ⟨rfl, rfl, by decide, fun h => absurd h (by decide), rfl, rfl⟩), (by first | rfl | exact ⟨rfl, rfl, by decide, fun h => absurd h (by decide), rfl, rfl⟩)⟩

theorem witness_OnlyBootCommandsTouchFirmware_frame : bootCommand (.identify wH) = false
    ∧ exec (.identify wH) State.reset = .next State.reset := ⟨rfl, rfl⟩
theorem witness_OnlyBootCommandsTouchFirmware_fuse : exec (.identify wH) State.reset = .next State.reset := rfl

theorem witness_RefusedRingCommandsOnlyAnswer_refused : canStart wS wH.fn .admin wH.serial = true
    ∧ (identifySpec { wH with set := 3 }).waits wS = false
    ∧ ringRefusal (identifySpec { wH with set := 3 }) { wH with set := 3 } (begun wS { wH with set := 3 } .admin) = some (rInvalid 1) := ⟨by decide +kernel, by decide +kernel, by decide +kernel⟩
theorem witness_RefusedRingCommandsOnlyAnswer_set : (((getFn wS ({ wH with set := 3 } : Hdr).fn).set3 = true ∧ ({ wH with set := 3 } : Hdr).set ≠ 3) ∨ ((getFn wS ({ wH with set := 3 } : Hdr).fn).set3 = false ∧ ({ wH with set := 3 } : Hdr).set ≠ 4)) := by decide +kernel

theorem witness_NoTagLeavesTheEntry_none : tagAvailable wFull wH.fn = false := by decide +kernel
theorem witness_NoTagLeavesTheEntry_some : Takes wS wH .admin (identifySpec wH) := ⟨by decide +kernel, by decide +kernel, by decide +kernel⟩

theorem witness_SlackWaterStartsNoIdleEpoch_quiet : wSlack.pow.state = 2
    ∧ wSlack.pair.lastStart = some 5
    ∧ wSlack.pair.received = false
    ∧ (∀ e ∈ wSlack.sessions, e.2.ckptDirty = false ∧ e.2.ckptSteps < wSlack.pair.stepsTrigger) := ⟨by decide +kernel, by decide +kernel, by decide +kernel, by decide +kernel⟩

theorem witness_BadEventDepthKeepsEventsOff_depth : (getFn wS 0).eventEn = false
    ∧ (∀ k, 6 ≤ k → k ≤ 12 → (getFn wS 0).eventCfg.toNat % 2 ^ 13 ≠ 2 ^ k) := ⟨(by first | decide +kernel | (intro k h g; interval_cases k <;> decide +kernel)), (by first | decide +kernel | (intro k h g; interval_cases k <;> decide +kernel))⟩

theorem witness_WriteBacksStoreTheirLineAlone_back : wOwned.pow.state = 0
    ∧ memOk wOwned 0 0 = true
    ∧ owns wOwned 0 (0 / 64) = true
    ∧ wOwned.win.reqs = []
    ∧ wOwned.win.releases = []
    ∧ Memory.wf wOwned.win.mem = true := ⟨(by first | rfl | decide +kernel), (by first | rfl | decide +kernel), (by first | rfl | decide +kernel), (by first | rfl | decide +kernel), (by first | rfl | decide +kernel), (by first | rfl | decide +kernel)⟩

end
end

section
/-! SUPPORT. The block with no command waiting (R730, R731): what `step` and `idle` do then, and the statement about it. -/

namespace Sys2Proof.Machine

theorem step_of_pending_nil {s : State} (h : s.pending = []) : step s = .next (idle s) := by
  simp only [step, h]

theorem idle_of_aon {s : State} (h : s.aon = true) : idle s = { s with postmark := s.postmark + 1 } :=
  if_pos h

theorem idle_of_aon_off {s : State} (h : s.aon = false) : idle s = s :=
  if_neg (by simp [h])

/-- Settles O52: with an empty queue a step is `idle`, which turns on the always-on domain's power alone. -/
theorem emptyQueueLetsTimePass : Obligations.EmptyQueueLetsTimePass :=
  ⟨fun _ hq ha => (step_of_pending_nil hq).trans (congrArg _ (idle_of_aon ha)),
    fun _ hq ha => (step_of_pending_nil hq).trans (congrArg _ (idle_of_aon_off ha))⟩

end Sys2Proof.Machine
end

section
/-! SUPPORT. The timed events of a session (Sessions and Floods, R124, R130, R131, R136, R211, R218, R219, R229, R234, R235, R243, R360): what each
command answers on a session, a cache entry or a READ_TEXT that is there, guard by guard; and the statement about them. -/

namespace Sys2Proof.Machine

/-! ### What the retry and the new prediction work from -/

/-- The state in which every waiting bundle of account `a` has been tried again (R243). -/
def retryBundles (a : Nat) (s : State) : State :=
  s.bundles.foldl (fun u e => if e.2.account = a ∧ e.2.flooding = true then raiseBundle u e.1 e.2.floodLc else u) s

/-- The wait W in ms that R219 predicts anew: from the account's wait bins above the time already waited, where they hold 64
counts, else twice that time. -/
def longerWait (s : State) (x : Session) : Nat :=
  let e := (s.postmark - x.waitStartPm) / 1000000
  let h := match amGet s.accounts (handleAccount x.handle) with
    | some c => c.waitHist.filter (fun b => decide (e < binEdge b.1))
    | none => []
  if 64 ≤ histTotal h then binEdge (quantileBin h (clQuantile (sessClass s x)) 80) else 2 * e

/-- The state in which a flood that the tide predictor started since the previous prediction is counted as unused (R219). -/
def countUnusedFlood (s : State) (x : Session) : State :=
  if x.predFlood then
    modAccount s (handleAccount x.handle) (fun c => { c with floodsUnused := (c.floodsUnused + 1) % 2 ^ 32 })
  else s

/-- The state in which the wait of session `d`, which reads as `x`, is predicted again (R218, R219). -/
def predictAgain (s : State) (d : Nat) (x : Session) : State :=
  let t := countUnusedFlood s x
  upd t d (fun y => { schedule t y (longerWait s x) t.postmark with predFlood := false })

/-! ### The answer of each timed event -/

section
variable {s : State} {d : Nat} {x : Session} (pm : Nat) (hx : amGet s.sessions d = some x)
include hx

theorem exec_idleTimer : exec (.idleTimer d pm) s =
    if x.state = .active ∧ inflight s d = 0 ∧ x.lastOpPm + 2000000000 ≤ max s.postmark pm then
      .next (enterIdle (upd (advance pm s) d (fun y => { y with waitHint := false })) d)
    else .next (advance pm s) := by
  change execIdleTimer d pm s = _
  simp only [execIdleTimer, advance_sessions, hx]
  rfl

theorem exec_ebbStart : exec (.ebbStart d pm) s =
    if x.state = .idle ∧ x.ebbDeferred = true then .next (retryDeferred (advance pm s) d)
    else if x.state = .idle ∧ x.ebbAtPm ≠ 0 ∧ x.ebbAtPm ≤ max s.postmark pm then .next (dueEbb (advance pm s) d)
    else .next (advance pm s) := by
  change execEbbStart d pm s = _
  simp only [execEbbStart, advance_sessions, hx]
  rfl

theorem exec_floodStart_parked (hdue : floodDue (advance pm s) x = true) (hst : x.state = .parked) :
    exec (.floodStart d pm) s =
      let f := startFlood (advance pm s) d (clFloodLc (sessClass (advance pm s) x)) true
      .next (if f.2 then endFlood f.1 d else floodBlocked f.1 d) := by
  change execFloodStart d pm s = _
  simp only [execFloodStart, advance_sessions, hx, hdue, hst]
  rcases startFlood (advance pm s) d (clFloodLc (sessClass (advance pm s) x)) true with ⟨t, _ | _⟩ <;> rfl

theorem exec_floodStart_ebbing (hdue : floodDue (advance pm s) x = true) (hst : x.state = .ebbing) :
    exec (.floodStart d pm) s =
      .next (upd (cancelEbb (advance pm s) d) d (fun y => { y with state := .idle, ebbAtPm := 0 })) := by
  change execFloodStart d pm s = _
  simp only [execFloodStart, advance_sessions, hx, hdue, hst]
  rfl

theorem exec_resumePmPassed : exec (.resumePmPassed d pm) s =
    if x.state = .idle ∧ x.waiting = true ∧ x.resumePm ≠ 0 ∧ x.resumePm ≤ max s.postmark pm then
      .next (predictAgain (advance pm s) d x)
    else .next (advance pm s) := by
  change execResumePmPassed d pm s = _
  simp only [execResumePmPassed, advance_sessions, hx]
  rfl

theorem exec_blockedRetry : exec (.blockedRetry d pm) s =
    let t := retryBundles (handleAccount x.handle) (advance pm s)
    if x.state = .idle ∧ x.ebbBlocked = true ∧ ebbClear t d = true then .next (startEbb t d)
    else if x.state = .parked ∧ x.floodBlocked = true then
      .next (endFlood (startFlood t d (clFloodLc (sessClass t x)) true).1 d)
    else .next t := by
  change execBlockedRetry d pm s = _
  simp only [execBlockedRetry, advance_sessions, hx]
  rfl

theorem exec_sessionFreed : exec (.sessionFreed d) s =
    if x.state = .closing ∧ inflight s d = 0 then
      .next (retryGrants (settlePartition (resolveWait (freeSession (endText s d) d) (.freed d) rOk) x.partition))
    else .next s := by
  change execSessionFreed d s = _
  simp only [execSessionFreed, hx]

end

theorem exec_descDirtyTimeout {s : State} {d : Nat} {e : DcEntry} (pm : Nat) (he : amGet s.dcache d = some e) :
    exec (.descDirtyTimeout d pm) s =
      .next (if e.dirty = true ∧ e.dirtySince + 10000000 ≤ max s.postmark pm then writeBack (advance pm s) d
        else advance pm s) := by
  change execDescDirtyTimeout d pm s = _
  simp only [execDescDirtyTimeout, advance_dcache, he]
  rfl

theorem exec_readTextWaitExpiry {s : State} {tag : Nat} {q : TextRead} (pm : Nat) (hq : amGet s.textReads tag = some q) :
    exec (.readTextWaitExpiry tag pm) s =
      if q.until_ ≤ max s.postmark pm then .next (endTextRead (advance pm s) tag q) else .next (advance pm s) := by
  change execReadTextWaitExpiry tag pm s = _
  simp only [execReadTextWaitExpiry, advance_textReads, hq]
  rfl

/-- Settles O32: each clause is the branch of its event's answer that the clause's hypotheses choose. -/
theorem sessionTimersTakeEffect : Obligations.SessionTimersTakeEffect := by
  refine ⟨?idleTimer, ?ebbDeferred, ?ebbDue, ?floodStarts, ?floodBlocks, ?floodCancelsEbb, ?resumePmPassed, ?ebbRetried,
    ?floodRetried, ?sessionFreed, ?descDirty, ?readText⟩
  case idleTimer =>
    intro s d pm x hx hst hfree hpm
    rw [exec_idleTimer pm hx, if_pos ⟨hst, hfree, hpm⟩]
  case ebbDeferred =>
    intro s d pm x hx hst hdef
    rw [exec_ebbStart pm hx, if_pos ⟨hst, hdef⟩]
  case ebbDue =>
    intro s d pm x hx hst hdef hat hpm
    rw [exec_ebbStart pm hx, if_neg (by simp [hdef]), if_pos ⟨hst, hat, hpm⟩]
  case floodStarts =>
    intro s d pm x hx hdue hst hok
    rw [exec_floodStart_parked pm hx hdue hst]
    simp only [hok, if_true]
  case floodBlocks =>
    intro s d pm x hx hdue hst hno
    rw [exec_floodStart_parked pm hx hdue hst]
    simp only [hno, Bool.false_eq_true, if_false]
  case floodCancelsEbb =>
    intro s d pm x hx hdue hst
    exact exec_floodStart_ebbing pm hx hdue hst
  case resumePmPassed =>
    intro s d pm x hx hst hwait hres hpm
    rw [exec_resumePmPassed pm hx, if_pos ⟨hst, hwait, hres, hpm⟩]
    rfl
  case ebbRetried =>
    intro s d pm x hx hst hblk hclear
    exact (exec_blockedRetry pm hx).trans (if_pos ⟨hst, hblk, hclear⟩)
  case floodRetried =>
    intro s d pm x hx hst hblk
    refine (exec_blockedRetry pm hx).trans ((if_neg ?_).trans (if_pos ⟨hst, hblk⟩))
    simp [hst]
  case sessionFreed =>
    intro s d x hx hst hfree
    rw [exec_sessionFreed hx, if_pos ⟨hst, hfree⟩]
  case descDirty =>
    intro s d pm e he hdirty hpm
    rw [exec_descDirtyTimeout pm he, if_pos ⟨hdirty, hpm⟩]
  case readText =>
    intro s tag pm q hq hpm
    rw [exec_readTextWaitExpiry pm hq, if_pos hpm]

end Sys2Proof.Machine
end

section
/-! SUPPORT. Doorbells (R67 to R69, R75, R77): what a write answers on a function that takes doorbells, for each ring the
same; and the statement about them. -/

namespace Sys2Proof.Machine

/-! ### A doorbell of a ring that takes it -/

section
variable {s : State} {fn value : Nat} {rid : RingId} (hfn : fnTakes s fn = true)
  (hring : ringTakes (getRing (getFn s fn) rid) = true) (hrun : (getRing (getFn s fn) rid).stopped = false)
include hfn hring hrun

theorem sqDoorbell_of_lt_depth (entries : List SlotRead) (hidx : value % 65536 < (getRing (getFn s fn) rid).depth) :
    sqDoorbell s fn rid value entries = settleRing (modRing s fn rid (fun r =>
      { r with prod := value % 65536
               slots := r.slots ++ announced (getRing (getFn s fn) rid) (value % 65536) entries })) fn rid := by
  simp only [sqDoorbell, hfn, hring, hrun, Bool.not_true, Bool.false_eq_true, if_false, if_neg (Nat.not_le.mpr hidx)]
  rfl

/-- An index the ring does not have is reported with bit 16 clear, for the ring is live (R68, R81). -/
theorem sqDoorbell_of_depth_le (entries : List SlotRead) (hidx : (getRing (getFn s fn) rid).depth ≤ value % 65536) :
    sqDoorbell s fn rid value entries = postEvent s fn 0x0001 (ringSource rid) (value % 65536) := by
  simp [sqDoorbell, postRingIndex, b2n, hfn, hring, hrun, hidx]

theorem rqDoorbell_of_lt_depth (hidx : value % 65536 < (getRing (getFn s fn) rid).depth) :
    rqDoorbell s fn rid value = flushHeld (getRing (getFn s fn) rid).held.length
      (modRing s fn rid (fun r => { r with rqHead := value % 65536 })) fn rid := by
  simp [rqDoorbell, hfn, hring, hrun, Nat.not_le.mpr hidx]

end

/-! ### The answer of each doorbell -/

section
variable (s : State) (fn n value : Nat) (entries : List SlotRead)

theorem exec_adminSqTail : exec (.adminSqTail fn value entries) s =
    .next (sqDoorbell (leaveSlack s 2) fn .admin value entries) := rfl

theorem exec_stepSqTail : exec (.stepSqTail fn n value entries) s =
    .next (sqDoorbell (leaveSlack s 2) fn (.step n) value entries) := rfl

theorem exec_textSqTail : exec (.textSqTail fn value entries) s =
    .next (sqDoorbell (leaveSlack s 2) fn .text value entries) := rfl

theorem exec_searchSqTail : exec (.searchSqTail fn value entries) s =
    .next (sqDoorbell (leaveSlack s 2) fn .search value entries) := rfl

theorem exec_adminRqHead : exec (.adminRqHead fn value) s = .next (rqDoorbell (leaveSlack s 2) fn .admin value) := rfl

theorem exec_stepRqHead : exec (.stepRqHead fn n value) s =
    .next (settleDeletion (rqDoorbell (leaveSlack s 2) fn (.step n) value) fn n) := rfl

theorem exec_textRqHead : exec (.textRqHead fn value) s = .next (rqDoorbell (leaveSlack s 2) fn .text value) := rfl

theorem exec_searchRqHead : exec (.searchRqHead fn value) s = .next (rqDoorbell (leaveSlack s 2) fn .search value) := rfl

end

theorem exec_eventHead {s : State} {fn value : Nat} (hfn : fnTakes (leaveSlack s 2) fn = true)
    (hen : (getFn (leaveSlack s 2) fn).eventEn = true) (hrun : (getFn (leaveSlack s 2) fn).eventStopped = false)
    (hidx : value % 65536 < (getFn (leaveSlack s 2) fn).evDepth) :
    exec (.eventHead fn value) s = .next (modFn (leaveSlack s 2) fn (fun f => { f with evHead := value % 65536 })) := by
  change execEventHead fn value s = _
  simp [execEventHead, hfn, hen, hrun, Nat.not_le.mpr hidx]

/-- Settles O21: each command is its ring's doorbell after slack water has ended, and a doorbell is one rule for every ring. -/
theorem doorbellsMoveTheirIndexes : Obligations.DoorbellsMoveTheirIndexes := by
  refine ⟨?adminTail, ?stepTail, ?textTail, ?searchTail, ?adminBad, ?stepBad, ?textBad, ?searchBad, ?adminHead, ?stepHead,
    ?textHead, ?searchHead, ?eventHead⟩
  case adminTail =>
    intro s fn value entries hfn hring hrun hidx
    rw [exec_adminSqTail, sqDoorbell_of_lt_depth hfn hring hrun entries hidx]
  case stepTail =>
    intro s fn n value entries hfn hring hrun hidx
    rw [exec_stepSqTail, sqDoorbell_of_lt_depth hfn hring hrun entries hidx]
  case textTail =>
    intro s fn value entries hfn hring hrun hidx
    rw [exec_textSqTail, sqDoorbell_of_lt_depth hfn hring hrun entries hidx]
  case searchTail =>
    intro s fn value entries hfn hring hrun hidx
    rw [exec_searchSqTail, sqDoorbell_of_lt_depth hfn hring hrun entries hidx]
  case adminBad =>
    intro s fn value entries hfn hring hrun hidx
    rw [exec_adminSqTail, sqDoorbell_of_depth_le hfn hring hrun entries hidx]
  case stepBad =>
    intro s fn n value entries hfn hring hrun hidx
    rw [exec_stepSqTail, sqDoorbell_of_depth_le hfn hring hrun entries hidx]
  case textBad =>
    intro s fn value entries hfn hring hrun hidx
    rw [exec_textSqTail, sqDoorbell_of_depth_le hfn hring hrun entries hidx]
  case searchBad =>
    intro s fn value entries hfn hring hrun hidx
    rw [exec_searchSqTail, sqDoorbell_of_depth_le hfn hring hrun entries hidx]
  case adminHead =>
    intro s fn value hfn hring hrun hidx
    rw [exec_adminRqHead, rqDoorbell_of_lt_depth hfn hring hrun hidx]
  case stepHead =>
    intro s fn n value hfn hring hrun hidx
    rw [exec_stepRqHead, rqDoorbell_of_lt_depth hfn hring hrun hidx]
  case textHead =>
    intro s fn value hfn hring hrun hidx
    rw [exec_textRqHead, rqDoorbell_of_lt_depth hfn hring hrun hidx]
  case searchHead =>
    intro s fn value hfn hring hrun hidx
    rw [exec_searchRqHead, rqDoorbell_of_lt_depth hfn hring hrun hidx]
  case eventHead =>
    intro s fn value hfn hen hrun hidx
    exact exec_eventHead hfn hen hrun hidx

end Sys2Proof.Machine
end

section
/-! SUPPORT. The enables of a function and of its rings (R61 to R63, R95, R354, R400): what each write answers where the
function's registers are open; and the statements about them. -/

namespace Sys2Proof.Machine

/-! ### Starting and stopping on a function whose registers are open -/

section
variable {s : State} {fn : Nat} (hopen : regsOpen s fn = true)
include hopen

theorem exec_enable (on : Bool) : exec (.enable fn on) s = .next (modFn s fn (fun f =>
    { f with enable := on
             set3 := if on && !f.enable then fn != 0 && s.vfCompat.getLsbD (fn - 1) else f.set3 })) := by
  change execEnable fn on s = _
  simp only [execEnable, hopen, Bool.not_true, Bool.false_eq_true, if_false]

theorem exec_adminEn_start (hoff : (getFn s fn).adminEn = false) : exec (.adminEn fn true) s = .next (setFn s fn
    { getFn s fn with
      adminEn := true
      admin := freshRing true (getFn s fn).adminSqBase.toNat (getFn s fn).adminRqBase.toNat 256 0 (getFn s fn).adminPort }) := by
  change execAdminEn fn true s = _
  simp [execAdminEn, hopen, hoff]

theorem exec_adminEn_stop (hon : (getFn s fn).adminEn = true) : exec (.adminEn fn false) s =
    .next (modFn (dropHeld s fn .admin) fn (fun f => { f with adminEn := false, admin := {} })) := by
  change execAdminEn fn false s = _
  simp [execAdminEn, hopen, hon]

theorem exec_textEn_start (hoff : (getFn s fn).textEn = false)
    (hdepth : pow2In 16 4096 ((getFn s fn).textCfg.toNat % 2 ^ 13) = true) : exec (.textEn fn true) s = .next (setFn s fn
    { getFn s fn with
      textEn := true
      text := freshRing true (getFn s fn).textSqBase.toNat (getFn s fn).textRqBase.toNat ((getFn s fn).textCfg.toNat % 2 ^ 13)
        (bits (getFn s fn).textCfg.toNat 21 16) (getFn s fn).textPort }) := by
  change execTextEn fn true s = _
  simp only [execTextEn, hopen, hoff, hdepth]
  rfl

theorem exec_textEn_stop (hon : (getFn s fn).textEn = true) : exec (.textEn fn false) s =
    .next (modFn (dropHeld s fn .text) fn (fun f => { f with textEn := false, text := {} })) := by
  change execTextEn fn false s = _
  simp [execTextEn, hopen, hon]

theorem exec_searchEn_start (hoff : (getFn s fn).searchEn = false)
    (hdepth : pow2In 16 4096 ((getFn s fn).searchCfg.toNat % 2 ^ 13) = true) : exec (.searchEn fn true) s = .next (setFn s fn
    { getFn s fn with
      searchEn := true
      search := freshRing true (getFn s fn).searchSqBase.toNat (getFn s fn).searchRqBase.toNat
        ((getFn s fn).searchCfg.toNat % 2 ^ 13) (bits (getFn s fn).searchCfg.toNat 21 16) (getFn s fn).searchPort }) := by
  change execSearchEn fn true s = _
  simp only [execSearchEn, hopen, hoff, hdepth]
  rfl

theorem exec_searchEn_stop (hon : (getFn s fn).searchEn = true) : exec (.searchEn fn false) s =
    .next (modFn (dropHeld s fn .search) fn (fun f => { f with searchEn := false, search := {} })) := by
  change execSearchEn fn false s = _
  simp [execSearchEn, hopen, hon]

theorem exec_eventEn_start (hoff : (getFn s fn).eventEn = false)
    (hdepth : pow2In 64 4096 ((getFn s fn).eventCfg.toNat % 2 ^ 13) = true) :
    exec (.eventEn fn true) s = .next (tellFallback (tellRestart (setFn s fn
      { getFn s fn with
        eventEn := true, eventStopped := false, evBase := (getFn s fn).eventBase.toNat
        evDepth := (getFn s fn).eventCfg.toNat % 2 ^ 13, evVector := bits (getFn s fn).eventCfg.toNat 21 16
        evProd := 0, evHead := 0, evPhase := true }) fn) fn) := by
  change execEventEn fn true s = _
  simp only [execEventEn, hopen, hoff, hdepth]
  rfl

theorem exec_eventEn_stop (hon : (getFn s fn).eventEn = true) : exec (.eventEn fn false) s =
    .next (setFn s fn { getFn s fn with eventEn := false, eventStopped := false, evProd := 0, evHead := 0 }) := by
  change execEventEn fn false s = _
  simp [execEventEn, hopen, hon]

end

/-- Settles O22: each clause is the answer of one enable, on or off. -/
theorem enableBitsTakeEffect : Obligations.EnableBitsTakeEffect := by
  refine ⟨?enable, ?adminOn, ?adminOff, ?textOn, ?textOff, ?searchOn, ?searchOff, ?eventOn, ?eventOff⟩
  case enable =>
    intro s fn on hopen
    exact exec_enable hopen on
  case adminOn =>
    rintro s fn on hopen hoff rfl
    exact exec_adminEn_start hopen hoff
  case adminOff =>
    rintro s fn on hopen hon rfl
    exact exec_adminEn_stop hopen hon
  case textOn =>
    rintro s fn on hopen hoff rfl hdepth
    exact exec_textEn_start hopen hoff hdepth
  case textOff =>
    rintro s fn on hopen hon rfl
    exact exec_textEn_stop hopen hon
  case searchOn =>
    rintro s fn on hopen hoff rfl hdepth
    exact exec_searchEn_start hopen hoff hdepth
  case searchOff =>
    rintro s fn on hopen hon rfl
    exact exec_searchEn_stop hopen hon
  case eventOn =>
    rintro s fn on hopen hoff rfl hdepth
    exact exec_eventEn_start hopen hoff hdepth
  case eventOff =>
    rintro s fn on hopen hon rfl
    exact exec_eventEn_stop hopen hon

/-! ### A depth out of range -/

/-- A depth that `pow2In` takes between two powers of two is a power of two between them. -/
theorem exists_pow_of_pow2In {a b v : Nat} (h : pow2In (2 ^ a) (2 ^ b) v = true) : ∃ k, a ≤ k ∧ k ≤ b ∧ v = 2 ^ k := by
  simp only [pow2In, Bool.and_eq_true, decide_eq_true_eq] at h
  obtain ⟨⟨hlo, hhi⟩, hv⟩ := h
  rw [← hv] at hlo hhi
  exact ⟨Nat.log2 v, (Nat.pow_le_pow_iff_right Nat.one_lt_two).mp hlo, (Nat.pow_le_pow_iff_right Nat.one_lt_two).mp hhi, hv.symm⟩

/-- EVENT_EN is not set with a depth out of range, whether or not the registers are open (R63). -/
theorem exec_eventEn_of_bad_depth {s : State} {fn : Nat} (hdepth : pow2In 64 4096 ((getFn s fn).eventCfg.toNat % 2 ^ 13) = false) :
    exec (.eventEn fn true) s = .next s := by
  change execEventEn fn true s = _
  simp only [execEventEn, hdepth, if_true, Bool.false_eq_true, if_false, ite_self]

/-- Settles O59: a depth that EVENT_EN takes would be one of the powers of two that the hypothesis excludes. -/
theorem badEventDepthKeepsEventsOff : Obligations.BadEventDepthKeepsEventsOff := by
  intro s fn hoff hdepth
  refine ⟨exec_eventEn_of_bad_depth (Bool.eq_false_iff.mpr fun h => ?_), hoff⟩
  obtain ⟨k, hlo, hhi, hk⟩ := exists_pow_of_pow2In (a := 6) (b := 12) h
  exact hdepth k hlo hhi hk

end Sys2Proof.Machine
end

section
/-! SUPPORT. What moving the postmark leaves as it is, read through the functions' registers and the live fields (R14). -/

namespace Sys2Proof.Machine

@[simp] theorem getFn_advance (pm : Nat) (s : State) (fn : Nat) : getFn (advance pm s) fn = getFn s fn := rfl
@[simp] theorem getLive_advance (pm : Nat) (s : State) (f : LiveField) : getLive (advance pm s) f = getLive s f := rfl
@[simp] theorem liveVal_advance (pm : Nat) (s : State) (f : LiveField) : liveVal (advance pm s) f = liveVal s f := rfl
@[simp] theorem coalesceTime_advance (pm : Nat) (s : State) (fn : Nat) : coalesceTime (advance pm s) fn = coalesceTime s fn := rfl

end Sys2Proof.Machine
end

section
/-! SUPPORT. Live fields (R92 to R94, R327, R328, R650): a write in range is `shadowed`; the field applied, or stalled; and
the statement about them. -/

namespace Sys2Proof.Machine

theorem writeLive_of_inRange (s : State) (f : LiveField) (v : Nat) {ok : Bool} (h : ok = true) :
    writeLive s f v ok = shadowed s f v := if_pos h

/-! ### The registers of one function -/

theorem exec_receiptHold {s : State} {fn : Nat} {value : Word32} (hopen : regsOpen s fn = true) (hv : value.toNat % 2 ^ 14 ≤ 10000) :
    exec (.receiptHold fn value) s = .next (shadowed s (.receiptHold fn) (value.toNat % 2 ^ 14)) := by
  change execReceiptHold fn value s = _
  simp only [execReceiptHold, if_pos hopen, writeLive_of_inRange _ _ _ (decide_eq_true hv)]

theorem exec_coalesce {s : State} {fn : Nat} {value : Word32} (hopen : regsOpen s fn = true)
    (hv : (value.toNat % 2 ^ 12 + bits value.toNat 31 16 * 2 ^ 16) % 2 ^ 12 ≠ 0) : exec (.coalesce fn value) s =
      .next (shadowed s (.coalesce fn) (value.toNat % 2 ^ 12 + bits value.toNat 31 16 * 2 ^ 16)) := by
  change execCoalesce fn value s = _
  simp only [execCoalesce, if_pos hopen, writeLive_of_inRange _ _ _ (bne_iff_ne.mpr hv)]

/-! ### The registers of PF_0 -/

section
variable {s : State} (hopen : regsOpen s 0 = true)
include hopen

theorem exec_fwdGrace {value : Word32} (hv : value.toNat % 2 ^ 10 ≤ 1000) :
    exec (.fwdGrace value) s = .next (shadowed s .fwdGrace (value.toNat % 2 ^ 10)) := by
  change execFwdGrace value s = _
  simp only [execFwdGrace, if_pos hopen, writeLive_of_inRange _ _ _ (decide_eq_true hv)]

theorem exec_snoopTimeout {value : Word32} (hlo : value.toNat % 2 ^ 7 ≠ 0) (hhi : value.toNat % 2 ^ 7 ≤ 100) :
    exec (.snoopTimeout value) s = .next (shadowed s .snoopTimeout (value.toNat % 2 ^ 7)) := by
  change execSnoopTimeout value s = _
  rw [execSnoopTimeout, if_pos hopen, writeLive_of_inRange _ _ _ (by rw [bne_iff_ne.mpr hlo, decide_eq_true hhi]; rfl)]

theorem exec_lcLimit {value : Word32} (hlo : 10 ≤ value.toNat % 128) (hhi : value.toNat % 128 ≤ 90) :
    exec (.lcLimit value) s = .next (shadowed s .lcLimit (value.toNat % 128)) := by
  change execLcLimit value s = _
  rw [execLcLimit, if_pos hopen, writeLive_of_inRange _ _ _ (by simp [hlo, hhi])]

theorem exec_lcShare {partition : Nat} {value : Word32} (hlo : 1 ≤ partition) (hhi : partition ≤ 64)
    (hlock : vfLocked s partition = false) (hsum : ((List.range 64).map (· + 1)).foldl (fun n q =>
      if q = partition then n else n + livePending s (.lcShare q)) 0 + value.toNat % 128 ≤ 100) :
    exec (.lcShare partition value) s = .next (shadowed s (.lcShare partition) (value.toNat % 128)) := by
  change execLcShare partition value s = _
  rw [execLcShare, if_pos ⟨hopen, hlo, hhi, hlock⟩, writeLive_of_inRange _ _ _ (decide_eq_true hsum)]

theorem exec_twRto {value : Word64} (hmax : inRange 1000 65535 (bits value.toNat 63 48) = true)
    (hmin : inRange 20 10000 (bits value.toNat 47 32) = true) (htries : inRange 1 15 (bits value.toNat 19 16) = true)
    (hinit : inRange 20 1000 (bits value.toNat 9 0) = true) : exec (.twRto value) s = .next (shadowed s .twRto
      (bits value.toNat 9 0 + bits value.toNat 19 16 * 2 ^ 16 + bits value.toNat 47 32 * 2 ^ 32 + bits value.toNat 63 48 * 2 ^ 48)) := by
  change execTwRto value s = _
  rw [execTwRto, if_pos hopen, writeLive_of_inRange _ _ _ (by rw [hmax, hmin, htries, hinit]; rfl)]

theorem exec_twCc {value : Word64} (h48 : inRange 1 65535 (bits value.toNat 63 48) = true)
    (h32 : inRange 10 10000 (bits value.toNat 47 32) = true) (h24 : inRange 1 255 (bits value.toNat 31 24) = true)
    (h16 : inRange 1 255 (bits value.toNat 23 16) = true) (h0 : inRange 1 8 (bits value.toNat 3 0) = true) :
    exec (.twCc value) s = .next (shadowed s .twCc (bits value.toNat 3 0 + bits value.toNat 23 16 * 2 ^ 16
      + bits value.toNat 31 24 * 2 ^ 24 + bits value.toNat 47 32 * 2 ^ 32 + bits value.toNat 63 48 * 2 ^ 48)) := by
  change execTwCc value s = _
  rw [execTwCc, if_pos hopen, writeLive_of_inRange _ _ _ (by rw [h48, h32, h24, h16, h0]; rfl)]

theorem exec_twAck {value : Word32} (h16 : inRange 100 20000 (bits value.toNat 31 16) = true)
    (h0 : inRange 1 64 (bits value.toNat 6 0) = true) : exec (.twAck value) s =
      .next (shadowed s .twAck (bits value.toNat 6 0 + bits value.toNat 31 16 * 2 ^ 16)) := by
  change execTwAck value s = _
  rw [execTwAck, if_pos hopen, writeLive_of_inRange _ _ _ (by rw [h16, h0]; rfl)]

theorem exec_pwrCtrl {value : Word32} (hlo : 1 ≤ bits value.toNat 30 16) (hhi : bits value.toNat 30 16 ≤ 30000) :
    exec (.pwrCtrl value) s = .next (shadowed s .pwrCtrl (value.toNat % 2 + bits value.toNat 30 16 * 2 ^ 16)) := by
  change execPwrCtrl value s = _
  rw [execPwrCtrl, if_pos hopen, writeLive_of_inRange _ _ _ (by simp [hlo, hhi])]

/-- WARM_RESERVE is six fields, each written as the others are. -/
theorem exec_warmReserve {value : Word32} (hv : ∀ k < 6, bits value.toNat (4 * k + 3) (4 * k) ≤ 8) :
    exec (.warmReserve value) s = .next ([0, 1, 2, 3, 4, 5].foldl
      (fun s k => shadowed s (.warmReserve k) (bits value.toNat (4 * k + 3) (4 * k))) s) := by
  change execWarmReserve value s = _
  rw [execWarmReserve, if_pos hopen, List.foldl_ext _ _ _ fun u k hk => ?_]
  have hk6 : k < 6 := (by decide : ∀ k ∈ [0, 1, 2, 3, 4, 5], k < 6) k hk
  exact writeLive_of_inRange u _ _ (decide_eq_true (hv k hk6))

theorem exec_thermalCfg {value : Word32} (hlo : 70 ≤ value.toNat % 128) (hhi : value.toNat % 128 ≤ 100) :
    exec (.thermalCfg value) s = .next (shadowed s .thermalCfg (value.toNat % 128)) := by
  change execThermalCfg value s = _
  rw [execThermalCfg, if_pos hopen, writeLive_of_inRange _ _ _ (by simp [hlo, hhi])]

theorem exec_powerCap {value : Word32}
    (hv : value.toNat % 2048 = 0 ∨ (400 ≤ value.toNat % 2048 ∧ value.toNat % 2048 ≤ 1150)) :
    exec (.powerCap value) s = .next (shadowed s .powerCap (value.toNat % 2048)) := by
  change execPowerCap value s = _
  rw [execPowerCap, if_pos hopen, writeLive_of_inRange _ _ _ (by simpa using hv)]

end

/-! ### Applying a field -/

/-- The state in which value `v` of live field `field` has come into force: the field waits no more, and a warm reserve asks for the
wakes of the blocks it names (R92, R670). -/
def appliedLive (s : State) (field : LiveField) (v : Nat) : State :=
  let t := setLive s field { value := v }
  match field with
  | .warmReserve r => (reserveOf t r).foldl (fun s b => requestWake s (14 * r + b) false 0) t
  | _ => t

theorem exec_liveApplied {s : State} {field : LiveField} {v : Nat} (pm : Nat) (hv : (getLive s field).shadow = some v) :
    exec (.liveApplied field pm) s = .next (admitAll (settleAll
      (postEvent (appliedLive (advance pm s) field v) (liveWhere field).1 0x0004 (liveWhere field).2 0))) := by
  change execLiveApplied field pm s = _
  simp only [execLiveApplied, getLive_advance, hv]
  rfl

theorem exec_liveApplyDeadline {s : State} {field : LiveField} {pm : Nat} (hwait : (getLive s field).shadow.isSome = true)
    (hdue : (getLive s field).since + 100000 ≤ max s.postmark pm) :
    exec (.liveApplyDeadline field pm) s = .next (setLive (advance pm s) field { getLive s field with stalled := true }) :=
  if_pos (And.intro hwait hdue)

/-- Settles O23: each register writes its field's shadow where its own check of the range passes. -/
theorem liveFieldWritesReachTheShadow : Obligations.LiveFieldWritesReachTheShadow := by
  refine ⟨?receiptHold, ?coalesce, ?fwdGrace, ?snoopTimeout, ?lcLimit, ?lcShare, ?twRto, ?twCc, ?twAck, ?pwrCtrl, ?warmReserve,
    ?thermalCfg, ?powerCap, ?applied, ?deadline⟩
  case receiptHold =>
    intro s fn value hopen hv
    exact exec_receiptHold hopen hv
  case coalesce =>
    intro s fn value hopen hv
    exact exec_coalesce hopen hv
  case fwdGrace =>
    intro s value hopen hv
    exact exec_fwdGrace hopen hv
  case snoopTimeout =>
    intro s value hopen hlo hhi
    exact exec_snoopTimeout hopen hlo hhi
  case lcLimit =>
    intro s value hopen hlo hhi
    exact exec_lcLimit hopen hlo hhi
  case lcShare =>
    intro s partition value hopen hlo hhi hlock hsum
    exact exec_lcShare hopen hlo hhi hlock hsum
  case twRto =>
    intro s value hopen hmax hmin htries hinit
    exact exec_twRto hopen hmax hmin htries hinit
  case twCc =>
    intro s value hopen h48 h32 h24 h16 h0
    exact exec_twCc hopen h48 h32 h24 h16 h0
  case twAck =>
    intro s value hopen h16 h0
    exact exec_twAck hopen h16 h0
  case pwrCtrl =>
    intro s value hopen hlo hhi
    exact exec_pwrCtrl hopen hlo hhi
  case warmReserve =>
    intro s value hopen hv
    exact exec_warmReserve hopen hv
  case thermalCfg =>
    intro s value hopen hlo hhi
    exact exec_thermalCfg hopen hlo hhi
  case powerCap =>
    intro s value hopen hv
    exact exec_powerCap hopen hv
  case applied =>
    intro s field pm v hv
    exact exec_liveApplied pm hv
  case deadline =>
    intro s field pm hwait hdue
    exact exec_liveApplyDeadline hwait hdue

end Sys2Proof.Machine
end

section
/-! SUPPORT. Receipts as they are delivered (R57, R64, R72, R75, R76): what the end of an operation, the end of a hold and the end of
the coalescing time answer; and the statement about them. -/

namespace Sys2Proof.Machine

/-- The state in which operation `o` has gone from under `tag` with what it held there, its receipt `r` is delivered, and what waited
for it has gone on (R72). -/
def operationEnded (s : State) (tag : Nat) (o : Op) (r : Rcpt) : State :=
  settleIndexes (afterOp (deliver { s with ops := amErase s.ops tag, steps := amErase s.steps tag
                                           commits := amErase s.commits tag, searches := amErase s.searches tag } o r) o)

theorem exec_operationComplete {s : State} {tag : Nat} {o : Op} {r : Rcpt} (pm : Nat) (ho : amGet s.ops tag = some o)
    (hr : o.state = .ready r) : exec (.operationComplete tag pm) s =
      .next (startFetches (admitAll (match o.session with
        | some d => prepareMigration (operationEnded (advance pm s) tag o r) d
        | none => operationEnded (advance pm s) tag o r))) := by
  change execOperationComplete tag pm s = _
  simp only [execOperationComplete, advance_ops, ho, hr]
  rfl

/-- The state in which the oldest held receipt `q` of a ring, before `rest`, has gone to the dead-letter ring (R75). -/
def holdExpired (s : State) (fn : Nat) (ring : RingId) (q : Held) (rest : List Held) : State :=
  postEvent (deadLetter (modRing s fn ring (fun r => { r with held := rest })) fn ring q.receipt) fn 0x0003 (ringSource ring) 0

/-- The state in which the deletion of ring `ring`, where it is a step ring, has been settled (R77). -/
def deletionSettled (s : State) (fn : Nat) : RingId → State
  | .step n => settleDeletion s fn n
  | _ => s

theorem exec_receiptHoldExpiry {s : State} {fn : Nat} {ring : RingId} {pm : Nat} {q : Held} {rest : List Held}
    (hheld : (getRing (getFn s fn) ring).held = q :: rest)
    (hdue : q.since + liveVal s (.receiptHold fn) * 1000 ≤ max s.postmark pm) : exec (.receiptHoldExpiry fn ring pm) s =
      .next (deletionSettled (holdExpired (advance pm s) fn ring q rest) fn ring) := by
  change execReceiptHoldExpiry fn ring pm s = _
  unfold execReceiptHoldExpiry
  dsimp only
  rw [getFn_advance, hheld]
  refine (if_pos hdue).trans ?_
  cases ring <;> rfl

theorem exec_coalesceTimeout {s : State} {fn : Nat} {ring : RingId} {pm : Nat} (hsome : (getRing (getFn s fn) ring).unsig ≠ 0)
    (hdue : (getRing (getFn s fn) ring).unsigSince + coalesceTime s fn * 1000 ≤ max s.postmark pm) :
    exec (.coalesceTimeout fn ring pm) s = .next (signalRing (advance pm s) fn ring) :=
  if_pos (And.intro hsome hdue)

/-- Settles O26: each event answers what its operation, its held receipt or its count of receipts has come due for. -/
theorem receiptsAreDelivered : Obligations.ReceiptsAreDelivered := by
  refine ⟨?complete, ?holdExpiry, ?coalesce⟩
  case complete =>
    intro s tag pm o r ho hr
    exact exec_operationComplete pm ho hr
  case holdExpiry =>
    intro s fn ring pm q rest hheld hdue
    refine (exec_receiptHoldExpiry hheld hdue).trans ?_
    cases ring <;> rfl
  case coalesce =>
    intro s fn ring pm hsome hdue
    exact exec_coalesceTimeout hsome hdue

end Sys2Proof.Machine
end

section
/-! SUPPORT. Ring commands that are not taken: those that a check refuses (R80, R84), and those that find no tag (R57); and the
statements about them. -/

namespace Sys2Proof.Machine

/-- A ring command that is refused is finished with the refusal's receipt where it would have run, and its ring is settled. -/
theorem ringCmd_refused {s : State} {h : Hdr} {rid : RingId} {c : RingCmd} {r : Rcpt} (hstart : canStart s h.fn rid h.serial = true)
    (hwait : c.waits s = false) (href : ringRefusal c h (begun s h rid) = some r) :
    ringCmd rid h c s = .next (settleRing (finish (begun s h rid) h rid (freeTag s) r) h.fn rid) := by
  rw [begun] at href ⊢
  simp only [ringCmd, startRing, hwait, hstart, href, Bool.false_eq_true, if_false, if_true]
  rfl

/-- The command set is the first check of all (R80). -/
theorem ringRefusal_of_set_ne {c : RingCmd} {h : Hdr} {s : State} (hset : h.set ≠ if (getFn s h.fn).set3 then 3 else 4) :
    ringRefusal c h s = some (rInvalid 1) := by
  rw [ringRefusal, refuseIf, if_pos (bne_iff_ne.mpr hset)]
  rfl

/-- Settles O56: a refused command is `finish`ed on the state that taking it left, and nothing runs. -/
theorem refusedRingCommandsOnlyAnswer : Obligations.RefusedRingCommandsOnlyAnswer := by
  refine ⟨?refused, ?set⟩
  case refused =>
    intro s h rid c r hstart hwait href
    exact ⟨_, ringCmd_refused hstart hwait href, opAt_finish _ _ _ _ _, otherwise_putOp _ _ rfl (fun _ _ => rfl) rfl rfl⟩
  case set =>
    rintro h c s (⟨hset3, hne⟩ | ⟨hset3, hne⟩)
    · exact ringRefusal_of_set_ne (by simpa [hset3] using hne)
    · exact ringRefusal_of_set_ne (by simpa [hset3] using hne)

theorem tagAvailable_of_canStart {s : State} {fn : Nat} {rid : RingId} {serial : Bool} (h : canStart s fn rid serial = true) :
    tagAvailable s fn = true := by
  simp only [canStart, Bool.and_eq_true] at h
  tauto

/-- A command whose ring cannot start, whatever holds it up, changes nothing. -/
theorem ringCmd_of_not_canStart {s : State} {h : Hdr} {rid : RingId} (c : RingCmd) (hstart : canStart s h.fn rid h.serial = false) :
    ringCmd rid h c s = .next s := by
  simp only [ringCmd, startRing, hstart, Bool.false_eq_true, if_false, ite_self]

/-- Settles O57: a ring starts only where a tag is available. -/
theorem noTagLeavesTheEntry : Obligations.NoTagLeavesTheEntry := by
  refine ⟨?noTag, ?tag⟩
  case noTag =>
    intro s h rid c hno
    refine ringCmd_of_not_canStart c (Bool.eq_false_iff.mpr fun hstart => ?_)
    exact Bool.false_ne_true (hno.symm.trans (tagAvailable_of_canStart hstart))
  case tag =>
    intro s h rid c htakes
    have ⟨hstart, _, _⟩ := htakes
    exact ⟨tagAvailable_of_canStart hstart, ringCmd_takes htakes⟩

end Sys2Proof.Machine
end

section
/-! SUPPORT. Function-level resets and VF Enable (R55, R99, R103, R138, R739): what each command answers where it takes effect; and
the statement about them. -/

namespace Sys2Proof.Machine

theorem exec_vfEnableSet {s : State} (n : Nat) (hoff : s.vfEnable = false) :
    exec (.vfEnableSet n) s = .next { s with vfEnable := true, numVfs := min n 64 } :=
  if_neg (Bool.eq_false_iff.mp hoff)

theorem exec_vfEnableClear {s : State} (hon : s.vfEnable = true) :
    exec .vfEnableClear s = .next (goOn { ((presentFns s).filter (· != 0)).foldl resetFn s with vfEnable := false }) :=
  if_pos hon

theorem exec_perFunctionReset {s : State} {fn : Nat} (hvf : fn ≠ 0) (hpresent : fnPresent s fn = true) (hready : s.ready = true)
    (hidle : (getFn s fn).flrBusy = false) : exec (.perFunctionReset fn) s = .next (goOn (beginFlr s fn)) :=
  if_neg (by simp [hvf, hpresent, hready, hidle])

theorem exec_pf0Reset {s : State} (hready : s.ready = true) (hidle : (getFn s 0).flrBusy = false) :
    exec .pf0Reset s = .next (goOn (beginFlr s 0)) :=
  if_neg (by simp [hready, hidle])

theorem exec_flrDone {s : State} {fn : Nat} (hpresent : fnPresent s fn = true) (hbusy : (getFn s fn).flrBusy = true) :
    exec (.flrDone fn) s = .next (goOn (clearFn s fn)) :=
  if_pos ⟨hpresent, hbusy⟩

/-- Settles O25: each command's guard is what its clause supposes. -/
theorem functionResetsTakeEffect : Obligations.FunctionResetsTakeEffect :=
  ⟨fun _ n hoff => exec_vfEnableSet n hoff,
    fun _ hon => exec_vfEnableClear hon,
    fun _ _ hvf hpresent hready hidle => exec_perFunctionReset hvf hpresent hready hidle,
    fun _ hready hidle => exec_pf0Reset hready hidle,
    fun _ _ hpresent hbusy => exec_flrDone hpresent hbusy⟩

end Sys2Proof.Machine
end

section
/-! SUPPORT. The progress of ebbs and floods (R50, R130, R131, R135, R230, R234, R235, R244, R547, R747): what each command answers
on a session whose ebb, class move or flood has the page to do, on an ebb with none left, and on a bundle whose account is idle; and
the statement about them. -/

namespace Sys2Proof.Machine

/-! ### An ebb that has no page left -/

/-- The state in which session `d`, which reads as `x`, is PARKED: the HBM pages that its ebb switched are dropped, a flood of the
tide predictor that no step used is counted, and the session is no longer one that it flooded. -/
def parkSession (s : State) (d : Nat) (x : Session) (switched : AMap PRef) : State :=
  modSession
    (modAccount
      (upd (switched.foldl (fun u e => dropRef u e.2.loc) s) d
        (fun y => { y with state := .parked, ebb := none, ebbAtPm := 0, policyTier := none }))
      (handleAccount x.handle)
      (fun c => if x.predFlood then { c with floodsUnused := (c.floodsUnused + 1) % 2 ^ 32 } else c))
    d (fun y => { y with predFlood := false })

/-- The state in which the ebb `switched` of session `d` is complete: the session is PARKED in its table entry as well, the waiters
are answered, and what the freed frames allow goes on. -/
def ebbDone (s : State) (d : Nat) (x : Session) (switched : AMap PRef) : State :=
  retryGrants (checkPressure (noteQuotas (resolveWait (writeBack (parkSession s d x switched) d) (.parked d) rOk)
    (handleAccount x.handle)))

/-- The state in which the tide predictor's flood of session `d` has been tried: it starts, or is blocked (R234, R235). -/
def tryPredictedFlood (s : State) (d : Nat) (x : Session) : State :=
  let f := startFlood s d (clFloodLc (sessClass s x)) true
  if f.2 then endFlood f.1 d else floodBlocked f.1 d

/-! ### What a bundle's ebb reads, none of it the time -/

@[simp] theorem cfgBody_advance (pm : Nat) (s : State) (kind : Nat) (r : Ref) : cfgBody (advance pm s) kind r = cfgBody s kind r := rfl
@[simp] theorem bundlePinned_advance (pm : Nat) (s : State) (o : Nat) : bundlePinned (advance pm s) o = bundlePinned s o := rfl

/-! ### The answer of each event -/

section
variable {s : State} {d : Nat} {x : Session} (hx : amGet s.sessions d = some x)
include hx

theorem exec_copyStored_ebb {layer page : Nat} {r : PRef} {j : EbbJob} {p : PageRec} (href : amGet x.refs (pk layer page) = some r)
    (hebb : x.ebb = some j) (htodo : j.todo.contains (pk layer page) = true) (hrec : recOf s r = some p) :
    exec (.copyStored d layer page) s = .next (noteQuotas (storeEbb s d (pk layer page) x j r p) (handleAccount x.handle)) := by
  change execCopyStored d layer page s = _
  simp only [execCopyStored, hx, href, hebb, htodo, hrec, if_true]

theorem exec_copyStored_move {layer page : Nat} {r : PRef} {j : MoveJob} (href : amGet x.refs (pk layer page) = some r)
    (hebb : x.ebb = none) (hmove : x.move = some j) (htodo : j.todo.contains (pk layer page) = true) :
    exec (.copyStored d layer page) s = .next (storeMove s d (pk layer page) x j r) := by
  change execCopyStored d layer page s = _
  simp only [execCopyStored, hx, href, hebb, hmove, htodo, if_true]

theorem exec_ebbComplete {j : EbbJob} (hebb : x.ebb = some j) (hst : x.state = .ebbing) (htodo : j.todo = []) :
    exec (.ebbComplete d) s = .next (if floodDue (ebbDone s d x j.switched) x then
      tryPredictedFlood (ebbDone s d x j.switched) d x else ebbDone s d x j.switched) := by
  change execEbbComplete d s = _
  simp only [execEbbComplete, hx, hebb]
  refine (if_pos ⟨hst, htodo⟩).trans ?_
  generalize ht : ebbDone s d x j.switched = t
  simp only [ebbDone, parkSession] at ht
  simp only [ht, tryPredictedFlood]
  split
  · rcases startFlood t d (clFloodLc (sessClass t x)) true with ⟨u, _ | _⟩ <;> rfl
  · rfl

theorem exec_floodPageArrived {layer page : Nat} (pm : Nat) {j : FloodJob} (hflood : x.flood = some j)
    (htodo : j.todo.contains (pk layer page) = true) (hhere : pageHere (advance pm s) x j (pk layer page) = true)
    (hfree : (x.floodLc || !beHeld (advance pm s) (d % 6)) = true) : exec (.floodPageArrived d layer page pm) s =
      .next (resumeWrites (resumeSteps (checkPressure (endFlood (placePage (advance pm s) d (pk layer page)) d)) d) d) := by
  change execFloodPageArrived d layer page pm s = _
  simp only [execFloodPageArrived, advance_sessions, hx, hflood]
  exact if_pos ⟨htodo, hhere, hfree⟩

end

theorem exec_bundleEbb {s : State} {object : Nat} (pm : Nat) {b : Bundle} {n : Nat} (hb : amGet s.bundles object = some b)
    (htier : b.tier = 0) (hlive : (s.sessions.any (fun e => handleAccount e.2.handle == b.account && keepsBundles e.2)) = false)
    (hpin : bundlePinned s object = false) (hdue : b.lastLive + 1000000 * clDelayMax (cfgBody s 3 b.classRef) ≤ max s.postmark pm)
    (hroom : (objectTier (advance pm s) b.account (cfgBody s 3 b.classRef) b.body.length [b.body.length]).1 = some n) :
    exec (.bundleEbb object pm) s = .next (lowerBundle (advance pm s) object b n (cfgBody s 3 b.classRef)) := by
  change execBundleEbb object pm s = _
  simp only [execBundleEbb, advance_bundles, hb, advance_sessions, cfgBody_advance, hroom, bundlePinned_advance, advance_postmark]
  exact if_neg (by simp [htier, hlive, hpin, Nat.not_lt.mpr hdue])

/-- Settles O33: each clause is the answer of its event where the page, the ebb, the flood or the bundle is as the clause supposes. -/
theorem ebbAndFloodProgressTakesEffect : Obligations.EbbAndFloodProgressTakesEffect := by
  refine ⟨?ebbStored, ?moveStored, ?parked, ?floodedAgain, ?pageArrived, ?bundleLowered⟩
  case ebbStored =>
    intro s d layer page x r j p hx href hebb htodo hrec
    exact exec_copyStored_ebb hx href hebb htodo hrec
  case moveStored =>
    intro s d layer page x r j hx href hebb hmove htodo
    exact exec_copyStored_move hx href hebb hmove htodo
  case parked =>
    intro s d x j hx hebb hst htodo hdue
    rw [exec_ebbComplete hx hebb hst htodo]
    exact congrArg _ (if_neg (Bool.eq_false_iff.mp hdue))
  case floodedAgain =>
    intro s d x j hx hebb hst htodo hdue
    rw [exec_ebbComplete hx hebb hst htodo]
    exact congrArg _ (if_pos hdue)
  case pageArrived =>
    intro s d layer page pm x j hx hflood htodo hhere hfree
    exact exec_floodPageArrived hx pm hflood htodo hhere hfree
  case bundleLowered =>
    intro s object pm b n hb htier hlive hpin hdue hroom
    exact exec_bundleEbb pm hb htier hlive hpin hdue hroom

end Sys2Proof.Machine
end

section
/-! SUPPORT. The two events that come at whole multiples of a period: the start of a budget day (R209) and the aging of the
soundings (R215); and the statement about them. -/

namespace Sys2Proof.Machine

/-- An event at a whole multiple of `period` that is not in the past finds the counter there: the guard that both events share. -/
theorem periodic_due {s : State} {pm period : Nat} (hmult : pm % period = 0) (hpast : s.postmark ≤ pm) :
    pm % period = 0 ∧ pm = (advance pm s).postmark :=
  ⟨hmult, (max_eq_right hpast).symm⟩

/-- Settles O29: at a multiple of its period the guard of each event holds, and no account changed when the time moved on. -/
theorem dailyAgingTakesEffect : Obligations.DailyAgingTakesEffect := by
  refine ⟨?budgetDay, ?soundingsAging⟩
  case budgetDay =>
    intro s pm hday hpast
    change execBudgetDay pm s = _
    simp only [execBudgetDay, advance_accounts]
    exact if_pos (periodic_due hday hpast)
  case soundingsAging =>
    intro s pm hage hpast
    change execSoundingsAging pm s = _
    simp only [execSoundingsAging, advance_accounts]
    exact if_pos (periodic_due hage hpast)

end Sys2Proof.Machine
end

section
/-! SUPPORT. The shared window at rest (R454): what a full-line write stores, what a write-back leaves in memory and directory, that
with no request and no release in progress nothing else goes on, and the statement about WRITE_BACK. -/

namespace Sys2Proof.Machine

/-! ### A run of bytes and a line, read after they are written -/

/-- Each byte of a run reads as written. -/
theorem cellGet_cellsWrite_in {m : List Host.Cell} (hm : Memory.wf m = true) (a : Nat) {bs : List Byte} {i : Nat} (hi : i < bs.length) :
    cellGet (cellsWrite m a bs) (a + i) = bs[i] := by
  induction bs generalizing m a i with
  | nil => exact absurd hi (Nat.not_lt_zero i)
  | cons b r ih =>
    cases i with
    | zero => exact (cellGet_cellsWrite_out _ _ r (.inl (Nat.lt_succ_self a))).trans (cellGet_cellSet_self m a b hm)
    | succ i =>
      have hrest := ih (cellSet_wf m a b hm) (a + 1) (Nat.lt_of_succ_lt_succ hi)
      rwa [Nat.add_right_comm] at hrest

theorem bit_fullMask {i : Nat} (hi : i < 64) : bit fullMask i = true := by
  revert i
  decide

/-- A full mask keeps no byte of the old line; a byte that the write does not bring is zero. -/
theorem maskedBytes_fullMask (old new : List Byte) :
    maskedBytes old new fullMask = (List.range 64).map (fun i => (new.drop i).headD 0#8) :=
  List.map_congr_left fun _ hi => if_pos (bit_fullMask (List.mem_range.mp hi))

theorem length_maskedBytes (old new : List Byte) (mask : Nat) : (maskedBytes old new mask).length = 64 := by
  simp [maskedBytes]

@[simp] theorem setLine_mem (s : State) (line : Nat) (bs : List Byte) (mask : Nat) : (setLine s line bs mask).win.mem =
    cellsWrite s.win.mem (line * 64) (maskedBytes (lineBytes s line) bs mask) := by
  rw [setLine, modWin_win]

theorem setLine_mem_wf {s : State} (hm : Memory.wf s.win.mem = true) (line : Nat) (bs : List Byte) (mask : Nat) :
    Memory.wf (setLine s line bs mask).win.mem = true := by
  rw [setLine_mem]
  exact cellsWrite_wf _ _ _ hm

/-- After a write of the whole line its bytes read as written, and every other byte as before. -/
theorem cellGet_setLine_fullMask {s : State} (hm : Memory.wf s.win.mem = true) (line : Nat) (bs : List Byte) (a : Nat) :
    cellGet (setLine s line bs fullMask).win.mem a = lineWritten s.win.mem line bs a := by
  rw [setLine_mem, lineWritten]
  split
  next hin =>
    obtain ⟨i, rfl⟩ := Nat.exists_eq_add_of_le hin.1
    have hi : i < 64 := by omega
    rw [cellGet_cellsWrite_in hm _ (by rwa [length_maskedBytes])]
    simp [maskedBytes_fullMask]
  next hout => exact cellGet_cellsWrite_out _ _ _ (by rw [length_maskedBytes]; omega)

/-! ### What a write of a line and a change of its directory entry leave as they are -/

theorem modWin_modWin (s : State) (f g : Window → Window) : modWin (modWin s f) g = modWin s (fun w => g (f w)) := rfl

section
variable (s : State) (line : Nat) (bs : List Byte) (mask : Nat)

@[simp] theorem setLine_dir : (setLine s line bs mask).win.dir = s.win.dir := by rw [setLine, modWin_win]
@[simp] theorem setLine_grantSeq : (setLine s line bs mask).win.grantSeq = s.win.grantSeq := by rw [setLine, modWin_win]
@[simp] theorem setLine_reqs : (setLine s line bs mask).win.reqs = s.win.reqs := by rw [setLine, modWin_win]
@[simp] theorem setLine_releases : (setLine s line bs mask).win.releases = s.win.releases := by rw [setLine, modWin_win]

theorem setLine_frame (w : Window) : modWin (setLine s line bs mask) (fun _ => w) = modWin s (fun _ => w) := by
  rw [setLine, modWin_modWin]

end

section
variable (s : State) (line : Nat) (holders : List Nat) (owned : Bool)

@[simp] theorem setDir_mem : (setDir s line holders owned).win.mem = s.win.mem := by cases holders <;> rfl
@[simp] theorem setDir_reqs : (setDir s line holders owned).win.reqs = s.win.reqs := by cases holders <;> rfl
@[simp] theorem setDir_releases : (setDir s line holders owned).win.releases = s.win.releases := by cases holders <;> rfl

@[simp] theorem setDir_dir_nil : (setDir s line [] owned).win.dir = amErase s.win.dir line := rfl

@[simp] theorem setDir_dir_cons (h : Nat) : (setDir s line (h :: holders) owned).win.dir =
    amSet s.win.dir line { holders := h :: holders, owned := owned, granted := s.win.grantSeq } := rfl

theorem setDir_frame (w : Window) : modWin (setDir s line holders owned) (fun _ => w) = modWin s (fun _ => w) := rfl

end

/-! ### A write-back -/

/-- The state in which a write-back of `host` is stored and its line left as `hold` names (R454), before what waited for the line
goes on. -/
def storeBack (s : State) (host line hold : Nat) (bytes : List Byte) : State :=
  if hold = 0 then setDir (setLine s line bytes fullMask) line [] false
  else setDir (setLine s line bytes fullMask) line [host] (hold == 2)

section
variable (s : State) (host line hold : Nat) (bytes : List Byte)

theorem acceptWriteBack_eq : acceptWriteBack s host line hold bytes = settleReleases (serve (storeBack s host line hold bytes) line) :=
  rfl

@[simp] theorem storeBack_mem : (storeBack s host line hold bytes).win.mem = (setLine s line bytes fullMask).win.mem := by
  rw [storeBack]; split <;> rw [setDir_mem]

@[simp] theorem storeBack_reqs : (storeBack s host line hold bytes).win.reqs = s.win.reqs := by
  rw [storeBack]; split <;> rw [setDir_reqs, setLine_reqs]

@[simp] theorem storeBack_releases : (storeBack s host line hold bytes).win.releases = s.win.releases := by
  rw [storeBack]; split <;> rw [setDir_releases, setLine_releases]

theorem storeBack_dir_zero : (storeBack s host line 0 bytes).win.dir = amErase s.win.dir line := by
  rw [storeBack, if_pos rfl, setDir_dir_nil, setLine_dir]

theorem storeBack_dir_of_ne_zero {hold : Nat} (h : hold ≠ 0) : (storeBack s host line hold bytes).win.dir =
    amSet s.win.dir line { holders := [host], owned := hold == 2, granted := s.win.grantSeq } := by
  rw [storeBack, if_neg h, setDir_dir_cons, setLine_dir, setLine_grantSeq]

/-- A write-back changes the window alone. -/
theorem storeBack_frame (w : Window) : modWin (storeBack s host line hold bytes) (fun _ => w) = modWin s (fun _ => w) := by
  rw [storeBack]; split <;> rw [setDir_frame, setLine_frame]

theorem storeBack_out : (storeBack s host line hold bytes).out = s.out := by
  have hframe := congrArg State.out (storeBack_frame s host line hold bytes s.win)
  rwa [modWin_out, modWin_out] at hframe

end

/-- Two states that agree outside the window still do so outside the window and the outputs after one drives an output. -/
theorem emit_frame_of_modWin {s t : State} (h : modWin t (fun _ => s.win) = modWin s (fun _ => s.win)) (o : Output) :
    { emit o t with win := s.win, out := s.out } = s :=
  congrArg (fun u => { u with out := s.out }) h

/-! ### Nothing in progress -/

theorem serve_of_reqs_nil {s : State} (h : s.win.reqs = []) (line : Nat) : serve s line = s := by
  simp [serve, serveLine, h]

theorem settleReleases_of_nil {s : State} (h : s.win.releases = []) : settleReleases s = s := by
  simp [settleReleases, h]

theorem leaveSlack_of_active {s : State} (h : s.pow.state = 0) (cause : Nat) : leaveSlack s cause = s :=
  if_neg (by simp [h])

theorem acceptWriteBack_of_idle {s : State} (hreqs : s.win.reqs = []) (hrel : s.win.releases = []) (host line hold : Nat)
    (bytes : List Byte) : acceptWriteBack s host line hold bytes = storeBack s host line hold bytes := by
  rw [acceptWriteBack_eq, serve_of_reqs_nil (by simpa using hreqs), settleReleases_of_nil (by simpa using hrel)]

/-! ### The answer of a host's write -/

section
variable {s : State} {host dpa : Nat} (hok : memOk s host dpa = true) (hold : Nat) (bytes : List Byte)

/-- WRITE_BACK is MEM_WRITE of the whole line. -/
theorem exec_writeBack (s : State) (host dpa : Nat) :
    exec (.writeBack host dpa hold bytes) s = exec (.memWrite host dpa hold bytes fullMask) s := by
  change execWriteBack host dpa hold bytes s = execMemWrite host dpa hold bytes fullMask s
  simp only [execWriteBack, execMemWrite, true_and]

include hok

theorem exec_memWrite_of_owns (howns : owns (leaveSlack s 4) host (dpa / 64) = true) :
    exec (.memWrite host dpa hold bytes fullMask) s =
      .next (emit (.memDone host dpa) (acceptWriteBack (leaveSlack s 4) host (dpa / 64) hold bytes)) :=
  (if_pos hok).trans (if_pos ⟨rfl, howns⟩)

theorem exec_memWrite_of_not_writeBack {mask : Nat} (h : mask ≠ fullMask ∨ owns (leaveSlack s 4) host (dpa / 64) = false) :
    exec (.memWrite host dpa hold bytes mask) s = .next (arriveLine (leaveSlack s 4)
      { line := dpa / 64, host := host, ask := .write bytes mask, for_ := .host }) := by
  have hnot : ¬ (mask = fullMask ∧ owns (leaveSlack s 4) host (dpa / 64) = true) := by
    rintro ⟨hmask, howns⟩
    simp [hmask, howns] at h
  exact (if_pos hok).trans (if_neg hnot)

end

/-- Settles O60: in ACTIVE, with nothing in progress, the answer is `storeBack` and the host's acknowledgement alone. -/
theorem writeBacksStoreTheirLineAlone : Obligations.WriteBacksStoreTheirLineAlone := by
  intro s host dpa hold bytes hact hok howns hreqs hrel hmem
  have hslack := leaveSlack_of_active hact 4
  refine ⟨emit (.memDone host dpa) (storeBack s host (dpa / 64) hold bytes), ?answer, ?form, ?bytes, ?untracked, ?held, ?frame, ?out⟩
  case answer =>
    rw [exec_writeBack, exec_memWrite_of_owns hok hold bytes (by rwa [hslack]), hslack, acceptWriteBack_of_idle hreqs hrel]
  case form =>
    rw [emit_win, storeBack_mem]
    exact setLine_mem_wf hmem _ _ _
  case bytes =>
    intro a
    rw [emit_win, storeBack_mem]
    exact cellGet_setLine_fullMask hmem _ _ a
  case untracked =>
    rintro rfl
    rw [emit_win, storeBack_dir_zero]
  case held =>
    intro hne
    rw [emit_win, storeBack_dir_of_ne_zero s host _ bytes hne]
  case frame =>
    exact emit_frame_of_modWin (storeBack_frame s host (dpa / 64) hold bytes s.win) _
  case out => rw [emit_out, storeBack_out]

end Sys2Proof.Machine
end

section
/-! SUPPORT. Accesses to lines of the window (R439, R453 to R458, R463, R656): a host's read, its answer to a snoop and its failure to
give one, and the accesses of a harbourmaster core; and the statement about them. -/

namespace Sys2Proof.Machine

theorem exec_memRead {s : State} {host dpa hold : Nat} (hok : memOk s host dpa = true) (hhold : hold < 3) :
    exec (.memRead host dpa hold) s = .next (arriveLine (leaveSlack s 4)
      { line := dpa / 64, host := host, ask := .read (if hostUntracked s host then 0 else hold), for_ := .host }) :=
  if_pos (by simp [hok, hhold])

/-! ### Snoops -/

/-- A request after the answer of `host` to snoop `p`: a recall of that host is settled, and so is a read that left the owner its
line. -/
def afterAnswer (p : Snoop) (host : Nat) (q : LineReq) : LineReq :=
  match q.ask with
  | .recall h => if h = host then { q with curDone := true } else q
  | _ => if p.kind = 2 then { q with curDone := true } else q

/-- Snoop `p` was issued SNOOP_TIMEOUT before `pm` or earlier (R457). -/
def snoopLate (s : State) (pm : Nat) (p : Snoop) : Bool :=
  match p.issued with
  | some t => decide (t + liveVal s .snoopTimeout * 1000000 ≤ max s.postmark pm)
  | none => false

theorem exec_birspi {s : State} {host dpa : Nat} {p : Snoop}
    (hp : s.win.snoops.find? (fun p => p.host == host && p.line == dpa / 64 && p.issued.isSome) = some p) :
    exec (.birspi host dpa) s = .next (settleReleases (serve (issueSnoops 1 (modReq (answerSnoop
      (modWin s (fun w => { w with snoops := w.snoops.filter (· != p) })) p) p.line (afterAnswer p host)) host) p.line)) := by
  change execBirspi host dpa s = _
  simp only [execBirspi, hp]
  rfl

theorem exec_snoopTimeoutExpired {s : State} {host dpa pm : Nat}
    (hlate : s.win.snoops.any (fun p => p.host == host && p.line == dpa / 64 && snoopLate s pm p) = true) :
    exec (.snoopTimeoutExpired host dpa pm) s = .next (crashHost (advance pm s) host 2) :=
  congrArg _ (if_pos hlate)

/-! ### A harbourmaster core -/

section
variable {s : State} {dpa : Nat} (hrun : s.hm.running ≠ 0) (hlow : dpa < 2 ^ 41) (hline : dpa % 64 = 0)
include hrun hlow hline

theorem coreAccess_allowed : ¬ (s.hm.running = 0 ∨ 2 ^ 41 ≤ dpa ∨ dpa % 64 ≠ 0) := by
  rintro (hstop | hhigh | hpart)
  · exact hrun hstop
  · exact Nat.not_le.mpr hlow hhigh
  · exact hpart hline

theorem exec_hmWindowAccess_load (hold : Nat) : exec (.hmWindowAccess dpa (.load hold)) s =
    .next (arriveLine s { line := dpa / 64, host := 16, ask := .read (min 2 hold), for_ := .core false }) :=
  if_neg (coreAccess_allowed hrun hlow hline)

theorem exec_hmWindowAccess_store (bytes : List Byte) (mask : Nat) : exec (.hmWindowAccess dpa (.store bytes mask)) s =
    .next (arriveLine s { line := dpa / 64, host := 16, ask := .write bytes mask, for_ := .core true }) :=
  if_neg (coreAccess_allowed hrun hlow hline)

theorem exec_hmWindowAccess_writeBack (hold : Nat) (bytes : List Byte) : exec (.hmWindowAccess dpa (.writeBack hold bytes)) s =
    if owns s 16 (dpa / 64) then .next (acceptWriteBack s 16 (dpa / 64) hold bytes)
    else .next (arriveLine s { line := dpa / 64, host := 16, ask := .write bytes fullMask, for_ := .core true }) :=
  if_neg (coreAccess_allowed hrun hlow hline)

end

/-- Settles O37: each clause is the answer of its access where the line, the snoop or the core is as the clause supposes; a
WRITE_BACK is a MEM_WRITE of the whole line. -/
theorem windowAccessesTakeEffect : Obligations.WindowAccessesTakeEffect := by
  refine ⟨?memRead, ?ownerWrites, ?memWrite, ?writeBack, ?writeBackNotOwned, ?birspi, ?snoopTimeout, ?coreLoad, ?coreStore,
    ?coreWriteBack, ?coreWriteBackNotOwned⟩
  case memRead =>
    intro s host dpa hold hok hhold
    exact exec_memRead hok hhold
  case ownerWrites =>
    rintro s host dpa hold bytes _ hok rfl howns
    exact exec_memWrite_of_owns hok hold bytes howns
  case memWrite =>
    intro s host dpa hold bytes mask hok hnot
    exact exec_memWrite_of_not_writeBack hok hold bytes hnot
  case writeBack =>
    intro s host dpa hold bytes hok howns
    exact (exec_writeBack hold bytes s host dpa).trans (exec_memWrite_of_owns hok hold bytes howns)
  case writeBackNotOwned =>
    intro s host dpa hold bytes hok hnot
    exact (exec_writeBack hold bytes s host dpa).trans (exec_memWrite_of_not_writeBack hok hold bytes (.inr hnot))
  case birspi =>
    intro s host dpa p hp
    exact exec_birspi hp
  case snoopTimeout =>
    intro s host dpa pm hlate
    exact exec_snoopTimeoutExpired hlate
  case coreLoad =>
    intro s dpa hold hrun hlow hline
    exact exec_hmWindowAccess_load hrun hlow hline hold
  case coreStore =>
    intro s dpa bytes mask hrun hlow hline
    exact exec_hmWindowAccess_store hrun hlow hline bytes mask
  case coreWriteBack =>
    intro s dpa hold bytes hrun hlow hline howns
    rw [exec_hmWindowAccess_writeBack hrun hlow hline, if_pos howns]
  case coreWriteBackNotOwned =>
    intro s dpa hold bytes hrun hlow hline hnot
    rw [exec_hmWindowAccess_writeBack hrun hlow hline, if_neg (Bool.eq_false_iff.mp hnot)]

end Sys2Proof.Machine
end

section
/-! SUPPORT. Capacity of the window (R446, R447, R450, R462): what the host's answer, the timeout of a grant, a host's release and the
end of a scrub do to an extent that is as each supposes; and the statement about them. -/

namespace Sys2Proof.Machine

/-! ### A grant that waits -/

section
variable {s : State} {region extent host pm : Nat} {g : GrantWait}
  (hg : amGet s.win.grants (extKey region extent * 32 + host) = some g)
include hg

theorem exec_addDynamicCapacityResponse (accept : Bool) (hheld : g.framesHeld = true) (hver : hostVersion s host = 3) :
    exec (.addDynamicCapacityResponse host region extent accept) s =
      .next (endGrantWait s region extent host (if accept then 1 else 0)) := by
  change execAddDynamicCapacityResponse host region extent accept s = _
  simp only [execAddDynamicCapacityResponse, hg]
  exact if_pos ⟨hheld, hver⟩

theorem exec_addExtentTimeout : exec (.addExtentTimeout region extent host pm) s =
    if g.since + 1000000000 ≤ max s.postmark pm then
      .next (if g.framesHeld then endGrantWait (advance pm s) region extent host 2
        else resolveWait (modWin (advance pm s) (fun w => { w with grants := amErase w.grants (extKey region extent * 32 + host) }))
          (.extentGrant region extent host) (rOk 3))
    else .next (retryGrant (advance pm s) g) := by
  change execAddExtentTimeout region extent host pm s = _
  simp only [execAddExtentTimeout, advance_win, advance_postmark, hg]
  rfl

end

/-! ### A release by the host, and the end of a scrub -/

theorem exec_releaseDynamicCapacity {s : State} {host : Nat} (hver : hostVersion s host = 3) (region extent : Nat) :
    exec (.releaseDynamicCapacity host region extent) s =
      if (getExt s (extKey region extent)).hosts.contains host then
        .next (if releaseRuns (emit (.mailbox host .done) s) region extent host then emit (.mailbox host .done) s
          else startRelease (emit (.mailbox host .done) s) region extent host true [])
      else .next (emit (.mailbox host .invalidInput) s) :=
  if_neg (not_not.mpr hver)

theorem exec_scrubComplete {s : State} {region extent : Nat} {e : Extent} (he : amGet s.win.extents (extKey region extent) = some e)
    (hscrub : e.scrubbing = true) : exec (.scrubComplete region extent) s =
      .next (retryGrants (modWin (e.runs.foldl freeRun
          ((s.win.poison.filter (fun p => lineExt p.1 == extKey region extent)).foldl (fun u p => clearPoison u p.1) s))
        (fun w => { w with extents := amErase w.extents (extKey region extent)
                           mem := cellsZero w.mem (extKey region extent * 2 ^ 28) ((extKey region extent + 1) * 2 ^ 28) }))) := by
  change execScrubComplete region extent s = _
  simp only [execScrubComplete, he, hscrub, if_true]

/-- Settles O38: each clause is the branch of its command's answer that the grant or the extent chooses. -/
theorem windowCapacityTakesEffect : Obligations.WindowCapacityTakesEffect := by
  refine ⟨?answered, ?hostLate, ?framesLate, ?early, ?release, ?notHeld, ?scrubbed⟩
  case answered =>
    intro s host region extent accept g hg hheld hver
    exact exec_addDynamicCapacityResponse hg accept hheld hver
  case hostLate =>
    intro s region extent host pm g hg hdue hheld
    rw [exec_addExtentTimeout hg, if_pos hdue, if_pos hheld]
  case framesLate =>
    intro s region extent host pm g hg hdue hwait
    rw [exec_addExtentTimeout hg, if_pos hdue, if_neg (Bool.eq_false_iff.mp hwait)]
  case early =>
    intro s region extent host pm g hg hearly
    rw [exec_addExtentTimeout hg, if_neg (Nat.not_le.mpr hearly)]
  case release =>
    intro s host region extent hver hhas
    rw [exec_releaseDynamicCapacity hver, if_pos hhas]
  case notHeld =>
    intro s host region extent hver hhas
    rw [exec_releaseDynamicCapacity hver, if_neg (Bool.eq_false_iff.mp hhas)]
  case scrubbed =>
    intro s region extent e he hscrub
    exact exec_scrubComplete he hscrub

end Sys2Proof.Machine
end

section
/-! SUPPORT. Timers and answers of Tideway (R140, R144, R489, R497, R500, R503, R516): what an ACK, the timers of a connection, a
fetched context, an answer about a translation and the end of a migration do where each is as it supposes; and the statement
about them. -/

namespace Sys2Proof.Machine

/-! ### An ACK arrives (R483, R497) -/

/-- The state once the frame of an ACK has been counted. -/
def ackFramed (s : State) (a : TwAck) : State :=
  frameIn s a.port ((getConn s a.dstConn).elim 110 (fun x => frameBytes (getPort s a.port) x true 0))

theorem toCell_ack_of_cached {s : State} {m : Missed} {a : TwAck} {e : CacheEntry} (hack : m.ack = some a)
    (hcache : amGet s.tw.cache m.pkt.dstConn = some e) (hhere : e.fetching = false) : toCell s m = takeAck s a := by
  simp only [toCell, hcache, hhere, hack, Bool.false_eq_true, if_false]

section
variable {s : State} {a : TwAck} (hport : a.port < 16) (hacc : accepting s = true)
include hport hacc

theorem ackTaken_allowed : ¬ (16 ≤ a.port ∨ accepting s = false) := by
  rintro (hbad | hshut)
  · exact Nat.not_le.mpr hport hbad
  · exact Bool.false_ne_true (hshut.symm.trans hacc)

theorem exec_ack_of_unknown (hknown : pktKnown (ackFramed s a) a.port a.srcIp a.srcConn a.dstConn = false) :
    exec (.ack a) s = .next (count (ackFramed s a) a.port 8 1) :=
  (if_neg (ackTaken_allowed hport hacc)).trans (if_pos (congrArg Bool.not hknown))

theorem exec_ack_of_cached {e : CacheEntry} (hknown : pktKnown (ackFramed s a) a.port a.srcIp a.srcConn a.dstConn = true)
    (hcache : amGet (ackFramed s a).tw.cache a.dstConn = some e) (hhere : e.fetching = false) :
    exec (.ack a) s = .next (startFetches (takeAck (ackFramed s a) a)) := by
  have hreach : (!pktKnown (ackFramed s a) a.port a.srcIp a.srcConn a.dstConn) ≠ true := by simp [hknown]
  calc exec (.ack a) s
    _ = .next (startFetches (toCell (ackFramed s a) _)) := (if_neg (ackTaken_allowed hport hacc)).trans (if_neg hreach)
    _ = .next (startFetches (takeAck (ackFramed s a) a)) :=
      congrArg (fun t : State => Host.Outcome.next (startFetches t)) (toCell_ack_of_cached rfl hcache hhere)

end

/-! ### The timers of a connection -/

/-- The state once the oldest packet `p` of connection `c` has timed out on its port (R503, R517): counted, the timeout doubled,
the rate halved, the packet marked. -/
def rtoBackedOff (s : State) (c pm port : Nat) (p : OutPkt) : State :=
  let s := count (advance pm s) port 14 1
  modConn s c (fun y => { y with
    rto := min (rtoMax s) (2 * y.rto), retries := y.retries + 1, rate := max (minRate s) (y.rate / 2), lastDec := s.postmark
    aiSince := s.postmark, aiMarked := false, lastUna := s.postmark
    flight := y.flight.map (fun q => if q.psn = p.psn then { q with retx := true } else q) })

section
variable {s : State} {c : Nat} (pm : Nat) {x : Conn} (hx : getConn s c = some x)
include hx

theorem getConn_advance : getConn (advance pm s) c = some x := hx

theorem exec_rtoExpiry {p : OutPkt} (hp : x.flight.find? (fun p => !p.acked) = some p) (hopen : x.failed = false)
    (hdue : x.lastUna + x.rto ≤ max s.postmark pm) : exec (.rtoExpiry c pm) s =
      if retryLimit (rtoBackedOff s c pm x.port p) < x.retries + 1 then .next (failConn (rtoBackedOff s c pm x.port p) c 1)
      else .next (resend (rtoBackedOff s c pm x.port p) c p) := by
  have hlate : ¬ (x.failed = true ∨ max s.postmark pm < x.lastUna + x.rto) := by
    rintro (hfail | hearly)
    · exact Bool.false_ne_true (hopen.symm.trans hfail)
    · exact Nat.not_le.mpr hearly hdue
  change execRtoExpiry c pm s = _
  simp only [execRtoExpiry, getConn_advance pm hx, hp]
  exact if_neg hlate

theorem exec_ackDelayExpiry (hopen : x.failed = false) (howed : x.unAcked ≠ 0)
    (hdue : x.unAckedPm + ackDelay s ≤ max s.postmark pm) :
    exec (.ackDelayExpiry c pm) s = .next (ackNow (advance pm s) c) := by
  have hlate : (!x.failed && x.unAcked != 0 && decide (x.unAckedPm + ackDelay s ≤ max s.postmark pm)) = true := by
    simp only [hopen, bne_iff_ne.mpr howed, decide_eq_true hdue, Bool.not_false, Bool.and_true]
  change execAckDelayExpiry c pm s = _
  simp only [execAckDelayExpiry, getConn_advance pm hx]
  exact if_pos hlate

theorem exec_aiInterval (hopen : x.failed = false) (hdue : x.aiSince + aiInterval s ≤ max s.postmark pm) :
    exec (.aiInterval c pm) s = .next (modConn (advance pm s) c (fun y => { y with
      rate := if y.aiMarked then y.rate else min (portRate s y.port) (y.rate + aiStep s)
      aiSince := max s.postmark pm, aiMarked := false })) := by
  have hlate : (!x.failed && decide (x.aiSince + aiInterval s ≤ max s.postmark pm)) = true := by
    simp only [hopen, decide_eq_true hdue, Bool.not_false, Bool.and_true]
  change execAiInterval c pm s = _
  simp only [execAiInterval, getConn_advance pm hx]
  exact if_pos hlate

theorem exec_priTimeout : exec (.priTimeout c pm) s =
    .next ((x.placing.filter (fun p => match p.pri with
        | some (t, _) => decide (t + 10000000 ≤ max s.postmark pm)
        | none => false)).foldl
      (fun u p => placeFail u c p (firstOn p (p.pri.elim 0 (fun q => q.2)))) (advance pm s)) := by
  change execPriTimeout c pm s = _
  simp only [execPriTimeout, getConn_advance pm hx]
  rfl

theorem exec_contextFetched {e : CacheEntry} (hcache : amGet s.tw.cache c = some e) (hfetch : e.fetching = true) :
    exec (.contextFetched c) s =
      .next (startFetches (noteMissEmpty ((s.tw.missed.filter (fun m => m.pkt.dstConn == c)).foldl toCell
        (modTw s (fun t => { t with
          missed := t.missed.filter (fun m => m.pkt.dstConn != c)
          cache := amSet t.cache c { used := s.postmark, fetching := false, image := contextBytes x 1 } }))))) := by
  change execContextFetched c s = _
  simp only [execContextFetched, hcache, hx, hfetch, Bool.not_true, Bool.false_eq_true, if_false]

end

/-! ### Translations (R77, R489) -/

/-- A range of host buffers that is absent and one whose translation failed are unmapped alike. -/
theorem exec_translationResponse_unmapped {len : Nat} (hlen : len ≠ 0) {answer : XlatAnswer} (hans : answer ≠ .mapped) (s : State)
    (fn addr : Nat) : exec (.translationResponse fn none addr len answer) s =
      .next (modFn s fn (fun f => { f with unmapped := (addr, addr + len - 1) :: f.unmapped })) := by
  cases answer with
  | mapped => exact absurd rfl hans
  | absent => exact congrArg _ (if_neg hlen)
  | failed => exact congrArg _ (if_neg hlen)

/-! ### The end of a migration (R140, R144) -/

/-- The state once session `d` has been handed over to the target of its migration: a stub, its COMMIT on the way (R140, R522). -/
def handedOver (s : State) (d : Nat) (g : Migration) (x : Session) : State :=
  let t := endText s d
  sendMigrate (modMigration (upd t d (fun x => { x with
      stub := true, forwarding := true, handoverPm := t.postmark, migrateEpoch := (t.chartEpoch + 1) % 2 ^ 32
      migrateTarget := g.peer })) d (fun g => { g with phase := 5 })) d x g.conn 4 3 {}

section
variable {s : State} {d : Nat} {g : Migration} {x : Session} (hg : getMigration s d = some g)
  (hx : amGet s.sessions d = some x) (htag : g.tag.isSome = true) (hphase : g.phase = 4)
include hg hx htag hphase

theorem handOver_of_prepared : handOver s d = handedOver s d g x := by
  have hready : (g.tag.isSome && g.phase == 4) = true := by rw [htag, hphase]; rfl
  simp only [handOver, hg, hx]
  exact if_pos hready

theorem exec_handover_of_prepared (pm : Nat) :
    exec (.handover d pm) s = .next (admitAll (handedOver (advance pm s) d g x)) := by
  have hg' : getMigration (advance pm s) d = some g := hg
  change Host.Outcome.next (admitAll (handOver (advance pm s) d)) = _
  rw [handOver_of_prepared hg' hx htag hphase]

end

theorem exec_stubRelease {s : State} {d : Nat} (pm : Nat) {x : Session} (hx : amGet s.sessions d = some x) :
    exec (.stubRelease d pm) s =
      if x.stub && gracePassed (advance pm s) x && !openForwards s d && decide (x.migrateEpoch ≤ s.chartEpoch)
          && (getMigration s d).isNone then .next (retryGrants (freeSession (advance pm s) d))
      else .next (advance pm s) := by
  change execStubRelease d pm s = _
  simp only [execStubRelease, advance_sessions, hx]
  rfl

/-- Settles O35: each clause is the branch of its command's answer that the connection, the cached context or the session
chooses. -/
theorem tidewayTimersTakeEffect : Obligations.TidewayTimersTakeEffect := by
  refine ⟨?ackTaken, ?ackUnknown, ?retryOver, ?retried, ?ackDelay, ?aiInterval, ?priTimeout, ?contextFetched, ?rangeMapped,
    ?rangeAbsent, ?rangeFailed, ?pageMapped, ?pageAbsent, ?pageFailed, ?handover, ?stubRelease⟩
  case ackTaken =>
    intro s a e hport hacc hknown hcache hhere
    exact exec_ack_of_cached hport hacc hknown hcache hhere
  case ackUnknown =>
    intro s a hport hacc hknown
    exact exec_ack_of_unknown hport hacc hknown
  case retryOver =>
    intro s c pm x p hx hp hopen hdue hspent
    exact (exec_rtoExpiry pm hx hp hopen hdue).trans (if_pos hspent)
  case retried =>
    intro s c pm x p hx hp hopen hdue hleft
    exact (exec_rtoExpiry pm hx hp hopen hdue).trans (if_neg hleft)
  case ackDelay =>
    intro s c pm x hx hopen howed hdue
    exact exec_ackDelayExpiry pm hx hopen howed hdue
  case aiInterval =>
    intro s c pm x hx hopen hdue
    exact exec_aiInterval pm hx hopen hdue
  case priTimeout =>
    intro s c pm x hx
    exact exec_priTimeout pm hx
  case contextFetched =>
    intro s c e x hcache hx hfetch
    exact exec_contextFetched hx hcache hfetch
  case rangeMapped =>
    intro s fn addr len
    rfl
  case rangeAbsent =>
    intro s fn addr len hlen
    exact exec_translationResponse_unmapped hlen (by decide) s fn addr
  case rangeFailed =>
    intro s fn addr len hlen
    exact exec_translationResponse_unmapped hlen (by decide) s fn addr
  case pageMapped =>
    intro s fn q addr len
    rfl
  case pageAbsent =>
    intro s fn q addr len
    rfl
  case pageFailed =>
    intro s fn q addr len
    rfl
  case handover =>
    intro s d pm g x hg hx htag hphase
    exact exec_handover_of_prepared hg hx htag hphase pm
  case stubRelease =>
    intro s d pm x hx hstub hgrace hclosed hepoch hdone
    rw [exec_stubRelease pm hx]
    exact if_pos (by simp [hstub, hgrace, hclosed, hepoch, hdone])

end Sys2Proof.Machine
end

section
/-! SUPPORT. The media's own work in time (R536, R537, R547, R551, R564, R565): what the fill of a row, a relocation, a retention
scan, the notice of a late refresh and the hourly rewrite of the format record answer where each is due; and the statement about
them. -/

namespace Sys2Proof.Machine

/-! ### Rows and relocation (R547, R551) -/

@[simp] theorem freeShingles_advance (pm : Nat) (s : State) : freeShingles (advance pm s) = freeShingles s := rfl

theorem exec_rowFillTimeout {s : State} {n pm : Nat} {sh : Shingle} (hsh : amGet s.media.shingles n = some sh) :
    exec (.rowFillTimeout n pm) s =
      if sh.st = .opened ∧ sh.ptr % rowBlocks s sh.chans.length ≠ 0 ∧ sh.partSince + 1000000 ≤ max s.postmark pm then
        .next (fillRow (advance pm s) n)
      else .next (advance pm s) := by
  change execRowFillTimeout n pm s = _
  simp only [execRowFillTimeout, advance_media, hsh]
  rfl

theorem exec_relocateShingle {s : State} {n why pm : Nat}
    (hfree : (amHas s.pow.holds 37 || amHas s.pow.holds 38 || amHas s.pow.holds 39) = false)
    (hnext : relocateNext (advance pm s) = some (n, why)) :
    exec (.relocateShingle pm) s =
      if s.media.state = 3 ∨ (s.media.state = 4 ∧ 0 < freeShingles s) then .next (relocate (advance pm s) n why)
      else .next (advance pm s) := by
  change execRelocateShingle pm s = _
  simp only [execRelocateShingle, advance_media, advance_pow, freeShingles_advance, hfree, hnext, Bool.false_eq_true, if_false]

/-! ### Retention scans (R564, R565) -/

/-- The state once a unit of each erase unit of shingle `n` has been read: each read counted against its disturb limit, the time and
the bits corrected recorded, the bytes and the retries counted. -/
def unitsScanned (s : State) (n : Nat) (results : List (Nat × Bool)) : State :=
  let u := (List.range results.length).foldl (fun u i => noteRead u n i) s
  modMedia
    (modShingle u n (fun x => { x with
      scanned := u.postmark
      corrected := (List.range results.length).map (fun i => (i, ((results.drop i).headD (0, false)).1)) }))
    (fun m => { m with
      bytesRead := (m.bytesRead + results.length * (mProfile s).unit) % 2 ^ 64
      retried := m.retried + results.countP (fun r => r.2) })

/-- The scan marks the shingle `sh`, found before it began: a unit corrected too much or needed a retry, or `sh` is too old once the
units have been read (R565). -/
def scanMarks (s : State) (n : Nat) (sh : Shingle) (results : List (Nat × Bool)) : Bool :=
  results.any (fun r => decide ((mProfile s).refreshBits < r.1) || r.2)
    || decide ((mProfile s).refreshDays * dayNs < shAge (unitsScanned s n results) sh)

theorem exec_retentionScan {s : State} {n : Nat} {results : List (Nat × Bool)} {pm : Nat} {sh : Shingle}
    (hsh : amGet s.media.shingles n = some sh) :
    exec (.retentionScan n results pm) s =
      if (s.media.state = 3 ∨ s.media.state = 4) ∧ sh.st = .closed ∧ results.length = sh.units.length then
        .next (if scanMarks (advance pm s) n sh results = true then markRefresh (unitsScanned (advance pm s) n results) n
          else unitsScanned (advance pm s) n results)
      else .next (advance pm s) := by
  change execRetentionScan n results pm s = _
  simp only [execRetentionScan, advance_media, hsh]
  rfl

/-! ### A refresh that is late, and the hour of the format record (R565, R536) -/

theorem exec_refreshBehind (s : State) (pm : Nat) :
    exec (.refreshBehind pm) s =
      if (rearmBehind (advance pm s)).media.behindPosted = false
          ∧ ((rearmBehind (advance pm s)).media.state = 3 ∨ (rearmBehind (advance pm s)).media.state = 4)
          ∧ (refreshWaiting (rearmBehind (advance pm s))).any
            (fun e => decide (e.2 + 86400000000000 < (rearmBehind (advance pm s)).postmark)) = true then
        .next (postPf (modMedia (rearmBehind (advance pm s)) (fun m => { m with behindPosted := true })) 0x0607 0
          ((refreshWaiting (rearmBehind (advance pm s))).length % 2 ^ 32))
      else .next (rearmBehind (advance pm s)) := rfl

theorem exec_formatRecordHourly (s : State) (pm : Nat) :
    exec (.formatRecordHourly pm) s =
      if s.media.wallOffset.isSome = true ∧ (s.media.state = 3 ∨ s.media.state = 4)
          ∧ s.media.hourPm + 3600000000000 ≤ max s.postmark pm then
        .next (modMedia (advance pm s) (fun m => { m with
          hourPm := max s.postmark pm, format := m.format.map (fun r => { r with wall := wallWord (advance pm s) }) }))
      else .next (advance pm s) := rfl

/-- Settles O41: each clause is the branch that its command takes when the work is due; moving the postmark leaves what the guards
read of the media as it was. -/
theorem mediaTimersTakeEffect : Obligations.MediaTimersTakeEffect := by
  refine ⟨?rowFill, ?relocation, ?scan, ?behind, ?hourly⟩
  case rowFill =>
    intro s n pm sh hsh hopen hpart hdue
    exact (exec_rowFillTimeout hsh).trans (if_pos ⟨hopen, hpart, hdue⟩)
  case relocation =>
    intro s pm n why hfree hstate hnext
    exact (exec_relocateShingle hfree hnext).trans (if_pos hstate)
  case scan =>
    intro s n results pm sh hsh hstate hclosed hall
    exact (exec_retentionScan hsh).trans (if_pos ⟨hstate, hclosed, hall⟩)
  case behind =>
    intro s pm hfirst hstate hlate
    exact (exec_refreshBehind s pm).trans (if_pos ⟨hfirst, hstate, hlate⟩)
  case hourly =>
    intro s pm hwall hstate hdue
    exact (exec_formatRecordHourly s pm).trans (if_pos ⟨hwall, hstate, hdue⟩)

end Sys2Proof.Machine
end

section
/-! SUPPORT. The timers of a role drain, a binding, a restore and a trial image (R575, R601, R612, R683): what each answers where what
it ends is under way; and the statement about them. -/

namespace Sys2Proof.Machine

/-! ### A role drain (R612) -/

section
variable {s : State} {q : RoleDrain} (hq : s.pair.drain = some q)
include hq

theorem exec_roleDrainEnd : exec .roleDrainEnd s =
    .next (if roleHolds s q.role then s else resolveWait (enterRole s q.role q.profile) .roleDrain (rOk 1)) := by
  change execRoleDrainEnd s = _
  simp only [execRoleDrainEnd, hq]

theorem exec_roleDrainTimeout (pm : Nat) : exec (.roleDrainTimeout pm) s =
    if q.until_ ≤ max s.postmark pm ∧ roleHolds s q.role = true then
      .next (resolveWait { modPair (advance pm s) (fun p => { p with drain := none }) with roleNext := none } .roleDrain (rOk 0))
    else .next (advance pm s) := by
  change execRoleDrainTimeout pm s = _
  simp only [execRoleDrainTimeout, advance_pair, hq]
  rfl

end

/-! ### A binding, a restore, a trial image (R575, R601, R683) -/

theorem exec_pairBindTimeout (s : State) (pm : Nat) : exec (.pairBindTimeout pm) s =
    if s.pair.status = 1 ∧ s.pair.bindSince + 10000000000 ≤ max s.postmark pm then
      .next (resolveWait (modPair (advance pm s) (fun p => { p with status := 0 })) .buddyBind (rOk (if s.pair.noFrames then 2 else 0)))
    else .next (advance pm s) := rfl

theorem exec_restoreDone {s : State} {q : RestoreRun} (hq : s.pair.restore = some q) : exec .restoreDone s =
    if q.background = true ∧ holderLeft s q.holder = false then
      .next (emit (.holderRelease q.holder q.source) (postPf (modPair s (fun p => { p with restore := none })) 0x0707 0 q.source))
    else .next s := by
  change execRestoreDone s = _
  simp only [execRestoreDone, hq]

theorem exec_trialCommitTimer (s : State) (pm : Nat) : exec (.trialCommitTimer pm) s =
    if s.boot.stage = 3 ∧ s.boot.trialRun = true ∧ s.faults.restarted = false ∧ s.beached = false
        ∧ s.boot.readyPm + 600000000000 ≤ max s.postmark pm then .next (commitTrial (advance pm s))
    else .next (advance pm s) := rfl

/-- Settles O31: each clause is the branch that its command takes when what it ends is due. -/
theorem roleAndBindTimersTakeEffect : Obligations.RoleAndBindTimersTakeEffect := by
  refine ⟨?drainEnd, ?drainTimeout, ?bindTimeout, ?restoreDone, ?trialCommit⟩
  case drainEnd =>
    intro s q hq hfree
    rw [exec_roleDrainEnd hq, if_neg (Bool.eq_false_iff.mp hfree)]
  case drainTimeout =>
    intro s pm q hq hdue hheld
    exact (exec_roleDrainTimeout hq pm).trans (if_pos ⟨hdue, hheld⟩)
  case bindTimeout =>
    intro s pm hbinding hdue
    exact (exec_pairBindTimeout s pm).trans (if_pos ⟨hbinding, hdue⟩)
  case restoreDone =>
    intro s q hq hbackground hleft
    exact (exec_restoreDone hq).trans (if_pos ⟨hbackground, hleft⟩)
  case trialCommit =>
    intro s pm hready htrial hrestart hbeached hdue
    exact (exec_trialCommitTimer s pm).trans (if_pos ⟨hready, htrial, hrestart, hbeached, hdue⟩)

end Sys2Proof.Machine
end

section
/-! SUPPORT. The Isthmus and the buddy (R571, R574, R575, R596, R627, R699): what the beats, the halves, the key and the events of the
buddy answer; and the statement about them. -/

namespace Sys2Proof.Machine

/-! ### The link (R571, R574, R596, R699) -/

/-- The state once a heartbeat has gone on half `k`, where it is up (R574). -/
def heartbeatSent (s : State) (k : Nat) : State :=
  if (getHalf s k).lanes = 0 then s
  else emit (.isthmus (.heartbeat k)) (setHalf s k (fun h => { h with flits := h.flits + 1 }))

theorem exec_isthmusHeartbeat (s : State) (pm : Nat) :
    exec (.isthmusHeartbeat pm) s = .next (heartbeatSent (heartbeatSent (advance pm s) 0) 1) := rfl

theorem exec_buddyHeartbeat (s : State) (pm : Nat) : exec (.buddyHeartbeat pm) s =
    .next (if linked s then modPair (advance pm s) (fun p => { p with lastFlit := max s.postmark pm, restartUntil := none })
      else advance pm s) := rfl

/-- The state once half `half` has fallen to `lanes` lanes and LINK_DEGRADED is posted. -/
def halfDegraded (s : State) (half lanes : Nat) : State :=
  postPf (setHalf s half (fun h => { h with lanes := lanes })) 0x0709 half lanes

theorem exec_linkDegraded (s : State) (half lanes : Nat) : exec (.linkDegraded half lanes) s =
    if half < 2 ∧ lanes < (getHalf s half).lanes ∧ (lanes = 0 ∨ lanes = 8) then
      .next (if linked (halfDegraded s half lanes) then halfDegraded s half lanes else tearEpoch (halfDegraded s half lanes))
    else .next s := rfl

/-- The state once half `half` has trained with `lanes` lanes at the postmark: a fresh key, and a flit of the buddy's. -/
def halfTrained (s : State) (half lanes : Nat) : State :=
  modPair (setHalf s half (fun h => { h with lanes := lanes, flits := 0, keySince := s.postmark }))
    (fun p => { p with lastFlit := s.postmark })

theorem exec_isthmusHalfUp (s : State) (half lanes : Nat) (peerStrap : Bool) (pm : Nat) :
    exec (.isthmusHalfUp half lanes peerStrap pm) s =
      if half < 2 ∧ (lanes = 8 ∨ lanes = 16) ∧ (getHalf s half).lanes = 0 ∧ peerStrap ≠ s.pair.strap
          ∧ s.faults.regionsDown.contains (6 + half) = false
          ∧ s.faults.runs.any (fun q => q.region == 6 + half || q.region == 8) = false then
        .next (if lanes = 8 then postPf (halfTrained (advance pm s) half lanes) 0x0709 half 8 else halfTrained (advance pm s) half lanes)
      else .next (advance pm s) := rfl

theorem exec_pairKeyUpdate (s : State) (half pm : Nat) : exec (.pairKeyUpdate half pm) s =
    if half < 2 ∧ bound s = true ∧ (getHalf s half).lanes ≠ 0
        ∧ (2 ^ 32 ≤ (getHalf s half).flits ∨ (getHalf s half).keySince + dayNs ≤ max s.postmark pm) then
      .next (emit (.isthmus (.keyUpdate half)) (setHalf (advance pm s) half (fun h => { h with
        flits := 0, keySince := max s.postmark pm, keyGen := h.keyGen + 1 })))
    else .next (advance pm s) := rfl

/-! ### The buddy (R574, R575, R627) -/

theorem exec_buddyLost (s : State) (pm : Nat) : exec (.buddyLost pm) s =
    if bound s = true ∧ s.pair.restartUntil = none ∧ s.pair.lastFlit + 1000000 ≤ max s.postmark pm then
      .next (loseBuddy (advance pm s))
    else .next (advance pm s) := rfl

theorem exec_buddyAnnounce {s : State} {pm : Nat} (hbound : bound (advance pm (leaveFlit s)) = true) (restart : Bool) :
    exec (.buddyAnnounce restart pm) s =
      .next (if restart then modPair (tearEpoch (advance pm (leaveFlit s))) (fun p => { p with
          restartUntil := some ((advance pm (leaveFlit s)).postmark + 3000000000) })
        else loseBuddy (advance pm (leaveFlit s))) :=
  if_pos hbound

theorem exec_buddyRestartTimeout {s : State} {until_ : Nat} (huntil : s.pair.restartUntil = some until_) (pm : Nat) :
    exec (.buddyRestartTimeout pm) s =
      .next (if until_ ≤ max s.postmark pm then loseBuddy (advance pm s) else advance pm s) := by
  change execBuddyRestartTimeout pm s = _
  simp only [execBuddyRestartTimeout, advance_pair, huntil]
  rfl

theorem exec_buddyPairBind (s : State) (dev names reservePct parkPct : Nat) (reserved : Bool) :
    exec (.buddyPairBind dev names reservePct parkPct reserved) s =
      if linked (leaveFlit s) = true ∧ bound (leaveFlit s) = false ∧ reservePct ≤ 50 ∧ parkPct ≤ 100 then
        .next (tryBind (modPair (leaveFlit s) (fun p => { p with
          announced := some (dev, names, reservePct, parkPct), noFrames := !reserved })))
      else .next (leaveFlit s) := rfl

/-- Settles O42: each clause is the branch of its command's answer that the link, the pair or the announcement chooses. That a half
which trains with 8 lanes posts LINK_DEGRADED is assumption 97 of the log. -/
theorem isthmusEventsTakeEffect : Obligations.IsthmusEventsTakeEffect := by
  refine ⟨?heartbeat, ?buddyAlive, ?buddyLost, ?restartAnnounced, ?removalAnnounced, ?restartOver, ?linkDegraded, ?halfUp, ?keyUpdate,
    ?buddyBind⟩
  case heartbeat =>
    intro s pm
    exact exec_isthmusHeartbeat s pm
  case buddyAlive =>
    intro s pm hlinked
    rw [exec_buddyHeartbeat, if_pos hlinked]
  case buddyLost =>
    intro s pm hbound hquiet hsilent
    exact (exec_buddyLost s pm).trans (if_pos ⟨hbound, hquiet, hsilent⟩)
  case restartAnnounced =>
    intro s pm hbound
    exact exec_buddyAnnounce hbound true
  case removalAnnounced =>
    intro s pm hbound
    exact exec_buddyAnnounce hbound false
  case restartOver =>
    intro s pm until_ huntil hdue
    rw [exec_buddyRestartTimeout huntil, if_pos hdue]
  case linkDegraded =>
    intro s half lanes hhalf hfewer hlanes
    exact (exec_linkDegraded s half lanes).trans (if_pos ⟨hhalf, hfewer, hlanes⟩)
  case halfUp =>
    intro s half lanes peerStrap pm hhalf hlanes hdown hstrap hregion hhandling
    exact (exec_isthmusHalfUp s half lanes peerStrap pm).trans (if_pos ⟨hhalf, hlanes, hdown, hstrap, hregion, hhandling⟩)
  case keyUpdate =>
    intro s half pm hhalf hbound hup hold
    exact (exec_pairKeyUpdate s half pm).trans (if_pos ⟨hhalf, hbound, hup, hold⟩)
  case buddyBind =>
    intro s dev names reservePct parkPct reserved hlinked hfree hreserve hpark
    exact (exec_buddyPairBind s dev names reservePct parkPct reserved).trans (if_pos ⟨hlinked, hfree, hreserve, hpark⟩)

end Sys2Proof.Machine
end

section
/-! SUPPORT. The copies that a holder stores and the reads of them (R549, R578, R580, R581, R582, R589, R593, R601): what the park area,
the mirror index, the epochs and the reads of a harbour answer where each is as it supposes; and the statement about them. -/

namespace Sys2Proof.Machine

/-! ### The park area and the mirrors (R549, R578, R580) -/

theorem exec_parkCopy {s : State} {h : Harbour} (hhosted : (leaveFlit s).pair.hosted = some h) (loc : Nat) (c : PageCopy) :
    exec (.parkCopy loc c) s =
      if loc + parkFramesOf c.body.length ≤ h.parkMax
          ∧ h.park.any (fun e => decide (e.1 < loc + parkFramesOf c.body.length)
            && decide (loc < e.1 + parkFramesOf e.2.body.length)) = false then
        .next (modPair (leaveFlit s) (fun p => { p with hosted := some { h with park := amSet h.park loc c } }))
      else .next (leaveFlit s) := by
  change execParkCopy loc c s = _
  simp only [execParkCopy, hhosted]

/-- The key under which the mirror index holds a copy. -/
def mirrorKeyOf (c : PageCopy) : MirrorKey :=
  { device := c.device, handle := c.handle, layer := c.layer, page := c.page, gen := c.gen }

/-- What the mirror shingle holds of a copy (R545, R580). -/
def mirrorCopyOf (c : PageCopy) : MediaCopy :=
  { handle := c.handle, device := c.device, mirror := true, tail := c.tail, blocks := copyBlocks c.body.length
    copy := { account := c.account, layer := c.layer, page := c.page, size := c.body.length, format := c.format, gen := c.gen
              filled := c.filled, narrowed := c.narrowed, mirrored := false, chainId := if c.chainId = 0 then none else some c.chainId }
    body := c.body }

theorem exec_mirrorCopy {s u : State} {c : PageCopy} {loc : Nat} (hbound : bound (leaveFlit s) = true)
    (hmedia : (leaveFlit s).media.state = 3) (hroom : (leaveFlit s).media.mirrors.length < 4194304)
    (hplace : mediaPlace (leaveFlit s) 6 (mirrorCopyOf c) = (some loc, u)) : exec (.mirrorCopy c) s =
      .next (modMedia u (fun m => { m with
        mirrors := (mirrorKeyOf c, loc) :: m.mirrors.filter (fun e => e.1 != mirrorKeyOf c) })) := by
  rw [mirrorCopyOf] at hplace
  change execMirrorCopy c s = _
  simp only [execMirrorCopy, hplace, mirrorKeyOf]
  exact if_pos ⟨hbound, hmedia, hroom⟩

/-! ### Release notices (R581) -/

theorem exec_releaseNotice_everything {s : State} {h : Harbour} (hhosted : (leaveFlit s).pair.hosted = some h) :
    exec (.releaseNotice .everything) s =
      .next (modPair (dropMirrors (freeHarbour (leaveFlit s) h) (fun k => k.device == (leaveFlit s).pair.buddy))
        (fun p => { p with hosted := none, releasePending := [] })) := by
  change execReleaseNotice .everything s = _
  simp only [execReleaseNotice, hhosted]

theorem exec_releaseNotice_frozen {s : State} {source : Nat} {h : Harbour}
    (hfrozen : amGet (leaveFlit s).pair.frozen source = some h) : exec (.releaseNotice (.frozen source)) s =
      .next (modPair (dropMirrors (freeHarbour (leaveFlit s) h) (fun k => k.device == source))
        (fun p => { p with frozen := amErase p.frozen source })) := by
  change execReleaseNotice (.frozen source) s = _
  simp only [execReleaseNotice, hfrozen]

/-! ### Epochs (R582, R589, R590, R593) -/

theorem exec_epochStart (s : State) (pm : Nat) : exec (.epochStart pm) s =
    .next (if epochDue (advance pm s) then startEpoch (advance pm s) else advance pm s) := rfl

/-- The harbour as it receives epoch `e`: the slot that is open for it, or the slot as it opens (R589). -/
def harbourReceiving (h : Harbour) (e : Nat) : Harbour :=
  match h.cur with
  | some (b, _, _) => if b = e then h else openSlot h e
  | none => openSlot h e

/-- The harbour once an item of epoch `e` is applied, and its bytes counted and added to the CRC of the epoch. -/
def itemReceived (h : Harbour) (e : Nat) (item : CkptItem) (bytes : List Byte) : Harbour :=
  let k := applyItem e (harbourReceiving h e) item
  { k with cur := k.cur.map (fun c => (c.1, c.2.1 + bytes.length, crc64Go c.2.2 bytes)) }

/-- The mirror copies released by their source that no committed slot of harbour `h` names any more (R581). -/
def mirrorsUnnamed (s : State) (h : Harbour) : List MirrorKey := s.pair.releasePending.filter (fun q => !slotNamesMirror h q)

/-- The state once those mirror copies are let go. -/
def mirrorsLetGo (s : State) (h : Harbour) : State :=
  modPair (dropMirrors s (fun q => (mirrorsUnnamed s h).contains q))
    (fun p => { p with releasePending := p.releasePending.filter (fun q => !(mirrorsUnnamed s h).contains q) })

/-- The state once commit record `r` is written in harbour `k` (R590, R593). -/
def recordWritten (s : State) (k : Harbour) (r : CommitRecord) : State :=
  mirrorsLetGo (modPair s (fun p => { p with hosted := some (writeRecord k r) })) (writeRecord k r)

/-- What commit record `r` does to harbour `k`, which receives its epoch: it is written where it checks (R593). -/
def commitInto (s : State) (k : Harbour) (r : CommitRecord) : Out :=
  match k.cur with
  | some (_, n, crc) =>
    if bound s = true ∧ recordValid r (r.epoch % 2) k.source = true ∧ n = r.byteCount ∧ (crc ^^^ 0xFFFFFFFFFFFFFFFF) = r.epochCrc
        ∧ namesMade k (if r.epoch % 2 = 0 then k.slotA else k.slotB) = true then
      .next (isthmus (recordWritten s k r) (.committed r.epoch))
    else .next s
  | none => .next s

theorem commitInto_of_checks {s : State} {k : Harbour} {r : CommitRecord} {e n crc : Nat} (hcur : k.cur = some (e, n, crc))
    (hbound : bound s = true) (hvalid : recordValid r (r.epoch % 2) k.source = true) (hcount : n = r.byteCount)
    (hcrc : (crc ^^^ 0xFFFFFFFFFFFFFFFF) = r.epochCrc)
    (hmade : namesMade k (if r.epoch % 2 = 0 then k.slotA else k.slotB) = true) :
    commitInto s k r = .next (isthmus (recordWritten s k r) (.committed r.epoch)) := by
  simp only [commitInto, hcur]
  exact if_pos ⟨hbound, hvalid, hcount, hcrc, hmade⟩

section
variable {s : State} {h : Harbour} (hhosted : (leaveFlit s).pair.hosted = some h)
include hhosted

theorem exec_checkpointDelta (epoch : Nat) (item : CkptItem) (bytes : List Byte) : exec (.checkpointDelta epoch item bytes) s =
    if bound (leaveFlit s) = true then
      .next (modPair (leaveFlit s) (fun p => { p with hosted := some (itemReceived h epoch item bytes) }))
    else .next (leaveFlit s) := by
  change execCheckpointDelta epoch item bytes s = _
  simp only [execCheckpointDelta, hhosted]
  rfl

theorem exec_commitRecord (r : CommitRecord) :
    exec (.commitRecord r) s = commitInto (leaveFlit s) (harbourReceiving h r.epoch) r := by
  change execCommitRecord r s = _
  simp only [execCommitRecord, hhosted]
  rfl

end

theorem exec_epochCommitted {s : State} {r : EpochRun} (hrun : (leaveFlit s).pair.run = some r) (epoch : Nat) :
    exec (.epochCommitted epoch) s =
      .next (if r.num = epoch ∧ bound (leaveFlit s) = true then commitEpoch (leaveFlit s) r else leaveFlit s) := by
  change execEpochCommitted epoch s = _
  simp only [execEpochCommitted, hrun]

/-! ### Reads of a harbour, and what they bring (R558, R578, R581, R601) -/

theorem exec_harbourRead (s : State) (source req : Nat) (ask : HarbourAsk) : exec (.harbourRead source req ask) s =
    .next (isthmus (harbourServe (leaveFlit s) source ask).1 (.data req (harbourServe (leaveFlit s) source ask).2)) := rfl

/-- The state once the data of read `req` has come: the read is open no more. -/
def readReturned (s : State) (req : Nat) : State := modPair (leaveFlit s) (fun p => { p with reads := amErase p.reads req })

/-- The geometry of the pages of session `handle`; none where there is no such session. -/
def handleProfile (s : State) (handle : Nat) : List Byte :=
  (s.sessions.find? (fun e => e.2.handle == handle)).elim [] (fun e => sessProfile s e.2)

/-- The state once copy `c` of the buddy's stands for the lost media copy `m` at `loc` (R558). -/
def mirrorRestored (s : State) (loc : Nat) (m : MediaCopy) (c : PageCopy) : State :=
  { modMedia s (fun k => { k with fromBuddy := k.fromBuddy + 1 }) with
    copies := amMod s.copies (copyKey 3 loc) (fun old => { old with
      rows := parseBody (handleProfile s m.handle) c.body old.format old.filled }) }

section
variable {s : State} {req : Nat}

section
variable {d key : Nat} (hread : amGet (leaveFlit s).pair.reads req = some (.flood d key))
include hread

theorem exec_isthmusReadData_flood (c : PageCopy) :
    exec (.isthmusReadData req (.copy c)) s = .next (arriveCopy (readReturned s req) d key c) := by
  change execIsthmusReadData req (.copy c) s = _
  simp only [execIsthmusReadData, hread]
  rfl

theorem exec_isthmusReadData_flood_of_no_copy {data : HarbourData} (hdata : ∀ c, data ≠ .copy c) :
    exec (.isthmusReadData req data) s = .next (loseSession (readReturned s req) d 2) := by
  change execIsthmusReadData req data s = _
  simp only [execIsthmusReadData, hread]
  cases data with
  | copy c => exact absurd rfl (hdata c)
  | image i => rfl
  | nothing => rfl

end

theorem exec_isthmusReadData_mirror {loc : Nat} {m : MediaCopy} (hread : amGet (leaveFlit s).pair.reads req = some (.mirror loc))
    (hlost : mediaAt (readReturned s req) loc = some m) (c : PageCopy) :
    exec (.isthmusReadData req (.copy c)) s = .next (mirrorRestored (readReturned s req) loc m c) := by
  rw [readReturned] at hlost
  change execIsthmusReadData req (.copy c) s = _
  simp only [execIsthmusReadData, hread, hlost]
  rfl

theorem exec_isthmusReadData_device {q : RestoreRun} (hread : amGet (leaveFlit s).pair.reads req = some .device)
    (hq : (leaveFlit s).pair.restore = some q) (i : HarbourImage) :
    exec (.isthmusReadData req (.image i)) s = .next (restoreImage (readReturned s req) q i) := by
  change execIsthmusReadData req (.image i) s = _
  simp only [execIsthmusReadData, hread, modPair_pair, hq]
  rfl

section
variable {d cause : Nat} (hread : amGet (leaveFlit s).pair.reads req = some (.session d cause))
include hread

theorem exec_isthmusReadData_session (i : HarbourImage) :
    exec (.isthmusReadData req (.image i)) s = .next (restoreInPlace (readReturned s req) d cause i) := by
  change execIsthmusReadData req (.image i) s = _
  simp only [execIsthmusReadData, hread]
  rfl

theorem exec_isthmusReadData_session_nothing : exec (.isthmusReadData req .nothing) s =
    .next (resolveWait (failSession (readReturned s req) d cause) (.restored d) { status := .version }) := by
  change execIsthmusReadData req .nothing s = _
  simp only [execIsthmusReadData, hread]
  rfl

end

end

/-- Settles O43: each clause is the branch of its command's answer that the harbour, the epoch or the open read chooses. That a message
is a structured value, and an image arrives as one, is assumption 92 of the log. -/
theorem harbourCopiesTakeEffect : Obligations.HarbourCopiesTakeEffect := by
  refine ⟨?park, ?mirror, ?releaseMirror, ?releasePark, ?releaseAccount, ?releaseEverything, ?releaseFrozen, ?epochStart, ?delta,
    ?record, ?committed, ?harbourRead, ?flood, ?floodLost, ?mirrorRead, ?device, ?session, ?sessionLost⟩
  case park =>
    intro s loc c h hhosted hfits hfree
    exact (exec_parkCopy hhosted loc c).trans (if_pos ⟨hfits, hfree⟩)
  case mirror =>
    intro s c loc u hbound hmedia hroom hplace
    exact exec_mirrorCopy hbound hmedia hroom hplace
  case releaseMirror =>
    intro s handle layer page gen
    rfl
  case releasePark =>
    intro s loc
    rfl
  case releaseAccount =>
    intro s a
    rfl
  case releaseEverything =>
    intro s h hhosted
    exact exec_releaseNotice_everything hhosted
  case releaseFrozen =>
    intro s source h hfrozen
    exact exec_releaseNotice_frozen hfrozen
  case epochStart =>
    intro s pm hdue
    rw [exec_epochStart, if_pos hdue]
  case delta =>
    intro s epoch item bytes h hhosted hbound
    exact (exec_checkpointDelta hhosted epoch item bytes).trans (if_pos hbound)
  case record =>
    intro s r h k e n crc hhosted hreceiving hcur hbound hvalid hcount hcrc hmade
    have hslot : harbourReceiving h r.epoch = k := hreceiving
    rw [exec_commitRecord hhosted, hslot]
    exact commitInto_of_checks hcur hbound hvalid hcount hcrc hmade
  case committed =>
    intro s epoch r hrun hnum hbound
    rw [exec_epochCommitted hrun, if_pos ⟨hnum, hbound⟩]
  case harbourRead =>
    intro s source req ask
    exact exec_harbourRead s source req ask
  case flood =>
    intro s req d key c hread
    exact exec_isthmusReadData_flood hread c
  case floodLost =>
    intro s req d key data hread hdata
    exact exec_isthmusReadData_flood_of_no_copy hread hdata
  case mirrorRead =>
    intro s req loc c m hread hlost
    exact exec_isthmusReadData_mirror hread hlost c
  case device =>
    intro s req i q hread hq
    exact exec_isthmusReadData_device hread hq i
  case session =>
    intro s req d cause i hread
    exact exec_isthmusReadData_session hread i
  case sessionLost =>
    intro s req d cause hread
    exact exec_isthmusReadData_session_nothing hread

end Sys2Proof.Machine
end

section
/-! SUPPORT. The tide table, gating and slack water (R646, R647, R649, R651, R654, R655, R656, R658): what an admission and the end of a
ramp do, when a domain is gated, how slack water is entered and left, and that it starts no idle epoch; and the statements about them. -/

namespace Sys2Proof.Machine

@[simp] theorem getDom_advance (pm : Nat) (s : State) (dom : Nat) : getDom (advance pm s) dom = getDom s dom := rfl
@[simp] theorem accepting_advance (pm : Nat) (s : State) : accepting (advance pm s) = accepting s := rfl

/-! ### The tide table (R646, R647, R651, R670) -/

/-- The state in which domain `dom` has left the queue of wakes and its ramp has started. -/
def rampStarted (s : State) (dom : Nat) : State :=
  modPow s (fun p => { p with
    wakes := p.wakes.filter (fun v => v.dom != dom)
    ramps := p.ramps ++ [{ dom := dom, charge := (wakeCost dom).1, rampEnd := s.postmark + (wakeCost dom).2.1
                           ready := s.postmark + (wakeCost dom).2.2 }] })

theorem exec_wakeAdmit {s : State} {dom : Nat} {w : Wake} (hw : s.pow.wakes.find? (fun v => v.dom == dom) = some w) (pm : Nat) :
    exec (.wakeAdmit dom pm) s =
      if s.pow.wakes.any (fun v => domRegion v.dom == domRegion dom && wakeBefore v w) = true
          ∨ 20 < rampCharge (advance pm s) (domRegion dom) + (wakeCost dom).1 then .next (advance pm s)
      else .next (rampStarted (advance pm s) dom) := by
  change execWakeAdmit dom pm s = _
  simp only [execWakeAdmit, advance_pow, hw]
  rfl

/-- The state in which ramp `q` of domain `dom` has run and the domain is ON. -/
def rampOver (s : State) (dom : Nat) (q : Ramp) : State :=
  setDom (modPow s (fun p => { p with ramps := p.ramps.filter (· != q) })) dom 0

/-- What the region does with attention block `b` once it is ON: it gives it work, or, where the block was retired meanwhile,
asks for the wakes of its reserve (R651, R670). -/
def blockWoken (s : State) (r b : Nat) : State :=
  if blockOut s r b then (reserveOf s r).foldl (fun u c => requestWake u (14 * r + c) true 0) s
  else
    let t := moveTasks r b true 64 (moveTasks r b false 64 s)
    wantWakes (runBlock t r b (getBlock t r b)) r

theorem blockWoken_of_out {s : State} {r b : Nat} (h : blockOut s r b = true) :
    blockWoken s r b = (reserveOf s r).foldl (fun u c => requestWake u (14 * r + c) true 0) s := if_pos h

theorem blockWoken_of_in_service {s : State} {r b : Nat} (h : blockOut s r b = false) :
    blockWoken s r b = wantWakes (runBlock (moveTasks r b true 64 (moveTasks r b false 64 s)) r b
      (getBlock (moveTasks r b true 64 (moveTasks r b false 64 s)) r b)) r := if_neg (by simp [h])

theorem exec_wakeReady {s : State} {dom pm : Nat} {q : Ramp}
    (hq : s.pow.ramps.find? (fun r => r.dom == dom && decide (r.ready ≤ (advance pm s).postmark)) = some q) :
    exec (.wakeReady dom pm) s =
      .next (goOn (clearShort (restoreHalves (settleLeaving
        (if dom < 84 ∧ dom % 14 < 8 then blockWoken (rampOver (advance pm s) dom q) (domRegion dom) (dom % 14)
         else rampOver (advance pm s) dom q))))) := by
  change execWakeReady dom pm s = _
  simp only [execWakeReady, advance_pow, hq]
  rfl

/-! ### Gating (R649) -/

/-- Attention block `b` is ON and has had no page task for 500 µs. -/
def blockIdle (s : State) (r b : Nat) : Bool :=
  blockOn s r b && (getBlock s r b).running.isNone && (getBlock s r b).queued.isEmpty && (getBlock s r b).waiting.isEmpty
    && decide ((getBlock s r b).sincePm + 500000 ≤ s.postmark)

/-- Attention block `b` may be gated: it is idle, no block after it in reserve order is, it is not of the warm reserve, and
more blocks than the reserve are ON. -/
def blockGates (s : State) (r b : Nat) : Bool :=
  blockIdle s r b && !((reserveOrder.reverse.takeWhile (· != b)).any (blockIdle s r)) && !(reserveOf s r).contains b
    && decide (liveVal s (.warmReserve r) < onBlocks s r)

theorem exec_blockIdleGate {s : State} {dom : Nat} (hactive : s.pow.state = 0) (hon : getDom s dom = 0) (pm : Nat) :
    exec (.blockIdleGate dom pm) s =
      if dom < 84 ∧ dom % 14 < 8 then
        if blockGates (advance pm s) (dom / 14) (dom % 14) then .next (setDom (advance pm s) dom 2) else .next (advance pm s)
      else if domIdle (advance pm s) dom then .next (setDom (advance pm s) dom 2) else .next (advance pm s) := by
  change execBlockIdleGate dom pm s = _
  simp only [execBlockIdleGate, advance_pow, getDom_advance, hactive, hon, ne_eq, not_true_eq_false, or_self, if_false]
  rfl

/-! ### Slack water (R653 to R659) -/

theorem exec_slackEnter (s : State) (hmWaiting : Bool) (pm : Nat) : exec (.slackEnter hmWaiting pm) s =
    if accepting s = true ∧ s.pow.state = 0 ∧ liveVal s .pwrCtrl % 2 = 1 ∧ quiet (advance pm s) hmWaiting = true then
      .next (modPow (advance pm s) (fun p => { p with state := 1 }))
    else .next (advance pm s) := rfl

/-- The state in which the domains of slack water are at their lowest and the lanes of the Isthmus halves are kept for LEAVING. -/
def slackLowered (s : State) : State :=
  modPow (slackDoms.foldl (fun u e => setDom u e.1 e.2) s) (fun p => { p with
    state := 2, wakes := [], halves := some (s.pair.half0.lanes, s.pair.half1.lanes) })

/-- The state in which, where both Isthmus halves `were` up, half 1 is down and half 0 runs 8 lanes. -/
def halvesLowered (were : State) (s : State) : State :=
  if were.pair.half0.lanes ≠ 0 ∧ were.pair.half1.lanes ≠ 0 then
    setHalf (setHalf s 0 (fun h => { h with lanes := 8 })) 1 (fun h => { h with lanes := 0 })
  else s

theorem exec_slackEntered {s : State} (hentering : s.pow.state = 1) (pm : Nat) : exec (.slackEntered pm) s =
    .next (postPf (halvesLowered s (slackLowered (advance pm s))) 0x0901 0
      ((halvesLowered s (slackLowered (advance pm s))).sessions.length % 2 ^ 32)) := by
  change execSlackEntered pm s = _
  simp only [execSlackEntered, advance_pow, hentering, if_true]
  rfl

theorem exec_leavingScheduled (s : State) (pm : Nat) : exec (.leavingScheduled pm) s =
    if (scheduled (advance pm s)).any (fun t => decide (t ≤ max s.postmark pm + 50000)) then .next (leaveSlack (advance pm s) 1)
    else .next (advance pm s) := rfl

/-- Settles O49: each clause is the branch of its command's answer that the tide table, the domain or the power state chooses. That half 1
goes down in slack water and half 0 runs 8 lanes is assumption 161 of the log. -/
theorem powerStatesTakeEffect : Obligations.PowerStatesTakeEffect := by
  refine ⟨?admitted, ?notAdmitted, ?blockRetired, ?blockReady, ?otherReady, ?blockGated, ?otherGated, ?entering, ?entered, ?leaving⟩
  case admitted =>
    intro s dom pm w hw hfirst hfits
    rw [exec_wakeAdmit hw, if_neg (not_or.mpr ⟨ne_true_of_eq_false hfirst, Nat.not_lt.mpr hfits⟩)]
    rfl
  case notAdmitted =>
    intro s dom pm w hw hwaits
    rw [exec_wakeAdmit hw, if_pos hwaits]
  case blockRetired =>
    intro s dom pm q hq hstate hblock hout
    rw [exec_wakeReady hq, if_pos ⟨hstate, hblock⟩, blockWoken_of_out (s := rampOver (advance pm s) dom q) hout]
    rfl
  case blockReady =>
    intro s dom pm q hq hstate hblock hin
    rw [exec_wakeReady hq, if_pos ⟨hstate, hblock⟩, blockWoken_of_in_service (s := rampOver (advance pm s) dom q) hin]
    rfl
  case otherReady =>
    intro s dom pm q hq hother
    rw [exec_wakeReady hq, if_neg (by omega)]
    rfl
  case blockGated =>
    intro s dom pm hactive hon hstate hblock hgates
    rw [exec_blockIdleGate hactive hon, if_pos ⟨hstate, hblock⟩]
    exact if_pos hgates
  case otherGated =>
    intro s dom pm hactive hon hother hidle
    rw [exec_blockIdleGate hactive hon, if_neg (by omega), if_pos hidle]
  case entering =>
    intro s hmWaiting pm hacc hactive hallowed hquiet
    rw [exec_slackEnter, if_pos ⟨hacc, hactive, hallowed, hquiet⟩]
  case entered =>
    intro s pm hentering
    exact exec_slackEntered hentering pm
  case leaving =>
    intro s pm hsoon
    rw [exec_leavingScheduled, if_pos hsoon]

/-! ### The epoch timer in slack water (R582, R655) -/

/-- In SLACK_WATER the timer alone makes no epoch due, once the first since the bind has started: of the other causes, none holds with no
session dirty, none received and none at the steps trigger. -/
theorem epochDue_of_slack_and_clean {s : State} {p : Nat} (hslack : s.pow.state = 2) (hlast : s.pair.lastStart = some p)
    (hreceived : s.pair.received = false)
    (hclean : ∀ e ∈ s.sessions, e.2.ckptDirty = false ∧ e.2.ckptSteps < s.pair.stepsTrigger) : epochDue s = false := by
  have hdirty : s.sessions.any (fun e => e.2.ckptDirty) = false :=
    List.any_eq_false.mpr fun e he => by simp [(hclean e he).1]
  have hsteps : s.sessions.any (fun e => decide (s.pair.stepsTrigger ≤ e.2.ckptSteps)) = false :=
    List.any_eq_false.mpr fun e he => by simp [(hclean e he).2]
  simp [epochDue, hlast, hslack, hreceived, hdirty, hsteps]

/-- Settles O58: no epoch is due once the time has moved on, for that changes neither the pair nor the sessions. -/
theorem slackWaterStartsNoIdleEpoch : Obligations.SlackWaterStartsNoIdleEpoch := by
  intro s p pm hslack hlast hreceived hclean
  have hdue : epochDue (advance pm s) = false := epochDue_of_slack_and_clean hslack hlast hreceived hclean
  rw [exec_epochStart, if_neg (by simp [hdue])]

end Sys2Proof.Machine
end

section
/-! SUPPORT. Neighbour limits, temperatures and the power cap (R661, R663, R665, R668, R671): what each check answers, on both sides of
its limit; and the statement about them. -/

namespace Sys2Proof.Machine

/-- Past boot and not BEACHED, a row of the faults' chapter acts (R631). -/
theorem faultRow_of_running {s : State} (hstage : s.boot.stage = 3) (hup : s.beached = false) (pm : Nat) (f : State → State) :
    faultRow pm f s = .next (noteAlert s (f (settleContained (advance pm s)))) := if_pos ⟨hstage, hup⟩

/-! ### Neighbour limits (R661 to R664) -/

/-- Region `r` is out of service, or being handled: it has no limits with its neighbours (R664). -/
def regionAside (s : State) (r : Nat) : Bool := s.faults.regionsDown.contains r || s.faults.runs.any (fun q => q.region == r)

/-- Correction `c` is of this quantity of the link from `a` to `b`. -/
def correctionOf (a b quantity : Nat) (c : Correction) : Bool := c.a == a && c.b == b && c.quantity == quantity

/-- The state after the first step of a correction, entered and posted as NEIGHBOUR_LIMIT (R663). -/
def correctionBegun (s : State) (a b quantity va vb : Nat) : State :=
  let t := correct s a b quantity va vb
  postPf (modPow t.2 (fun p => { p with
      corrections := p.corrections ++ [{ a := a, b := b, quantity := quantity, acted := t.1, since := s.postmark }] }))
    0x0906 t.1 ((if t.1 = a then b else a) + quantity * 256)

/-- The state in which no correction of this quantity of the link is left. -/
def correctionEnded (s : State) (a b quantity : Nat) : State :=
  modPow s (fun p => { p with corrections := p.corrections.filter (fun c => !correctionOf a b quantity c) })

/-- The state within the limit: the correction is over, and of the two regions those it acted on, and those that no correction acts on,
are raised. -/
def limitMet (s : State) (a b quantity : Nat) : State :=
  let t := correctionEnded s a b quantity
  ([a, b].filter (fun r => ((s.pow.corrections.filter (correctionOf a b quantity)).map (fun c => c.acted)).contains r
      || !t.pow.corrections.any (fun c => c.acted == r))).foldl (fun u r => raiseClock u r 4 0) t

theorem exec_neighbourCheck {s : State} {a b pm : Nat} (hlink : joined a b = true) (ha : regionAside (advance pm s) a = false)
    (hb : regionAside (advance pm s) b = false) (hup : s.beached = false) (quantity va vb : Nat) :
    exec (.neighbourCheck a b quantity va vb pm) s =
      if beyond quantity va vb then
        if (advance pm s).pow.corrections.any (correctionOf a b quantity) then .next (correct (advance pm s) a b quantity va vb).2
        else .next (correctionBegun (advance pm s) a b quantity va vb)
      else .next (limitMet (advance pm s) a b quantity) := by
  have hchecked : (!joined a b || regionAside (advance pm s) a || regionAside (advance pm s) b || (advance pm s).beached) = false := by
    simp [hlink, ha, hb, hup]
  exact if_neg (ne_true_of_eq_false hchecked)

theorem exec_neighbourLimitTimeout_exceeded {s : State} {a b quantity pm : Nat} {q : Correction}
    (hq : s.pow.corrections.find? (correctionOf a b quantity) = some q) (hdue : q.since + 10000000 ≤ max s.postmark pm) :
    exec (.neighbourLimitTimeout a b quantity true pm) s =
      faultRow pm (fun u => detect (modPow u (fun p => { p with corrections := p.corrections.filter (· != q) }))
        { level := 2, kind := 0x20, unit := { region := q.acted }, what := .region, info := quantity, pm := u.postmark }) s := by
  change execNeighbourLimitTimeout a b quantity true pm s = _
  unfold correctionOf at hq
  simp only [execNeighbourLimitTimeout, advance_pow, hq, Bool.true_and, decide_eq_true hdue, if_true]

theorem exec_neighbourLimitTimeout_met (s : State) (a b quantity pm : Nat) :
    exec (.neighbourLimitTimeout a b quantity false pm) s = .next (advance pm s) := by
  change execNeighbourLimitTimeout a b quantity false pm s = _
  rw [execNeighbourLimitTimeout]
  split
  · rfl
  · rfl

/-! ### Temperatures (R665, R725) -/

/-- A trip of the junctions: the error that the chip detects. -/
def detectTrip (junctions : List Nat) (s : State) : State :=
  detect s { level := 3, kind := 0x30, unit := { region := 8, kind := 16 }, what := .chip, info := junctions.foldl max 0
             pm := s.postmark }

theorem exec_thermalCheck_of_running {s : State} (hstage : s.boot.stage = 3) (hup : s.beached = false)
    (junctions stackTemps : List Nat) (pm : Nat) :
    exec (.thermalCheck junctions stackTemps pm) s =
      let t := thermalActs junctions stackTemps (advance pm s)
      if trips junctions t then
        faultRow pm (detectTrip junctions) (thermSignal (modPow t (fun p => { p with trip := true })) junctions stackTemps)
      else .next (goOn (thermSignal t junctions stackTemps)) := by
  change execThermalCheck junctions stackTemps pm s = _
  simp only [execThermalCheck, advance_boot, advance_beached, hstage, hup]
  rfl

theorem exec_thermalCheck_of_not_running {s : State} (htested : 2 ≤ s.boot.stage) (hno : s.beached = true ∨ s.boot.stage ≠ 3)
    (junctions stackTemps : List Nat) (pm : Nat) :
    exec (.thermalCheck junctions stackTemps pm) s = .next (thermSignal (advance pm s) junctions stackTemps) := by
  change execThermalCheck junctions stackTemps pm s = _
  simp only [execThermalCheck, advance_boot, advance_beached, if_neg (Nat.not_lt.mpr htested), if_pos hno]

/-! ### The power cap (R668) -/

/-- The state while the cap is exceeded and acts already: the clocks go down once that has lasted 10 ms. -/
def capSustained (s : State) : State :=
  let since := s.pow.overSince.getD s.postmark
  let t := modPow s (fun p => { p with overSince := some since, underSince := none })
  if since + 10000000 ≤ s.postmark then [0, 1, 2, 3, 4, 5].foldl (fun u k => lowerClock u k 3 4 1000000) t else t

/-- The state as the cap begins to act: a BE hold in every region, and POWER_CAPPED. -/
def capBegun (s : State) : State :=
  postPf (modPow s (fun p => { p with
      capped := true, overSince := some s.postmark, underSince := none
      holds := (List.range 10).foldl (fun m r => amSet m (4 * r + 3) none) p.holds }))
    0x0907 0 (inputMean s / 100 % 2 ^ 32)

/-- Since when the input power has stayed below 0.95 of the cap. -/
def capUnderSince (s : State) : Nat := s.pow.underSince.getD s.postmark

/-- The state that notes since when the input power has stayed below 0.95 of the cap. -/
def capUnderNoted (s : State) : State :=
  modPow s (fun p => { p with overSince := none, underSince := some (capUnderSince s) })

/-- The state in which the clocks that the cap lowered go up one step. -/
def capRaised (s : State) : State := [0, 1, 2, 3, 4, 5].foldl (fun u k => raiseClock u k 3 10000000) (capUnderNoted s)

/-- The cap holds the clock of some state region below its nominal. -/
def capSlows (s : State) : Bool := [0, 1, 2, 3, 4, 5].any (fun k => decide (clockN s k 3 < 8))

/-- The state in which the cap acts no more. -/
def capLifted (s : State) : State :=
  goOn (modPow s (fun p => { p with
    capped := false, underSince := none, holds := (List.range 10).foldl (fun m r => amErase m (4 * r + 3)) p.holds }))

/-- What the cap does while the power is within it and it still acts: below 0.95 of it for 100 ms, or with the cap switched off, the clocks go
up, and it is lifted once they are all at their nominal. -/
def capEased (s : State) : Out :=
  if liveVal s .powerCap = 0 ∨ 100 * inputMean s < 95 * (1000 * liveVal s .powerCap) then
    if liveVal s .powerCap ≠ 0 ∧ s.postmark < capUnderSince s + 100000000 then .next (capUnderNoted s)
    else if capSlows (capRaised s) then .next (capRaised s)
    else .next (capLifted (capRaised s))
  else .next (modPow s (fun p => { p with overSince := none, underSince := none }))

theorem exec_powerCapCheck {s : State} (hacc : accepting s = true) (pm : Nat) : exec (.powerCapCheck pm) s =
    if liveVal s .powerCap ≠ 0 ∧ 1000 * liveVal s .powerCap < inputMean (advance pm s) then
      if s.pow.capped then .next (capSustained (advance pm s)) else .next (capBegun (advance pm s))
    else if s.pow.capped then capEased (advance pm s)
    else .next (advance pm s) := by
  have hoff : 1000 * liveVal s .powerCap = 0 ↔ liveVal s .powerCap = 0 := by omega
  change execPowerCapCheck pm s = _
  simp only [execPowerCapCheck, accepting_advance, hacc, liveVal_advance, advance_pow, Bool.not_true, Bool.false_eq_true, if_false,
    ne_eq, hoff]
  rfl

section
variable {s : State} {pm : Nat} (hacc : accepting s = true)
  (hwithin : liveVal s .powerCap = 0 ∨ inputMean (advance pm s) ≤ 1000 * liveVal s .powerCap)
include hacc hwithin

theorem exec_powerCapCheck_of_within : exec (.powerCapCheck pm) s =
    if s.pow.capped then capEased (advance pm s) else .next (advance pm s) :=
  (exec_powerCapCheck hacc pm).trans (if_neg (by omega))

theorem exec_powerCapCheck_eased (hcapped : s.pow.capped = true) :
    exec (.powerCapCheck pm) s = capEased (advance pm s) :=
  (exec_powerCapCheck_of_within hacc hwithin).trans (if_pos hcapped)

theorem exec_powerCapCheck_raises (hcapped : s.pow.capped = true)
    (hunder : liveVal s .powerCap = 0 ∨ 100 * inputMean (advance pm s) < 95 * (1000 * liveVal s .powerCap))
    (hlong : liveVal s .powerCap = 0 ∨ capUnderSince (advance pm s) + 100000000 ≤ max s.postmark pm) : exec (.powerCapCheck pm) s =
    if capSlows (capRaised (advance pm s)) then .next (capRaised (advance pm s))
    else .next (capLifted (capRaised (advance pm s))) := by
  have hlasted : ¬ (liveVal s .powerCap ≠ 0 ∧ max s.postmark pm < capUnderSince (advance pm s) + 100000000) := by omega
  exact (exec_powerCapCheck_eased hacc hwithin hcapped).trans ((if_pos hunder).trans (if_neg hlasted))

end

/-! ### The reserve (R671) -/

theorem exec_reserveShort (s : State) (region pm : Nat) : exec (.reserveShort region pm) s =
    let t := clearShort (advance pm s)
    if region < 6 ∧ t.pow.state = 0 ∧ reserveHeld t region = false ∧ t.pow.shortPosted.contains region = false
        ∧ t.regionsOut.contains region = false then
      .next (postPf (modPow t (fun p => { p with shortPosted := insertBy id region p.shortPosted })) 0x0908 region (onBlocks t region))
    else .next t := rfl

/-- Settles O50: each clause is the branch of its check that the quantity, the temperature or the power chooses. That a clock goes up a
step at each check within the limit, and that a cap switched off is lifted at once, are assumption 160 of the log. -/
theorem clockRulesTakeEffect : Obligations.ClockRulesTakeEffect := by
  refine ⟨?correctedAgain, ?corrected, ?withinLimit, ?stillBeyond, ?beyondNoMore, ?thermal, ?tripped, ?signalOnly, ?capLasts, ?capBegins,
    ?capIdle, ?capNear, ?capUnder, ?capRaises, ?capLifts, ?reserveShort⟩
  case correctedAgain =>
    intro s a b quantity va vb pm hlink ha hb hup hbeyond hknown
    rw [exec_neighbourCheck hlink ha hb hup, if_pos hbeyond]
    exact if_pos hknown
  case corrected =>
    intro s a b quantity va vb pm hlink ha hb hup hbeyond hnew
    rw [exec_neighbourCheck hlink ha hb hup, if_pos hbeyond]
    exact if_neg (ne_true_of_eq_false hnew)
  case withinLimit =>
    intro s a b quantity va vb pm hlink ha hb hup hwithin
    rw [exec_neighbourCheck hlink ha hb hup, if_neg (ne_true_of_eq_false hwithin)]
    rfl
  case stillBeyond =>
    intro s a b quantity pm q hq hdue hstage hup
    rw [exec_neighbourLimitTimeout_exceeded hq hdue, faultRow_of_running hstage hup]
  case beyondNoMore =>
    intro s a b quantity pm
    exact exec_neighbourLimitTimeout_met s a b quantity pm
  case thermal =>
    intro s junctions stackTemps pm hstage hup hno
    exact (exec_thermalCheck_of_running hstage hup junctions stackTemps pm).trans (if_neg (ne_true_of_eq_false hno))
  case tripped =>
    intro s junctions stackTemps pm hstage hup htrip hstage' hup'
    refine (exec_thermalCheck_of_running hstage hup junctions stackTemps pm).trans ((if_pos htrip).trans ?_)
    rw [faultRow_of_running hstage' hup']
    rfl
  case signalOnly =>
    intro s junctions stackTemps pm htested hno
    exact exec_thermalCheck_of_not_running htested hno junctions stackTemps pm
  case capLasts =>
    intro s pm hacc hcap hover hcapped
    rw [exec_powerCapCheck hacc, if_pos ⟨hcap, hover⟩, if_pos hcapped]
    rfl
  case capBegins =>
    intro s pm hacc hcap hover huncapped
    rw [exec_powerCapCheck hacc, if_pos ⟨hcap, hover⟩, if_neg (ne_true_of_eq_false huncapped)]
    rfl
  case capIdle =>
    intro s pm hacc hwithin huncapped
    rw [exec_powerCapCheck_of_within hacc hwithin, if_neg (ne_true_of_eq_false huncapped)]
  case capNear =>
    intro s pm hacc hwithin hcapped hcap hnear
    have hnot : ¬ (liveVal s .powerCap = 0 ∨ 100 * inputMean (advance pm s) < 95 * (1000 * liveVal s .powerCap)) := by omega
    exact (exec_powerCapCheck_eased hacc hwithin hcapped).trans (if_neg hnot)
  case capUnder =>
    intro s pm hacc hwithin hcapped hunder hshort
    exact (exec_powerCapCheck_eased hacc hwithin hcapped).trans ((if_pos hunder).trans (if_pos hshort))
  case capRaises =>
    intro s pm hacc hwithin hcapped hunder hlong hslows
    exact (exec_powerCapCheck_raises hacc hwithin hcapped hunder hlong).trans (if_pos hslows)
  case capLifts =>
    intro s pm hacc hwithin hcapped hunder hlong hfull
    exact (exec_powerCapCheck_raises hacc hwithin hcapped hunder hlong).trans (if_neg (ne_true_of_eq_false hfull))
  case reserveShort =>
    intro s region pm hregion hactive hshort hunposted hin
    exact (exec_reserveShort s region pm).trans (if_pos ⟨hregion, hactive, hshort, hunposted, hin⟩)

end Sys2Proof.Machine
end

section
/-! SUPPORT. The firmware state (Firmware, R677 to R683): what each of its operations makes of the boot record, the image slots, the
running image and the fuse; what each boot and firmware command does to it; and the statements about it. -/

namespace Sys2Proof.Machine

/-! ### What the firmware rules keep -/

/-- `FirmwareInv` says this of a state's boot state. -/
def Boot.Consistent (b : Boot) : Prop :=
  recSane b.recA = true ∧ recSane b.recB = true ∧ b.running < 2
    ∧ (b.trialRun = true → (recInForce b).trial = 255 ∨ (recInForce b).tries = 1)
    ∧ Memory.wf b.slotA = true ∧ Memory.wf b.slotB = true

theorem firmwareInv_iff (s : State) : FirmwareInv s ↔ s.boot.Consistent := Iff.rfl

/-- What the rules allow of a change of the boot state from `b` to `b'`: it stays consistent, the SVN fuse does not fall (R676), and the
device's identity stays (R673). -/
structure Boot.Evolves (b b' : Boot) : Prop where
  consistent : b.Consistent → b'.Consistent
  svnFuse_le : b.svnFuse ≤ b'.svnFuse
  deviceId_eq : b'.deviceId = b.deviceId

theorem Boot.Evolves.refl (b : Boot) : b.Evolves b := ⟨id, le_rfl, rfl⟩

theorem Boot.Evolves.trans {b c d : Boot} (h : b.Evolves c) (g : c.Evolves d) : b.Evolves d :=
  ⟨fun hb => g.consistent (h.consistent hb), h.svnFuse_le.trans g.svnFuse_le, g.deviceId_eq.trans h.deviceId_eq⟩

/-! ### The boot record (R677) -/

theorem BootRec.sane_iff (r : BootRec) : r.sane = true ↔ r.active < 2 ∧ (r.trial = 255 ∨ r.trial < 2) ∧ r.tries < 2 := by
  simp [BootRec.sane, and_assoc]

theorem recInForce_sane {b : Boot} (hA : recSane b.recA = true) (hB : recSane b.recB = true) : (recInForce b).sane = true := by
  unfold recInForce
  split
  · next x y eA eB =>
    rw [eA] at hA
    rw [eB] at hB
    split
    · exact hB
    · exact hA
  · next x eA eB => rwa [eA] at hA
  · next y eA eB => rwa [eB] at hB
  · rfl

theorem Boot.Consistent.recInForce_sane {b : Boot} (h : b.Consistent) : (recInForce b).sane = true := by
  obtain ⟨hA, hB, -⟩ := h
  exact Machine.recInForce_sane hA hB

/-- SE_0's write of the boot record changes nothing but its two copies. -/
theorem writeBootRec_frame (b : Boot) (f : BootRec → BootRec) : { writeBootRec b f with recA := b.recA, recB := b.recB } = b := by
  unfold writeBootRec
  dsimp only
  split <;> rfl

/-- What a reading of the boot state gives where the two copies are put back. -/
theorem writeBootRec_read {β : Type} (g : Boot → β) (b : Boot) (f : BootRec → BootRec) :
    g { writeBootRec b f with recA := b.recA, recB := b.recB } = g b := congrArg g (writeBootRec_frame b f)

@[simp] theorem writeBootRec_deviceId (b : Boot) (f : BootRec → BootRec) : (writeBootRec b f).deviceId = b.deviceId :=
  writeBootRec_read Boot.deviceId b f
@[simp] theorem writeBootRec_slotA (b : Boot) (f : BootRec → BootRec) : (writeBootRec b f).slotA = b.slotA :=
  writeBootRec_read Boot.slotA b f
@[simp] theorem writeBootRec_slotB (b : Boot) (f : BootRec → BootRec) : (writeBootRec b f).slotB = b.slotB :=
  writeBootRec_read Boot.slotB b f
@[simp] theorem writeBootRec_svnFuse (b : Boot) (f : BootRec → BootRec) : (writeBootRec b f).svnFuse = b.svnFuse :=
  writeBootRec_read Boot.svnFuse b f
@[simp] theorem writeBootRec_running (b : Boot) (f : BootRec → BootRec) : (writeBootRec b f).running = b.running :=
  writeBootRec_read Boot.running b f
@[simp] theorem writeBootRec_trialRun (b : Boot) (f : BootRec → BootRec) : (writeBootRec b f).trialRun = b.trialRun :=
  writeBootRec_read Boot.trialRun b f

/-- The record in force stands in copy B where it does not stand in copy A. -/
theorem recB_eq_recInForce {b : Boot} (hA : b.recA ≠ some (recInForce b)) {y : BootRec} (hB : b.recB = some y) : y = recInForce b := by
  unfold recInForce at hA ⊢
  cases eA : b.recA with
  | none => simp only [hB]
  | some x =>
    simp only [eA, hB] at hA ⊢
    split at hA
    · next hlt => rw [if_pos hlt]
    · exact absurd rfl hA

/-- The record written, SEQ raised, is the one in force. -/
theorem recInForce_writeBootRec (b : Boot) (f : BootRec → BootRec) :
    recInForce (writeBootRec b f) = { f (recInForce b) with seq := (recInForce b).seq + 1 } := by
  unfold writeBootRec
  dsimp only
  split
  · next hA =>
    generalize recInForce b = r at hA ⊢
    simp only [recInForce, hA]
    exact if_pos (Nat.lt_succ_self _)
  · next hA =>
    have hB := fun y => recB_eq_recInForce hA (y := y)
    generalize recInForce b = r at hB ⊢
    cases eB : b.recB with
    | none => simp only [recInForce]
    | some y =>
      obtain rfl := hB y eB
      simp only [recInForce]
      exact if_neg (Nat.le_succ _).not_gt

/-- Both copies stay sane where the record written is. -/
theorem recSane_writeBootRec {b : Boot} {f : BootRec → BootRec} (hA : recSane b.recA = true) (hB : recSane b.recB = true)
    (hf : (f (recInForce b)).sane = true) : recSane (writeBootRec b f).recA = true ∧ recSane (writeBootRec b f).recB = true := by
  unfold writeBootRec
  dsimp only
  split
  · exact ⟨hA, hf⟩
  · exact ⟨hf, hB⟩

/-- A change of the boot record keeps the firmware state consistent where the new record is sane and marks no running trial untried. -/
theorem writeBootRec_evolves {b : Boot} {f : BootRec → BootRec} (hf : b.Consistent → (f (recInForce b)).sane = true)
    (ht : b.Consistent → b.trialRun = true → (f (recInForce b)).trial = 255 ∨ (f (recInForce b)).tries = 1) :
    b.Evolves (writeBootRec b f) := by
  refine ⟨fun h => ?_, (writeBootRec_svnFuse b f).ge, writeBootRec_deviceId b f⟩
  obtain ⟨hA, hB, hrun, -, hslots⟩ := id h
  obtain ⟨hA', hB'⟩ := recSane_writeBootRec hA hB (hf h)
  refine ⟨hA', hB', ?_⟩
  rw [writeBootRec_running, writeBootRec_trialRun, writeBootRec_slotA, writeBootRec_slotB, recInForce_writeBootRec]
  exact ⟨hrun, ht h, hslots⟩

/-- TRIAL_SLOT clears. -/
theorem clearTrial_evolves (b : Boot) : b.Evolves (writeBootRec b (fun r => { r with trial := 255, tries := 0 })) := by
  refine writeBootRec_evolves (fun h => ?_) (fun _ _ => .inl rfl)
  obtain ⟨hactive, -, -⟩ := (BootRec.sane_iff _).mp h.recInForce_sane
  exact (BootRec.sane_iff _).mpr ⟨hactive, .inl rfl, Nat.zero_lt_two⟩

/-! ### Images and trials (R679 to R683) -/

/-- The boot state once bytes `bs` stand from `off` in a slot. -/
def slotWritten (b : Boot) (slot off : Nat) (bs : List Byte) : Boot :=
  if slot = 0 then { b with slotA := cellsWrite b.slotA off bs } else { b with slotB := cellsWrite b.slotB off bs }

theorem slotWritten_evolves (b : Boot) (slot off : Nat) (bs : List Byte) : b.Evolves (slotWritten b slot off bs) := by
  unfold slotWritten
  split
  · exact ⟨fun ⟨hA, hB, hrun, htr, hslotA, hslotB⟩ => ⟨hA, hB, hrun, htr, cellsWrite_wf _ _ _ hslotA, hslotB⟩, le_rfl, rfl⟩
  · exact ⟨fun ⟨hA, hB, hrun, htr, hslotA, hslotB⟩ => ⟨hA, hB, hrun, htr, hslotA, cellsWrite_wf _ _ _ hslotB⟩, le_rfl, rfl⟩

theorem storeImage_boot (s : State) (slot off : Nat) (bs : List Byte) : (storeImage s slot off bs).boot =
    if (recInForce (slotWritten s.boot slot off bs)).trial = slot then
      writeBootRec (slotWritten s.boot slot off bs) (fun r => { r with trial := 255, tries := 0 })
    else slotWritten s.boot slot off bs := rfl

theorem storeImage_evolves (s : State) (slot off : Nat) (bs : List Byte) : s.boot.Evolves (storeImage s slot off bs).boot := by
  rw [storeImage_boot]
  split
  · exact (slotWritten_evolves _ _ _ _).trans (clearTrial_evolves _)
  · exact slotWritten_evolves _ _ _ _

/-- A slot is named for trial, untried, only while no trial runs (R682). -/
theorem activateSlot_evolves {s : State} {slot : Nat} (hslot : slot < 2) (hidle : s.boot.trialRun = false) :
    s.boot.Evolves (activateSlot s slot).boot := by
  rw [activateSlot, modBoot_boot]
  refine writeBootRec_evolves (fun h => ?_) (fun _ htr => absurd (hidle.symm.trans htr) Bool.false_ne_true)
  obtain ⟨hactive, -, -⟩ := (BootRec.sane_iff _).mp h.recInForce_sane
  exact (BootRec.sane_iff _).mpr ⟨hactive, .inr hslot, Nat.zero_lt_two⟩

theorem commitTrial_boot (s : State) : (commitTrial s).boot =
    { writeBootRec s.boot (fun r => { r with active := s.boot.running, trial := 255, tries := 0 }) with
      trialRun := false, svnFuse := max s.boot.svnFuse s.boot.svn } := by
  simp [commitTrial]

/-- Once its image is committed no trial runs, so nothing is left to show of its record. -/
theorem commitTrial_evolves (s : State) : s.boot.Evolves (commitTrial s).boot := by
  have written : s.boot.Evolves (writeBootRec s.boot (fun r => { r with active := s.boot.running, trial := 255, tries := 0 })) := by
    refine writeBootRec_evolves (fun h => ?_) (fun _ _ => .inl rfl)
    obtain ⟨-, -, hrun, -⟩ := h
    exact (BootRec.sane_iff _).mpr ⟨hrun, .inl rfl, Nat.zero_lt_two⟩
  rw [commitTrial_boot]
  refine ⟨fun h => ?_, le_max_left _ _, written.deviceId_eq⟩
  obtain ⟨hA, hB, hrun, -, hslots⟩ := written.consistent h
  exact ⟨hA, hB, hrun, fun htr => absurd htr Bool.false_ne_true, hslots⟩

/-- What the NOR device and the fuses keep is consistent: no image runs. -/
theorem keepNor_evolves (b : Boot) (stage : Nat) : b.Evolves (keepNor b stage) :=
  ⟨fun ⟨hA, hB, _, _, hslots⟩ => ⟨hA, hB, Nat.zero_lt_two, fun htr => absurd htr Bool.false_ne_true, hslots⟩, le_rfl, rfl⟩

/-! ### The boot from the slots (R680) -/

/-- The boot state once slot `n` is tried: the trial is marked as tried. -/
def slotTried (b : Boot) (n : Nat) : Boot :=
  if (recInForce b).trial == n then writeBootRec b (fun r => { r with tries := 1 }) else b

theorem slotTried_evolves (b : Boot) (n : Nat) : b.Evolves (slotTried b n) := by
  unfold slotTried
  split
  · refine writeBootRec_evolves (fun h => ?_) (fun _ _ => .inr rfl)
    obtain ⟨hactive, htrial, -⟩ := (BootRec.sane_iff _).mp h.recInForce_sane
    exact (BootRec.sane_iff _).mpr ⟨hactive, htrial, Nat.one_lt_two⟩
  · exact .refl b

theorem slotTried_tries {b : Boot} {n : Nat} (h : ((recInForce b).trial == n) = true) : (recInForce (slotTried b n)).tries = 1 := by
  rw [slotTried, if_pos h, recInForce_writeBootRec]

/-- What SE_0 finds in slot `n`. -/
def foundIn (x y : SlotFound) (n : Nat) : SlotFound := if n = 0 then x else y

/-- The boot state once the image found in slot `n` runs. -/
def imageStarted (b : Boot) (n : Nat) (f : SlotFound) : Boot :=
  { slotTried b n with
    stage := 2, running := n, trialRun := (recInForce b).trial == n, version := some f.version, svn := f.svn
    svnFuse := if (recInForce b).trial == n then (slotTried b n).svnFuse else max (slotTried b n).svnFuse f.svn }

/-- The boot state once slot `n` has been given up: a trial that failed is to be reported. -/
def slotFailed (b : Boot) (n : Nat) (f : SlotFound) : Boot :=
  if (recInForce b).trial == n then { slotTried b n with fellBack := some f.version } else slotTried b n

theorem bootFrom_cons (x y : SlotFound) (n : Nat) (rest : List Nat) (b : Boot) : bootFrom x y (n :: rest) b =
    if slotVerifies (slotTried b n) (foundIn x y n) then imageStarted b n (foundIn x y n)
    else bootFrom x y rest (slotFailed b n (foundIn x y n)) := rfl

theorem slotFailed_evolves (b : Boot) (n : Nat) (f : SlotFound) : b.Evolves (slotFailed b n f) := by
  refine (slotTried_evolves b n).trans ?_
  unfold slotFailed
  split
  · exact ⟨id, le_rfl, rfl⟩
  · exact .refl _

section
variable {b₀ : Boot}

/-- Where the image that runs is the trial, the record in force marks it as tried. -/
theorem imageStarted_evolves {b : Boot} (h : b₀.Evolves b) {n : Nat} (hn : b₀.Consistent → n < 2) (f : SlotFound) :
    b₀.Evolves (imageStarted b n f) := by
  have tried := h.trans (slotTried_evolves b n)
  refine ⟨fun h₀ => ?_, tried.svnFuse_le.trans ?_, tried.deviceId_eq⟩
  · obtain ⟨hA, hB, -, -, hslots⟩ := tried.consistent h₀
    exact ⟨hA, hB, hn h₀, fun htr => .inr (slotTried_tries htr), hslots⟩
  · unfold imageStarted
    dsimp only
    split
    · exact le_rfl
    · exact le_max_left _ _

theorem bootFrom_evolves (x y : SlotFound) {slots : List Nat} (hslots : b₀.Consistent → ∀ n ∈ slots, n < 2) {b : Boot}
    (h : b₀.Evolves b) : b₀.Evolves (bootFrom x y slots b) := by
  induction slots generalizing b with
  | nil => exact h.trans ⟨id, le_rfl, rfl⟩
  | cons n rest ih =>
    rw [bootFrom_cons]
    split
    · exact imageStarted_evolves h (fun h₀ => hslots h₀ n List.mem_cons_self) _
    · exact ih (fun h₀ m hm => hslots h₀ m (List.mem_cons_of_mem _ hm)) (h.trans (slotFailed_evolves b n _))

end

theorem slotsToTry_lt {sel : Nat} {r : BootRec} (hr : r.sane = true) : ∀ n ∈ slotsToTry sel r, n < 2 := by
  obtain ⟨hactive, htrial, -⟩ := (BootRec.sane_iff r).mp hr
  unfold slotsToTry
  split_ifs with hA hB hnone htry
  · simp
  · simp
  · simp
  · simp only [List.mem_cons, List.not_mem_nil, or_false]
    omega
  · simp only [List.mem_cons, List.not_mem_nil, or_false]
    omega

end Sys2Proof.Machine
end

section
/-! SUPPORT. What each command does to the firmware state (R673 to R683): a ring command under the checks it has met, each boot and firmware
command, and every other command; and the statements about them. -/

namespace Sys2Proof.Machine

/-! ### Commands of a ring that meet no refusal (R84) -/

theorem firstRefusal_eq_none_iff (l : List (Option Rcpt)) : firstRefusal l = none ↔ ∀ r ∈ l, r = none := by
  induction l with
  | nil => simp [firstRefusal]
  | cons r l ih => cases r <;> simp [firstRefusal, ih]

theorem firstBad_eq_none_iff (l : List (Nat × Bool)) : firstBad l = none ↔ ∀ e ∈ l, e.2 = false := by
  induction l with
  | nil => simp [firstBad]
  | cons e l ih =>
    obtain ⟨off, bad⟩ := e
    cases bad
    · simp [firstBad, ih]
    · cases hb : firstBad l <;> simp [firstBad, hb]

theorem refuseIf_eq_none_iff (c : Bool) (r : Rcpt) : refuseIf c r = none ↔ c = false := by
  cases c <;> simp [refuseIf]

/-- A command that meets no refusal has no bad field of its own, and passes its own later checks. -/
theorem checks_pass_of_ringRefusal_none {c : RingCmd} {h : Hdr} {s : State} (hok : ringRefusal c h s = none) :
    (∀ e ∈ c.bad s, e.2 = false) ∧ ∀ r ∈ c.refuse s, r = none := by
  have pass := (firstRefusal_eq_none_iff _).mp hok
  refine ⟨fun e he => ?_, fun r hr => pass r (List.mem_append_right _ hr)⟩
  have fields := pass _ (List.mem_append_left _ (List.mem_cons_of_mem _ (List.mem_cons_of_mem _ (List.mem_cons_of_mem _ List.mem_cons_self))))
  exact (firstBad_eq_none_iff _).mp (Option.map_eq_none_iff.mp fields) e (List.mem_append_right _ he)

/-- FW_ACTIVATE's checks pass only while no trial runs (R682). -/
theorem trialRun_of_activateRefuse {s : State} {slot : Nat} {f : SlotFound} (hok : ∀ r ∈ activateRefuse s slot f, r = none) :
    s.boot.trialRun = false := by
  have idle := (refuseIf_eq_none_iff _ _).mp (hok _ (List.mem_cons_of_mem _ List.mem_cons_self))
  exact (Bool.or_eq_false_iff.mp idle).1

/-! ### Outcomes -/

/-- An outcome, if it is a next state, has a boot state that the rules allow after that of `s`. -/
def EvolvesBoot (s : State) (o : Out) : Prop := ∀ t, o = .next t → s.boot.Evolves t.boot

theorem EvolvesBoot.next {s t : State} (h : s.boot.Evolves t.boot) : EvolvesBoot s (.next t) :=
  fun _ e => by cases e; exact h

theorem EvolvesBoot.of_boot_eq {s t : State} (h : t.boot = s.boot) : EvolvesBoot s (.next t) :=
  .next (h ▸ .refl s.boot)

theorem KeepsBoot.evolvesBoot {s : State} {o : Out} (h : KeepsBoot s o) : EvolvesBoot s o :=
  fun t e => h t e ▸ .refl s.boot

/-- A ring command evolves the boot state where its run does so under the checks that it has met. -/
theorem ringCmd_evolvesBoot {rid : RingId} {h : Hdr} {c : RingCmd} {s : State}
    (hrun : ∀ u tag, ringRefusal c h u = none → u.boot.Evolves (c.run u tag).boot) : EvolvesBoot s (ringCmd rid h c s) := by
  unfold ringCmd startRing
  split
  · exact .of_boot_eq rfl
  · split
    · refine .next ?_
      rw [settleRing_boot, ← consume_boot s h.fn rid]
      dsimp only
      split
      · exact .refl _
      · next hok => exact hrun _ _ hok
    · exact .of_boot_eq rfl

theorem adminCmd_evolvesBoot {h : Hdr} {c : RingCmd} {s : State}
    (hrun : ∀ u tag, ringRefusal c h u = none → u.boot.Evolves (c.run u tag).boot) : EvolvesBoot s (adminCmd h c s) :=
  ringCmd_evolvesBoot hrun

/-! ### Firmware commands (R682, R683, R709) -/

theorem execFwDownload_evolvesBoot (h : Hdr) (offset : Nat) (body : HostRead) (s : State) :
    EvolvesBoot s (execFwDownload h offset body s) :=
  adminCmd_evolvesBoot (c := fwDownloadSpec h offset body) (fun u _ _ => storeImage_evolves u _ _ _)

theorem execFwActivate_evolvesBoot (h : Hdr) (slot : Nat) (found : SlotFound) (s : State) :
    EvolvesBoot s (execFwActivate h slot found s) := by
  refine adminCmd_evolvesBoot (c := fwActivateSpec h slot found) (fun u _ hok => ?_)
  obtain ⟨fields, checks⟩ := checks_pass_of_ringRefusal_none hok
  have hslot : slot < 2 := by
    have : decide (1 < slot) = false := fields _ List.mem_cons_self
    simp only [decide_eq_false_iff_not] at this
    omega
  exact activateSlot_evolves hslot (trialRun_of_activateRefuse checks)

theorem execFwCommit_evolvesBoot (h : Hdr) (s : State) : EvolvesBoot s (execFwCommit h s) :=
  adminCmd_evolvesBoot (c := fwCommitSpec h) (fun u _ _ => commitTrial_evolves u)

theorem execTrialCommitTimer_evolvesBoot (pm : Nat) (s : State) : EvolvesBoot s (execTrialCommitTimer pm s) := by
  unfold execTrialCommitTimer
  dsimp only
  split
  · exact .next (commitTrial_evolves (advance pm s))
  · exact .of_boot_eq rfl

theorem execPldmFirmwareUpdate_evolvesBoot (op : PldmFw) (s : State) : EvolvesBoot s (execPldmFirmwareUpdate op s) := by
  unfold execPldmFirmwareUpdate
  split
  · exact .of_boot_eq rfl
  · cases op with
    | write slot off bs =>
      dsimp only
      split
      · exact .next (storeImage_evolves s slot off bs)
      · exact .of_boot_eq rfl
    | activate slot found =>
      dsimp only
      split
      · next hok =>
        obtain ⟨hslot, checks⟩ := hok
        have pass : ∀ r ∈ activateRefuse s slot found, r = none :=
          fun r hr => Option.isNone_iff_eq_none.mp (List.all_eq_true.mp checks r hr)
        exact .next (activateSlot_evolves hslot (trialRun_of_activateRefuse pass))
      · exact .of_boot_eq rfl

/-! ### Power, POR_N and the boot (R680, R720, R728, R730) -/

theorem execPowerUp_evolvesBoot (s : State) : EvolvesBoot s (execPowerUp s) := by
  unfold execPowerUp
  split
  · exact .next ⟨id, le_rfl, rfl⟩
  · exact .of_boot_eq rfl

theorem execPowerRemoved_evolvesBoot (s : State) : EvolvesBoot s (execPowerRemoved s) :=
  .next (keepNor_evolves s.boot 0)

theorem execPorNFall_evolvesBoot (pm : Nat) (s : State) : EvolvesBoot s (execPorNFall pm s) := by
  unfold execPorNFall
  dsimp only
  split
  · exact .next (keepNor_evolves s.boot 1)
  · exact .of_boot_eq rfl

theorem execPorNRise_evolvesBoot (sel : Nat) (pairId : Bool) (mgmt : Nat) (x y : SlotFound) (norAnswers : Bool) (pm : Nat) (s : State) :
    EvolvesBoot s (execPorNRise sel pairId mgmt x y norAnswers pm s) := by
  have booted : s.boot.Evolves (bootFrom x y (slotsToTry sel (recInForce s.boot)) s.boot) :=
    bootFrom_evolves x y (fun h => slotsToTry_lt h.recInForce_sane) (.refl s.boot)
  unfold execPorNRise
  dsimp only
  split
  · exact .of_boot_eq rfl
  · cases norAnswers
    · exact .next ⟨id, le_rfl, rfl⟩
    · exact .next (booted.trans ⟨id, le_rfl, rfl⟩)

theorem execRegulatorTimeout_evolvesBoot (region : Nat) (s : State) : EvolvesBoot s (execRegulatorTimeout region s) := by
  unfold execRegulatorTimeout
  split
  · exact .of_boot_eq rfl
  · split <;> exact .next ⟨id, le_rfl, rfl⟩

theorem execSelfTestDone_evolvesBoot (failedRegions : List Nat) (failedCells : List (Nat × Nat × Nat × Nat)) (pm : Nat) (s : State) :
    EvolvesBoot s (execSelfTestDone failedRegions failedCells pm s) := by
  unfold execSelfTestDone
  dsimp only
  split
  · exact .of_boot_eq rfl
  · refine .next ?_
    rw [foldl_boot _ _ _ fun u r => by rw [regionOut_boot]; split <;> rfl, foldl_boot _ _ _ fun u c => retireCell_boot u _, modFaults_boot,
      modBoot_boot]
    exact ⟨id, le_rfl, rfl⟩

/-! ### The report of a fallback (R683) -/

theorem tellFallback_evolves (s : State) (fn : Nat) : s.boot.Evolves (tellFallback s fn).boot := by
  unfold tellFallback
  split
  · rw [postPf_boot]
    exact ⟨id, le_rfl, rfl⟩
  · exact .refl _

theorem execEventEn_evolvesBoot (fn : Nat) (on : Bool) (s : State) : EvolvesBoot s (execEventEn fn on s) := by
  unfold execEventEn
  dsimp only
  split
  · exact .of_boot_eq rfl
  · split
    · split
      · refine .next ?_
        have told := tellFallback_evolves (tellRestart (setFn s fn
          { getFn s fn with
            eventEn := true, eventStopped := false, evBase := (getFn s fn).eventBase.toNat
            evDepth := (getFn s fn).eventCfg.toNat % 2 ^ 13, evVector := bits (getFn s fn).eventCfg.toNat 21 16
            evProd := 0, evHead := 0, evPhase := true }) fn) fn
        rwa [tellRestart_boot, setFn_boot] at told
      · exact .of_boot_eq rfl
    · exact .of_boot_eq rfl

/-! ### Every command -/

/-- No other command touches the boot state: its meaning's own lemma says so. -/
theorem exec_keepsBoot {c : Instr} (hc : bootCommand c = false) (s : State) : KeepsBoot s (exec c s) := by
  cases c
  case powerUp | powerRemoved | porNFall | porNRise | regulatorTimeout | selfTestDone | fwDownload | fwActivate | fwCommit
    | trialCommitTimer | pldmFirmwareUpdate | eventEn => cases hc
  all_goals simp [exec]

theorem exec_evolvesBoot (c : Instr) (s : State) : EvolvesBoot s (exec c s) := by
  cases hc : bootCommand c with
  | false => exact (exec_keepsBoot hc s).evolvesBoot
  | true =>
    cases c
    case powerUp => exact execPowerUp_evolvesBoot s
    case powerRemoved => exact execPowerRemoved_evolvesBoot s
    case porNFall => exact execPorNFall_evolvesBoot _ s
    case porNRise => exact execPorNRise_evolvesBoot _ _ _ _ _ _ _ s
    case regulatorTimeout => exact execRegulatorTimeout_evolvesBoot _ s
    case selfTestDone => exact execSelfTestDone_evolvesBoot _ _ _ s
    case fwDownload => exact execFwDownload_evolvesBoot _ _ _ s
    case fwActivate => exact execFwActivate_evolvesBoot _ _ _ s
    case fwCommit => exact execFwCommit_evolvesBoot _ s
    case trialCommitTimer => exact execTrialCommitTimer_evolvesBoot _ s
    case pldmFirmwareUpdate => exact execPldmFirmwareUpdate_evolvesBoot _ s
    case eventEn => exact execEventEn_evolvesBoot _ _ s
    all_goals cases hc

theorem step_of_pending_cons {s : State} {c : Instr} {rest : List Instr} (h : s.pending = c :: rest) :
    step s = exec c { s with pending := rest } := by
  simp only [step, h]

theorem idle_boot (s : State) : (idle s).boot = s.boot := by
  unfold idle
  split <;> rfl

theorem step_evolvesBoot (s : State) : EvolvesBoot s (step s) := by
  cases h : s.pending with
  | nil =>
    rw [step_of_pending_nil h]
    exact .of_boot_eq (idle_boot s)
  | cons c rest =>
    rw [step_of_pending_cons h]
    exact exec_evolvesBoot c { s with pending := rest }

/-- Settles O54: a step evolves the boot state, and to evolve keeps it consistent. -/
theorem firmwareStaysConsistent : Obligations.FirmwareStaysConsistent := by
  intro s t hinv hstep
  exact (firmwareInv_iff t).mpr ((step_evolvesBoot s t hstep).consistent ((firmwareInv_iff s).mp hinv))

/-- Settles O55: the other commands keep the boot state, and every command evolves it, fuse and identity included. -/
theorem onlyBootCommandsTouchFirmware : Obligations.OnlyBootCommandsTouchFirmware := by
  refine ⟨fun c s t hc hexec => exec_keepsBoot hc s t hexec, fun c s t hexec => ?_⟩
  have evolved := exec_evolvesBoot c s t hexec
  exact ⟨evolved.svnFuse_le, evolved.deviceId_eq⟩

end Sys2Proof.Machine
end

section
/-! SUPPORT. What a step does with a queue (R730) and what reset leaves (R729, R740): the statements about them. -/

namespace Sys2Proof.Machine

/-- Settles O51: a step takes the command at the front of the queue. -/
theorem stepRunsTheFrontCommand : Obligations.StepRunsTheFrontCommand :=
  fun _ _ _ hq => step_of_pending_cons hq

/-! ### The state after reset -/

theorem getFn_reset (n : Nat) : getFn State.reset n = {} := rfl

theorem cellGet_nil (a : Nat) : cellGet [] a = 0#8 := rfl

theorem firmwareInv_reset : FirmwareInv State.reset := by
  refine ⟨rfl, rfl, by decide, ?_, rfl, rfl⟩
  intro htrial
  cases htrial

/-- Settles O53: each part is what reset writes. -/
theorem resetIsClosedAndConsistent : Obligations.ResetIsClosedAndConsistent := by
  refine ⟨rfl, fun n => ?_, ⟨rfl, rfl, rfl⟩, ⟨rfl, rfl, rfl, rfl, rfl⟩, ⟨rfl, rfl⟩, fun a => ⟨cellGet_nil a, cellGet_nil a⟩, firmwareInv_reset⟩
  rw [getFn_reset]
  exact ⟨rfl, rfl, rfl, rfl, rfl⟩

end Sys2Proof.Machine
end

section
/-! SUPPORT. The CXL mailbox and the fabric manager's commands (R437, R440, R465, R468): what each answers where the host's version,
the line or the port allows it; and the statement about them. -/

namespace Sys2Proof.Machine

section
variable {s : State} {host dpa : Nat}

theorem exec_clearPoison_of_memOk (bytes : List Byte) (hok : memOk s host dpa = true) : exec (.clearPoison host dpa bytes) s =
    .next (arriveLine (emit (.mailbox host .done) s) { line := dpa / 64, host := host, ask := .write bytes fullMask, for_ := .slice }) :=
  if_pos hok

theorem exec_clearPoison_of_not_memOk (bytes : List Byte) (hno : memOk s host dpa = false) :
    exec (.clearPoison host dpa bytes) s = .next (emit (.mailbox host .unsupported) s) :=
  if_neg (Bool.eq_false_iff.mp hno)

/-- The bytes that a host of CXL 2 is told the device holds: 256 MiB for each extent it decodes, or that is granted to it. -/
def decodedBytes (s : State) (host : Nat) : Nat :=
  2 ^ 28 * (match amGet s.win.decoders host with
    | some es => es.length
    | none => (grantedTo s host).length)

theorem exec_identifyMemoryDevice_of_version3 (hver : hostVersion s host = 3) :
    exec (.identifyMemoryDevice host) s = .next (emit (.mailbox host (.identify 0 true)) s) := by
  change execIdentifyMemoryDevice host s = _
  simp only [execIdentifyMemoryDevice, hver]

theorem exec_identifyMemoryDevice_of_version2 (hver : hostVersion s host = 2) :
    exec (.identifyMemoryDevice host) s = .next (emit (.mailbox host (.identify (decodedBytes s host) false)) s) := by
  change execIdentifyMemoryDevice host s = _
  simp only [execIdentifyMemoryDevice, hver]
  rfl

theorem exec_clearEventRecords_of_linked (dynamic : Bool) (n : Nat) (hver : hostVersion s host ≠ 0) :
    exec (.clearEventRecords host dynamic n) s = .next (emit (.mailbox host .done)
      (if dynamic then modWin s (fun w => { w with capLogs := amSet w.capLogs host ((amGetD w.capLogs host []).drop n) }) else s)) :=
  if_neg hver

end

section
variable {s : State} {port : Nat} (hport : switchedPort s port = true)
include hport

theorem not_unswitched : ¬ ((!switchedPort s port) = true) := by simp [hport]

theorem exec_bindLd {ld : Nat} (hld : ld < 16) (hfree : s.win.lds.contains ((1 - port) * 16 + ld) = false) :
    exec (.bindLd port ld) s = .next (emit (.mailbox ld .done) (modWin s (fun w =>
      { w with lds := if w.lds.contains (port * 16 + ld) then w.lds else insertBy id (port * 16 + ld) w.lds }))) := by
  have hallowed : ¬ (16 ≤ ld ∨ s.win.lds.contains ((1 - port) * 16 + ld) = true) := by
    rintro (hbad | hbound)
    · exact Nat.not_le.mpr hld hbad
    · exact Bool.false_ne_true (hfree.symm.trans hbound)
  exact (if_neg (not_unswitched hport)).trans (if_neg hallowed)

theorem exec_bindLd_refused {ld : Nat} (hbad : 16 ≤ ld ∨ s.win.lds.contains ((1 - port) * 16 + ld) = true) :
    exec (.bindLd port ld) s = .next (emit (.mailbox ld .invalidInput) s) :=
  (if_neg (not_unswitched hport)).trans (if_pos hbad)

theorem exec_unbindLd (ld : Nat) : exec (.unbindLd port ld) s =
    .next (emit (.mailbox ld .done) (modWin s (fun w => { w with lds := w.lds.filter (· != port * 16 + ld) }))) :=
  if_neg (not_unswitched hport)

theorem exec_getLdInfo : exec (.getLdInfo port) s =
    .next (emit (.mailbox 0 (.lds ((s.win.lds.filter (fun k => k / 16 == port)).map (fun k => (k / 16, k % 16))) 16)) s) :=
  if_neg (not_unswitched hport)

end

/-- Settles O39: each clause is the branch of its command's answer that the host's version, the line or the port chooses. -/
theorem cxlMailboxTakesEffect : Obligations.CxlMailboxTakesEffect := by
  refine ⟨?clearPoison, ?clearPoisonRefused, ?poisonList, ?identify3, ?identify2, ?capacityConfig, ?extentList, ?getEvents, ?clearEvents,
    ?bind, ?bindRefused, ?unbind, ?ldInfo⟩
  case clearPoison =>
    intro s host dpa bytes hok
    exact exec_clearPoison_of_memOk bytes hok
  case clearPoisonRefused =>
    intro s host dpa bytes hno
    exact exec_clearPoison_of_not_memOk bytes hno
  case poisonList =>
    intro s host
    rfl
  case identify3 =>
    intro s host hver
    exact exec_identifyMemoryDevice_of_version3 hver
  case identify2 =>
    intro s host hver
    exact exec_identifyMemoryDevice_of_version2 hver
  case capacityConfig =>
    intro s host
    rfl
  case extentList =>
    intro s host
    rfl
  case getEvents =>
    intro s host dynamic
    rfl
  case clearEvents =>
    intro s host dynamic n hver
    exact exec_clearEventRecords_of_linked dynamic n hver
  case bind =>
    intro s port ld hport hld hfree
    exact exec_bindLd hport hld hfree
  case bindRefused =>
    intro s port ld hport hbad
    exact exec_bindLd_refused hport hbad
  case unbind =>
    intro s port ld hport
    exact exec_unbindLd hport ld
  case ldInfo =>
    intro s port hport
    exact exec_getLdInfo hport

end Sys2Proof.Machine
end

section
/-! SUPPORT. Frames and link changes of a Tideway port (R477 to R479, R483): what each command answers on a port that it may reach; and the
statement about them. -/

namespace Sys2Proof.Machine

section
variable {s : State} {n ip : Nat} (bytes : Nat)

/-- A query for the address of an enabled port is counted and answered with the port's MAC address. -/
theorem neighbourAnswer_own (hn : n < 16) (hen : pcEnable (getPort s n) = true) (hip : (getPort s n).ip.toNat = ip) :
    neighbourAnswer s n ip bytes =
      emit (.neighborAnswer n (Config.baseMac + n)) (count (count (frameIn s n bytes) n 1 1) n 3 bytes) :=
  if_pos ⟨hn, hen, hip⟩

theorem neighbourAnswer_other (hother : 16 ≤ n ∨ pcEnable (getPort s n) = false ∨ (getPort s n).ip.toNat ≠ ip) :
    neighbourAnswer s n ip bytes = s := by
  refine if_neg ?_
  rintro ⟨hn, hen, hip⟩
  rcases hother with hbad | hoff | hne
  · exact Nat.not_le.mpr hn hbad
  · exact Bool.false_ne_true (hoff.symm.trans hen)
  · exact hne hip

theorem exec_arpRequest (h4 : ipv4 ip = true) : exec (.arpRequest n ip bytes) s = .next (neighbourAnswer s n ip bytes) :=
  congrArg _ (if_pos h4)

theorem exec_neighborSolicitation (h6 : ipv4 ip = false) :
    exec (.neighborSolicitation n ip bytes) s = .next (neighbourAnswer s n ip bytes) :=
  congrArg _ (if_neg (Bool.eq_false_iff.mp h6))

end

section
variable {s : State} {n : Nat} (hn : n < 16)
include hn

theorem exec_macControlFrame (bytes : Nat) : exec (.macControlFrame n bytes) s = .next (count (frameIn s n bytes) n 7 1) :=
  congrArg _ (if_pos hn)

theorem exec_frameDropped (bytes : Nat) (packet : Bool) :
    exec (.frameDropped n bytes packet) s = .next (count (frameIn s n bytes) n (if packet then 8 else 6) 1) :=
  congrArg _ (if_pos hn)

theorem exec_portUp (lanes : Nat) (hen : pcEnable (getPort s n) = true) (hdown : (getPort s n).up = false)
    (hin : s.faults.regionsDown.contains (6 + n / 8) = false)
    (hstill : s.faults.runs.any (fun q => q.region == 6 + n / 8 || q.region == 8) = false) :
    exec (.portUp n lanes) s =
      let t := modPort s n (fun p => { p with up := true, lanesUp := min 8 lanes, changes := (p.changes + 1) % 65536 })
      .next ((portFns t n).foldl (fun u f => postEvent u f 0x0401 n (pcMode (getPort s n) + min 8 lanes * 256)) t) := by
  refine if_neg ?_
  simp only [hen, hdown, hin, hstill]
  simp [hn]

theorem exec_portDown (hup : (getPort s n).up = true) : exec (.portDown n) s =
    let t := modPort s n (fun p => { p with up := false, lanesUp := 0, changes := (p.changes + 1) % 65536 })
    .next ((portFns t n).foldl (fun u f => postEvent u f 0x0402 n (((getPort s n).changes + 1) % 65536)) t) :=
  if_neg (by simp [hn, hup])

theorem exec_fecDegraded (codewords : Nat) : exec (.fecDegraded n codewords) s =
    let t := count (modPort s n (fun p => { p with fecDegraded := codewords != 0 })) n 5 codewords
    .next (if codewords ≠ 0 ∧ (getPort s n).fecDegraded = false then postPf t 0x0403 n (codewords % 2 ^ 32) else t) :=
  if_neg (Nat.not_le.mpr hn)

end

/-- Settles O36: each clause is the branch of its command's answer that the port chooses. -/
theorem portEventsTakeEffect : Obligations.PortEventsTakeEffect := by
  refine ⟨?arp, ?arpOther, ?solicitation, ?control, ?dropped, ?up, ?down, ?fec⟩
  case arp =>
    intro s n ip bytes h4 hn hen hip
    rw [exec_arpRequest bytes h4, neighbourAnswer_own bytes hn hen hip]
  case arpOther =>
    intro s n ip bytes h4 hother
    rw [exec_arpRequest bytes h4, neighbourAnswer_other bytes hother]
  case solicitation =>
    intro s n ip bytes h6 hn hen hip
    rw [exec_neighborSolicitation bytes h6, neighbourAnswer_own bytes hn hen hip]
  case control =>
    intro s n bytes hn
    exact exec_macControlFrame hn bytes
  case dropped =>
    intro s n bytes packet hn
    exact exec_frameDropped hn bytes packet
  case up =>
    intro s n lanes hn hen hdown hin hstill
    exact exec_portUp hn lanes hen hdown hin hstill
  case down =>
    intro s n hn hup
    exact exec_portDown hn hup
  case fec =>
    intro s n codewords hn
    exact exec_fecDegraded hn codewords

end Sys2Proof.Machine
end

section
/-! SUPPORT. How a ring command that is taken ends (R57, R72, R84): finished on a state, waiting on a state, or with the run it has. -/

namespace Sys2Proof.Machine

section
variable {s x : State} {h : Hdr} {rid : RingId} {c : RingCmd} (tk : Takes s h rid c)
include tk

/-- A command that is taken and whose run finishes it on `x` answers `x`, its receipt ready under its tag. -/
theorem ringCmd_finishes {r : Rcpt} (hrun : c.run (begun s h rid) (freeTag s) = finish x h rid (freeTag s) r) :
    ∃ t, ringCmd rid h c s = .next t ∧ OpAt s t h rid (.ready r) ∧ Otherwise s h x t :=
  ring_done tk rfl hrun ⟨rfl, rfl, rfl⟩

/-- A command that is taken and whose run leaves it waiting for `w` on `x`, charged to an account or an object or to none. -/
theorem ringCmd_waits {w : Wait} {a o : Option Nat} (hrun : c.run (begun s h rid) (freeTag s) =
      putOp x (freeTag s) { ringOp x h rid (.waiting w) with account := a, object := o }) :
    ∃ t, ringCmd rid h c s = .next t ∧ OpAt s t h rid (.waiting w) ∧ Otherwise s h x t :=
  ring_done tk rfl hrun ⟨rfl, rfl, rfl⟩

/-- A command that is taken, and whose run is known, answers its run with its ring settled. -/
theorem ringCmd_runs (hrun : c.run (begun s h rid) (freeTag s) = x) : ringCmd rid h c s = .next (settleRing x h.fn rid) :=
  hrun ▸ ringCmd_takes tk

end

end Sys2Proof.Machine
end

section
/-! SUPPORT. Accounts and partitions (R53, R85, R706): the statement about the commands of Table 2.21. -/

namespace Sys2Proof.Machine

/-- Settles O3: each command that finishes does so on the state that its effect gives. -/
theorem accountCommandsTakeEffect : Obligations.AccountCommandsTakeEffect := by
  refine ⟨?createAccount, ?deleteAccount, ?setQuota, ?setCeiling, ?releasePartition⟩
  case createAccount =>
    intro s h partition tk
    exact ringCmd_finishes tk rfl
  case deleteAccount =>
    intro s h tk
    exact ringCmd_finishes tk rfl
  case setQuota =>
    intro s h tier bytes tk
    exact ringCmd_finishes tk rfl
  case setCeiling =>
    intro s h tier bytes tk
    exact ringCmd_finishes tk rfl
  case releasePartition =>
    intro s h tk
    exact ringCmd_takes tk

end Sys2Proof.Machine
end

section
/-! SUPPORT. Configuration versions (R88 to R91, R745, R746): what publishing and retiring run; and the statement about them. -/

namespace Sys2Proof.Machine

theorem publishConfigSpec_run {s : State} {kind account : Nat} {body : HostRead} {sv : SealVerdict} {q : List Byte} (h : Hdr)
    (base tag : Nat) (hq : (cfgPlain s kind account (bodyBytes body) sv).1 = some q) :
    (publishConfigSpec h kind base account body sv).run s tag =
      done (storeVersion s kind h.target account q).1 h tag (rOk (storeVersion s kind h.target account q).2) := by
  simp only [publishConfigSpec, hq]

/-- Settles O4: a publish with a plaintext stores it, and a retirement always goes through. -/
theorem configCommandsTakeEffect : Obligations.ConfigCommandsTakeEffect := by
  refine ⟨?publish, ?retire⟩
  case publish =>
    intro s h kind base account body sv q tk hq
    exact ringCmd_finishes tk (publishConfigSpec_run h base _ hq)
  case retire =>
    intro s h kind version tk
    exact ringCmd_finishes tk rfl

end Sys2Proof.Machine
end

section
/-! SUPPORT. Bundles, placed objects and address-space keys (R206, R207, R243 to R247, R386, R488, R746, R747): what each command
runs on the object it names; and the statement about them. -/

namespace Sys2Proof.Machine

/-! ### Taking an entry leaves the frames as they are -/

theorem freeFrames_begun (s : State) (h : Hdr) (rid : RingId) (k : Nat) : freeFrames (begun s h rid) k = freeFrames s k := rfl

theorem bestRegion_begun (s : State) (h : Hdr) (rid : RingId) (ks : List Nat) : bestRegion (begun s h rid) ks = bestRegion s ks := by
  simp only [bestRegion, freeFrames_begun]
  rfl

theorem firstRun_begun (s : State) (h : Hdr) (rid : RingId) (n : Nat) (sts : List Nat) :
    firstRun (begun s h rid) n sts = firstRun s n sts := by
  induction sts with
  | nil => rfl
  | cons st sts ih =>
    simp only [firstRun, ih]
    rfl

theorem bundleRun_begun (s : State) (h : Hdr) (rid : RingId) (n : Nat) : bundleRun (begun s h rid) n = bundleRun s n := by
  simp only [bundleRun, bestRegion_begun, firstRun_begun]

/-! ### LOAD_BUNDLE and DROP_BUNDLE -/

/-- The state with a bundle that holds the plaintext `p` in the run of frames `q`, under a new object number. -/
def bundleLoaded (s : State) (account : Nat) (c : Ref) (p : List Byte) (q : Nat × Nat) : State :=
  let t := newObject (takeRun s q.1 q.2 (framesOf p.length) (some account))
  let o : Bundle := { account := account, classRef := c, body := p, tier := 0, run := some (runKey q.1 q.2), lastLive := s.postmark }
  checkPressure (noteQuotas { t.2 with bundles := amSet t.2.bundles t.1 o } account)

/-- The state with the index `q.2`, built on `q.1`, under a new object number. -/
def indexAdded (q : State × Index) (account : Nat) : State :=
  let t := newObject q.1
  checkPressure (noteQuotas { t.2 with indexes := amSet t.2.indexes t.1 q.2 } account)

section
variable {s : State} (h : Hdr) {cls : Nat} {body : HostRead} {sv : SealVerdict} (shards : List ShardImg) (tag : Nat) {c : Ref}
  {p : List Byte} (hc : resolveRef s 3 { num := cls, ver := 0xFFFF } = some c)
include hc

theorem loadBundleSpec_run_bundle {q : Nat × Nat} (hp : (openSealed s (bodyBytes body) h.target 0 sv).1 = some p)
    (hq : bundleRun s p.length = some q) : (loadBundleSpec h 0 cls body sv shards).run s tag =
      done (bundleLoaded s h.target c p q) h tag
        (rOk (newObject (takeRun s q.1 q.2 (framesOf p.length) (some h.target))).1) := by
  simp only [loadBundleSpec, hc, hp, hq, if_true]
  rfl

theorem loadBundleSpec_run_index {q : State × Index} (hp : (openSealed s (bodyBytes body) h.target 1 sv).1 = some p)
    (hq : buildIndex s h.target c p (slice p 128 (codebookBytes p)) (shardOfImg shards) = .ok q) :
    (loadBundleSpec h 1 cls body sv shards).run s tag =
      done (indexAdded (q.1, withNorms q.2) h.target) h tag (rOk (newObject q.1).1) := by
  simp only [loadBundleSpec, hc, hp, hq, if_neg Nat.one_ne_zero]
  rfl

end

theorem dropBundleSpec_run {s : State} {h : Hdr} {b : Bundle} (tag : Nat) (hb : amGet s.bundles h.target = some b) :
    (dropBundleSpec h).run s tag =
      done (noteQuotas (dropBundleRun { s with bundles := amErase s.bundles h.target } b) b.account) h tag rOk := by
  simp only [dropBundleSpec, hb]

/-! ### PLACE_OBJECT -/

section
variable {s : State} {h : Hdr} {cls : Nat} {v : ObjView} {c : Ref} (tag : Nat) (hv : objView s h.target = some v)
  (hc : resolveRef s 3 { num := cls, ver := 0xFFFF } = some c)
include hv hc

theorem placeObjectSpec_run_stays (hmove : (objMove s v (cfgBody s 3 c)).1 = none) : (placeObjectSpec h cls).run s tag =
    done (noteQuotas (reclassed s h.target v c) v.account) h tag rOk := by
  simp only [placeObjectSpec, hv, hc, hmove]
  rfl

theorem placeObjectSpec_run_bundle {n : Nat} {b : Bundle} (hmove : (objMove s v (cfgBody s 3 c)).1 = some n)
    (hb : amGet (reclassed s h.target v c).bundles h.target = some b) : (placeObjectSpec h cls).run s tag =
      if n = 0 then raiseBundle (park (reclassed s h.target v c) h tag (.objReplaced h.target)) h.target (clFloodLc (cfgBody s 3 c))
      else done (lowerBundle (reclassed s h.target v c) h.target b n (cfgBody s 3 c)) h tag rOk := by
  simp only [placeObjectSpec, hv, hc, hmove]
  rw [reclassed] at hb
  simp only [hb]
  rfl

theorem placeObjectSpec_run_index {n : Nat} {ix : Index} (hmove : (objMove s v (cfgBody s 3 c)).1 = some n)
    (hb : amGet (reclassed s h.target v c).bundles h.target = none)
    (hix : amGet (reclassed s h.target v c).indexes h.target = some ix) : (placeObjectSpec h cls).run s tag =
      if n = 0 then
        match raiseVectors (reclassed s h.target v c) h.target ix with
        | some u => done (checkPressure (noteQuotas u v.account)) h tag rOk
        | none => done (reclassed s h.target v c) h tag (rQuota 0)
      else done (noteQuotas (lowerVectors (reclassed s h.target v c) h.target ix n v.bytes (cfgBody s 3 c)) v.account) h tag rOk := by
  simp only [placeObjectSpec, hv, hc, hmove]
  rw [reclassed] at hb hix
  simp only [hb, hix]
  rfl

end

/-- Settles O5: each clause is the branch of its command's run that the object and its class choose. -/
theorem objectAndKeyCommandsTakeEffect : Obligations.ObjectAndKeyCommandsTakeEffect := by
  refine ⟨?loadBundle, ?loadIndex, ?drop, ?stays, ?raised, ?lowered, ?vectorsRaised, ?vectorsLowered, ?register, ?deregister⟩
  case loadBundle =>
    rintro s h _ cls body sv shards c p q tk rfl hc hp hq
    exact ringCmd_finishes tk (loadBundleSpec_run_bundle (s := begun s h .admin) h shards _ hc hp ((bundleRun_begun s h .admin _).trans hq))
  case loadIndex =>
    rintro s h _ cls body sv shards c p q tk rfl hc hp hq
    exact ringCmd_finishes tk (loadBundleSpec_run_index (s := begun s h .admin) h shards _ hc hp hq)
  case drop =>
    intro s h b tk hb
    exact ringCmd_finishes tk (dropBundleSpec_run (s := begun s h .admin) _ hb)
  case stays =>
    intro s h cls v c tk hv hc hmove
    exact ringCmd_finishes tk (placeObjectSpec_run_stays (s := begun s h .admin) _ hv hc hmove)
  case raised =>
    intro s h cls v c b tk hv hc hmove hb
    exact ringCmd_runs tk (placeObjectSpec_run_bundle (s := begun s h .admin) _ hv hc hmove hb)
  case lowered =>
    intro s h cls v c n b tk hv hc hmove hb
    exact ringCmd_finishes tk (placeObjectSpec_run_bundle (s := begun s h .admin) _ hv hc hmove hb)
  case vectorsRaised =>
    intro s h cls v c ix u tk hv hc hmove hb hix hu
    refine ringCmd_finishes tk ((placeObjectSpec_run_index (s := begun s h .admin) _ hv hc hmove hb hix).trans ?_)
    simp only [if_true, hu]
    rfl
  case vectorsLowered =>
    intro s h cls v c n ix tk hv hc hmove hb hix
    exact ringCmd_finishes tk (placeObjectSpec_run_index (s := begun s h .admin) _ hv hc hmove hb hix)
  case register =>
    intro s h pasid account perms tk
    exact ringCmd_finishes tk rfl
  case deregister =>
    intro s h tk
    exact ringCmd_finishes tk rfl

end Sys2Proof.Machine
end

section
/-! SUPPORT. The index commands of the admin and search rings (R386 to R390, R395, R402, R415 to R418, R421, R426): what each runs on
the index it names; and the statements about them. -/

namespace Sys2Proof.Machine

theorem createIndexSpec_run {s : State} {h : Hdr} {cls : Nat} {params : HostRead} {c : Ref} {q : State × Index} (tag : Nat)
    (hc : resolveRef s 3 { num := cls, ver := 0xFFFF } = some c)
    (hq : buildIndex s h.target c (bodyBytes params) ((bodyBytes params).drop 128) (fun _ => { region := 0 }) = .ok q) :
    (createIndexSpec h cls params).run s tag = done (indexAdded q h.target) h tag (rOk (newObject q.1).1) := by
  simp only [createIndexSpec, hc, hq]
  rfl

theorem mapShardsSpec_run {s : State} {h : Hdr} {ix : Index} (body : HostRead) (tag : Nat) (hix : indexAt s h.target = some ix) :
    (mapShardsSpec h body).run s tag = finish (modIndex s h.target (fun ix =>
      { ix with map := ((List.range 256).filter (fun i => field (bodyBytes body) (8 * i) 8 != 0)).map
                  (fun i => (i, field (bodyBytes body) (8 * i) 8))
                mapVer := ix.mapVer + 1 })) h .search tag (rOk (ix.mapVer + 1)) := by
  simp only [mapShardsSpec, hix]

/-- Settles O6: an index that can be built is added, and the other commands act on an index that is there. -/
theorem indexAdminCommandsTakeEffect : Obligations.IndexAdminCommandsTakeEffect := by
  refine ⟨?create, ?compact, ?delete, ?map⟩
  case create =>
    intro s h cls params c q tk hc hq
    exact ringCmd_finishes tk (createIndexSpec_run (s := begun s h .admin) _ hc hq)
  case compact =>
    intro s h tk
    exact ringCmd_waits tk rfl
  case delete =>
    intro s h tk
    exact ringCmd_takes tk
  case map =>
    intro s h body ix tk hix
    exact ringCmd_finishes tk (mapShardsSpec_run (s := begun s h .search) body _ hix)

theorem searchSpec_run {s : State} {h : Hdr} {ix : Index} (e : SearchEntry) (operand : HostRead) (tag : Nat)
    (hix : indexAt s h.target = some ix) : (searchSpec h e operand).run s tag =
      takeSearch s tag h.target ix e (bodyBytes operand) (getFn s h.fn).set3 h.be (.host h.fn) (ringOp s h .search (.waiting .searchWork)) := by
  simp only [searchSpec, hix]

/-- The bytes of an INSERT's index vector: one code for each subspace, or the elements of the index's format (R417). -/
def insertVecBytes (ix : Index) : Nat :=
  if ixFormat ix.params = 3 then ixSubspaces ix.params else ixDim ix.params * vecElBytes (ixFormat ix.params)

/-- The change that an INSERT of a body names: the node's attributes with their check, its vector and its full vector. -/
def insertOf (ix : Index) (gid : Nat) (b : List Byte) : ShardChange :=
  .insert gid (slice b 0 60 ++ leBytes 4 (crc32c (slice b 0 60))) (slice b 64 (insertVecBytes ix)) (b.drop (64 + insertVecBytes ix))

theorem insertSpec_run {s : State} {h : Hdr} {ix : Index} (shard gid : Nat) (body : HostRead) (tag : Nat)
    (hix : indexAt s h.target = some ix) : (insertSpec h shard gid body).run s tag =
      takeChange s { tag := tag, index := h.target, shard := shard, change := insertOf ix gid (bodyBytes body) }
        { ringOp s h .search (.waiting .searchWork) with account := some ix.account, object := some h.target } := by
  simp only [insertSpec, hix]
  rfl

/-- Settles O7: each command's run on an index that is there. -/
theorem searchRingCommandsStart : Obligations.SearchRingCommandsStart := by
  refine ⟨?search, ?insert, ?delete⟩
  case search =>
    intro s h e operand ix tk hix
    exact ringCmd_runs tk (searchSpec_run (s := begun s h .search) e operand _ hix)
  case insert =>
    intro s h shard gid body ix tk hix
    exact ringCmd_runs tk (insertSpec_run (s := begun s h .search) shard gid body _ hix)
  case delete =>
    intro s h shard slot gen tk
    exact ringCmd_takes tk

end Sys2Proof.Machine
end

section
/-! SUPPORT. The session commands of Table 3.10 (R111, R130, R131, R135, R136, R218): what each runs on the session it names; and the
statement about them. -/

namespace Sys2Proof.Machine

/-- An admin command on a session that is here, and that is taken, answers its effect on the session with its ring settled. -/
theorem sessionCmd_runs {s : State} {h : Hdr} {handle d : Nat} {hb : Bool} {bad : State → List (Nat × Bool)}
    {refuse : State → List (Option Rcpt)} {run : State → Nat → Nat → State}
    (tk : Takes s h .admin (sessionSpec h handle hb bad refuse run)) (hd : findHandle s handle = some d) {u : State}
    (hrun : run (touched s h .admin d) (freeTag s) d = u) :
    adminCmd h (sessionSpec h handle hb bad refuse run) s = .next (settleRing u h.fn .admin) :=
  ringCmd_runs tk ((sessionSpec_run hd).trans hrun)

/-- An admin command on a session that is here, and that is taken, with its operation under its tag. -/
theorem sessionCmd_done {s : State} {h : Hdr} {handle d : Nat} {hb : Bool} {bad : State → List (Nat × Bool)}
    {refuse : State → List (Option Rcpt)} {run : State → Nat → Nat → State}
    (tk : Takes s h .admin (sessionSpec h handle hb bad refuse run)) (hd : findHandle s handle = some d) {x : State} {st : OpState}
    {a : Option Nat} (hrun : run (touched s h .admin d) (freeTag s) d = putOp x (freeTag s) { ringOp x h .admin st with account := a }) :
    ∃ t, adminCmd h (sessionSpec h handle hb bad refuse run) s = .next t ∧ OpAt s t h .admin st ∧ Otherwise s h x t :=
  ring_done tk rfl ((sessionSpec_run hd).trans hrun) ⟨rfl, rfl, rfl⟩

theorem createSessionSpec_run {s : State} {handle profile cls d : Nat} {p c : Ref} (h : Hdr) (vocab constr tag : Nat)
    (hd : newIndex s = some d) (hp : resolveRef s 0 (refOf profile) = some p)
    (hc : resolveRef s 3 { num := cls, ver := 0xFFFF } = some c) : (createSessionSpec h handle profile vocab constr cls).run s tag =
      done (placeSession (takeFresh s).2 d
        (newSession (takeFresh s).2 handle p (refOf vocab) (refOf constr) c (Config.hbmAddr s.fresh))) h tag (rOk d) := by
  simp only [createSessionSpec, hd, hp, hc]
  rfl

section
variable {s : State} {h : Hdr} {handle d : Nat}

/-- The state with the hint of SET_WAITING given to session `d` (R218). -/
def hinted (s : State) (d expectedMs : Nat) : State :=
  upd s d (fun x => { x with waitHint := expectedMs != 0, expectedMs := expectedMs })

/-- The wait of session `d` predicted and scheduled again from its start (R218). -/
def rescheduled (s : State) (d : Nat) : State := upd s d (fun x => schedule s x (predictedWait s x) x.waitStartPm)

/-- SET_WAITING starts the wait of an ACTIVE session, and reschedules that of any other. -/
theorem exec_setWaiting {expectedMs : Nat} {x : Session} (tk : Takes s h .admin (setWaitingSpec h handle expectedMs))
    (hd : findHandle s handle = some d) (hx : amGet (hinted (touched s h .admin d) d expectedMs).sessions d = some x) :
    ∃ t, exec (.setWaiting h handle expectedMs) s = .next t ∧ OpAt s t h .admin (.ready rOk) ∧ Otherwise s h
      (if x.state = .active then enterIdle (hinted (touched s h .admin d) d expectedMs) d
        else rescheduled (hinted (touched s h .admin d) d expectedMs) d) t := by
  refine sessionCmd_done (a := none) tk hd ?_
  rw [hinted] at hx
  simp only [hx]
  rfl

/-- The operation of a command on session `handle` that waits for `w`: it is charged to the session's account. -/
def sessionOp (s : State) (h : Hdr) (handle : Nat) (w : Wait) : Op :=
  { ringOp s h .admin (.waiting w) with account := some (handleAccount handle) }

/-- FLOOD_NOW on a session that neither ebbs nor floods nor is PARKED. -/
theorem floodNowSpec_run_here {x : Session} (hd : findHandle s handle = some d)
    (hx : amGet (touched s h .admin d).sessions d = some x) (hst : x.state = .new ∨ x.state = .active ∨ x.state = .idle) :
    (floodNowSpec h handle).run (begun s h .admin) (freeTag s) =
      if allHbm x then done (touched s h .admin d) h (freeTag s) rOk
      else putOp (touched s h .admin d) (freeTag s) (sessionOp (touched s h .admin d) h handle (.flooded d)) := by
  refine (sessionSpec_run hd).trans ?_
  rcases hst with hst | hst | hst <;> simp only [hx, hst] <;> rfl

section
variable {x : Session} (tk : Takes s h .admin (floodNowSpec h handle)) (hd : findHandle s handle = some d)
  (hx : amGet (touched s h .admin d).sessions d = some x)
include tk hd hx

theorem exec_floodNow_ebbing (hst : x.state = .ebbing) :
    ∃ t, exec (.floodNow h handle) s = .next t ∧ OpAt s t h .admin (.ready rOk) ∧ Otherwise s h
      (upd (cancelEbb (touched s h .admin d) d) d (fun x => { x with state := .idle, ebbAtPm := 0, floodLc := !h.be })) t := by
  refine sessionCmd_done (a := none) tk hd ?_
  simp only [hx, hst]
  rfl

theorem exec_floodNow_parked (hst : x.state = .parked) : exec (.floodNow h handle) s =
    .next (settleRing (endFlood (startFlood (putOp (touched s h .admin d) (freeTag s)
      (sessionOp (touched s h .admin d) h handle (.flooded d))) d (!h.be) false).1 d) h.fn .admin) := by
  refine sessionCmd_runs tk hd ?_
  simp only [hx, hst]
  rfl

theorem exec_floodNow_flooding (hst : x.state = .flooding) :
    ∃ t, exec (.floodNow h handle) s = .next t ∧ OpAt s t h .admin (.waiting (.flooded d)) ∧ Otherwise s h
      (upd (touched s h .admin d) d (fun x => { x with floodLc := x.floodLc || !h.be })) t := by
  refine sessionCmd_done (a := some (handleAccount handle)) tk hd ?_
  simp only [hx, hst]

end

end

/-- Settles O8: each clause is the branch of its command's run that the state of the session chooses. -/
theorem sessionCommandsTakeEffect : Obligations.SessionCommandsTakeEffect := by
  refine ⟨?create, ?close, ?waitActive, ?waitIdle, ?parkIdle, ?parkOther, ?floodEbbing, ?floodParked, ?floodFlooding, ?floodHere, ?floodWaits⟩
  case create =>
    intro s h handle profile vocab constr cls d p c tk hd hp hc
    exact ringCmd_finishes tk (createSessionSpec_run (s := begun s h .admin) h vocab constr _ hd hp hc)
  case close =>
    intro s h handle d tk hd
    exact sessionCmd_done tk hd rfl
  case waitActive =>
    intro s h handle expectedMs d x tk hd hx hst
    have hall := exec_setWaiting tk hd hx
    rwa [if_pos hst] at hall
  case waitIdle =>
    intro s h handle expectedMs d x tk hd hx hst
    have hall := exec_setWaiting tk hd hx
    rwa [if_neg (by simp [hst])] at hall
  case parkIdle =>
    intro s h handle d tk hd hidle
    exact sessionCmd_runs tk hd (if_pos hidle)
  case parkOther =>
    intro s h handle d tk hd hother
    exact sessionCmd_done tk hd (if_neg (Bool.eq_false_iff.mp hother))
  case floodEbbing =>
    intro s h handle d x tk hd hx hst
    exact exec_floodNow_ebbing tk hd hx hst
  case floodParked =>
    intro s h handle d x tk hd hx hst
    exact exec_floodNow_parked tk hd hx hst
  case floodFlooding =>
    intro s h handle d x tk hd hx hst
    exact exec_floodNow_flooding tk hd hx hst
  case floodHere =>
    intro s h handle d x tk hd hx hst hall
    exact ringCmd_finishes tk ((floodNowSpec_run_here hd hx hst).trans (if_pos hall))
  case floodWaits =>
    intro s h handle d x tk hd hx hst hnot
    exact ringCmd_waits tk ((floodNowSpec_run_here hd hx hst).trans (if_neg (Bool.eq_false_iff.mp hnot)))

end Sys2Proof.Machine
end

section
/-! SUPPORT. MIGRATE_SESSION (R604, R605, R678): the offer states the major version of the image that runs, which the statement about
SET_SESSION_CLASS, MIGRATE_SESSION and RESTORE_SESSION takes from the part's constant; its refutation. -/

namespace Sys2Proof.Machine

/-! ### What a connection that has sent nothing yet holds to send -/

/-- The migration message of the first packet that connection `c` has yet to send. -/
def queuedMig (s : State) (c : Nat) : Option MigMsg :=
  (getConn s c).bind (fun x => x.sendq.head?.bind (fun p => p.msg.mig))

theorem getConn_modConn_same {s : State} {c : Nat} {x : Conn} (hx : getConn s c = some x) (f : Conn → Conn) :
    getConn (modConn s c f) c = some (f x) := by
  simp only [getConn, modConn] at hx ⊢
  rw [amGet_amMod_self, hx]
  rfl

/-- Nothing is sent while the peer's number is unknown (R498). -/
theorem pump_of_unknown_peer {s : State} {c : Nat} {x : Conn} (hx : getConn s c = some x) (hpeer : x.peerConn = 0xFFFFFFFF) :
    pump s c = s := by
  simp only [pump, hx]
  cases hlen : x.sendq.length with
  | zero => rfl
  | succ n =>
    simp only [pumpGo, hx, hpeer]
    cases x.sendq <;> simp

/-- A message of at least no bytes is at least one packet, and each packet carries its message's migration content. -/
theorem head_packetsOf_mig (m : TwMsg) (u psn : Nat) : (packetsOf m u psn).head?.bind (fun p => p.msg.mig) = m.mig := by
  obtain ⟨n, hn⟩ : ∃ n, max 1 ((m.payload.length + u - 1) / u) = n + 1 := ⟨_, (Nat.succ_pred_eq_of_pos (by omega)).symm⟩
  simp [packetsOf, hn, List.range_succ_eq_map]

theorem queuedMig_of_ringOnly {s t : State} (h : RingOnly s t) (c : Nat) : queuedMig t c = queuedMig s c := by
  simp only [queuedMig, getConn, h.tw]

section
variable {s : State} {c : Nat} {x : Conn} (hx : getConn s c = some x) (hopen : x.failed = false) (hpeer : x.peerConn = 0xFFFFFFFF)
  (hempty : x.sendq = [])
include hx hopen hpeer hempty

theorem queuedMig_sendMsg (m : TwMsg) : queuedMig (sendMsg s c m) c = m.mig := by
  simp only [sendMsg, hx, hopen, Bool.false_eq_true, if_false]
  rw [pump_of_unknown_peer (getConn_modConn_same hx _) hpeer]
  simp only [queuedMig, getConn_modConn_same hx, Option.bind_some, hempty, List.nil_append]
  rw [head_packetsOf_mig]
  split <;> rfl

theorem queuedMig_sendMigrate (d : Nat) (y : Session) (aux phase : Nat) (m : MigMsg) :
    queuedMig (sendMigrate s d y c aux phase m) c = some m := by
  have hx' : getConn (takeFresh s).2 c = some x := hx
  simp only [sendMigrate, sendRequest, hx']
  exact queuedMig_sendMsg (getConn_modConn_same hx' _) hopen hpeer hempty _

end

/-! ### The version that an offer states -/

/-- The offer of session `x` by an image of version `v` (R678). -/
def offerOf (s : State) (x : Session) (v : Nat) : MigMsg :=
  { entry := some (migEntry x), stackCount := 12, pageLog2 := 8, fwMajor := v / 2 ^ 24 % 256, configs := migConfigs s (migEntry x) }

section
variable {s : State} {h : Hdr} {handle target d c : Nat} {x : Session}

/-- The state once MIGRATE_SESSION has its operation under its tag and the session is on its way. -/
def migrating (s : State) (h : Hdr) (handle d target c : Nat) : State :=
  handingOver (putOp (begun s h .admin) (freeTag s) (sessionOp (begun s h .admin) h handle (.handover d))) d target c (freeTag s)

theorem migrating_boot (s : State) (h : Hdr) (handle d target c : Nat) : (migrating s h handle d target c).boot = s.boot := by
  simp [migrating, handingOver, begun]

/-- MIGRATE_SESSION offers the session with the version of the image that runs. -/
theorem exec_migrateSession (tk : Takes s h .admin (migrateSessionSpec h handle target)) (hd : findHandle s handle = some d)
    (hc : connTo s target = some c) (hx : amGet (migrating s h handle d target c).sessions d = some x) :
    exec (.migrateSession h handle target) s = .next (settleRing (sendMigrate (migrating s h handle d target c) d x c 1 0
      (offerOf (migrating s h handle d target c) x (s.boot.version.getD Config.fwVersion))) h.fn .admin) := by
  refine ringCmd_runs tk ?_
  rw [← migrating_boot s h handle d target c]
  have hd' : findHandle (begun s h .admin) handle = some d := hd
  have hc' : connTo (begun s h .admin) target = some c := hc
  simp only [migrating, handingOver, sessionOp] at hx
  simp only [migrateSessionSpec, hd', hc', hx]
  rfl

end

/-! ### The refutation -/

/-- A number of account 1 with version 1 published. -/
def published (body : List Byte) : CfgNum := { current := 1, vers := [(1, { account := 1, body := body })] }

/-- An ACTIVE session of account 1, in partition 1. -/
def activeSession : Session :=
  { handle := 2 ^ 52, partition := 1, state := .active, classRef := { num := 1, ver := 1 }, constraintRef := { num := 0, ver := 0 }
    vocabRef := { num := 1, ver := 1 }, profileRef := { num := 1, ver := 1 } }

/-- A device whose running image has version `v`: PF_0's admin ring holds one entry, session 6 is ACTIVE, connection 0 to device 5 is open
and has sent nothing. -/
def movable (v : Nat) : State :=
  { fns := [(0, { enable := true, adminEn := true, admin := { live := true, slots := [.entry] } })]
    accounts := [(1, { partition := 1 })]
    configs := [(cfgKey 0 1, published (List.replicate 128 0#8)), (cfgKey 1 1, published (1#8 :: List.replicate 63 0#8)),
      (cfgKey 3 1, published (List.replicate 64 0#8))]
    sessions := [(6, activeSession)]
    tw := { conns := [(0, { peerIp := 1, peerDevice := 5 })] }
    boot := { version := some v } }

/-- The header of a command of PF_0 in set 4. -/
def pfHeader : Hdr :=
  { fn := 0, set := 4, be := false, serial := false, cmdId := 7, target := 0, len := 0, addr := 4096, rsvBad := none }

/-- The session of `movable` once it is MIGRATING to device 5. -/
def departing : Session := { activeSession with state := .migrating, prior := .active, migrateTarget := 5, ckptDirty := true }

theorem movable_takes (v : Nat) : Takes (movable v) pfHeader .admin (migrateSessionSpec pfHeader (2 ^ 52) 5) :=
  ⟨by rfl, by rfl, by rfl⟩

theorem movable_departs (v : Nat) : amGet (migrating (movable v) pfHeader (2 ^ 52) 6 5 0).sessions 6 = some departing := by
  rfl

/-- Connection 0 of `movable` has sent nothing, so the offer is its first packet to send. -/
theorem queuedMig_movable (v : Nat) (m : MigMsg) : queuedMig (settleRing (sendMigrate (migrating (movable v) pfHeader (2 ^ 52) 6 5 0) 6 departing
    0 1 0 m) 0 .admin) 0 = some m := by
  rw [queuedMig_of_ringOnly (settleRing_ringOnly _ _ _)]
  exact queuedMig_sendMigrate (x := { peerIp := 1, peerDevice := 5 }) rfl rfl rfl rfl _ _ _ _ _

/-- If every offer stated the part's constant, it would be the major version of every image. -/
theorem major_eq_of_sessionClassMoveAndRestore (hall : Obligations.SessionClassMoveAndRestore) (v : Nat) :
    v / 2 ^ 24 % 256 = Config.fwVersion / 2 ^ 24 % 256 := by
  obtain ⟨-, -, -, hmove, -⟩ := hall
  have hstated := hmove (movable v) pfHeader (2 ^ 52) 5 6 0 departing (movable_takes v) rfl rfl (movable_departs v)
  have hsent := exec_migrateSession (movable_takes v) (d := 6) (c := 0) rfl rfl (movable_departs v)
  have hsame : some (offerOf (migrating (movable v) pfHeader (2 ^ 52) 6 5 0) departing v)
      = some (offerOf (migrating (movable v) pfHeader (2 ^ 52) 6 5 0) departing Config.fwVersion) := by
    rw [← queuedMig_movable v, ← queuedMig_movable v]
    exact congrArg (queuedMig · 0) (Host.Outcome.next.inj (hsent.symm.trans hstated))
  exact congrArg MigMsg.fwMajor (Option.some.inj hsame)

/-- Refutes O9: an offer states the major version of the image that runs, so an image of version 0 and one of version 1.0 cannot both
state that of the part's constant. -/
theorem not_sessionClassMoveAndRestore : ¬ Obligations.SessionClassMoveAndRestore := by
  intro hall
  have hmajor : (0 : Nat) / 2 ^ 24 % 256 = 2 ^ 24 / 2 ^ 24 % 256 :=
    (major_eq_of_sessionClassMoveAndRestore hall 0).trans (major_eq_of_sessionClassMoveAndRestore hall (2 ^ 24)).symm
  exact absurd hmajor (by decide)

end Sys2Proof.Machine
end

section
/-! SUPPORT. Window commands of the admin ring (R444 to R450, R459 to R463, R466): what each runs on its extent; and the statement about
them. -/

namespace Sys2Proof.Machine

section
variable {s : State} {h : Hdr} {extent host : Nat} (tag : Nat)

theorem releaseExtentSpec_run_joins (hruns : releaseRuns s h.target extent host = true) : (releaseExtentSpec h extent host).run s tag =
    putOp (modWin s (fun w => { w with releases := w.releases.map (fun r =>
      if r.region = h.target ∧ r.extent = extent ∧ r.host = host then { r with tags := r.tags ++ [tag] } else r) })) tag
      (ringOp s h .admin (.waiting (.extentRecall h.target extent host))) :=
  if_pos hruns

theorem releaseExtentSpec_run_starts (hruns : releaseRuns s h.target extent host = false)
    (hheld : (getExt s (extKey h.target extent)).hosts.contains host = true) : (releaseExtentSpec h extent host).run s tag =
    startRelease (park s h tag (.extentRecall h.target extent host)) h.target extent host false [tag] :=
  (if_neg (Bool.eq_false_iff.mp hruns)).trans (if_pos hheld)

theorem releaseExtentSpec_run_free (hruns : releaseRuns s h.target extent host = false)
    (hfree : (getExt s (extKey h.target extent)).hosts.contains host = false) :
    (releaseExtentSpec h extent host).run s tag = done s h tag rOk :=
  (if_neg (Bool.eq_false_iff.mp hruns)).trans (if_neg (Bool.eq_false_iff.mp hfree))

end

/-- Settles O10: RELEASE_EXTENT is the one command that looks at the extent, and each of its clauses is one branch. -/
theorem windowAdminCommandsTakeEffect : Obligations.WindowAdminCommandsTakeEffect := by
  refine ⟨?add, ?joins, ?starts, ?free, ?lost, ?accept⟩
  case add =>
    intro s h extent host tk
    exact ringCmd_takes tk
  case joins =>
    intro s h extent host tk hruns
    exact ring_done tk rfl (releaseExtentSpec_run_joins (s := begun s h .admin) _ hruns) ⟨rfl, rfl, rfl⟩
  case starts =>
    intro s h extent host tk hruns hheld
    exact ringCmd_runs tk (releaseExtentSpec_run_starts (s := begun s h .admin) _ hruns hheld)
  case free =>
    intro s h extent host tk hruns hfree
    exact ringCmd_finishes tk (releaseExtentSpec_run_free (s := begun s h .admin) _ hruns hfree)
  case lost =>
    intro s h host tk
    exact ringCmd_finishes tk rfl
  case accept =>
    intro s h extent offset tk
    exact ringCmd_finishes tk rfl

end Sys2Proof.Machine
end

section
/-! SUPPORT. Chart and connection commands (R492, R505, R518, R519): the statement about them. -/

namespace Sys2Proof.Machine

/-- The connection that OPEN_CONNECTION opens, by its operands (R492). -/
def openedConn (s : State) (fn peerIp peerMac peerUdp peerConn peerDevice port mtu flags dscp : Nat) : Conn :=
  { peerIp := peerIp, peerDevice := peerDevice, peerMac := peerMac, peerUdp := peerUdp, peerConn := peerConn, rate := portRate s port
    rto := rtoInit s, fn := fn, port := port, mtu8k := mtu == 1, resident := bit flags 3, spray := flags % 8, dscp := dscp
    aiSince := s.postmark }

/-- The state with connection `x` open as number `c`: its context cached where it is resident, and what PF_0 owes the peer sent again. -/
def connOpened (s : State) (c : Nat) (x : Conn) : State :=
  let t := modTw s (fun w => { w with conns := amSet w.conns c x })
  let u := if x.resident then (cacheTake t c false).getD t else t
  if x.fn = 0 then resendCommits u c x.peerDevice else u

theorem openConnectionSpec_run {s : State} (h : Hdr) (peerIp peerMac peerUdp peerConn peerDevice mtu dscp tag : Nat)
    {port flags c : Nat} (hc : newConn s port (bit flags 3) = some c) :
    (openConnectionSpec h peerIp peerMac peerUdp peerConn peerDevice port mtu flags dscp).run s tag =
      done (connOpened s c (openedConn s h.fn peerIp peerMac peerUdp peerConn peerDevice port mtu flags dscp)) h tag (rOk c) := by
  simp only [openConnectionSpec, hc]
  rfl

/-- Settles O11: a connection is opened where a number is free, and the other commands always go through. -/
theorem tidewayAdminCommandsTakeEffect : Obligations.TidewayAdminCommandsTakeEffect := by
  refine ⟨?chart, ?opens, ?closes⟩
  case chart =>
    intro s h epoch body tk
    exact ringCmd_finishes tk rfl
  case opens =>
    intro s h peerIp peerMac peerUdp peerConn peerDevice port mtu flags dscp c tk hc
    exact ringCmd_finishes tk (openConnectionSpec_run h _ _ _ _ _ _ _ _ hc)
  case closes =>
    intro s h tk
    exact ringCmd_finishes tk rfl

end Sys2Proof.Machine
end

section
/-! SUPPORT. Role and pair commands (R575, R576, R581, R598, R610 to R612): what each runs on the pair; and the statement about
them. -/

namespace Sys2Proof.Machine

/-- The state with a drain for role `role` under way, which ends when its profile says (R612). -/
def draining (s : State) (tag role : Nat) (r : Ref) : State :=
  { modPair s (fun p => { p with drain := some { tag := tag, role := role, profile := r
                                                 until_ := s.postmark + field (cfgBody s 4 r) 0 4 * 1000000 } }) with roleNext := some role }

section
variable {s : State} {h : Hdr} {role profile : Nat} {r : Ref} (tag : Nat) (hr : resolveRef s 4 (refOf profile) = some r)
include hr

theorem setRoleSpec_run : (setRoleSpec h role profile).run s tag =
    if roleHolds s role then park (draining s tag role r) h tag .roleDrain else done (enterRole s role r) h tag (rOk 1) := by
  simp only [setRoleSpec, hr]
  rfl

end

/-- The state BINDING to `buddy` (R575). -/
def binding (s : State) (buddy reservePct : Nat) : State :=
  modPair s (fun p => { p with status := 1, buddy := buddy, reservePct := reservePct, parkPctBound := p.parkPct, bindSince := s.postmark
                               noFrames := p.announced.isSome && p.noFrames })

section
variable {s : State} (h : Hdr) (buddy reservePct tag : Nat)

theorem pairBindSpec_run_bound (hb : bound s = true) : (pairBindSpec h buddy reservePct).run s tag = done s h tag (rOk 3) := if_pos hb

theorem pairBindSpec_run_unbound (hb : bound s = false) : (pairBindSpec h buddy reservePct).run s tag =
    let t := park (binding s buddy reservePct) h tag .buddyBind
    tryBind (isthmus t (.bind reservePct t.pair.parkPct)) :=
  if_neg (Bool.eq_false_iff.mp hb)

end

/-- Settles O12: SET_ROLE looks at what the role excludes, PAIR_BIND at the binding, and the others always go through. -/
theorem roleAndPairCommandsTakeEffect : Obligations.RoleAndPairCommandsTakeEffect := by
  refine ⟨?drains, ?enters, ?bound, ?binds, ?checkpoint, ?unbind, ?restore, ?succession, ?releaseFrozen⟩
  case drains =>
    intro s h role profile r tk hr hholds
    refine ring_done tk rfl ((setRoleSpec_run (s := begun s h .admin) _ hr).trans (if_pos hholds)) ⟨rfl, rfl, rfl⟩
  case enters =>
    intro s h role profile r tk hr hfree
    exact ringCmd_finishes tk ((setRoleSpec_run (s := begun s h .admin) _ hr).trans (if_neg (Bool.eq_false_iff.mp hfree)))
  case bound =>
    intro s h buddy reservePct tk hb
    exact ringCmd_finishes tk (pairBindSpec_run_bound (s := begun s h .admin) h buddy reservePct _ hb)
  case binds =>
    intro s h buddy reservePct tk hb
    exact ringCmd_runs tk (pairBindSpec_run_unbound (s := begun s h .admin) h buddy reservePct _ hb)
  case checkpoint =>
    intro s h timerMs steps tk
    exact ringCmd_finishes tk rfl
  case unbind =>
    intro s h tk
    exact ringCmd_finishes tk rfl
  case restore =>
    intro s h source holder tk
    exact ringCmd_takes tk
  case succession =>
    intro s h failed successor tk
    exact ringCmd_finishes tk rfl
  case releaseFrozen =>
    intro s h source tk
    exact ringCmd_finishes tk rfl

end Sys2Proof.Machine
end

section
/-! SUPPORT. Consent, device set and firmware commands (R680 to R683, R688 to R694): the statement about them. -/

namespace Sys2Proof.Machine

/-- Settles O13: each command finishes on the state that its effect gives. -/
theorem securityAdminCommandsTakeEffect : Obligations.SecurityAdminCommandsTakeEffect := by
  refine ⟨?consent, ?withdraw, ?key, ?deviceSet, ?download, ?activate, ?commit⟩
  case consent =>
    intro s h token signed tk
    exact ringCmd_finishes tk rfl
  case withdraw =>
    intro s h tk
    exact ringCmd_finishes tk rfl
  case key =>
    intro s h key proved tk
    exact ringCmd_finishes tk rfl
  case deviceSet =>
    intro s h body tk
    exact ringCmd_finishes tk rfl
  case download =>
    intro s h offset body tk
    exact ringCmd_finishes tk rfl
  case activate =>
    intro s h slot found tk
    exact ringCmd_finishes tk rfl
  case commit =>
    intro s h tk
    exact ringCmd_finishes tk rfl

end Sys2Proof.Machine
end

section
/-! SUPPORT. The harbourmaster's commands (R33, R220 to R222) and the media's (R534 to R539): what each runs; and the statements about
them. -/

namespace Sys2Proof.Machine

/-! ### Cores and their memory -/

/-- The state with the cores of `mask` assigned and the blocks of core clusters that hold one asked to wake. -/
def coresAssigned (s : State) (mask : Nat) : State :=
  ([2, 3, 4, 5].filter (fun b => bits mask (4 * (b - 2) + 3) (4 * (b - 2)) != 0)).foldl (fun s b => requestWake s (96 + b) false 0)
    { s with hm := { s.hm with assigned := mask } }

section
variable {s : State} {memFrames : Nat} (h : Hdr) (mask tag : Nat)

theorem hmAssignSpec_run_same (hsame : memFrames = s.hm.memFrames) :
    (hmAssignSpec h mask memFrames).run s tag = done (coresAssigned s mask) h tag (rOk memFrames) := by
  simp only [hmAssignSpec, if_pos hsame]
  rfl

theorem hmAssignSpec_run_taken {q : List Nat × State} (hother : memFrames ≠ s.hm.memFrames) (hq : hmTake (hmFree s) memFrames = some q) :
    (hmAssignSpec h mask memFrames).run s tag =
      done (coresAssigned (checkPressure { q.2 with hm := { q.2.hm with memRuns := q.1, memFrames := memFrames } }) mask) h tag
        (rOk memFrames) := by
  simp only [hmAssignSpec, if_neg hother, hq]
  rfl

end

/-- Settles O14: HM_ASSIGN takes frames where their number changes, and the other commands always go through. -/
theorem harbourmasterCommandsTakeEffect : Obligations.HarbourmasterCommandsTakeEffect := by
  refine ⟨?assignSame, ?assignTaken, ?load, ?start, ?stop⟩
  case assignSame =>
    intro s h mask memFrames tk hsame
    exact ringCmd_finishes tk (hmAssignSpec_run_same (s := begun s h .admin) h mask _ hsame)
  case assignTaken =>
    intro s h mask memFrames q tk hother hq
    exact ringCmd_finishes tk (hmAssignSpec_run_taken (s := begun s h .admin) h mask _ hother hq)
  case load =>
    intro s h offset body tk
    exact ringCmd_finishes tk rfl
  case start =>
    intro s h mask entry tk
    exact ringCmd_finishes tk rfl
  case stop =>
    intro s h mask tk
    exact ringCmd_finishes tk rfl

/-! ### The media -/

/-- Settles O15: with a signed profile each command finishes on the state that its effect gives. -/
theorem mediaAdminCommandsTakeEffect : Obligations.MediaAdminCommandsTakeEffect := by
  refine ⟨?format, ?attach, ?reclaim, ?wallClock⟩
  case format =>
    rintro s h lifeDays _ found p tk rfl
    exact ringCmd_finishes tk rfl
  case attach =>
    rintro s h lifeDays _ found p tk rfl
    exact ringCmd_finishes tk rfl
  case reclaim =>
    intro s h tk
    exact ringCmd_finishes tk rfl
  case wallClock =>
    intro s h wallNs tk
    exact ringCmd_finishes tk rfl

end Sys2Proof.Machine
end

section
/-! SUPPORT. Streams of the text ring (R340, R356 to R359): what each command runs on the stream it names; and the statement about them. -/

namespace Sys2Proof.Machine

/-- The state with stream `st` open under number `k` for `account` (R356). -/
def streamOpened (s : State) (k account : Nat) (st : Stream) : State :=
  noteQuotas (fitPool { s with streams := amSet s.streams k st } account) account

theorem openStreamSpec_run {s : State} {h : Hdr} {vocab : Nat} {v : Ref} (direction flags tag : Nat)
    (hv : resolveRef s 1 (refOf vocab) = some v) : (openStreamSpec h direction flags vocab).run s tag =
      tdone (streamOpened s (amLowestFree s.streams (streamKey h.fn 0)) h.target
        { account := h.target, detok := direction == 1, flags := flags, vocab := v }) h tag
        (rOk (amLowestFree s.streams (streamKey h.fn 0) % 4096)) := by
  simp only [openStreamSpec, hv]
  rfl

/-- The state with stream `k` gone where `ends`, and else kept as `st`. -/
def streamKept (s : State) (k : Nat) (ends : Bool) (st : Stream) : State :=
  if ends then dropStream s k else { s with streams := amSet s.streams k st }

/-- An output that can be written whole is written, and the rest of the command runs on what the writing leaves. -/
theorem hostWrite_of_none {s : State} {fn addr : Nat} {bs : List Byte} (hw : (hostWrite s fn addr bs).2 = none) :
    hostWrite s fn addr bs = ((hostWrite s fn addr bs).1, none) := Prod.ext rfl hw

/-- What a DETOKENIZE gives of its stream: the run over the input, ended where FINAL is set and all of it is consumed (R358). -/
def detokOut (b : List Byte) (st : Stream) (final cap : Nat) (ids : List Nat) : Detok :=
  let t := detokRun b (bit st.flags 1) cap ids { carry := st.raw, joined := st.count }
  if final = 1 ∧ t.used = ids.length then detokEnd b cap t else t

section
variable {s : State} {h : Hdr} {outAddr outCap final : Nat} {input : HostRead} {st : Stream} (tag : Nat) (hst : streamAt s h = some st)
include hst

theorem tokenizeSpec_run {o : TokOut} (ho : tokOut (cfgBody s 1 st.vocab) st (final == 1) (bodyBytes input) outCap = o)
    (hw : (hostWrite s h.fn outAddr (o.toks.flatMap (leBytes 4))).2 = none) (hok : o.fail = none) :
    (tokenizeSpec h outAddr outCap final input).run s tag =
      tdone (streamKept (hostWrite s h.fn outAddr (o.toks.flatMap (leBytes 4))).1 (streamKey h.fn h.target) (final == 1 && o.all) o.stream)
        h tag (rOk o.toks.length o.used) := by
  simp only [tokenizeSpec, hst, ho, tokFinish, hok]
  rw [hostWrite_of_none hw]
  rfl

theorem detokenizeSpec_run {o : Detok} (ho : detokOut (cfgBody s 1 st.vocab) st final outCap (idsOf (bodyBytes input)) = o)
    (hw : (hostWrite s h.fn outAddr o.text).2 = none) (hok : o.fail = none) :
    (detokenizeSpec h outAddr outCap final input).run s tag =
      tdone (if final = 1 ∧ o.used = (idsOf (bodyBytes input)).length ∧ o.carry = [] then
          dropStream (hostWrite s h.fn outAddr o.text).1 (streamKey h.fn h.target)
        else { (hostWrite s h.fn outAddr o.text).1 with
          streams := amSet (hostWrite s h.fn outAddr o.text).1.streams (streamKey h.fn h.target)
            { st with count := o.joined, raw := o.carry } }) h tag (rOk o.text.length o.used) := by
  rw [detokOut] at ho
  simp only [detokenizeSpec, hst, ho]
  rw [hostWrite_of_none hw]
  simp only [hok]

end

/-- Settles O16: the commands on a stream that is there, with an output that can be written and nothing in the input that fails. -/
theorem streamCommandsTakeEffect : Obligations.StreamCommandsTakeEffect := by
  refine ⟨?opens, ?tokenize, ?detokenize, ?closes⟩
  case opens =>
    intro s h direction flags vocab v tk hv
    exact ringCmd_finishes tk (openStreamSpec_run (s := begun s h .text) direction flags _ hv)
  case tokenize =>
    intro s h outAddr outCap final input st tk hst hw hok
    exact ringCmd_finishes tk (tokenizeSpec_run (s := begun s h .text) _ hst rfl hw hok)
  case detokenize =>
    intro s h outAddr outCap final input st tk hst hw hok
    exact ringCmd_finishes tk (detokenizeSpec_run (s := begun s h .text) _ hst rfl hw hok)
  case closes =>
    intro s h tk
    exact ringCmd_finishes tk rfl

end Sys2Proof.Machine
end

section
/-! SUPPORT. Text commands on a session (R358, R360, R361, R366, R376 to R385): what each runs on the session it names; and the statement
about them. -/

namespace Sys2Proof.Machine

section
variable {s : State} {h : Hdr} {handle d : Nat} {hb : Bool} {bad : State → List (Nat × Bool)} {refuse : State → List (Option Rcpt)}

/-- A text command on a session that is here, and that is taken, answers its effect on the session with its ring settled. -/
theorem textCmd_runs {run : State → Nat → Nat → State} (tk : Takes s h .text (textSpec h handle hb bad refuse run))
    (hd : findHandle s handle = some d) {u : State} (hrun : run (touched s h .text d) (freeTag s) d = u) :
    ringCmd .text h (textSpec h handle hb bad refuse run) s = .next (settleRing u h.fn .text) :=
  ringCmd_runs tk ((textSpec_run hd).trans hrun)

variable {x : Session} {e : TextEdit}

/-- An edit of the session's text rules is made at once while its round is open, with the receipt the edit gives. -/
theorem editCmd_applies (tk : Takes s h .text (textSpec h handle hb bad refuse (fun s tag d => takeEdit s h tag d e)))
    (hd : findHandle s handle = some d) (hx : amGet (touched s h .text d).sessions d = some x) (hopen : x.round.closing = false) :
    ∃ t, ringCmd .text h (textSpec h handle hb bad refuse (fun s tag d => takeEdit s h tag d e)) s = .next t
      ∧ OpAt s t h .text (.ready (applyEdit (touched s h .text d) d e).2)
      ∧ Otherwise s h (applyEdit (touched s h .text d) d e).1 t := by
  refine ringCmd_finishes tk ((textSpec_run hd).trans ?_)
  simp only [takeEdit, hx, hopen]
  rfl

/-- An edit waits for the end of a round that is closing (R385). -/
theorem editCmd_waits (tk : Takes s h .text (textSpec h handle hb bad refuse (fun s tag d => takeEdit s h tag d e)))
    (hd : findHandle s handle = some d) (hx : amGet (touched s h .text d).sessions d = some x) (hclosing : x.round.closing = true) :
    ∃ t, ringCmd .text h (textSpec h handle hb bad refuse (fun s tag d => takeEdit s h tag d e)) s = .next t
      ∧ OpAt s t h .text (.waiting (.masks d))
      ∧ Otherwise s h { touched s h .text d with
          textDefers := amSet (touched s h .text d).textDefers (freeTag s) { d := d, edit := e } } t := by
  refine ringCmd_waits (a := none) (o := none) tk ((textSpec_run hd).trans ?_)
  simp only [takeEdit, hx, hclosing]
  rfl

end

/-- Settles O17: reads are taken as they come, and an edit by whether the round is closing. -/
theorem sessionTextCommandsTakeEffect : Obligations.SessionTextCommandsTakeEffect := by
  refine ⟨?readText, ?readMask, ?rulesApply, ?rulesWait, ?resetApplies, ?resetWaits⟩
  case readText =>
    intro s h handle cursor waitMs flags d tk hd
    exact textCmd_runs tk hd rfl
  case readMask =>
    intro s h handle round which d tk hd
    exact textCmd_runs tk hd rfl
  case rulesApply =>
    intro s h handle body d x tk hd hx hopen
    exact editCmd_applies tk hd hx hopen
  case rulesWait =>
    intro s h handle body d x tk hd hx hclosing
    exact editCmd_waits tk hd hx hclosing
  case resetApplies =>
    intro s h handle state d x tk hd hx hopen
    exact editCmd_applies tk hd hx hopen
  case resetWaits =>
    intro s h handle state d x tk hd hx hclosing
    exact editCmd_waits tk hd hx hclosing

end Sys2Proof.Machine
end

section
/-! SUPPORT. STEP and COMMIT of a step ring (R89, R292, R297, R313, R376): what each runs on the session it names; and the statement
about them. -/

namespace Sys2Proof.Machine

/-! ### STEP -/

/-- The record of a step that function `fn` of this device's host has issued on session `d`, which reads as `x`. -/
def hostStep (s : State) (h : Hdr) (e : StepEntry) (d : Nat) (x : Session) : StepRec :=
  { entry := e, d := d, via := .host h.fn, partition := if h.fn = 0 then 0 else x.partition, be := h.be, phase := .running, admPm := s.postmark }

/-- The operation of a STEP or a COMMIT on session `d`, which reads as `x`, with the versions it has captured. -/
def stepRingOp (s : State) (h : Hdr) (n d : Nat) (x : Session) (captured : List (Nat × Nat)) : Op :=
  { ringOp s h (.step n) (.waiting .stepWork) with session := some d, account := some (handleAccount x.handle), captured := captured }

section
variable {s : State} {h : Hdr} {e : StepEntry} {d : Nat} {x : Session} (n tag : Nat) (hd : findHandle s e.handle = some d)
  (hx : amGet s.sessions d = some x)
include hd hx

theorem stepSpec_run : (stepSpec h n e).run s tag =
    let t := putOp s tag (stepRingOp s h n d x [])
    let q := hostStep s h e d x
    if x.fence then { t with steps := amSet s.steps tag { q with phase := .heldFence, fenceWait := true } }
    else if e.round ≠ x.round.num then { t with steps := amSet s.steps tag { q with phase := .heldRound, roundHeld := true } }
    else admitStep { t with steps := amSet s.steps tag q } tag q := by
  simp only [stepSpec, hd, takeStep, hx]
  rfl

theorem stepSpec_run_fenced (hf : x.fence = true) : (stepSpec h n e).run s tag =
    putOp { s with steps := amSet s.steps tag { hostStep s h e d x with phase := .heldFence, fenceWait := true } } tag
      (stepRingOp s h n d x []) :=
  (stepSpec_run n tag hd hx).trans (if_pos hf)

theorem stepSpec_run_early (hf : x.fence = false) (hround : e.round ≠ x.round.num) : (stepSpec h n e).run s tag =
    putOp { s with steps := amSet s.steps tag { hostStep s h e d x with phase := .heldRound, roundHeld := true } } tag
      (stepRingOp s h n d x []) :=
  (stepSpec_run n tag hd hx).trans ((if_neg (Bool.eq_false_iff.mp hf)).trans (if_pos hround))

theorem stepSpec_run_now (hf : x.fence = false) (hround : e.round = x.round.num) : (stepSpec h n e).run s tag =
    admitStep { putOp s tag (stepRingOp s h n d x []) with steps := amSet s.steps tag (hostStep s h e d x) } tag (hostStep s h e d x) :=
  (stepSpec_run n tag hd hx).trans ((if_neg (Bool.eq_false_iff.mp hf)).trans (if_neg (not_not.mpr hround)))

end

/-! ### COMMIT -/

/-- The versions of the vocabulary and the constraint set that a COMMIT of session `x` captures (R89, R376). -/
def commitCaptures (s : State) (x : Session) : List (Nat × Nat) :=
  ((resolveRef s 1 x.vocabRef).toList.map (fun r => (cfgKey 1 r.num, r.ver)))
    ++ ((csetNow s x).toList.map (fun r => (cfgKey 2 r.num, r.ver)))

/-- The record of a COMMIT of session `d`, which reads as `x`: held while the session is fenced. -/
def commitOf (s : State) (h : Hdr) (d round mask : Nat) (x : Session) : CommitRec :=
  { d := d, round := round, mask := mask, held := x.fence, be := h.be, vocab := resolveRef s 1 x.vocabRef, cset := csetNow s x }

section
variable {s : State} {h : Hdr} {handle d : Nat} {x : Session} (n descIndex round mask tag : Nat) (hd : findHandle s handle = some d)
  (hx : amGet s.sessions d = some x)
include hd hx

theorem commitSpec_run : (commitSpec h n handle descIndex round mask).run s tag =
    let t := putOp { s with commits := amSet s.commits tag (commitOf s h d round mask x) } tag
      (stepRingOp s h n d x (commitCaptures s x))
    if x.fence then t
    else upd t d (fun y => { y with lastOpPm := s.postmark, round := { y.round with closing := true } }) := by
  simp only [commitSpec, hd, takeCommit, hx]
  rfl

end

/-- Settles O18: each clause is the branch of the run that the session's fence and round choose. -/
theorem stepRingWorkStarts : Obligations.StepRingWorkStarts := by
  refine ⟨?fenced, ?early, ?now, ?commitFenced, ?commitNow⟩
  case fenced =>
    intro s h n e d x tk hd hx hf
    exact ring_done tk rfl (stepSpec_run_fenced (s := begun s h (.step n)) n _ hd hx hf) ⟨rfl, rfl, rfl⟩
  case early =>
    intro s h n e d x tk hd hx hf hround
    exact ring_done tk rfl (stepSpec_run_early (s := begun s h (.step n)) n _ hd hx hf hround) ⟨rfl, rfl, rfl⟩
  case now =>
    intro s h n e d x tk hd hx hf hround
    exact ringCmd_runs tk (stepSpec_run_now (s := begun s h (.step n)) n _ hd hx hf hround)
  case commitFenced =>
    intro s h n handle descIndex round mask d x tk hd hx hf
    have hrun := (commitSpec_run (s := begun s h (.step n)) (h := h) n descIndex round mask (freeTag s) hd hx).trans (if_pos hf)
    rw [commitOf, hf] at hrun
    exact ring_done tk rfl hrun ⟨rfl, rfl, rfl⟩
  case commitNow =>
    intro s h n handle descIndex round mask d x tk hd hx hf
    have hrun := (commitSpec_run (s := begun s h (.step n)) (h := h) n descIndex round mask (freeTag s) hd hx).trans
      (if_neg (Bool.eq_false_iff.mp hf))
    rw [commitOf, hf] at hrun
    exact ringCmd_runs tk hrun

end Sys2Proof.Machine
end

section
/-! SUPPORT. Power-up, power-on reset, self test and the board's events (R463, R619, R624, R680, R681, R718 to R720, R724 to R734): what each command answers in the
stage, or on the port, that its clause supposes; and the statements about them. -/

namespace Sys2Proof.Machine

/-! ### The stages of the boot -/

/-- The state whose boot has come to `b`, with the straps read and the boot counted (R680, R727). -/
def strapped (s : State) (b : Boot) (sel : Nat) (pairId : Bool) (mgmt : Nat) : State :=
  { s with boot := { b with sel := sel, mgmt := mgmt }, pair := { s.pair with strap := pairId }
           faults := { s.faults with boots := s.faults.boots + 1 } }

section
variable {s : State} (pm : Nat)

theorem exec_powerUp (hst : s.boot.stage = 0) :
    exec .powerUp s = .next { s with boot := { s.boot with stage := 1 }, aon := true, postmark := 0 } := if_pos hst

theorem exec_porNRise (sel : Nat) (pairId : Bool) (mgmt : Nat) (slotA slotB : SlotFound) (norAnswers : Bool) (hst : s.boot.stage = 1) :
    exec (.porNRise sel pairId mgmt slotA slotB norAnswers pm) s = .next (strapped (advance pm s)
      (if norAnswers then bootFrom slotA slotB (slotsToTry sel (recInForce s.boot)) s.boot else { s.boot with stage := 4 })
      sel pairId mgmt) :=
  if_neg (not_not.mpr hst)

/-- The state in which the self test of a READY device has retired these cells (R619). -/
def cellsRetired (s : State) (failedCells : List (Nat × Nat × Nat × Nat)) : State :=
  let t := modBoot { s with ready := true } (fun b => { b with stage := 3, readyPm := s.postmark })
  failedCells.foldl (fun s c => retireCell s
    { level := 0, kind := if c.2.1 = 1 then 0x01 else if c.2.1 = 11 then 0x04 else 0x02
      unit := { region := c.1, kind := c.2.1, index := c.2.2.1, cell := some c.2.2.2 }, what := .cell, pm := s.postmark })
    (modFaults t (fun f => { f with restarted := false }))

theorem exec_selfTestDone (failedRegions : List Nat) (failedCells : List (Nat × Nat × Nat × Nat)) (hst : s.boot.stage = 2) :
    exec (.selfTestDone failedRegions failedCells pm) s =
      let t := cellsRetired (advance pm s) failedCells
      .next ((failedRegions.filter (fun r => r < 10 ∧ r ≠ 8) ++ t.boot.regFailed.filter (fun r => !failedRegions.contains r)).foldl
        (fun s r => regionOut (if r < 6 then { s with regionsOut := r :: s.regionsOut } else s) r) t) :=
  if_neg (not_not.mpr hst)

theorem exec_porNFall (hst : 2 ≤ s.boot.stage) : exec (.porNFall pm) s = .next (porState (advance pm s)) := if_pos hst

end

/-- Settles O19: each command's guard is the stage that its clause supposes. -/
theorem powerAndResetEventsTakeEffect : Obligations.PowerAndResetEventsTakeEffect := by
  refine ⟨?powerUp, ?boots, ?recovers, ?selfTest, ?resets, ?powerRemoved⟩
  case powerUp =>
    intro s hst
    exact exec_powerUp hst
  case boots =>
    rintro s sel pairId mgmt slotA slotB _ pm hst rfl
    exact exec_porNRise pm sel pairId mgmt slotA slotB true hst
  case recovers =>
    rintro s sel pairId mgmt slotA slotB _ pm hst rfl
    exact exec_porNRise pm sel pairId mgmt slotA slotB false hst
  case selfTest =>
    intro s failedRegions failedCells pm hst
    exact exec_selfTestDone pm failedRegions failedCells hst
  case resets =>
    intro s pm hst
    exact exec_porNFall pm hst
  case powerRemoved =>
    intro s
    rfl

/-! ### The board and the host ports -/

/-- What PERST_N_FALL leaves of a host port: no link, and the port in reset (R732). -/
def heldPort : HostPort := { version := 0, switched := false, inReset := true }

section
variable {s : State} {p : Nat} (hp : p < 2) (hup : s.beached = false)
include hp hup

theorem hostPort_allowed : ¬ (2 ≤ p ∨ s.beached = true) := by
  rintro (hbad | hbeached)
  · exact Nat.not_le.mpr hp hbad
  · exact Bool.false_ne_true (hup.symm.trans hbeached)

section
variable (pm : Nat) (hout : portInReset s p = false)
include hout

theorem exec_perstNFall : exec (.perstNFall p pm) s =
    let t := setHost (if s.boot.stage = 3 then crashPort (advance pm s) p else advance pm s) p heldPort
    .next (if t.boot.stage = 3 then bothReset t else t) := by
  have hnot : ¬ (2 ≤ p ∨ s.beached = true ∨ portInReset s p = true) := by
    rintro (hbad | hbeached | hreset)
    · exact Nat.not_le.mpr hp hbad
    · exact Bool.false_ne_true (hup.symm.trans hbeached)
    · exact Bool.false_ne_true (hout.symm.trans hreset)
  exact if_neg hnot

theorem exec_perstNFall_ready (hst : s.boot.stage = 3) :
    exec (.perstNFall p pm) s = .next (bothReset (setHost (crashPort (advance pm s) p) p heldPort)) := by
  have hstill : (setHost (crashPort (advance pm s) p) p heldPort).boot.stage = 3 := by simpa using hst
  rw [exec_perstNFall hp hup pm hout]
  simp only [if_pos hst, if_pos hstill]

theorem exec_perstNFall_not_ready (hst : s.boot.stage ≠ 3) : exec (.perstNFall p pm) s = .next (setHost (advance pm s) p heldPort) := by
  have hstill : (setHost (advance pm s) p heldPort).boot.stage ≠ 3 := by simpa using hst
  rw [exec_perstNFall hp hup pm hout]
  simp only [if_neg hst, if_neg hstill]

end

theorem exec_perstNRise (version : Nat) (switched : Bool) : exec (.perstNRise p version switched) s =
    if s.boot.stage < 2 ∨ s.faults.regionsDown.contains (6 + p) = true then .next (setHost s p {})
    else .next (setHost s p { version := version, switched := switched }) :=
  if_neg (hostPort_allowed hp hup)

theorem exec_hostLinkDown :
    exec (.hostLinkDown p) s = .next (setHost (crashPort s p) p { amGetD s.win.ports p {} with version := 0 }) :=
  if_neg (hostPort_allowed hp hup)

end

theorem exec_regulatorTimeout {s : State} (region : Nat) (hst : s.boot.stage = 2) : exec (.regulatorTimeout region) s =
    if region = 8 then .next (modBoot s (fun b => { b with stage := 4 }))
    else .next (modBoot s (fun b => { b with regFailed := region :: b.regFailed.filter (· != region) })) :=
  if_neg (not_not.mpr hst)

theorem exec_pmbusPoll {s : State} (reads : List RailRead) (pm : Nat) (hst : 2 ≤ s.boot.stage) (hup : s.beached = false) :
    exec (.pmbusPoll reads pm) s = .next (modPow (advance pm s) (fun p =>
      { p with rails := reads.foldl (fun m r => if r.rail < 10 then amSet m r.rail r else m) p.rails })) :=
  if_pos (And.intro hst hup)

/-- Settles O20: each clause is the branch of its command's answer that the stage or the port chooses. -/
theorem boardEventsTakeEffect : Obligations.BoardEventsTakeEffect := by
  refine ⟨?falls, ?fallsEarly, ?rises, ?risesOut, ?linkDown, ?regulator, ?coreRegulator, ?poll⟩
  case falls =>
    intro s p pm hp hup hout hst
    exact exec_perstNFall_ready hp hup pm hout hst
  case fallsEarly =>
    intro s p pm hp hup hout hst
    exact exec_perstNFall_not_ready hp hup pm hout hst
  case rises =>
    intro s p version switched hp hup hst hin
    refine (exec_perstNRise hp hup version switched).trans (if_neg ?_)
    rintro (hearly | hregion)
    · exact Nat.not_le.mpr hearly hst
    · exact Bool.false_ne_true (hin.symm.trans hregion)
  case risesOut =>
    intro s p version switched hp hup hout
    exact (exec_perstNRise hp hup version switched).trans (if_pos hout)
  case linkDown =>
    intro s p hp hup
    exact exec_hostLinkDown hp hup
  case regulator =>
    intro s region hst hother
    exact (exec_regulatorTimeout region hst).trans (if_neg hother)
  case coreRegulator =>
    intro s region hst hcore
    exact (exec_regulatorTimeout region hst).trans (if_pos hcore)
  case poll =>
    intro s reads pm hst hup
    exact exec_pmbusPoll reads pm hst hup

end Sys2Proof.Machine
end

section
/-! SUPPORT. The step engine's events (R41, R271 to R279, R313 to R319, R376 to R384, R691, R709): what each command answers on the task, the
step, the round or the mask set that its clause supposes; and the statement about them. -/

namespace Sys2Proof.Machine

/-! ### Page tasks -/

/-- The state once task `t` of a block has ended: traced, its step one task less, the block running on, and the trace cleared where nobody
may read it (R41, R691, R709). -/
def taskEnded (s : State) (region block : Nat) (t : Task) : State :=
  let x := getBlock s region block
  let u := traceTask s region block x t
  let u := { u with steps := amMod u.steps t.tag (fun q => { q with tasksLeft := q.tasksLeft - 1 }) }
  clearTrace (runBlock u region block { x with running := none }) t.partition

theorem exec_pageTaskDone {s : State} {region block pm : Nat} {t : Task} (ht : (getBlock (advance pm s) region block).running = some t) :
    exec (.pageTaskDone region block pm) s = .next (taskEnded (advance pm s) region block t) := by
  change execPageTaskDone region block pm s = _
  simp only [execPageTaskDone, ht]
  rfl

/-! ### The merge -/

/-- The rows that step `q` of session `x` has read (R271). -/
def stepReads (s : State) (x : Session) (q : StepRec) : Nat :=
  pagesRead (attnIn s x q) (stepSpan q.entry (attnIn s x q)).1 (stepSpan q.entry (attnIn s x q)).2

/-- A slice step lacks pages that it may not leave out (R279). -/
def sliceLacks (q : StepRec) : Bool := q.srcs.any (fun p => p == .missing) && !(stepMissing q.entry q.srcs).isEmpty && !q.degraded

/-- What a merged step answers: its receipt and the blocks it writes (R276 to R279). -/
def mergedWith (s : State) (x : Session) (q : StepRec) : Rcpt × List (Nat × Nat × List Byte) :=
  let whole := stepRcpt q (if q.degraded then .degraded else .ok) (stepReads s x q) 0
  let part := (40, q.entry.resultAddr, partialBlock (attnIn s x q) q.entry.firstPage q.entry.lastPage q.entry.treePages)
  if q.entry.mode = 1 then
    if sliceLacks q then (stepRcpt q .pagesAbsent (stepReads s x q) (missingList s x).length, part :: missingWrite s x q)
    else (whole, [part])
  else (whole, [(40, q.entry.resultAddr, finalBlock (attnIn s x q))])

theorem exec_stepMerge {s : State} {tag pm : Nat} {q : StepRec} {x : Session} (hq : amGet s.steps tag = some q)
    (hx : amGet s.sessions q.d = some x) (hrun : q.phase = .running) (hleft : q.tasksLeft = 0) : exec (.stepMerge tag pm) s =
      .next (finishWith (advance pm s) tag q (mergedWith (advance pm s) x q).1 (mergedWith (advance pm s) x q).2) := by
  have hdone : ¬ (q.phase ≠ .running ∨ q.tasksLeft ≠ 0) := by simp [hrun, hleft]
  change execStepMerge tag pm s = _
  simp only [execStepMerge, advance_steps, advance_sessions, hq, hx, if_neg hdone, mergedWith]
  by_cases hmode : q.entry.mode = 1
  · cases hlacks : sliceLacks q <;>
    · rw [sliceLacks] at hlacks
      simp only [if_pos hmode, hlacks]
      rfl
  · simp only [if_neg hmode]
    rfl

/-! ### The commit -/

/-- The COMMIT of session `d` that waits to be applied, under its tag. -/
def waitingCommit (s : State) (d : Nat) : Option (Nat × CommitRec) :=
  s.commits.find? (fun e => e.2.d == d && !e.2.held && (match amGet s.ops e.1 with
    | some o => o.state == .waiting .stepWork
    | none => false))

section
variable {s : State} {d tag : Nat} {x : Session} {c : CommitRec} (pm : Nat) (hx : amGet s.sessions d = some x)
  (hc : waitingCommit s d = some (tag, c)) (hclosing : x.round.closing = true) (hdone : roundOpen (advance pm s) d c.round = false)

/-- The path that a COMMIT accepts (R314). -/
def acceptedPath (x : Session) (c : CommitRec) : List Nat := (acceptPath x.round.cands x.round.parents c.mask).getD []

/-- The state in which the accepted path is committed, its receipt ready, and what waited for the round has gone on (R313 to R319). -/
def committed (s : State) (d tag : Nat) (x : Session) (c : CommitRec) : State :=
  let path := acceptedPath x c
  admitHeldRound (textAfterCommit (resolveTag (applyCommit s d path c) tag
    { status := .ok, detail := c.round, resA := x.tokens + path.length, resB := path.length }) d) d

/-- The state in which a COMMIT is refused for layer `l`, whose rows are not all there, and its round is open again (R315). -/
def commitRefused (s : State) (d tag l : Nat) : State :=
  textAfterCommit (resolveTag (upd s d (fun x => { x with round := { x.round with closing := false } })) tag { rBusy 1 with resA := l }) d

include hx hc hclosing hdone

theorem exec_commitApply : exec (.commitApply d pm) s = .next
    (match (if c.mask = 0 then none else missingRows x) with
      | some l => commitRefused (advance pm s) d tag l
      | none => committed (advance pm s) d tag x c) := by
  change execCommitApply d pm s = _
  unfold execCommitApply
  dsimp only
  split
  · next x' tag' c' hx' hc' =>
    obtain rfl : x = x' := Option.some.inj (hx.symm.trans hx')
    obtain ⟨rfl, rfl⟩ : tag = tag' ∧ c = c' := Prod.mk.inj (Option.some.inj (hc.symm.trans hc'))
    rw [hclosing, hdone]
    cases (if c.mask = 0 then none else missingRows x) <;> rfl
  · next hnone => exact (hnone x tag c hx hc).elim

end

/-! ### Masks -/

/-- The bytes of a mask set's masks (R377). -/
def maskLoad (s : State) (x : Session) (m : MaskSet) : Nat :=
  maskSize (maskTokens s m) * (1 + (if x.round.fixed then x.round.cands else 16))

/-- The masks of notice `n` run as latency-critical (R384). -/
def runsLc (s : State) (n : Notice) (x : Session) (m : MaskSet) : Bool := !n.be && txAdmit s x.partition (maskLoad s x m)

/-- The state with the load of a mask run as latency-critical entered (R384). -/
def maskLoaded (s : State) (n : Notice) (x : Session) (m : MaskSet) : State :=
  if runsLc s n x m then
    { s with txLoads := s.txLoads.filter (fun l => decide (s.postmark < l.pm + 100000))
        ++ [{ pm := s.postmark, partition := x.partition, bytes := maskLoad s x m }] }
  else s

theorem maskLoaded_postmark (s : State) (n : Notice) (x : Session) (m : MaskSet) : (maskLoaded s n x m).postmark = s.postmark := by
  unfold maskLoaded
  split <;> rfl

/-- The state once notice `n` has come to the mask set `m` of session `x` at postmark `at_` (R376, R384). -/
def noticed (s : State) (n : Notice) (x : Session) (m : MaskSet) (at_ : Nat) : State :=
  modSession (maskLoaded s n x m) n.d (fun y => { y with masks := some { m with notice := some at_, ranBe := !runsLc s n x m } })

theorem exec_commitNotice {s : State} {n : Notice} {rest : List Notice} {x : Session} {m : MaskSet} (pm : Nat) (hn : s.notices = n :: rest)
    (hx : amGet s.sessions n.d = some x) (hm : x.masks = some m) (hround : m.round = n.round) :
    exec (.commitNotice pm) s = .next (noticed { advance pm s with notices := rest } n x m (max s.postmark pm)) := by
  let t : State := { advance pm s with notices := rest }
  have hx' : amGet (advance pm s).sessions n.d = some x := hx
  have hout : exec (.commitNotice pm) s = .next (noticed t n x m (maskLoaded t n x m).postmark) := by
    change execCommitNotice pm s = _
    simp only [execCommitNotice, advance_notices, hn, hx', hm]
    exact if_neg (not_not.mpr hround)
  rw [hout, maskLoaded_postmark]
  rfl

/-- Node `m` of the mask set `ms` of session `x` is due: its notice has come, it has no mask, and its parent has one (R378). -/
def maskDue (x : Session) (ms : MaskSet) (m : Nat) : Bool :=
  ms.notice.isSome && !amHas ms.ready m && (m == 16 || (x.round.fixed && decide (m < x.round.cands)
    && amHas ms.ready (if (x.round.parents.drop m).headD 0x1F = 0x1F then 16 else (x.round.parents.drop m).headD 0x1F)))

/-- The mask set `ms` of session `x` with the mask of node `m` ready (R378 to R380). -/
def withMask (s : State) (x : Session) (ms : MaskSet) (m : Nat) : MaskSet :=
  let r := maskRules s x ms
  let q := nodeMask r (maskNode r ms x.round m)
  { ms with ready := amSet ms.ready m { outcome := q.outcome, bytes := maskBytes r.tokens q.allowed }
            readyPm := if m = 16 then some s.postmark else ms.readyPm }

theorem exec_maskReady {s : State} {d m : Nat} {x : Session} {ms : MaskSet} (pm : Nat) (hx : amGet s.sessions d = some x)
    (hms : x.masks = some ms) (hdue : maskDue x ms m = true) : exec (.maskReady d m pm) s =
      let t := modSession (advance pm s) d (fun y => { y with masks := some (withMask (advance pm s) x ms m) })
      .next (serveMasks (fitStore d (t.sessions.length + 1) t) d) := by
  have hnot : ¬ ((!maskDue x ms m) = true) := by simp [hdue]
  change execMaskReady d m pm s = _
  simp only [execMaskReady, advance_sessions, hx, hms]
  exact if_neg hnot

/-- Settles O27: each clause is the answer of its event on what the clause supposes. -/
theorem stepEngineEventsTakeEffect : Obligations.StepEngineEventsTakeEffect := by
  refine ⟨?taskDone, ?mergeDecode, ?mergeSlice, ?mergeAbsent, ?commits, ?commitRefused, ?notice, ?mask⟩
  case taskDone =>
    intro s region block pm t ht
    exact exec_pageTaskDone ht
  case mergeDecode =>
    intro s tag pm q x hq hx hrun hleft hmode
    rw [exec_stepMerge hq hx hrun hleft, mergedWith, if_neg hmode]
    rfl
  case mergeSlice =>
    intro s tag pm q x hq hx hrun hleft hmode hwhole
    rw [exec_stepMerge hq hx hrun hleft, mergedWith, if_pos hmode, sliceLacks, hwhole]
    rfl
  case mergeAbsent =>
    intro s tag pm q x hq hx hrun hleft hmode hlacks
    rw [exec_stepMerge hq hx hrun hleft, mergedWith, if_pos hmode, sliceLacks, hlacks]
    rfl
  case commits =>
    intro s d pm x tag c hx hc hclosing hdone hrows
    rw [exec_commitApply pm hx hc hclosing hdone, hrows]
    rfl
  case commitRefused =>
    intro s d pm x tag l c hx hc hclosing hdone hrows
    rw [exec_commitApply pm hx hc hclosing hdone, hrows]
    rfl
  case notice =>
    intro s pm n rest x m hn hx hm hround
    exact exec_commitNotice pm hn hx hm hround
  case mask =>
    intro s d m pm x ms hx hms hdue
    exact exec_maskReady pm hx hms hdue

end Sys2Proof.Machine
end

section
/-! SUPPORT. The search engine's own events: the deadline of a search, the batches that mend a shard, the slots that a sweep frees, and a
verified shard (R397, R398, R415, R419, R420, R427). -/

namespace Sys2Proof.Machine

theorem exec_searchDeadline {s : State} {tag pm : Nat} {q : SearchRec} (hq : amGet s.searches tag = some q) (hopen : q.finished = false)
    (hcome : q.until_ ≤ max s.postmark pm) : exec (.searchDeadline tag pm) s =
      .next ((q.asked.map (·.1)).foldl (fun t dev => searchAnswered t tag dev none) (advance pm s)) := by
  change execSearchDeadline tag pm s = _
  simp only [execSearchDeadline, advance_searches, hq]
  exact if_pos ⟨hopen, hcome⟩

section
variable {s : State} {index shard : Nat}

/-- The shard with the index that holds it. -/
def shardIn (s : State) (index shard : Nat) : Option (Index × Shard) :=
  (indexAt s index).bind (fun i => (amGet i.shards shard).map (fun h => (i, h)))

/-- The sweep of a shard: the one that runs, or a new one over the tombstones it has (R419). -/
def sweepOf (x : Shard) : Sweep := x.sweep.getD { tombs := tombstones x }

/-- The next batch of the shard's sweep. -/
def nextBatch (x : Shard) : List (Nat × SNode) := mendNext x (sweepOf x).next

/-- The batch of shard `x` waits: a running search needs the versions it writes, or stamps are old (R397, R398). -/
def batchHeld (s : State) (index shard : Nat) (x : Shard) : Bool :=
  (nextBatch x).any (fun e => versionHeld (snapshots s index shard) x.changeSeq e.2) || stampsOld x

/-- The shard with its slots all walked. -/
def walkedOut (x : Shard) : Shard := rebaseShard { x with sweep := some { sweepOf x with walked := true } }

/-- The shard with its next batch mended, as one change. -/
def batchMended (ix : Index) (x : Shard) : Shard :=
  { x with changeSeq := seqNext x.changeSeq
           nodes := (nextBatch x).foldl (fun m e => amSet m e.1 (writeEdges x.changeSeq (seqNext x.changeSeq) e.2 (mendEdges ix x e.1 e.2)))
             x.nodes
           sweep := some { sweepOf x with next := ((nextBatch x).getLast?.map (·.1)).getD 0 + 1 } }

/-- What a batch of a resident shard whose walk is not over does: the walk ends, or the batch waits, or it is mended. -/
theorem exec_mendingBatch {ix : Index} {x : Shard} (hx : shardIn s index shard = some (ix, x))
    (hin : s.regionsOut.contains x.region = false) (hwalk : (sweepOf x).walked = false) : exec (.mendingBatch index shard) s = .next (
      if (nextBatch x).isEmpty then settleIndexes (setShard s index shard (endSweep (walkedOut x)))
      else if batchHeld s index shard x then (if stampsOld x then settleIndexes (setShard s index shard (rebaseShard x)) else s)
      else setShard s index shard (batchMended ix x)) := by
  change execMendingBatch index shard s = _
  rw [shardIn] at hx
  rw [sweepOf] at hwalk
  simp only [execMendingBatch, hx, hin, hwalk, Bool.or_self, Bool.false_eq_true, if_false, nextBatch, batchHeld, sweepOf, walkedOut,
    batchMended, apply_ite Host.Outcome.next]

/-- Slot `slot` of shard `x` can be freed by sweep `w`: a walked tombstone that no search, old stamp or lost region holds (R397, R420). -/
def slotFree (s : State) (index shard slot : Nat) (x : Shard) (w : Sweep) : Bool :=
  w.walked && w.tombs.contains slot && (snapshots s index shard).isEmpty && !stampsOld x && !s.regionsOut.contains x.region

/-- The shard with the node of `slot` released, as one change (R420). -/
def slotFreed (x : Shard) (w : Sweep) (n : SNode) (slot : Nat) : Shard :=
  endSweep { x with changeSeq := seqNext x.changeSeq
                    nodes := amSet x.nodes slot { n with inUse := false, edgesA := [], edgesB := [] }
                    sweep := some { w with tombs := w.tombs.filter (· != slot) } }

theorem exec_slotRelease {slot : Nat} {x : Shard} {w : Sweep} {n : SNode} (hx : (indexAt s index).bind (fun i => amGet i.shards shard) = some x)
    (hw : x.sweep = some w) (hn : amGet x.nodes slot = some n) (hfree : slotFree s index shard slot x w = true) :
    exec (.slotRelease index shard slot) s = .next (settleIndexes (setShard s index shard (slotFreed x w n slot))) := by
  change execSlotRelease index shard slot s = _
  simp only [execSlotRelease, hx, hw, hn]
  exact if_pos hfree

theorem exec_shardVerified {x : Shard} (hx : (indexAt s index).bind (fun i => amGet i.shards shard) = some x)
    (hin : s.regionsOut.contains x.region = false) :
    exec (.shardVerified index shard) s = .next (settleIndexes (setShard s index shard { x with verified := true })) := by
  change execShardVerified index shard s = _
  simp only [execShardVerified, hx, hin, Bool.false_eq_true, if_false]

end

/-- Settles O28: each clause is the answer of its event on what the clause supposes. -/
theorem searchEngineEventsTakeEffect : Obligations.SearchEngineEventsTakeEffect := by
  refine ⟨?deadline, ?walked, ?held, ?mended, ?freed, ?verified⟩
  case deadline =>
    intro s tag pm q hq hopen hcome
    exact exec_searchDeadline hq hopen hcome
  case walked =>
    intro s index shard ix x hx hin hwalk hempty
    exact (exec_mendingBatch hx hin hwalk).trans (congrArg Host.Outcome.next (if_pos hempty))
  case held =>
    intro s index shard ix x hx hin hwalk hmore hheld
    exact (exec_mendingBatch hx hin hwalk).trans
      (congrArg Host.Outcome.next ((if_neg (Bool.eq_false_iff.mp hmore)).trans (if_pos hheld)))
  case mended =>
    intro s index shard ix x hx hin hwalk hmore hfree
    exact (exec_mendingBatch hx hin hwalk).trans
      (congrArg Host.Outcome.next ((if_neg (Bool.eq_false_iff.mp hmore)).trans (if_neg (Bool.eq_false_iff.mp hfree))))
  case freed =>
    intro s index shard slot x w n hx hw hn hfree
    exact exec_slotRelease hx hw hn hfree
  case verified =>
    intro s index shard x hx hin
    exact exec_shardVerified hx hin

end Sys2Proof.Machine
end

section
/-! SUPPORT. The policy ring (R224 to R228): a write of its producer index, and what the device does with the entry at the consumer
index. -/

namespace Sys2Proof.Machine

/-- The policy ring's memory with `entries` stored up to producer index `v` (R224). -/
def policyStored (s : State) (v : Nat) (entries : List PolicyEntry) : List (Nat × PolicyEntry) :=
  (List.range ((v + 4096 - s.hm.policyProd) % 4096)).foldl (fun m i => match (entries.drop i).head? with
    | some e => amSet m ((s.hm.policyProd + i) % 4096) e
    | none => m) s.hm.policy

theorem exec_policyProducerIndex {s : State} {value : Word32} (entries : List PolicyEntry) (hrun : s.hm.running ≠ 0)
    (hv : value.toNat < 4096) : exec (.policyProducerIndex value entries) s =
      .next { s with hm := { s.hm with policy := policyStored s value.toNat entries, policyProd := value.toNat } } := by
  have hnot : ¬ (s.hm.running = 0 ∨ 4096 ≤ value.toNat) := by omega
  exact if_neg hnot

/-- The state once the entry at the consumer index is consumed, and the cores told of it (R223, R224). -/
def entryConsumed (s : State) : State := hmInterrupt { s with hm := { s.hm with policyCons := (s.hm.policyCons + 1) % 4096 } }

/-- The policy entry of session `x` can be acted on: the session is no stub, and IDLE, EBBING or PARKED (R225). -/
def policyActs (x : Session) : Bool := !x.stub && (x.state == SState.idle || x.state == SState.ebbing || x.state == SState.parked)

/-- The state with entry `e` for session `x` clamped, the clamp counted, and the entry applied (R225 to R228). -/
def policyTaken (s : State) (d : Nat) (x : Session) (e : PolicyEntry) : State :=
  let q := policyClamp s x e
  policyApply (if q.2 then modAccount s (handleAccount x.handle) (fun a => { a with policyClamped := (a.policyClamped + 1) % 2 ^ 32 }) else s)
    d x q.1

theorem exec_policyEntry_unknown {s : State} (hunread : s.hm.policyCons ≠ s.hm.policyProd)
    (hd : findHandle (leaveSlack s 5) (policyHead s).handle = none) : exec .policyEntry s = .next (entryConsumed (leaveSlack s 5)) := by
  change execPolicyEntry s = _
  simp only [execPolicyEntry, if_neg hunread, hd]
  rfl

theorem exec_policyEntry_known {s : State} {d : Nat} {x : Session} (hunread : s.hm.policyCons ≠ s.hm.policyProd)
    (hd : findHandle (leaveSlack s 5) (policyHead s).handle = some d) (hx : amGet (leaveSlack s 5).sessions d = some x) :
    exec .policyEntry s = .next (entryConsumed (if policyActs x then policyTaken (leaveSlack s 5) d x (policyHead s) else leaveSlack s 5)) := by
  have hguard : (x.stub = true ∨ (!(x.state == SState.idle || x.state == SState.ebbing || x.state == SState.parked)) = true) ↔
      ¬ policyActs x = true := by
    rw [policyActs, Bool.and_eq_true, not_and_or, Bool.not_eq_true, Bool.not_eq_true, Bool.not_eq_false', Bool.not_eq_true']
  change execPolicyEntry s = _
  simp only [execPolicyEntry, if_neg hunread, hd, hx, hguard, ite_not]
  rfl

/-- Settles O30: the entry's handle names no session, one that the device acts on, or one that it does not. -/
theorem policyRingEventsTakeEffect : Obligations.PolicyRingEventsTakeEffect := by
  refine ⟨?producer, ?unknown, ?acts, ?ignored⟩
  case producer =>
    intro s value entries hrun hv
    exact exec_policyProducerIndex entries hrun hv
  case unknown =>
    intro s hunread hd
    exact exec_policyEntry_unknown hunread hd
  case acts =>
    intro s d x hunread hd hx hstub hstate
    have hacts : policyActs x = true := by rw [policyActs, hstub, hstate]; rfl
    exact (exec_policyEntry_known hunread hd hx).trans (by rw [hacts]; rfl)
  case ignored =>
    intro s d x hunread hd hx hnot
    have hacts : policyActs x = false := by
      rcases hnot with hstub | hstate
      · rw [policyActs, hstub]; rfl
      · rw [policyActs, hstate, Bool.and_false]
    exact (exec_policyEntry_known hunread hd hx).trans (by rw [hacts]; rfl)

end Sys2Proof.Machine
end

section
/-! SUPPORT. Packets as they come in (R482 to R484, R496, R497, R499, R507, R656): which of them their connection takes, and what it does
with one that it takes. -/

namespace Sys2Proof.Machine

/-! ### A packet finds its connection -/

section
variable {s : State} {op : Nat} {p : TwPkt} {data : Option HostRead} {mig : Option MigMsg} {e : CacheEntry}

/-- The packet `p` in its region's miss buffer. -/
def asMissed (op : Nat) (p : TwPkt) (data : Option HostRead) (mig : Option MigMsg) : Missed := { op := op, pkt := p, data := data, mig := mig }

theorem toCell_packet_of_cached (hcache : amGet s.tw.cache p.dstConn = some e) (hhere : e.fetching = false) :
    toCell s (asMissed op p data mig) = takePacket s op p data mig := by
  simp only [toCell, asMissed, hcache, hhere]
  rfl

theorem toCell_packet_of_fetching (hcache : amGet s.tw.cache p.dstConn = some e) (haway : e.fetching = true) :
    toCell s (asMissed op p data mig) = holdMissed s (asMissed op p data mig) := by
  simp only [toCell, asMissed, hcache, haway]
  rfl

variable (hport : p.port < 16) (hacc : accepting s = true)
include hport hacc

theorem receive_of_unknown (hknown : pktKnown (arrived s op p) p.port p.srcIp p.srcConn p.dstConn = false) :
    receive op p data mig s = count (arrived s op p) p.port 8 1 := by
  have htaken : ¬ (16 ≤ p.port ∨ accepting s = false) := by simp [hport, hacc]
  exact (if_neg htaken).trans (if_pos (congrArg Bool.not hknown))

theorem receive_of_known (hknown : pktKnown (arrived s op p) p.port p.srcIp p.srcConn p.dstConn = true) :
    receive op p data mig s = toCell (arrived s op p) (asMissed op p data mig) := by
  have htaken : ¬ (16 ≤ p.port ∨ accepting s = false) := by simp [hport, hacc]
  have hreach : ¬ (!pktKnown (arrived s op p) p.port p.srcIp p.srcConn p.dstConn) = true := by simp [hknown]
  exact (if_neg htaken).trans (if_neg hreach)

theorem receive_of_cached (hknown : pktKnown (arrived s op p) p.port p.srcIp p.srcConn p.dstConn = true)
    (hcache : amGet (arrived s op p).tw.cache p.dstConn = some e) (hhere : e.fetching = false) :
    receive op p data mig s = takePacket (arrived s op p) op p data mig :=
  (receive_of_known hport hacc hknown).trans (toCell_packet_of_cached hcache hhere)

theorem receive_of_fetching (hknown : pktKnown (arrived s op p) p.port p.srcIp p.srcConn p.dstConn = true)
    (hcache : amGet (arrived s op p).tw.cache p.dstConn = some e) (haway : e.fetching = true) :
    receive op p data mig s = holdMissed (arrived s op p) (asMissed op p data mig) :=
  (receive_of_known hport hacc hknown).trans (toCell_packet_of_fetching hcache haway)

/-- The packet `q`, which goes with `p` but for its AUX, is taken with the context that is cached (the kinds of MIGRATE are told by AUX). -/
theorem receive_aux_of_cached (aux : Nat) (hknown : pktKnown (arrived s op p) p.port p.srcIp p.srcConn p.dstConn = true)
    (hcache : amGet (arrived s op p).tw.cache p.dstConn = some e) (hhere : e.fetching = false) :
    receive op { p with aux := aux } data mig s = takePacket (arrived s op p) op { p with aux := aux } data mig :=
  receive_of_cached (p := { p with aux := aux }) hport hacc hknown hcache hhere

end

/-! ### A packet that its connection takes -/

section
variable {s : State} {p : TwPkt} {x y : Conn} (op : Nat) (data : Option HostRead) (mig : Option MigMsg)

/-- The connection holds packet `psn` already, received or being placed (R499). -/
def heldHere (y : Conn) (psn : Nat) : Bool := psnHeld y psn || y.placing.any (fun q => q.msg.op == opWrite && q.psn == psn)

theorem takePacket_misshapen (hx : getConn s p.dstConn = some x) (hshape : pktShape x p = false) :
    takePacket s op p data mig = count s p.port 8 1 := by
  simp only [takePacket, hx, hshape]
  rfl

/-- What becomes of a packet in the shape of its segments, by its place in the connection's order (R499). -/
theorem takePacket_shaped (hx : getConn s p.dstConn = some x) (hshape : pktShape x p = true)
    (hy : getConn (noted s p x) p.dstConn = some y) : takePacket s op p data mig =
      if heldHere y p.psn then ackNow (noted s p x) p.dstConn
      else if 1024 ≤ serDiff p.psn y.cumPsn then count (noted s p x) p.port 9 1
      else admitConn (takeContents (noted s p x) p.dstConn op p data mig) p.dstConn := by
  have hfound : takePacket s op p data mig = match getConn (noted s p x) p.dstConn with
      | none => noted s p x
      | some y =>
        if heldHere y p.psn then ackNow (noted s p x) p.dstConn
        else if 1024 ≤ serDiff p.psn y.cumPsn then count (noted s p x) p.port 9 1
        else admitConn (takeContents (noted s p x) p.dstConn op p data mig) p.dstConn := by
    simp only [takePacket, hx, hshape]
    rfl
  rw [hfound, hy]

end

/-- Settles O34: the first clauses say of each opcode where its packet goes, the last ones what becomes of a packet taken. -/
theorem packetsReachTheirConnections : Obligations.PacketsReachTheirConnections :=
  ⟨fun _ _ _ hp ha hk hc hf => congrArg _ (receive_of_cached hp ha hk hc hf),
   fun _ _ _ hp ha hk hc hf => congrArg _ (receive_of_cached hp ha hk hc hf),
   fun _ _ _ hp ha hk hc hf => congrArg _ (receive_of_cached hp ha hk hc hf),
   fun _ _ _ hp ha hk hc hf => congrArg _ (receive_of_cached hp ha hk hc hf),
   fun _ _ _ hp ha hk hc hf => congrArg _ (receive_of_cached hp ha hk hc hf),
   fun _ _ _ hp ha hk hc hf => congrArg _ (receive_of_fetching hp ha hk hc hf),
   fun _ _ hp ha hk => congrArg _ (receive_of_unknown hp ha hk),
   fun _ _ _ _ hp ha hk hc hf => congrArg _ (receive_of_cached hp ha hk hc hf),
   fun _ _ _ hp ha hk hc hf => congrArg _ (receive_of_cached hp ha hk hc hf),
   fun _ _ _ hp ha hk hc hf => congrArg _ (receive_of_cached hp ha hk hc hf),
   fun _ _ _ hp ha hk hc hf => congrArg _ (receive_of_cached hp ha hk hc hf),
   fun _ _ _ hp ha hk hc hf => congrArg _ (receive_of_cached hp ha hk hc hf),
   fun _ _ _ hp ha hk hc hf => congrArg _ (receive_of_cached hp ha hk hc hf),
   fun _ _ _ hp ha hk hc hf => congrArg _ (receive_of_cached hp ha hk hc hf),
   fun _ _ _ _ hp ha hk hc hf => congrArg _ (receive_aux_of_cached hp ha 1 hk hc hf),
   fun _ _ _ _ hp ha hk hc hf => congrArg _ (receive_aux_of_cached hp ha 2 hk hc hf),
   fun _ _ _ _ hp ha hk hc hf => congrArg _ (receive_aux_of_cached hp ha 3 hk hc hf),
   fun _ _ _ hp ha hk hc hf => congrArg (fun t : State => Host.Outcome.next (admitAll t)) (receive_aux_of_cached hp ha 4 hk hc hf),
   fun _ p hp ha hk => congrArg (fun t : State => Host.Outcome.next (admitAll t)) (receive_of_unknown (p := { p with aux := 4 }) hp ha hk),
   fun _ _ _ hp ha hk hc hf => congrArg (fun t : State => Host.Outcome.next (admitAll t)) (receive_aux_of_cached hp ha 5 hk hc hf),
   fun _ op _ data mig _ hx hshape => takePacket_misshapen op data mig hx hshape,
   fun _ op _ data mig _ _ hx hshape hy hheld => (takePacket_shaped op data mig hx hshape hy).trans (if_pos hheld),
   fun _ op _ data mig _ _ hx hshape hy hnew hfar =>
    (takePacket_shaped op data mig hx hshape hy).trans ((if_neg (Bool.eq_false_iff.mp hnew)).trans (if_pos hfar)),
   fun _ op _ data mig _ _ hx hshape hy hnew hnear =>
    (takePacket_shaped op data mig hx hshape hy).trans
      ((if_neg (Bool.eq_false_iff.mp hnew)).trans (if_neg (Nat.not_le.mpr hnear)))⟩

end Sys2Proof.Machine
end

section
/-! SUPPORT. The ends of flash operations (R547, R548, R555 to R559): what a read, a program, an erase and a timeout do to the shingle and
the LUN they name, while the media is READY or READ_ONLY. -/

namespace Sys2Proof.Machine

/-- The LUN of unit `unit` of a shingle. -/
def unitLun (sh : Shingle) (unit : Nat) : Nat := (sh.units.drop unit).headD 0 / 65536

/-- The LUN of erase unit `u` does not answer: it is offline, or there is none. -/
def unitOffline (s : State) (u : Nat) : Bool := match amGet s.media.luns (u / 65536) with
  | some l => !l.online
  | none => true

section
variable {s : State} {n unit : Nat} {sh : Shingle} (hsh : amGet s.media.shingles n = some sh) (hready : s.media.state = 3 ∨ s.media.state = 4)

/-! ### Reads -/

/-- Units read for an answer: all of the row where the unit had to be rebuilt (R557). -/
def unitsRead (sh : Shingle) (o : UnitRead) : Nat := match o with
  | .rebuilt => sh.units.length
  | .lost => sh.units.length
  | _ => 1

/-- The state once answer `o` of a read of `row` has been counted, and a shingle that was rebuilt or lost a row has been marked. -/
def readTaken (s : State) (n row pos : Nat) (sh : Shingle) (o : UnitRead) : State :=
  let s := modMedia s (fun m => { m with bytesRead := (m.bytesRead + unitsRead sh o * (mProfile s).unit) % 2 ^ 64 })
  let s := noteDecode s pos o
  match o with
  | .rebuilt => markRebuild s n
  | .lost => loseRow (markRebuild s n) n row sh
  | _ => s

include hsh hready

theorem exec_flashReadDone {row : Nat} {o : UnitRead} {l : Lun} (hl : amGet s.media.luns (unitLun sh unit) = some l)
    (hst : sh.st ≠ .erasing) (hrow : row < sh.rows) (hunit : unit < sh.units.length)
    (hans : l.online = true ∨ o = .rebuilt ∨ o = .lost) : exec (.flashReadDone n row unit o) s =
      .next (readTaken (if l.online then lunAnswered (noteRead s n unit) (unitLun sh unit) else s) n row (unitLun sh unit) sh o) := by
  rw [unitLun] at hl
  change execFlashReadDone n row unit o s = _
  simp only [execFlashReadDone, hsh, hl]
  exact if_pos ⟨hready, hst, hrow, hunit, hans⟩

/-! ### Programs and erases -/

theorem exec_programDone {ok : Bool} (hst : sh.st = .opened ∨ sh.st = .closed) (hdue : sh.rows < rowsDue s sh)
    (hunit : unit < sh.units.length) (hnew : sh.rowUnits.contains unit = false) : exec (.programDone n unit ok) s = .next (
      let t := lunAnswered s (unitLun sh unit)
      let u := modShingle t n (fun x => { x with rowUnits := unit :: x.rowUnits })
      if ok then (if sh.rowUnits.length + 1 = sh.units.length then finishRow u n else u)
      else retireUnit (cutShingle t n) ((sh.units.drop unit).headD 0)) := by
  have hnew' : (!sh.rowUnits.contains unit) = true := congrArg Bool.not hnew
  change execProgramDone n unit ok s = _
  simp only [execProgramDone, hsh]
  refine (if_pos ⟨hready, hst, hdue, hunit, hnew'⟩).trans ?_
  cases ok <;> rfl

/-- Every erase unit of the shingle is erased, with `unit`, or is on a LUN that does not answer. -/
def wholeErased (s : State) (sh : Shingle) (unit : Nat) : Bool :=
  (List.range sh.units.length).all (fun i => (unit :: sh.erased).contains i || unitOffline s ((sh.units.drop i).headD 0))

/-- The state once an erase of `unit` has ended and, where it went well, been counted. -/
def eraseNoted (s : State) (sh : Shingle) (unit : Nat) (ok : Bool) : State :=
  let t := lunAnswered s (unitLun sh unit)
  let u := (sh.units.drop unit).headD 0
  if ok then modMedia t (fun m => { m with erases := amSet m.erases u (amGetD m.erases u 0 + 1) }) else t

/-- The state once the shingle of an erase unit that has ended is freed, or keeps the unit as erased. -/
def eraseKept (s : State) (n : Nat) (sh : Shingle) (unit : Nat) (ok : Bool) : State :=
  let t := eraseNoted s sh unit ok
  if wholeErased s sh unit then noteScrubbed (modMedia t (fun m => { m with shingles := amErase m.shingles n })) n
  else modShingle t n (fun x => { x with erased := unit :: sh.erased })

theorem exec_eraseDone (ok : Bool) (hst : sh.st = .erasing) (hunit : unit < sh.units.length) (hnew : sh.erased.contains unit = false)
    (hup : unitOffline s ((sh.units.drop unit).headD 0) = false) : exec (.eraseDone n unit ok) s = .next (
      if ok then settleMedia (eraseKept s n sh unit ok) else retireUnit (eraseKept s n sh unit ok) ((sh.units.drop unit).headD 0)) := by
  have hnew' : (!sh.erased.contains unit) = true := congrArg Bool.not hnew
  have hup' : (!unitOffline s ((sh.units.drop unit).headD 0)) = true := congrArg Bool.not hup
  change execEraseDone n unit ok s = _
  simp only [execEraseDone, hsh]
  exact if_pos ⟨hready, hst, hunit, hnew', hup'⟩

end

/-! ### Timeouts -/

theorem exec_flashOperationTimeout {s : State} {ch place : Nat} {l : Lun} (hl : amGet s.media.luns (ch * 32 + place) = some l)
    (hup : l.online = true) (hplace : place < 32) (hready : s.media.state = 3 ∨ s.media.state = 4) :
    exec (.flashOperationTimeout ch place) s = .next (
      let t := modMedia s (fun m => { m with luns := amSet m.luns (ch * 32 + place) { l with timeouts := l.timeouts + 1 } })
      if 3 ≤ l.timeouts + 1 then failLun t (ch * 32 + place) else t) := by
  change execFlashOperationTimeout ch place s = _
  simp only [execFlashOperationTimeout, hl]
  exact if_pos ⟨hup, hplace, hready⟩

/-- Settles O40: each clause is the answer of its event on what the clause supposes. -/
theorem flashOperationsTakeEffect : Obligations.FlashOperationsTakeEffect := by
  refine ⟨?readUp, ?readDown, ?programmed, ?programFailed, ?erasedLast, ?erasedMore, ?timeout⟩
  case readUp =>
    intro s n row unit o sh l hsh hl hup hready hst hrow hunit
    exact (exec_flashReadDone hsh hready hl hst hrow hunit (.inl hup)).trans (by rw [if_pos hup]; rfl)
  case readDown =>
    intro s n row unit o sh l hsh hl hdown hready hst hrow hunit ho
    exact (exec_flashReadDone hsh hready hl hst hrow hunit (.inr ho)).trans (by rw [if_neg (Bool.eq_false_iff.mp hdown)]; rfl)
  case programmed =>
    intro s n unit sh hsh hready hst hdue hunit hnew
    exact exec_programDone hsh hready hst hdue hunit hnew
  case programFailed =>
    intro s n unit sh hsh hready hst hdue hunit hnew
    exact exec_programDone hsh hready hst hdue hunit hnew
  case erasedLast =>
    intro s n unit ok sh hsh hready hst hunit hnew hup hwhole
    have hwhole' : wholeErased s sh unit = true := hwhole
    exact (exec_eraseDone hsh hready ok hst hunit hnew hup).trans (by rw [eraseKept, if_pos hwhole']; rfl)
  case erasedMore =>
    intro s n unit ok sh hsh hready hst hunit hnew hup hmore
    have hmore' : ¬ wholeErased s sh unit = true := Bool.eq_false_iff.mp hmore
    exact (exec_eraseDone hsh hready ok hst hunit hnew hup).trans (by rw [eraseKept, if_neg hmore']; rfl)
  case timeout =>
    intro s ch place l hl hup hplace hready
    exact exec_flashOperationTimeout hl hup hplace hready

end Sys2Proof.Machine
end

section
/-! SUPPORT. Errors and recovery (R616 to R626, R630, R631): an error is raised at its own level, or as the chip's where its unit is in
C_0 above cell level; every row runs on the device once what was contained has ended (`faultRow_of_running`); and what the ends of a cell's
self test, a region's restart and a chip's restart do. -/

namespace Sys2Proof.Machine

/-! ### Detection -/

theorem detect_ownLevel (s : State) {e : ErrRec} (hown : ¬ (e.unit.region = 8 ∧ (e.level = 1 ∨ e.level = 2))) :
    detect s e = raiseError 6 s e := by
  rw [detect, if_neg hown]

theorem detect_asChip (s : State) {e : ErrRec} (hregion : e.unit.region = 8) (hlevel : e.level = 1 ∨ e.level = 2) :
    detect s e = raiseError 6 s { e with level := 3, kind := 0x30, what := .chip, until_ := none } := by
  rw [detect, if_pos ⟨hregion, hlevel⟩]

/-- Settles O44: every row is a detection on the settled state, and a detection is raised at its own level or as the chip's. -/
theorem errorsAreDetected : Obligations.ErrorsAreDetected := by
  refine ⟨?attnCell, ?cell, ?connCell, ?core, ?block, ?desc, ?hbm, ?region, ?chip, ?rail, ?alert, ?corrected, ?frame, ?own, ?asChip⟩
  case attnCell =>
    intro s region block cell info pm hstage hup
    change execAttentionCellError region block cell info pm s = _
    rw [execAttentionCellError, faultRow_of_running hstage hup]
  case cell =>
    intro s region kind index cell info pm hstage hup
    change execCellError region kind index cell info pm s = _
    rw [execCellError, faultRow_of_running hstage hup]
  case connCell =>
    intro s region cell info dur pm hstage hup
    change execConnectionCacheError region cell info dur pm s = _
    rw [execConnectionCacheError, faultRow_of_running hstage hup]
  case core =>
    intro s block core info pm hstage hup
    change execCoreError block core info pm s = _
    rw [execCoreError, faultRow_of_running hstage hup]
  case block =>
    intro s region kind index info dur pm hstage hup
    change execBlockError region kind index info dur pm s = _
    rw [execBlockError, faultRow_of_running hstage hup]
  case desc =>
    intro s d info dur pm hstage hup
    change execDescriptorCacheError d info dur pm s = _
    rw [execDescriptorCacheError, faultRow_of_running hstage hup]
  case hbm =>
    intro s stack frame object info dur pm hstage hup
    change execHbmUncorrectable stack frame object info dur pm s = _
    rw [execHbmUncorrectable, faultRow_of_running hstage hup]
  case region =>
    intro s region info pm hstage hup
    change execRegionError region info pm s = _
    rw [execRegionError, faultRow_of_running hstage hup]
  case chip =>
    intro s info pm hstage hup
    change execChipError info pm s = _
    rw [execChipError, faultRow_of_running hstage hup]
  case rail =>
    intro s rail pm hstage hup
    change execRailOutOfRange rail pm s = _
    rw [execRailOutOfRange, faultRow_of_running hstage hup]
  case alert =>
    intro s region pm hstage hup
    change execPmbAlertN region pm s = _
    rw [execPmbAlertN, faultRow_of_running hstage hup]
  case corrected =>
    intro s cls pm hstage hup
    change execCorrectedError cls none pm s = _
    rw [execCorrectedError, faultRow_of_running hstage hup]
  case frame =>
    intro s cls k pm hstage hup
    change execCorrectedError cls (some k) pm s = _
    rw [execCorrectedError, faultRow_of_running hstage hup]
  case own => exact fun s _ hown => detect_ownLevel s hown
  case asChip => exact fun s _ hregion hlevel => detect_asChip s hregion hlevel

/-! ### Recovery -/

section
variable {s : State} {again : List Nat} {h : ErrRec} (hstage : s.boot.stage = 3) (hup : s.beached = false) (pm : Nat)

/-- The state once what was contained at postmark `pm` has ended. -/
def settledAt (s : State) (pm : Nat) : State := settleContained (advance pm s)

/-- The handling of cell `u` that waits for its self test. -/
def cellWaits (u : ErrUnit) (g : ErrRec) : Bool := g.unit = u && g.until_.isNone && g.level == 0

/-- The cell of error `h` has to be retired: it failed its test, is a core that failed, or erred three times in a day (R618). -/
def cellBad (t : State) (u : ErrUnit) (pass : Bool) (errors : Nat) : Bool :=
  !pass || (match hmCore u with
    | some i => bit t.hm.failed i
    | none => false) || decide (3 ≤ errors)

/-- The state once the self test of cell `u` has ended its handling `h`. -/
def cellTested (s : State) (u : ErrUnit) (pass : Bool) (h : ErrRec) (again : List Nat) : State :=
  let c := cellCount s u
  let t := endHandling c.2 h again
  if cellBad t u pass c.1 then retireCell t h else t

/-- The state once the restart of a region, run `q`, has ended with a passed test or a failed one (R623, R624). -/
def regionTested (s : State) (region : Nat) (q : RegionRun) (pass : Bool) : State :=
  let t := modFaults s (fun f => { f with runs := f.runs.filter (fun r => r.region != region) })
  if pass then regionBack t q else regionOut t region

include hstage hup

theorem exec_cellSelfTestDone {region kind index cell : Nat} {pass : Bool}
    (hh : (settledAt s pm).faults.handling.find? (cellWaits { region := region, kind := kind, index := index, cell := some cell }) = some h) :
    exec (.cellSelfTestDone region kind index cell pass again pm) s = .next (noteAlert s
      (cellTested (settledAt s pm) { region := region, kind := kind, index := index, cell := some cell } pass h again)) := by
  change execCellSelfTestDone region kind index cell pass again pm s = _
  rw [execCellSelfTestDone, faultRow_of_running hstage hup]
  refine congrArg (fun t => Host.Outcome.next (noteAlert s t)) ?_
  change (match (settledAt s pm).faults.handling.find? (cellWaits { region := region, kind := kind, index := index, cell := some cell }) with
    | none => settledAt s pm
    | some h => cellTested (settledAt s pm) { region := region, kind := kind, index := index, cell := some cell } pass h again) = _
  rw [hh]

theorem exec_regionReturn {region : Nat} {pass : Bool} {q : RegionRun}
    (hh : (settledAt s pm).faults.handling.find? (fun g => g.level == 2 && g.unit.region == region) = some h)
    (hq : (settledAt s pm).faults.runs.find? (fun r => r.region == region) = some q) :
    exec (.regionReturn region pass again pm) s = .next (noteAlert s
      (goOn (endHandling (regionTested (settledAt s pm) region q pass) h again))) := by
  change execRegionReturn region pass again pm s = _
  rw [execRegionReturn, faultRow_of_running hstage hup]
  rw [settledAt] at hh hq
  simp only [hh, hq]
  rfl

theorem exec_chipRestartDone (hh : (settledAt s pm).faults.handling.find? (fun g => g.level == 3) = some h) :
    exec (.chipRestartDone again pm) s = .next (noteAlert s
      (goOn (endHandling (emit (.platformEvent 0x0806 0) (rebooted (settledAt s pm))) h again))) := by
  change execChipRestartDone again pm s = _
  rw [execChipRestartDone, faultRow_of_running hstage hup]
  rw [settledAt] at hh
  simp only [hh]
  rfl

end

/-- Settles O45: each clause is the answer of its event on a running device where what it ends is handled. -/
theorem faultRecoveryTakesEffect : Obligations.FaultRecoveryTakesEffect := by
  refine ⟨?cell, ?region, ?chip⟩
  case cell =>
    intro s region kind index cell pass again pm h hstage hup hh
    exact exec_cellSelfTestDone hstage hup pm hh
  case region =>
    intro s region pass again pm h q hstage hup hh hq
    exact exec_regionReturn hstage hup pm hh hq
  case chip =>
    intro s again pm h hstage hup hh
    exact exec_chipRestartDone hstage hup pm hh

end Sys2Proof.Machine
end

section
/-! SUPPORT. Soundings and the management bus (R636 to R639, R681, R726, R727): what each request answers and changes once the self test
runs, and which image updates are taken. -/

namespace Sys2Proof.Machine

section
variable {s : State}

/-! ### The Lighthouse block -/

theorem exec_lighthouseSounding (meters : Meters) (pm : Nat) (hon : s.aon = true) : exec (.lighthouseSounding meters pm) s =
    .next (modFaults (modPow (advance pm s) (fun p => { p with inputs := (meters.inputMw :: p.inputs).take 10 }))
      (fun f => { f with soundings := (meters :: f.soundings).take 1000 })) :=
  if_pos hon

theorem exec_lighthouseRecord (pm : Nat) (hon : s.aon = true) (hsome : s.faults.soundings ≠ []) : exec (.lighthouseRecord pm) s =
    .next (hmInterrupt (modFaults (advance pm s) (fun f => { f with soundings := [], record := some (recordNow (advance pm s)) }))) := by
  have hdue : (s.aon && !s.faults.soundings.isEmpty) = true := by simp [hon, hsome]
  exact if_pos hdue

/-! ### The management bus -/

theorem exec_alertResponse (hstage : 2 ≤ s.boot.stage) (hlow : s.faults.alert = true) : exec .alertResponse s =
    .next (emit (.alertAddress (0x64 + s.boot.mgmt)) (modFaults s (fun f => { f with alert := false }))) :=
  if_pos ⟨hstage, hlow⟩

/-- The image that the management bus may write: a slot, within the image area, that is spare or, in recovery, any (R681). -/
def imageWritable (s : State) (slot off : Nat) (bs : List Byte) : Prop :=
  slot < 2 ∧ off + bs.length ≤ 32505344 ∧ (s.boot.stage = 4 ∨ slot = spareSlot s)

/-- The image of `slot` that the management bus may activate: no check refuses it. -/
def imageActivatable (s : State) (slot : Nat) (found : SlotFound) : Prop :=
  slot < 2 ∧ (activateRefuse s slot found).all (fun r => r.isNone) = true

section
variable (hstage : 3 ≤ s.boot.stage) (hup : s.beached = false)
include hstage hup

theorem updates_allowed : ¬ (s.boot.stage < 3 ∨ s.beached = true) := by
  rintro (hearly | hbeached)
  · exact Nat.not_lt.mpr hstage hearly
  · exact Bool.false_ne_true (hup.symm.trans hbeached)

theorem exec_imageWrite {slot off : Nat} {bs : List Byte} (hok : imageWritable s slot off bs) :
    exec (.pldmFirmwareUpdate (.write slot off bs)) s = .next (emit (.pldmDone true) (storeImage s slot off bs)) :=
  (if_neg (updates_allowed hstage hup)).trans (if_pos hok)

theorem exec_imageWrite_refused {slot off : Nat} {bs : List Byte} (hbad : ¬ imageWritable s slot off bs) :
    exec (.pldmFirmwareUpdate (.write slot off bs)) s = .next (emit (.pldmDone false) s) :=
  (if_neg (updates_allowed hstage hup)).trans (if_neg hbad)

theorem exec_imageActivate {slot : Nat} {found : SlotFound} (hok : imageActivatable s slot found) :
    exec (.pldmFirmwareUpdate (.activate slot found)) s = .next (emit (.pldmDone true) (activateSlot s slot)) :=
  (if_neg (updates_allowed hstage hup)).trans (if_pos hok)

theorem exec_imageActivate_refused {slot : Nat} {found : SlotFound} (hbad : ¬ imageActivatable s slot found) :
    exec (.pldmFirmwareUpdate (.activate slot found)) s = .next (emit (.pldmDone false) s) :=
  (if_neg (updates_allowed hstage hup)).trans (if_neg hbad)

end

end

/-- Settles O46: the requests of the bus are answered from the self test on, and an update is taken where its guard holds. -/
theorem telemetryTakesEffect : Obligations.TelemetryTakesEffect := by
  refine ⟨?sounding, ?record, ?sensor, ?status, ?log, ?alert, ?write, ?writeBad, ?activate, ?activateBad⟩
  case sounding => exact fun _ meters pm hon => exec_lighthouseSounding meters pm hon
  case record => exact fun _ pm hon hsome => exec_lighthouseRecord pm hon hsome
  case sensor => exact fun _ _ hstage => if_neg (Nat.not_lt.mpr hstage)
  case status => exact fun _ hstage => if_neg (Nat.not_lt.mpr hstage)
  case log => exact fun _ _ _ hstage => if_neg (Nat.not_lt.mpr hstage)
  case alert => exact fun _ hstage hlow => exec_alertResponse hstage hlow
  case write => exact fun _ _ _ _ hstage hup hslot hfits hspare => exec_imageWrite hstage hup ⟨hslot, hfits, hspare⟩
  case writeBad =>
    intro s slot off bs hstage hup hbad
    refine exec_imageWrite_refused hstage hup ?_
    rintro ⟨hslot, hfits, hspare⟩
    omega
  case activate => exact fun _ _ _ hstage hup hslot hchecks => exec_imageActivate hstage hup ⟨hslot, hchecks⟩
  case activateBad =>
    intro s slot found hstage hup hbad
    refine exec_imageActivate_refused hstage hup ?_
    rintro ⟨hslot, hchecks⟩
    rcases hbad with hslot' | hchecks'
    · exact Nat.not_lt.mpr hslot' hslot
    · exact Bool.false_ne_true (hchecks'.symm.trans hchecks)

end Sys2Proof.Machine
end

section
/-! SUPPORT. SPDM (R656, R684 to R687, R697): a request over an open transport ends slack water and is answered from what the transport has
negotiated; requests of a session are answered inside a whole one, and with an error outside. -/

namespace Sys2Proof.Machine

section
variable {s t : State} {via : SpdmVia} {reply : SpdmReply} (hopen : spdmOpen s via = true)

/-- What transport `via` has negotiated once slack water has ended for a request. -/
def heardPeer (s : State) (via : SpdmVia) : SpdmPeer := peerOf (leaveSlack s 6) via

include hopen

theorem spdmCmd_answers {f : State → SpdmPeer → State × SpdmReply} (hf : f (leaveSlack s 6) (heardPeer s via) = (t, reply)) :
    spdmCmd via f s = .next (emit (.spdm via reply) t) := by
  rw [heardPeer] at hf
  simp only [spdmCmd, if_pos hopen, hf]

theorem inSession_answers {f : State → SpdmPeer → State × SpdmReply} {session : Nat}
    (hin : amGet (heardPeer s via).sessions session = some true) (hf : f (leaveSlack s 6) (heardPeer s via) = (t, reply)) :
    inSession via session f s = .next (emit (.spdm via reply) t) :=
  spdmCmd_answers hopen ((if_pos hin).trans hf)

theorem inSession_outside {session : Nat} (f : State → SpdmPeer → State × SpdmReply)
    (hout : amGet (heardPeer s via).sessions session ≠ some true) :
    inSession via session f s = .next (emit (.spdm via .error) (leaveSlack s 6)) :=
  spdmCmd_answers hopen (if_neg hout)

theorem exec_getMeasurements {index : Nat}
    (hsome : ((if index = 0xFF then List.range 0x50 else [index]).filterMap
      (fun i => (measureBlock (leaveSlack s 6) i).map (fun b => (i, b)))).isEmpty = false)
    (hphase : 3 ≤ (heardPeer s via).phase) : execGetMeasurements via index s =
      .next (emit (.spdm via (.measurements ((if index = 0xFF then List.range 0x50 else [index]).filterMap
        (fun i => (measureBlock (leaveSlack s 6) i).map (fun b => (i, b)))) (consentElement (leaveSlack s 6)))) (leaveSlack s 6)) :=
  spdmCmd_answers hopen ((if_neg (Bool.eq_false_iff.mp hsome)).trans (if_pos hphase))

end

/-- Settles O47: each clause is the answer of its request, inside a session by `inSession_answers`, outside by `inSession_outside`. -/
theorem attestationTakesEffect : Obligations.AttestationTakesEffect := by
  refine ⟨?version, ?capabilities, ?algorithms, ?digests, ?certificate, ?challenge, ?measurements, ?keys, ?finish, ?finishBad, ?heartbeat,
    ?update, ?ended, ?vendor, ?vendorOutside, ?heartbeatOutside, ?endOutside, ?shut⟩
  case version =>
    intro s via hopen
    change execGetVersion via s = _
    exact spdmCmd_answers hopen rfl
  case capabilities =>
    intro s via hopen hphase
    change execGetCapabilities via s = _
    exact spdmCmd_answers hopen (if_pos hphase)
  case algorithms =>
    intro s via supported hopen hphase hsupported
    change execNegotiateAlgorithms via supported s = _
    exact spdmCmd_answers hopen (if_pos ⟨hphase, hsupported⟩)
  case digests =>
    intro s via hopen hphase
    change execGetDigests via s = _
    exact spdmCmd_answers hopen (if_pos hphase)
  case certificate =>
    intro s via slot hopen hslot hphase
    change execGetCertificate via slot s = _
    exact spdmCmd_answers hopen ((if_pos hslot).trans (if_pos hphase))
  case challenge =>
    intro s via slot hopen hslot hphase
    change execChallenge via slot s = _
    exact spdmCmd_answers hopen ((if_pos hslot).trans (if_pos hphase))
  case measurements =>
    intro s via index hopen hsome hphase
    exact exec_getMeasurements hopen hsome hphase
  case keys =>
    intro s via slot hopen hphase hslot
    change execKeyExchange via slot s = _
    exact spdmCmd_answers hopen (if_pos ⟨hphase, hslot⟩)
  case finish =>
    intro s via session hopen hbegun
    change execFinish via session true s = _
    exact spdmCmd_answers hopen (if_pos hbegun)
  case finishBad =>
    intro s via session hopen hbegun
    change execFinish via session false s = _
    exact spdmCmd_answers hopen (if_pos hbegun)
  case heartbeat =>
    intro s via session hopen hin
    change execSpdmHeartbeat via session s = _
    exact inSession_answers hopen hin rfl
  case update =>
    intro s via session hopen hin
    change execSpdmKeyUpdate via session s = _
    exact inSession_answers hopen hin rfl
  case ended =>
    intro s via session hopen hin
    change execEndSession via session s = _
    exact inSession_answers hopen hin rfl
  case vendor =>
    intro s via session req hopen hin
    change inSession via session (fun t _ => vendorStep t req) s = _
    exact inSession_answers hopen hin rfl
  case vendorOutside =>
    intro s via req hopen
    change spdmCmd via (fun t _ => (t, .error)) s = _
    exact spdmCmd_answers hopen rfl
  case heartbeatOutside =>
    intro s via session hopen hout
    change execSpdmHeartbeat via session s = _
    exact inSession_outside hopen _ hout
  case endOutside =>
    intro s via session hopen hout
    change execEndSession via session s = _
    exact inSession_outside hopen _ hout
  case shut =>
    intro s via hshut
    exact if_neg (Bool.eq_false_iff.mp hshut)

end Sys2Proof.Machine
end

section
/-! SUPPORT. The debug state and consents (R674, R675, R687, R690 to R692, R709, R738): the unlock, the end of a consent, and what an access
through the debug port reaches. -/

namespace Sys2Proof.Machine

section
variable {s : State}

theorem exec_debugUnlock (pm : Nat) (hshut : s.sec.debug = false) (hstage : 2 ≤ s.boot.stage) (hup : s.beached = false) :
    exec (.debugUnlock true pm) s =
      .next (postPf (modSec (advance pm s) (fun c => { c with debug := true })) 0x0A05 0 (max s.postmark pm % 2 ^ 64)) :=
  if_pos ⟨rfl, hshut, hstage, hup⟩

theorem exec_consentExpiry {partition pm : Nat} {c : Consent} (hc : amGet s.sec.consents partition = some c)
    (hcome : c.until_ ≤ max s.postmark pm) : exec (.consentExpiry partition pm) s = .next (endConsent (advance pm s) partition) := by
  have hc' : amGet (advance pm s).sec.consents partition = some c := hc
  change execConsentExpiry partition pm s = _
  simp only [execConsentExpiry, hc']
  exact congrArg Host.Outcome.next (if_pos hcome)

/-! ### The debug port -/

/-- An access through the debug port reaches nothing while the device is BEACHED (R631). -/
theorem exec_debugPortAccess_beached (reach : DebugReach) (hdown : s.beached = true) : exec (.debugPortAccess reach) s = .next s :=
  if_pos hdown

section
variable (hup : s.beached = false)
include hup

theorem exec_debugDevice : exec (.debugPortAccess .device) s = .next (if s.sec.debug then emit (.debugData .device) s else s) :=
  if_neg (Bool.eq_false_iff.mp hup)

theorem exec_debugPartition (n : Nat) : exec (.debugPortAccess (.partition n)) s =
    .next (if s.sec.debug && bit (consentScope s n) 1 then emit (.debugData (.partition n)) (setTdisp s n 3) else s) :=
  if_neg (Bool.eq_false_iff.mp hup)

theorem exec_boundaryScan : exec (.debugPortAccess .boundaryScan) s =
    .next (if s.boot.stage = 4 then emit (.debugData .boundaryScan) s else s) :=
  if_neg (Bool.eq_false_iff.mp hup)

end

end

/-- Settles O48: the port's clauses are split on whether the device is BEACHED, where they do not suppose that it is not. -/
theorem debugAndConsentTakeEffect : Obligations.DebugAndConsentTakeEffect := by
  refine ⟨?unlock, ?expiry, ?device, ?deviceShut, ?partition, ?partitionShut, ?scan⟩
  case unlock => exact fun _ pm hshut hstage hup => exec_debugUnlock pm hshut hstage hup
  case expiry => exact fun _ _ _ _ hc hcome => exec_consentExpiry hc hcome
  case device =>
    intro s hup hdebug
    rw [exec_debugDevice hup, if_pos hdebug]
  case deviceShut =>
    intro s hshut
    cases hdown : s.beached with
    | true => exact exec_debugPortAccess_beached _ hdown
    | false => rw [exec_debugDevice hdown, if_neg (Bool.eq_false_iff.mp hshut)]
  case partition =>
    intro s n hup hdebug hconsent
    rw [exec_debugPartition hup, if_pos (Bool.and_eq_true_iff.mpr ⟨hdebug, hconsent⟩)]
  case partitionShut =>
    intro s n hshut
    have hno : ¬ (s.sec.debug && bit (consentScope s n) 1) = true := by
      rw [Bool.and_eq_true]
      rintro ⟨hdebug, hconsent⟩
      rcases hshut with hshut | hshut
      · exact Bool.false_ne_true (hshut.symm.trans hdebug)
      · exact Bool.false_ne_true (hshut.symm.trans hconsent)
    cases hdown : s.beached with
    | true => exact exec_debugPortAccess_beached _ hdown
    | false => rw [exec_debugPartition hdown, if_neg hno]
  case scan =>
    intro s hup hrecovery
    rw [exec_boundaryScan hup, if_pos hrecovery]

end Sys2Proof.Machine
end
